-- ==== Sys2Proof/Word.lean ====
section
/-!
DEFINITION. Word types of the Aksil model and the type of its sparse stores. Bit 0 is the least significant bit
everywhere (R7); byte lists are in the order of rising addresses, so that multi-byte fields are little-endian (R8).
-/

namespace Sys2Proof

/-- One byte. -/
abbrev Byte := BitVec 8
/-- One register of the BAR0 map: 32 bits. -/
abbrev W32 := BitVec 32
/-- One shed word, instruction word or tick number: 64 bits. -/
abbrev W64 := BitVec 64
/-- One fault record of the layout of R144 and R179: 128 bits. -/
abbrev W128 := BitVec 128

/-- A sparse store: key and value pairs, keys strictly rising, no value equal to the one an unlisted key reads as
(`SMap.wf` in Machine/Ops.lean). A store of bytes is a list of `Host.Cell`. -/
abbrev SMap (α : Type) := List (Nat × α)

end Sys2Proof
end

