-- ==== Sys2Proof/Syntax.lean ====
section
/-!
DEFINITION. The commands of the block: one constructor of `Instr` for each row of spec/opcode_table.json, with the
operands the row's step takes. Unit numbers are `Fin` types, so that an operand names a unit that exists.
-/

namespace Sys2Proof

/-- A global processor index: barn × 1,536 + stall × 48 + processor (00_scope.md, Array coordinates). -/
abbrev Gp := Fin 147456
/-- A schedule step, 0 to 1,023 (R65). -/
abbrev Step := Fin 1024
/-- A physical link (R13). -/
abbrev LinkId := Fin 24
/-- A physical barn (R13). -/
abbrev BarnId := Fin 96
/-- A memory port MP0 to MP3 of a barn (R45). -/
abbrev PortId := Fin 4
/-- A shed 0 to 3 of a barn. -/
abbrev ShedId := Fin 4
/-- A quadrant. -/
abbrev QuadId := Fin 4
/-- A groom. -/
abbrev GroomId := Fin 16
/-- A DRAM channel. -/
abbrev ChanId := Fin 4
/-- A ring stop (R258). -/
abbrev StopId := Fin 48

/-- The two debug paths (R410); each has a session of its own (R413). -/
inductive DbgPath where
  | tap | bar
deriving DecidableEq, Repr

/-- Who makes a register access (R196, R419): host software through BAR0, a groom, a debug path, or the loader. -/
inductive Requester where
  | host
  | groom (g : GroomId)
  | debug (p : DbgPath)
  | loader
deriving DecidableEq, Repr

/-- One lane frame, unscrambled and with its stuff bits removed (R230 to R235). -/
structure LaneFrame where
  /-- MARKER, header bits 31 to 22. -/
  marker  : BitVec 10
  /-- SEQ, header bits 21 to 14. -/
  seq     : BitVec 8
  /-- HOLD, header bit 13. -/
  hold    : Bool
  /-- VOTE, header bits 12 and 11. -/
  vote    : BitVec 2
  /-- TYPE, header bits 10 to 7. -/
  type    : BitVec 4
  /-- AUX, header bits 6 to 0. -/
  aux     : BitVec 7
  /-- The payload; bit i is payload bit i. -/
  payload : BitVec 960
  /-- The CRC field as transmitted (complemented, R234). -/
  crc     : BitVec 32
  /-- True when every stuff bit was inverted (R233, third check of R235). -/
  stuffOk : Bool
deriving DecidableEq, Repr

/-- The four lane frames of one link frame (R235). -/
structure LinkFrame where
  l0 : LaneFrame
  l1 : LaneFrame
  l2 : LaneFrame
  l3 : LaneFrame
deriving DecidableEq, Repr

/-- The line bits of the four lanes at the receiver, each from its frame's first marker bit on (R230). -/
structure LinkBits where
  l0 : List Bool
  l1 : List Bool
  l2 : List Bool
  l3 : List Bool
deriving DecidableEq, Repr

/-- The unit-supplied part of a rails packet (R270): the header flit's fields and the data flits. The opcode is the
command's own; VC and CDIR are written by the rails. LEN is the number of data
flits. -/
structure Pkt where
  data   : W64
  addr   : W64
  rsv    : BitVec 36
  status : BitVec 4
  mask   : BitVec 8
  sunit  : BitVec 8
  dunit  : BitVec 8
  tick16 : BitVec 16
  prio   : BitVec 3
  flowv  : Bool
  flow   : BitVec 6
  tag    : BitVec 10
  cls    : BitVec 2
  src    : BitVec 6
  dst    : BitVec 6
  flits  : List (BitVec 256)
  /-- Header bits CDIR and VC; the rails overwrite them. -/
  cdir   : Bool := false
  vc     : Bool := false
deriving DecidableEq, Repr

/-- A queue of the rails whose credits are audited (R267): the input buffer at a stop of a ring and a virtual channel
(rings 0 to 3 are row positive, row negative, column positive, column negative), the injection queue of an endpoint port
and class, the ejection queue of a port. Port 4 is the stop's own register endpoint. -/
inductive RailQueue where
  | ring   (stop : StopId) (ring : Fin 4) (vc : Fin 2)
  | inject (stop : StopId) (port : Fin 5) (cls : Fin 4)
  | eject  (stop : StopId) (port : Fin 5)
deriving DecidableEq, Repr

/-- Another chip of the system as bring-up finds it: CHIP and declared depth of its PEER records (R255), the LINKTAB
entries of its image (R133), and the LMAP of its load command when it is explicit (R348). -/
structure SysChip where
  chip    : BitVec 8
  depth   : BitVec 11
  linktab : List (BitVec 32)
  lmap    : Option (List (BitVec 8))
deriving DecidableEq, Repr

/-- A cable between two links of the system. Node 0 is this chip, node n + 1 the chip n of the list. -/
structure Cable where
  a  : Nat
  la : LinkId
  b  : Nat
  lb : LinkId
  /-- The four lanes of both directions are aligned and deskewed. -/
  locked : Bool
  /-- Δ before the alignment of the period counters: at `b` of what `a` sends, and at `a` of what `b` sends (R244). -/
  dab : BitVec 48
  dba : BitVec 48
deriving DecidableEq, Repr

/-- What bring-up finds of the system: its other chips and its cables. -/
structure BringUp where
  chips  : List SysChip
  cables : List Cable
deriving DecidableEq, Repr

/-- One command of the Aksil: one constructor per row of spec/opcode_table.json, in the table's order. -/
inductive Instr where
  -- processor steps: processor g executes slot s at schedule step s
  | idle (g : Gp) (s : Step)
  | lutd (g : Gp) (s : Step)
  | lutl (g : Gp) (s : Step)
  | stw (g : Gp) (s : Step)
  | mrd (g : Gp) (s : Step)
  | mwr (g : Gp) (s : Step)
  | xmt (g : Gp) (s : Step)
  | lnk (g : Gp) (s : Step)
  | call (g : Gp) (s : Step)
  | probe (g : Gp) (s : Step)
  | check (g : Gp) (s : Step)
  -- memory ports, holds, the commit window
  | readLanding (b : BarnId) (m : PortId) (s : Step)
  | holdDecision (b : BarnId) (m : PortId) (s : Step)
  | holdFreeze
  | modelReadArrival (b : BarnId) (m : PortId) (s : Step) (passes : Fin 4)
  | holdResume
  | tickStretchTimeout
  | commitWindow (oack : BitVec 8)
  | tickBoundary
  | restartHoldEnd
  | goldenRepair (ok : Bool)
  -- run control
  | start (r : Requester)
  | run (r : Requester)
  | runN (r : Requester)
  | halt (r : Requester)
  | breakArm (r : Requester)
  | breakDisarm (r : Requester)
  | clearFault (r : Requester)
  | go
  | tickStart
  -- serial links
  | frameTx (j : LinkId)
  | runFrame (j : LinkId) (w : LinkBits)
  | runHalt (j : LinkId) (w : LinkBits)
  | cmdFrame (j : LinkId) (w : LinkBits)
  | mark (j : LinkId) (w : LinkBits)
  | resend (j : LinkId) (w : LinkBits)
  | peer (j : LinkId) (w : LinkBits)
  | idleFrame (j : LinkId) (w : LinkBits)
  | lateGroup (j : LinkId) (s : Step)
  | lnkSlip (r : Requester) (j : LinkId) (v : W32)
  | recal (r : Requester) (j : LinkId) (v : W32)
  | recalDone (j : LinkId)
  | lnkMeas (r : Requester) (j : LinkId)
  | lnkPad (r : Requester) (j : LinkId) (v : W32)
  | lnkPeriodAdj (r : Requester) (v : W32)
  | injGo (r : Requester) (j : LinkId) (v : W32)
  | systemBringUp (b : BringUp)
  -- rails requests and responses
  | shdRead (p : Pkt)
  | shdWrite (p : Pkt)
  | shdAdd (p : Pkt)
  | shdSwap (p : Pkt)
  | shdResp (p : Pkt)
  | memRead (p : Pkt) (passes : Fin 4)
  | memWrite (p : Pkt)
  | memResp (p : Pkt)
  | workSubmit (p : Pkt)
  | workDone (p : Pkt)
  | trace (p : Pkt)
  | msg (p : Pkt)
  | deposit (p : Pkt)
  | creditAudit (h : RailQueue)
  -- sheds
  | shdOwner (r : Requester) (b : BarnId) (v : W32)
  | fillStart (r : Requester) (b : BarnId) (v : W32)
  | fillWord (b : BarnId)
  | patrolRead (b : BarnId)
  -- DRAM controller
  | refresh (c : ChanId) (rank : Fin 2)
  | tempPoll (mr4 : List Byte)
  | freqChange (r : Requester) (v : W32)
  | freqChangeDone
  | train (r : Requester) (c : ChanId)
  | trainingDone (c : ChanId) (ok : Bool) (present : Bool) (density : Bool) (ranks : BitVec 2) (speed : Bool)
  | alert (c : ChanId) (failed : Bool)
  | modelWriteDrain (accepted : Bool)
  | dmcMask (r : Requester) (hi : Bool) (v : W32)
  -- yardmaster and grooms
  | ymsDoorbell (r : Requester) (v : W32)
  | callIntake
  | dispatch
  | grmDone (g : GroomId) (v : W32)
  | timetableExpiry
  | groomWatchdog (g : GroomId)
  | invD (r : Requester) (g : GroomId) (v : W32)
  | groomRun (r : Requester) (g : GroomId) (v : W32)
  | checkpoint
  | restore
  -- paddock
  | gatewayCapture (region : Fin 8) (wires : BitVec 128)
  | rclkSwitch (r : Requester) (v : W32)
  | rclkAbandon (region : Fin 8)
  | queueWrite (blk : Fin 96) (w : W64)
  | queueRead (blk : Fin 96)
  | qrst (blk : Fin 96)
  | ffreset (r : Requester) (v : W32)
  | bridgePacket (opcode : Byte) (p : Pkt)
  -- boot, loader, security
  | boot (slotA slotB : List Byte)
  | retry (r : Requester)
  | otpProg (r : Requester)
  | rollbackAdvance (r : Requester)
  | identity (r : Requester)
  | attest (r : Requester)
  | load (r : Requester) (v : W32) (first second : List Byte)
  | partialImg (r : Requester) (v : W32) (src : List Byte)
  | partialCommit
  | patch (r : Requester) (v : W32) (src : List Byte)
  | abort (r : Requester)
  | doneRise
  | doneFall
  -- trigger and acquisition
  | evaluation
  | trigInEdge (pin : Fin 8) (rising : Bool)
  | xtrgEdge (line : Fin 4)
  | trgCal (r : Requester) (v : W32)
  | calDone (trans : BitVec 7)
  | xtrgTest (r : Requester) (v : W32)
  | seqReset (r : Requester)
  | acqCtrlStart (r : Requester) (v : W32)
  | acqCtrlStop (r : Requester) (v : W32)
  -- time synchronisation
  | ptpSet (r : Requester) (i : Fin 4)
  | ptpStep (r : Requester) (i : Fin 4)
  | ptpHoldover (r : Requester) (i : Fin 4)
  | ptpResume (r : Requester) (i : Fin 4)
  | ptpSlew (r : Requester) (i : Fin 4) (v : W32)
  | ptpIncrLo (r : Requester) (i : Fin 4) (v : W32)
  | servoWatchdog (i : Fin 4)
  | ethFrameRx (p : Fin 2) (frame : List Byte) (fcsOk : Bool)
  | txGo (r : Requester) (p : Fin 2) (v : W32)
  | ethTransmit (p : Fin 2)
  | rxPop (r : Requester) (p : Fin 2)
  | txDonePop (r : Requester) (p : Fin 2)
  | portFec (r : Requester) (p : Fin 2) (v : W32)
  | ppsIn
  | ppsOut
  -- debug
  | dbgacc (dr : BitVec 66)
  | testLogicReset
  | challenge (p : DbgPath)
  | verify (p : DbgPath) (slot : Fin 4)
  | drop (p : DbgPath)
  | nonceLapse (p : DbgPath)
  | lockoutEnd (p : DbgPath)
  | peekRead (p : DbgPath) (off : BitVec 26)
  | aqGo (p : DbgPath)
  | aqCapture (p : DbgPath)
  | depGo (p : DbgPath) (v : W32)
  | forceWrite (p : DbgPath) (v : W32)
  | bmGo (p : DbgPath) (v : W32)
  | gctrlHalt (p : DbgPath) (g : GroomId)
  | gctrlResume (p : DbgPath) (g : GroomId)
  | gctrlStep (p : DbgPath) (g : GroomId)
  | resumeAll (p : DbgPath)
  | comparatorMatch (g : GroomId) (k : Fin 8) (a : W64)
  | ebreak (g : GroomId)
  | stim (g : GroomId) (port : Fin 32) (v : W64)
  | traceFlush (g : GroomId)
  -- power
  | pwrDomCtrl (r : Requester) (v : W32)
  | domainClose (d : Fin 32)
  | domainWake (d : Fin 32)
  | stable (r : Requester)
  | wakeBall (k : Fin 4)
  | forget (r : Requester)
  | pwrMode (r : Requester) (v : W32)
  | clockRelockDone
  | tempSample (t : List Byte)
  | brownOut
  | aonSwitch (bak : Bool)
  | coldStart
  | warmReset
  -- host interface
  | perst
  | pcieLinkUp (speed : BitVec 3) (width : BitVec 6)
  | flr
  | bar2Access (write : Bool) (off : BitVec 22) (bytes : List Byte)
  | telemetryRead (off : BitVec 25)
  | badAccessTimeout (off : BitVec 26)
  | dmaDescriptor (ch : Fin 8) (desc : List Byte) (hostData : List Byte)
  | dmaComplete (ch : Fin 8)
  -- registers whose access has a row of its own
  | tckCountLo (r : Requester)
  | ptpTimeNs (r : Requester) (i : Fin 4)
  | tckLogW3 (r : Requester)
  | shdPatrolErr (r : Requester) (b : BarnId)
  | clampReport (r : Requester) (page : BitVec 13)
  | clrErr (r : Requester) (page : BitVec 13)
  | clrClamp (r : Requester) (page : BitVec 13)
  | clrCounts (r : Requester) (v : W32)
  | scbRestart (r : Requester) (q : QuadId) (v : W32)
  | registerWrite (r : Requester) (off : BitVec 26) (v : W32)
  -- the remaining rows
  | scrubReadStep (q : QuadId)
  | controlTreeStop
  | linkChange (p : Fin 2) (up : Bool)
  | pcieLinkDown
  | prbsCheck (j : LinkId) (lane : Fin 4) (bits : List Bool)
  | slewComplete (i : Fin 4)
  | extest (ir : Byte) (balls : List Bool)
deriving DecidableEq, Repr

end Sys2Proof
end

