-- ==== Sys2Proof/Machine/State.lean ====
section
/-!
DEFINITION. The state of one Aksil chip as plain data, and its state after reset. Each field's docstring gives its
width, the rule of spec/ that names it and its value at reset. A register of the BAR0 map that is not derived from one
of these fields is held in `State.regs` under its offset, with the reset value of its register table
(Machine/RegTable.lean).
-/

namespace Sys2Proof.Machine

/-- Why the machine stops: for no reason. The spec stops the block on no command, so there is no fault. -/
inductive Fault where
deriving DecidableEq, Repr

/-- Why a command has no meaning. -/
inductive Refusal where
  /-- The command's meaning is not modelled; raised by an arm of `exec` only. Safe. -/
  | notModelled (mnemonic : String)
deriving DecidableEq, Repr

/-- The run states (table Run states, R95), in the order of their codes. -/
inductive RunState where
  | empty | loaded | waiting | running | draining | halted | faulted
deriving DecidableEq, Repr

/-- The votes and decisions of the control tree (table Control-tree codes, R248). -/
inductive Vote where
  | none | commit | abort | stop
deriving DecidableEq, Repr

/-- What freezes the array: a hold (R79, R224, R302, R163), or a control-tree loss (R252). -/
inductive HoldKind where
  | read | drain | intake | restart | stop
deriving DecidableEq, Repr

/-- A hold request (R79, R83, R163, R224, R302). -/
structure HoldReq where
  kind : HoldKind
  /-- The step that is held: s + L, or 0. -/
  step : Nat
  /-- The tick whose step it is. -/
  tick : Nat
deriving DecidableEq, Repr

/-- The freeze in effect (R80, R163). -/
structure Freeze where
  kind : HoldKind
  /-- The step not yet executed. -/
  step : Nat
  /-- Generator period of the freeze, from which the watchdog of R85 measures. -/
  since : Nat
  /-- Elapsed picoseconds at the freeze, for TCK_HOLD_MAX and TCK_RESTART_MAX. -/
  sincePs : Nat
deriving DecidableEq, Repr

/-- Run-control commands that travel from the root (R250). -/
inductive TreeCmd where
  | start | go | run | runN (n : Nat) | clearFault | halt | breakArm | breakDisarm
deriving DecidableEq, Repr

/-- A fault, detection or report with the fields of a fault record (R144, R179). -/
structure FaultRec where
  code   : BitVec 8
  barn   : BitVec 7
  stall  : BitVec 5
  proc   : BitVec 6
  step   : BitVec 10
  detail : BitVec 28
  tick   : W64
  /-- Generator period in which it was raised, by which entries are ordered (R167, R181); no part of the record. -/
  per    : Nat := 0
deriving DecidableEq, Repr

/-- Time of the device: what its running generator and clocks have counted. -/
structure Clock where
  /-- Periods of the step-clock generator since the cold start; unbounded; 03_tick.md R81; reset 0. -/
  gen    : Nat := 0
  /-- Elapsed time in picoseconds; unbounded; 01_architecture.md R17; reset 0. -/
  ps     : Nat := 0
  /-- Period counter; 48 bits; 09_serial_links.md R243; reset DESIGN CHOICE 0 (log 7). -/
  period : BitVec 48 := 0
  /-- The MODEL's own counter of free values drawn (log 4); no state of the spec; reset DESIGN CHOICE 0. -/
  free   : Nat := 0
deriving DecidableEq, Repr

/-- Tick control. -/
structure Tck where
  /-- Run state; 3 bits; 03_tick.md R95; reset EMPTY. -/
  run       : RunState := .empty
  /-- Effective depth S; 11 bits; 03_tick.md R65, TCK_DEPTH.EFFECTIVE; reset 0. -/
  depth     : Nat := 0
  /-- Declared depth; 11 bits; 03_tick.md R66, TCK_DEPTH.DECLARED; reset 0. -/
  declared  : Nat := 0
  /-- Multi-chip system; 1 bit; 03_tick.md TCK_MODE.MULTI; reset 0. -/
  multi     : Bool := false
  /-- Root of the control tree; 1 bit; 03_tick.md TCK_MODE.ROOT; reset 0. -/
  root      : Bool := false
  /-- Control-tree latency C; 11 bits; 03_tick.md R87, TCK_CTREE.TOTAL; reset 0. -/
  ctree     : Nat := 0
  /-- Down latency D; 11 bits; 03_tick.md R87, TCK_CTREE.DOWN; reset 0. -/
  down      : Nat := 0
  /-- Control-tree budget of the image; 11 bits; 03_tick.md R91, TCK_CBUDGET; reset 0. -/
  budget    : Nat := 0
  /-- Tick counter: confirmed ticks since START; 64 bits; 03_tick.md R100; reset 0. -/
  count     : W64 := 0
  /-- Number of the tick being executed or waiting to start; 64 bits; 03_tick.md R102; reset DESIGN CHOICE 0 (log 7). -/
  tick      : Nat := 0
  /-- Step counter; 10 bits; 03_tick.md R102; reset 0. -/
  step      : Nat := 0
  /-- Commit window in progress; 1 bit; 03_tick.md R102, TCK_STATE.INWIN; reset 0. -/
  inWin     : Bool := false
  /-- Commit-window step; 4 bits; 03_tick.md TCK_STATE.WSTEP; reset 0. -/
  wstep     : Nat := 0
  /-- The schedule of the execution has begun and its commit window has not been performed; 1 bit; 03_tick.md R68; reset 0. -/
  inTick    : Bool := false
  /-- The current execution follows a rollback and is not yet confirmed; 1 bit; 03_tick.md TCK_STATE.ROLLBACK; reset 0. -/
  rollback  : Bool := false
  /-- Break on trigger armed; 1 bit; 03_tick.md R99, TCK_STATE.BRK; reset 0. -/
  brk       : Bool := false
  /-- Tick whose boundary a taken break halts at; 64 bits; 03_tick.md R99; reset none. -/
  breakAt   : Option Nat := none
  /-- A halt was requested and waits for a tick boundary; 1 bit; 03_tick.md R97; reset 0. -/
  haltReq   : Bool := false
  /-- Ticks of RUN_N still to be confirmed; 32 bits; 03_tick.md R96; reset none. -/
  runLeft   : Option Nat := none
  /-- Hold requests raised and not yet frozen; a list; 03_tick.md R79, R83; reset empty. -/
  holds     : List HoldReq := []
  /-- The freeze in effect; 03_tick.md R80; reset none. -/
  freeze    : Option Freeze := none
  /-- Generator period at which a drain or intake hold's cause last ended; 08_dram.md R224, 11_yardmaster_grooms.md R302; reset 0. -/
  lastArr   : Nat := 0
  /-- Generator period at which this chip's part of a restart hold last came to its end: undo, repair writes, the resend; 06_integrity_replay.md R163; reset 0. -/
  lastPart  : Nat := 0
  /-- This chip requests a drain hold; 1 bit; 08_dram.md R224, DMC_STATUS.DRAIN_HOLD; reset 0. -/
  drainReq  : Bool := false
  /-- This chip requests an intake hold; 1 bit; 11_yardmaster_grooms.md R302; reset 0. -/
  intakeReq : Bool := false
  /-- A speculative commit of the tick before awaits its decision; 1 bit; 03_tick.md R92, R93; reset 0. -/
  specPend  : Bool := false
  /-- The system decision for the previous tick, as arrived; 2 bits; 03_tick.md R92; reset none. -/
  decision  : Vote := .none
  /-- Most severe vote received from the children for the tick; 2 bits; 09_serial_links.md R248; reset none. -/
  childVote : Vote := .none
  /-- Children whose vote for the tick has arrived: bit j for link j; 24 bits; 09_serial_links.md R247; reset 0. -/
  childGot  : BitVec 24 := 0
  /-- Children for whose vote a failed frame was read as abort: their own vote for that tick is no longer counted; bit j for link j; 24 bits; 09_serial_links.md R251; reset 0. -/
  childForced : BitVec 24 := 0
  /-- The chip's own last local vote; 2 bits; 03_tick.md R68; reset none. -/
  localVote : Vote := .none
  /-- The own vote has been launched and not been combined with the children's; 1 bit; 09_serial_links.md R247, R248; reset 0. -/
  voting    : Bool := false
  /-- Generator period at which the array last began to deliver steps, and that step, by which a period is turned into a step; 03_tick.md R81, 09_serial_links.md R237; reset 0. -/
  resumeGen : Nat := 0
  /-- The step at `resumeGen`; 10 bits; 03_tick.md R82; reset 0. -/
  resumeStep : Nat := 0
  /-- CTIME of a stop received or sent; 28 bits; 09_serial_links.md R248; reset none. -/
  stopAt    : Option (BitVec 28) := none
  /-- CTIME of the last W4, by which a contract fault's stop is told from a control-tree loss; 28 bits; 09_serial_links.md R248, R252; reset 0. -/
  w4        : BitVec 28 := 0
  /-- Run-control commands accepted and waiting for their CTIME; 09_serial_links.md R250; reset empty. -/
  cmds      : List (BitVec 28 × TreeCmd) := []
  /-- Resume period broadcast by the root; 28 bits; 09_serial_links.md R249; reset none. -/
  treeResume : Option (BitVec 28) := none
  /-- GO acts at this CTIME (start instant); 28 bits; 03_tick.md R78; reset none. -/
  goAt      : Option (BitVec 28) := none
  /-- The restart hold's undo of R162 is complete; 1 bit; 06_integrity_replay.md R163; reset 0. -/
  undoDone  : Bool := false
  /-- The execution of the tick was stopped and waits for CLEAR_FAULT before this tick; 03_tick.md R86; reset none. -/
  faultTick : Option Nat := none
  /-- The tick waiting to start was undone: it starts again with the inputs already latched; 1 bit; 06_integrity_replay.md R159; reset 0. -/
  redo      : Bool := false
  /-- Inputs of the first tick sampled and its step 0 not yet begun; 1 bit; 03_tick.md R78; reset 0. -/
  sampled   : Bool := false
deriving DecidableEq, Repr

/-- A value written to a next-state bit, with the step of the first counted write (R41). -/
structure NextBit where
  val  : Bool
  step : Nat
deriving DecidableEq, Repr

/-- Array storage (R20) with the parity syndromes of R155 (stored parity XOR parity of the data; 0 = passes). Keys:
a processor's word or bit g × 1,024 + slot and g × 256 + bit; a barn's entry barn × 4,096 + index; a 16-bit group
g × 64 + slot div 16 or g × 16 + bit div 16. -/
structure Arr where
  /-- Instruction stores; 147,456 × 1,024 words of 64 bits; 02_boolean_processors.md R20; reset DESIGN CHOICE 0 (log 8). -/
  imem    : SMap W64 := []
  /-- Parity syndromes of the instruction stores; 2 bits per word; 06_integrity_replay.md R155; reset DESIGN CHOICE 0 (log 8). -/
  imemSyn : SMap (BitVec 2) := []
  /-- Result rings, current-tick bank; 1,024 bits per processor; 02_boolean_processors.md R36; reset DESIGN CHOICE 0 (log 8). -/
  ringCur : SMap Bool := []
  /-- Result rings, previous-tick bank; 1,024 bits per processor; 02_boolean_processors.md R36; reset 0 (R34). -/
  ringPrev : SMap Bool := []
  /-- Result rings, retained copy; 1,024 bits per processor; 02_boolean_processors.md R38; reset DESIGN CHOICE 0 (log 8). -/
  ringRet : SMap Bool := []
  /-- Parity syndromes of the current-tick bank; 1 bit per 16 slots; 06_integrity_replay.md R155; reset DESIGN CHOICE 0 (log 8). -/
  ringCurSyn : SMap Bool := []
  /-- Parity syndromes of the previous-tick bank; 1 bit per 16 slots; 06_integrity_replay.md R155; reset DESIGN CHOICE 0 (log 8). -/
  ringPrevSyn : SMap Bool := []
  /-- Parity syndromes of the retained copy; 1 bit per 16 slots; 06_integrity_replay.md R155; reset DESIGN CHOICE 0 (log 8). -/
  ringRetSyn : SMap Bool := []
  /-- State bits, current generation; 256 bits per processor; 02_boolean_processors.md R39; reset DESIGN CHOICE 0 (log 8). -/
  stCur   : SMap Bool := []
  /-- State bits, retained generation; 256 bits per processor; 02_boolean_processors.md R39; reset DESIGN CHOICE 0 (log 8). -/
  stRet   : SMap Bool := []
  /-- State bits, next generation: the bits written in the tick; 02_boolean_processors.md R39, R41; reset empty. -/
  stNext  : SMap NextBit := []
  /-- Parity syndromes of the current generation; 1 bit per 16 bits; 06_integrity_replay.md R155; reset DESIGN CHOICE 0 (log 8). -/
  stCurSyn : SMap Bool := []
  /-- Parity syndromes of the next generation; 1 bit per 16 bits; 06_integrity_replay.md R155; reset DESIGN CHOICE 0 (log 8). -/
  stNextSyn : SMap Bool := []
  /-- Parity syndromes of the retained generation; 1 bit per 16 bits; 06_integrity_replay.md R155; reset DESIGN CHOICE 0 (log 8). -/
  stRetSyn : SMap Bool := []
  /-- Initial state bits of the loaded image; 256 bits per processor; 02_boolean_processors.md R42; reset DESIGN CHOICE 0 (log 8). -/
  stInit  : SMap Bool := []
  /-- Function dictionaries; 4,096 × 16 bits per barn; 02_boolean_processors.md R43; reset DESIGN CHOICE 0 (log 8). -/
  dict    : SMap (BitVec 16) := []
  /-- Port descriptor tables; 1,024 × 128 bits per barn (keys barn × 4,096 + index); 02_boolean_processors.md R46; reset DESIGN CHOICE 0 (log 8). -/
  desc    : SMap W128 := []
  /-- Receive-track source tables; 64 × 16 bits per barn (keys barn × 4,096 + track); 04_array_interconnect.md R110; reset DESIGN CHOICE 0 (log 8). -/
  src     : SMap (BitVec 16) := []
  /-- Link slot maps; 4,096 × 16 bits per barn; 04_array_interconnect.md R113; reset DESIGN CHOICE 0 (log 8). -/
  slots   : SMap (BitVec 16) := []
  /-- Receive maps; 64 × 24 bits per processor (keys g × 64 + position); 04_array_interconnect.md R118; reset DESIGN CHOICE 0 (log 8). -/
  rmap    : SMap (BitVec 24) := []
  /-- Parity syndromes of the five tables above (keys table × 2^24 + entry key); 1 bit per entry; 06_integrity_replay.md R155; reset DESIGN CHOICE 0 (log 8). -/
  tabSyn  : SMap Bool := []
  /-- Virtual barn placed on a physical barn, plus 1 (0 = none); 7 bits and a valid bit; 04_array_interconnect.md R121, ARY_VMAP; reset 0. -/
  vmap    : SMap Nat := []
  /-- Barns in four-state mode; 1 bit per barn; 02_boolean_processors.md R56, ARY_BARN_MODE; reset 0. -/
  four    : SMap Bool := []
  /-- Activity budget per step of a placed barn; 12 bits; 05_compiler_contract.md R130, R138; reset DESIGN CHOICE 0 (log 8). -/
  budget  : SMap Nat := []
  /-- Shed read latency of the loaded image's latency table; 3 or 4 steps; 02_boolean_processors.md R52; reset DESIGN CHOICE 3 (log 8). -/
  shedLat : Nat := 3
  /-- Link latency budgets Λ of physical links, of what this chip sends, in step periods; 11 bits each; 04_array_interconnect.md R116; reset DESIGN CHOICE 0 (log 8). -/
  linkBud : SMap Nat := []
  /-- Link latency budgets Λ of physical links, of what the peer sends, in step periods; 11 bits each; 04_array_interconnect.md R116, 05_compiler_contract.md R130; reset DESIGN CHOICE 0 (log 8). -/
  linkIn  : SMap Nat := []
deriving DecidableEq, Repr, Inhabited

/-- A read in flight on a memory port (R52, R79, R222). -/
structure Flight where
  barn   : Nat
  port   : Nat
  /-- Issuing step, landing step. -/
  issue  : Nat
  land   : Nat
  /-- A was 1. -/
  en     : Bool
  /-- Issuing processor, global index. -/
  proc   : Nat
  /-- Memory-model read (false: shed read). -/
  model  : Bool
  modelNo : Nat
  /-- Byte address of the word in DRAM (model reads). -/
  addr   : Nat
  /-- Data width minus 1, for R49. -/
  dwm1   : Nat
  /-- The word, when it has been read or has arrived. -/
  word   : W64
  arrived : Bool
  /-- Delivered with an error mark (R172). -/
  bad    : Bool
  /-- Raised a hold at its decision step (R79), and the step of that hold: its landing step, or the step of the request
  it merged with (R83, R249). -/
  late   : Bool
  hold   : Nat := 0
  /-- Generator period in which its data arrived (R82). -/
  arr    : Nat := 0
  /-- Its place in the order of arrival at the DRAM controller (R214). -/
  seq    : Nat := 0
deriving DecidableEq, Repr

/-- A send track's drive in one step (R105, R107, R108). -/
structure Drive where
  val  : Bool
  tag  : Bool
  proc : Nat
deriving DecidableEq, Repr

/-- The two or more accesses that meet in one shed bank in one step (R51). -/
structure BankAcc where
  ports : BitVec 4
  proc  : Nat
deriving DecidableEq, Repr

/-- A memory port's read-data latch (R52, R53). -/
structure Latch where
  val    : W64
  landed : Bool
deriving DecidableEq, Repr

/-- The LUTL first word a processor has executed: its step and its four operands with unknown rails (R30). -/
structure LitPend where
  step : Nat
  val  : BitVec 4
  unk  : BitVec 4
deriving DecidableEq, Repr

/-- A port A write performed in the current bank cycle: the word as it stood before (R183). -/
structure AWrite where
  /-- Word key barn × 2^17 + shed × 2^15 + word. -/
  word   : Nat
  /-- Generator period of the issuing step. -/
  gen    : Nat
  old    : W64
  oldSyn : BitVec 8
deriving DecidableEq, Repr

/-- What one execution of a tick holds besides the storage of `Arr`. -/
structure Exe where
  /-- Next slot of each processor in this execution: it has executed every slot below (keys processor); 02_boolean_processors.md R21; reset 0. -/
  ran     : SMap Nat := []
  /-- LUTL first words waiting for their second word, by processor; 02_boolean_processors.md R30; reset empty. -/
  lit     : SMap LitPend := []
  /-- Send-track drives of the tick (keys (barn × 1,024 + step) × 64 + track); 04_array_interconnect.md R105; reset empty. -/
  tracks  : SMap Drive := []
  /-- Issues on memory ports (keys (barn × 4 + port) × 1,024 + step): the issuing processor plus 1; 02_boolean_processors.md R51; reset empty. -/
  issues  : SMap Nat := []
  /-- Landings on memory ports (keys as above): the processor plus 1; 02_boolean_processors.md R51; reset empty. -/
  lands   : SMap Nat := []
  /-- Shed bank accesses (keys ((barn × 4 + shed) × 8 + bank) × 1,024 + step); 02_boolean_processors.md R51; reset empty. -/
  banks   : SMap BankAcc := []
  /-- Charged units of a barn in a step (keys barn × 1,024 + step); 05_compiler_contract.md R138; reset empty. -/
  charge  : SMap Nat := []
  /-- Processor with a nonzero charge of highest index, plus 1 (keys as above); 05_compiler_contract.md R144; reset empty. -/
  chargeP : SMap Nat := []
  /-- Reads in flight; 02_boolean_processors.md R52; reset empty. -/
  flights : List Flight := []
  /-- Port latches (keys barn × 4 + port); 64 bits and an empty mark; 02_boolean_processors.md R53; reset 0 and empty. -/
  latches : SMap Latch := []
  /-- Drives of link bit-slots of the tick (keys (link × 1,024 + step) × 80 + position); 04_array_interconnect.md R112; reset empty. -/
  linkTx  : SMap Drive := []
  /-- Link bit-slots sent in the tick before, kept for the resend; 06_integrity_replay.md R164; reset empty. -/
  linkOld : SMap Drive := []
  /-- Link bit-slots sent two ticks before, for the resend of a two-tick rollback; 06_integrity_replay.md R164; reset empty. -/
  linkOld2 : SMap Drive := []
  /-- Staging buffers: link bit-slots arriving in the tick (keys as linkTx); 04_array_interconnect.md R119; reset empty. -/
  staged  : SMap Bool := []
  /-- Link receive values latched for the tick (keys as linkTx); 04_array_interconnect.md R119; reset empty. -/
  recv    : SMap Bool := []
  /-- Link receive values latched for the tick before; 04_array_interconnect.md R120; reset empty. -/
  recvOld : SMap Bool := []
  /-- Contract faults raised in the execution; 05_compiler_contract.md R145; reset empty. -/
  faults  : List FaultRec := []
  /-- Detections that enter the vote of the execution; 06_integrity_replay.md R156; reset empty. -/
  dets    : List FaultRec := []
  /-- Detections that this chip raised in the execution that awaits its decision; 06_integrity_replay.md R167; reset empty. -/
  detsOld : List FaultRec := []
  /-- Reports raised in the execution, logged with its detections at W1; 06_integrity_replay.md R156, R181; reset empty. -/
  reports : List FaultRec := []
  /-- Detections raised outside an execution's vote, already logged, that enter the vote of the next execution; 06_integrity_replay.md R156; reset empty. -/
  late    : List FaultRec := []
  /-- Sticky reads of the execution, keys barn × 64 + track; 02_boolean_processors.md R63; reset empty. -/
  sticky  : List Nat := []
  /-- Sticky reads of the tick that awaits its decision; 02_boolean_processors.md R63; reset empty. -/
  stickyOld : List Nat := []
  /-- Port A writes of the current bank cycle; 07_sheds.md R183; reset empty. -/
  aWrites : List AWrite := []
  /-- Banks that port A occupies in the current bank cycle: bank (barn × 32 + shed × 8 + bank) and generator period; 07_sheds.md R183; reset empty. -/
  aUse    : List (Nat × Nat) := []
deriving DecidableEq, Repr

/-- A CALL or CHECK event in the holding pen (R28, R72). -/
structure Event where
  /-- Step and global processor index, which order the events. -/
  step  : Nat
  proc  : Nat
  /-- Assertion event (false: transactor event). -/
  isChk : Bool
  /-- Tag or assertion number. -/
  num   : BitVec 12
  tick  : Nat
deriving DecidableEq, Repr

/-- A memory-model write (R55, R76, R223). -/
structure MWrite where
  step  : Nat
  proc  : Nat
  model : Nat
  /-- Byte address of the word in DRAM (R221). -/
  addr  : Nat
  word  : W64
  /-- Placed by a deposit (R304). -/
  dep   : Bool
  /-- Its place in the order of arrival at the DRAM controller, once released (R214). -/
  seq   : Nat := 0
deriving DecidableEq, Repr

/-- A probe lane's value with the step and processor that gave it (R27). -/
structure ProbeW where
  val  : Bool
  step : Nat
  proc : Nat
deriving DecidableEq, Repr

/-- The held effects of one tick (R72). -/
structure PenTick where
  gw     : SMap ProbeW := []
  events : List Event := []
  probes : SMap ProbeW := []
  writes : List MWrite := []
deriving DecidableEq, Repr

/-- A deposit waiting in the deposit queue (R303). -/
structure Deposit where
  model : Nat
  off   : Nat
  word  : W64
deriving DecidableEq, Repr

/-- Holding pen and gateways. -/
structure Pen where
  /-- Held effects of the tick being executed; 03_tick.md R72, R73; reset empty. -/
  cur     : PenTick := {}
  /-- Held effects of the tick that awaits its decision; 03_tick.md R73; reset empty. -/
  old     : PenTick := {}
  /-- Deposits placed in `cur`, to return to the queue on a rollback; 11_yardmaster_grooms.md R304; reset empty. -/
  deps    : List Deposit := []
  /-- Deposits placed in `old`; 11_yardmaster_grooms.md R304; reset empty. -/
  depsOld : List Deposit := []
  /-- Gateway input sample of the tick being executed; 1,024 bits; 03_tick.md R77; reset DESIGN CHOICE 0 (log 8). -/
  inCur   : BitVec 1024 := 0
  /-- Gateway input sample of the tick that awaits its decision, kept for a rollback; 1,024 bits; 03_tick.md R77; reset none. -/
  inOld   : Option (BitVec 1024) := none
  /-- Gateway input sample held for the tick after it; 1,024 bits; 03_tick.md R77; reset none. -/
  inNext  : Option (BitVec 1024) := none
  /-- Released gateway outputs; 1,024 bits; 04_array_interconnect.md R111; reset 0. -/
  out     : BitVec 1024 := 0
  /-- Staging registers of the eight regions; 1,024 bits; 12_paddock.md R326; reset 0. -/
  staging : BitVec 1024 := 0
  /-- A released tick waits for its evaluation by the trigger engine; 1 bit; 14_trigger_acquisition.md R361; reset 0. -/
  due     : Bool := false
  /-- Regions that captured since the previous sample; 8 bits; 12_paddock.md R328; reset 0. -/
  capt    : BitVec 8 := 0
  /-- Samples taken since START, up to 2; 12_paddock.md R328; reset 0. -/
  samples : Nat := 0
  /-- GW_ITOG of the regions; 8 bits; 12_paddock.md R324; reset DESIGN CHOICE 0 (log 8). -/
  itog    : BitVec 8 := 0
  /-- GW_OTOG of the regions, the toggle value of the last release; 8 bits; 12_paddock.md R327; reset DESIGN CHOICE 0 (log 8). -/
  otog    : BitVec 8 := 0
  /-- Probe-lane values of the last released tick; 4,096 bits; 02_boolean_processors.md R27; reset 0 (R365). -/
  lanes   : BitVec 4096 := 0
  /-- Probe-lane values of the released tick before, L prev; 4,096 bits; 14_trigger_acquisition.md R365; reset 0 (R365). -/
  lanesOld : BitVec 4096 := 0
  /-- Elapsed picoseconds of the evaluation edge E(t) of the tick released last; 14_trigger_acquisition.md R361; reset 0. -/
  evalAt  : Nat := 0
  /-- Time of clock instance 0 at that edge, in units of 2^-32 ns; 14_trigger_acquisition.md R367, R380; reset 0. -/
  evalTime : Nat := 0
  /-- Assertion events released for the tick to be evaluated; 14_trigger_acquisition.md R365; reset empty. -/
  asserts : List Event := []
deriving DecidableEq, Repr

/-- One entry of a shed's undo log (R160, R162). -/
structure UndoE where
  /-- Word key barn × 2^17 + shed × 2^15 + bank and word. -/
  word : Nat
  old  : W64
  /-- Parity syndrome of the logged word: nonzero fails the entry's own check (R162). -/
  syn  : BitVec 8
  tick : Nat
  step : Nat
  proc : Nat
deriving DecidableEq, Repr

/-- Port A writes to a shed that its full log did not take (R168). -/
structure Unlogged where
  shed : Nat
  tick : Nat
  step : Nat
deriving DecidableEq, Repr

/-- A repair from the golden image (R165): table 0 instruction store, 1 dictionary, 2 descriptor, 3 source table,
4 slot map, 5 receive map, and the entry's key. -/
structure Repair where
  quad : Nat
  tab  : Nat
  key  : Nat
  /-- The golden data has arrived and waits for a period without a fetch. -/
  data : Bool
deriving DecidableEq, Repr

/-- One of the three copies of a scrubber's configuration (R176). -/
structure ScbCfg where
  enable : Bool
  lo     : W32
  hi     : W32
deriving DecidableEq, Repr

/-- One lockstep copy of a scrubber's state machine (R177). -/
structure ScbCopy where
  /-- Row of the sweep, 0 to 3,071. -/
  row    : Nat := 0
  /-- Words of the lines in progress as they were read, where they differ from the golden image (keys processor × 1,024 + slot). -/
  seen   : SMap W64 := []
  /-- Lines to be rewritten, keys g × 8 + line. -/
  lines  : List Nat := []
  /-- A line was written by the loader while it was being read (R175). -/
  reread : Bool := false
deriving DecidableEq, Repr

/-- A quadrant's scrubber (R173 to R178). -/
structure Scb where
  /-- The three configuration copies. -/
  c0 : ScbCfg := ⟨true, 0, 0⟩
  c1 : ScbCfg := ⟨true, 0, 0⟩
  c2 : ScbCfg := ⟨true, 0, 0⟩
  /-- The two lockstep copies of the state machine. -/
  a : ScbCopy := {}
  b : ScbCopy := {}
  stopped : Bool := false
deriving DecidableEq, Repr

/-- Integrity: logs, repairs, scrubbers, golden image. -/
structure Integ where
  /-- Undo logs, newest entry first, by shed (keys barn × 4 + shed); 4,096 entries each; 06_integrity_replay.md R160; reset empty. -/
  undo    : SMap (List UndoE) := []
  /-- Unlogged writes of unconfirmed ticks; 06_integrity_replay.md R168; reset empty. -/
  unlogged : List Unlogged := []
  /-- Event log, oldest first; 1,024 records of 128 bits; 06_integrity_replay.md R181; reset empty. -/
  log     : List W128 := []
  /-- Fault record; 128 bits; 05_compiler_contract.md R144, TCK_FAULT_W0 to W3; reset 0. -/
  frec    : W128 := 0
  /-- Repairs requested of the scrubbers; 06_integrity_replay.md R165; reset empty. -/
  repairs : List Repair := []
  /-- The same repairs as the second copy of each scrubber's state machine holds them; 06_integrity_replay.md R177; reset empty. -/
  repairsB : List Repair := []
  /-- Generator period of each scrubber's last read step outside commit windows (keys quadrant); 06_integrity_replay.md R173; reset DESIGN CHOICE none (log 139). -/
  scbAt   : SMap Nat := []
  /-- Scrubber of Q0; configuration, sweep row, stop; 06_integrity_replay.md R173, R176, R177; reset enabled, base 0, row 0. -/
  scb0    : Scb := {}
  /-- Scrubber of Q1; as Q0; 06_integrity_replay.md R173, R176, R177; reset as Q0. -/
  scb1    : Scb := {}
  /-- Scrubber of Q2; as Q0; 06_integrity_replay.md R173, R176, R177; reset as Q0. -/
  scb2    : Scb := {}
  /-- Scrubber of Q3; as Q0; 06_integrity_replay.md R173, R176, R177; reset as Q0. -/
  scb3    : Scb := {}
  /-- Golden image: instruction stores; 06_integrity_replay.md R174; reset DESIGN CHOICE empty (log 8). -/
  gImem   : SMap W64 := []
  /-- Golden image: dictionaries; 06_integrity_replay.md R174; reset DESIGN CHOICE empty (log 8). -/
  gDict   : SMap (BitVec 16) := []
  /-- Golden image: port descriptor tables; 06_integrity_replay.md R174; reset DESIGN CHOICE empty (log 8). -/
  gDesc   : SMap W128 := []
  /-- Golden image: receive-track source tables; 06_integrity_replay.md R174; reset DESIGN CHOICE empty (log 8). -/
  gSrc    : SMap (BitVec 16) := []
  /-- Golden image: link slot maps; 06_integrity_replay.md R174; reset DESIGN CHOICE empty (log 8). -/
  gSlots  : SMap (BitVec 16) := []
  /-- Golden image: receive maps; 06_integrity_replay.md R174; reset DESIGN CHOICE empty (log 8). -/
  gRmap   : SMap (BitVec 24) := []
deriving DecidableEq, Repr

/-- A fill in progress on a barn (R203). -/
structure Fill where
  shed : Nat
  bank : Nat
  next : Nat
  last : Nat
  pat  : W64
  /-- Generator period in which its next word entered the background queue (R186). -/
  came : Nat
deriving DecidableEq, Repr

/-- A request in the foreground queue of a shed (R186, R199, R203): an operation with its packet, a write of SHD_OWNER or
of SHD_FILL_CTRL with GO, with the requester's code. -/
inductive ShedReq where
  | op    (op : Byte) (p : Pkt)
  | owner (who : Nat) (v : W32)
  | fill  (who : Nat) (w : W32)
deriving DecidableEq, Repr

/-- An ADD or SWAP between its read and its write cycle (R190): the word, what is to be written, the word read, the
request, and whether port A has written the word in the read cycle (R194). -/
structure ShedWr where
  key  : Nat
  word : W64
  old  : W64
  pkt  : Pkt
  lost : Bool
deriving DecidableEq, Repr

/-- Port B of a shed (R186, R190). -/
structure ShedPort where
  queue : List ShedReq := []
  wr    : Option ShedWr := none
deriving DecidableEq, Repr

/-- Sheds. A shed byte's address is 8 × (barn × 2^17 + shed × 2^15 + word) + byte (R272). Owners stand in the
registers SHD_OWNMAP0 to SHD_OWNMAP7. -/
structure Shed where
  /-- Shed contents; 384 × 256 KiB; 07_sheds.md R182; reset DESIGN CHOICE 0 in every byte (log 9). -/
  mem    : List Host.Cell := []
  /-- Parity syndromes of shed words; 8 bits per word (keys barn × 2^17 + shed × 2^15 + word); 06_integrity_replay.md R155; reset DESIGN CHOICE 0 (log 9). -/
  syn    : SMap (BitVec 8) := []
  /-- Background losses of a shed since the last background start (keys barn × 4 + shed); 07_sheds.md R188; reset 0. -/
  loss   : SMap Nat := []
  /-- Fills in progress, by barn; 07_sheds.md R203; reset none. -/
  fills  : SMap Fill := []
  /-- Next word of the patrol sweep, by barn; 17 bits; 07_sheds.md R204; reset DESIGN CHOICE 0 (log 9). -/
  patrol : SMap Nat := []
  /-- Generator period from which the patrol may read again, by barn; 07_sheds.md R204; reset 0. -/
  patNext : SMap Nat := []
  /-- Port B of the sheds: foreground queue and ADD or SWAP in progress (keys barn × 4 + shed); 07_sheds.md R186, R190; reset empty. -/
  ports  : SMap ShedPort := []
  /-- Sheds whose background head is to be started (keys as ports); 07_sheds.md R187; reset none. -/
  want   : List Nat := []
  /-- One more than the generator period of a port B's last start (keys as ports); 07_sheds.md R185; reset 0. -/
  started : SMap Nat := []
deriving DecidableEq, Repr

/-- A command in a channel's retry buffer: its address and, of a write, the bytes written with their addresses (R217). -/
structure DramCmd where
  addr : Nat
  data : Option (List (Nat × List Byte))
deriving DecidableEq, Repr

/-- What a request at the DRAM controller asks: a packet with its opcode, a write packet of which only the bytes
of a mask count in each word (R420), or bytes to be written within one burst. -/
inductive DramBody where
  | pkt (op : Byte) (p : Pkt)
  | masked (p : Pkt) (bytes : Byte)
  | put (a : Nat) (l : List Byte)
deriving DecidableEq, Repr

/-- A request that waits at the DRAM controller (R212 to R214). -/
structure DramReq where
  /-- Its place in the order of arrival (R214). -/
  seq  : Nat
  /-- Port 0 to 11 (R212). -/
  port : Nat
  /-- Elapsed picoseconds at its arrival, from which its age counts (R213). -/
  came : Nat
  body : DramBody
deriving DecidableEq, Repr

/-- DRAM and its controller. -/
structure Dmc where
  /-- DRAM contents by byte address; up to 512 GiB; 08_dram.md R209; reset DESIGN CHOICE 0 in every byte (log 9). -/
  mem      : List Host.Cell := []
  /-- Error of a burst's check bits (keys address div 64): 0 where they pass; twice the XOR of its address and the one that
  its CRC covers, plus 1 for corrupt data or check bits; 08_dram.md R216; reset DESIGN CHOICE 0 (log 9). -/
  crcErr   : SMap Nat := []
  /-- Model write queue, oldest first; 65,536 entries; 08_dram.md R223; reset empty. -/
  wq       : List MWrite := []
  /-- Retry buffers of the four channels, newest first; 64 entries each (keys channel); 08_dram.md R217; reset empty. -/
  retry    : SMap (List DramCmd) := []
  /-- Failed reissues in a row of a channel; 2 bits; 08_dram.md R218; reset 0. -/
  alerts   : SMap Nat := []
  /-- Detected density, ranks, speed of each channel's DIMM: present, 32 Gb, ranks, 6,400; 08_dram.md R208; reset none. -/
  dimm     : SMap (Bool × Bool × Nat × Bool) := []
  /-- Channels whose training has filled both timing sets; 4 bits; 08_dram.md R226, DMC_STATUS.TRAINED; reset 0. -/
  trained  : BitVec 4 := 0
  /-- All-bank refreshes issued to a rank (keys channel × 2 + rank); 08_dram.md R215; reset 0. -/
  refr     : SMap Nat := []
  /-- Generator-independent time of a rank's last refresh in picoseconds; 08_dram.md R215; reset 0. -/
  refrAt   : SMap Nat := []
  /-- Write DQS delay adjustments made by the 16 ms poll; 08_dram.md R215; reset 0. -/
  dqsAdj   : Nat := 0
  /-- Elapsed picoseconds at the last poll of mode register 4; 08_dram.md R215; reset 0. -/
  pollAt   : Nat := 0
  /-- Requests that wait at the controller, oldest first; 08_dram.md R212 to R214, R225; reset empty. -/
  waiting  : List DramReq := []
  /-- Number of the next request or released write to arrive, by which their order is told; 08_dram.md R214; reset 0. -/
  seq      : Nat := 0
  /-- Set named by TARGET when the frequency change in progress began; 1 bit; 08_dram.md R225; reset 0. -/
  newSet   : Bool := false
deriving DecidableEq, Repr

/-- A hold requested through the control tree (R249): the freeze period that names it, and the request. -/
structure Ask where
  time : BitVec 28
  req  : HoldReq
deriving DecidableEq, Repr

/-- What a chip has to say on the control tree (R248 to R250): a hold request or broadcast with its freeze period, a
request that stands on after the release of an earlier one, a release with its period, a vote or decision, a run-control
command. -/
inductive TreeEv where
  | hold (t : BitVec 28) | rehold (t : BitVec 28) | release (t : BitVec 28) | vote (v : Vote) (t : BitVec 28) | cmd (t : BitVec 28) (c : TreeCmd)
deriving DecidableEq, Repr

/-- One link (R228 to R254). -/
structure Link where
  /-- SEQ of the next frame to send, and of the last frame received on each lane. -/
  txSeq   : BitVec 8 := 0
  rxSeq   : BitVec 32 := 0
  /-- Consecutive frames of each lane that passed and that failed their check, up to 16 (R239). -/
  pass    : List Nat := [0, 0, 0, 0]
  fail    : List Nat := [0, 0, 0, 0]
  /-- Slips made on each lane, modulo 1,056, and the line bits of the last line frame received (R239). -/
  slips   : List Nat := [0, 0, 0, 0]
  rxLine  : LinkBits := ⟨[], [], [], []⟩
  /-- Elapsed picoseconds of the first bit of the next frame sent, on the link's fixed frame grid; 0 before the first
  (R237). -/
  grid    : Nat := 0
  /-- Next schedule step whose group has not been sent, with its tick (R237), and the tick trailer due (R238). -/
  sent    : Nat := 0
  sentTick : Nat := 0
  trailer : Option (Nat × BitVec 80) := none
  /-- Next schedule step whose group has not been received, with its tick; the next tick whose trailer has not been
  received; the first step of the tick not yet found late (R237, R238, R246). -/
  got     : Nat := 0
  gotTick : Nat := 0
  trTick  : Nat := 0
  lateTo  : Nat := 0
  /-- MARK frames still to be sent, and received in a row; the largest Δ received (R244). -/
  marks   : Nat := 0
  markN   : Nat := 0
  delta   : BitVec 48 := 0
  /-- By the four places of a frame on the 33 ns grid (SEQ modulo 4): the last Δ, and the periods between the cut-off of
  the frame before and this one's; the count that the last MARK carried (R237, R244). -/
  deltas  : List (BitVec 48) := [0, 0, 0, 0]
  gaps    : List Nat := [0, 0, 0, 0]
  markAt  : BitVec 48 := 0
  /-- Generator period of the cut-off of the last frame received while ticks are executed, 0 before the first, and the
  place of the last frame received (R237). -/
  cut     : Nat := 0
  place   : Nat := 0
  /-- Resend (R253): next group to send, groups received, ACK sent, ACK received. -/
  rsNext  : Nat := 0
  rsGot   : List Nat := []
  ackTx   : Bool := false
  ackRx   : Bool := false
  /-- The last frame sent, and the line bits of its four lanes (R230 to R233). -/
  last    : Option LinkFrame := none
  line    : List (List Bool) := []
  /-- PRBS generators of the four lanes; of each lane's checker the bits that it predicts the next one from, and
  error-free bits seen in a row, up to 64 (R254). -/
  prbsGen : List (BitVec 31) := [BitVec.allOnes 31, BitVec.allOnes 31, BitVec.allOnes 31, BitVec.allOnes 31]
  prbsRx  : List (BitVec 31) := [0, 0, 0, 0]
  prbs    : List Nat := [0, 0, 0, 0]
  /-- Line bits to be inverted by injection on the lanes of INJ_LANES, and line bits since the last rate error
  (R254). -/
  inject  : Nat := 0
  rateCnt : Nat := 0
  /-- Control-tree events to be sent on this link, oldest first, with the elapsed picoseconds of each, by which the frame
  that carries it is told; the HOLD level last sent and received (R247 to R250). -/
  evq     : List (Nat × TreeEv) := []
  lvl     : Bool := false
  rxHold  : Bool := false
  /-- CTIME of the last hold request or release sent and received, which later frames repeat (R249, R251). -/
  ctTx    : BitVec 28 := 0
  ctRx    : BitVec 28 := 0
deriving DecidableEq, Repr

/-- Serial links. -/
structure Lnk where
  /-- The 24 links' frame, lock, measurement, resend and control-tree state (keys link); 09_serial_links.md R231 to R254; reset as a link that is OFF: zero counts. -/
  links   : SMap Link := []
  /-- Hold requests of children whose release has not come (keys link), each with the step at which this chip holds or asks for it; 09_serial_links.md R249; reset empty. -/
  childHold : SMap (List Ask) := []
  /-- Hold requests of this chip, its own and those it passes on, whose release it has not sent; 09_serial_links.md R249; reset empty. -/
  asked     : List Ask := []
  /-- Run-control commands written to the root that wait for its next downward frame; 09_serial_links.md R250; reset empty. -/
  rootCmds : List TreeCmd := []
  /-- Data arrivals that children's releases have reported: tick and step of the hold, period; 09_serial_links.md R249; reset none. -/
  childArr : List (Nat × Nat × BitVec 28) := []
deriving DecidableEq, Repr

/-- A packet in the network (R265, R266, R280): the queue that holds it, and since when it may go on. -/
structure NetPkt where
  /-- Number of its entry into the network, by which two packets are told apart. -/
  seq   : Nat
  op    : Byte
  pkt   : Pkt
  /-- The queue that holds it (key of an injection queue, a ring's input buffer or an ejection queue; R265, R266). -/
  place : Nat
  /-- Rail cycle from which it may leave the queue. -/
  ready : Nat
  /-- Rail cycle in which its last flit is in the queue. -/
  tail  : Nat
  /-- Ring of its row leg: negative (R262). -/
  row   : Bool
  /-- Consecutive rail cycles on which it lost its output (R269). -/
  losses : Nat
  /-- It has been counted as waiting for a wake (R280). -/
  noted : Bool
deriving DecidableEq, Repr

/-- The rails (R258 to R282). Queues are numbered: the input buffer at a stop of a ring and virtual channel
(stop × 4 + ring) × 2 + vc, the injection queue of a stop, port and class 384 + (stop × 5 + port) × 4 + class, the
ejection queue of a stop and port 1,344 + stop × 5 + port. -/
structure Rls where
  /-- Flits of a port's ejection queue reserved for the responses to requests that its unit has sent (keys as the queues' numbers); 10_rails.md R276; reset 0. -/
  resv    : SMap Nat := []
  /-- Tokens missing from a full class bucket of a stop, in 1/1,500 of a token (keys stop × 4 + class); 10_rails.md R278; reset DESIGN CHOICE 0, full (log 10). -/
  tokens  : SMap Nat := []
  /-- Rail cycle of the last refill (keys as tokens); 10_rails.md R278; reset 0. -/
  refill  : SMap Nat := []
  /-- Flits of a class injected at a stop (keys stop × 4 + class); 64 bits; 10_rails.md RLS_INJ_LO; reset 0. -/
  inj     : SMap Nat := []
  /-- Rail cycles in which a packet waited only for tokens (keys stop × 4 + class); 32 bits; 10_rails.md RLS_THROTTLED; reset 0. -/
  thr     : SMap Nat := []
  /-- Packets that their unit has made and not yet given to its endpoint: opcode and packet; 10_rails.md R271; reset empty. -/
  fly     : List (Byte × Pkt) := []
  /-- Packets in injection queues, input buffers and ejection queues, in the order in which they entered their queue; 10_rails.md R265, R266; reset empty. -/
  net     : List NetPkt := []
  /-- Credits of a queue that its sender does not hold (keys queue): 16, of an ejection queue 32, less the credits held; 10_rails.md R265, R266; reset 0. -/
  held    : SMap Nat := []
  /-- Credits on their way back: queue and rail cycle of their return; 10_rails.md R265; reset empty. -/
  back    : List (Nat × Nat) := []
  /-- Rail cycle up to which a queue, or a ring output (keys 1,584 + stop × 4 + ring), sends a packet's flits; 10_rails.md R265, R268; reset 0. -/
  busy    : SMap Nat := []
  /-- Queues whose credit count is to be reset from their occupancy; 10_rails.md R267; reset empty. -/
  fix     : List Nat := []
  /-- Rail cycle of the last use of an endpoint port (keys stop × 5 + port); 10_rails.md R279; reset 0. -/
  last    : SMap Nat := []
  /-- Rail cycle up to which the network has been run; 10_rails.md R268; reset 0. -/
  cycle   : Nat := 0
  /-- Number of the next packet to enter the network; the model's own; reset 0. -/
  seq     : Nat := 0
deriving DecidableEq, Repr

/-- A work item (R287). -/
structure Item where
  entry  : W64
  arg    : W64
  succ   : BitVec 20
  succv  : Bool
  flow   : BitVec 6
  flowv  : Bool
  prio   : BitVec 3
  fallback : Bool
  /-- Its 20-bit ID, when it has one. -/
  id     : Option (BitVec 20)
  /-- Its flow sequence number, once assigned (R298). -/
  seq    : Option (BitVec 8)
  /-- Number of the tick of the CALL event it comes from (R300). -/
  call   : Option Nat
deriving DecidableEq, Repr

/-- An entry of the dependence table (R290): its item and its counter. -/
structure DepE where
  item : Item
  cnt  : Nat
deriving DecidableEq, Repr

/-- An entry of the timetable (R297). -/
structure TimeE where
  item  : Item
  /-- Due time: nanoseconds of clock instance 0, or confirmed ticks. -/
  ticks : Bool
  due   : Nat
  /-- Expired, and pending because its item cannot enter its ready queue (R292). -/
  exp   : Bool
deriving DecidableEq, Repr

/-- An ordered flow (R298): next sequence, oldest unreleased, next to be dispatched, completed items (sequence,
decrements) not yet released, and the groom that ran its last dispatched item. -/
structure Flow where
  next  : BitVec 8 := 0
  head  : BitVec 8 := 0
  disp  : BitVec 8 := 0
  out   : Nat := 0
  done  : List (BitVec 8 × List (BitVec 20)) := []
  groom : Option Nat := none
deriving DecidableEq, Repr

/-- The yardmaster (R287 to R304). Bindings stand in the registers YMS_BIND_W0 to W7. -/
structure Yms where
  /-- Dependence table (keys entry 0 to 4,095); 11_yardmaster_grooms.md R290; reset empty. -/
  dep     : SMap DepE := []
  /-- Reuse count and generation bit of the entries; 8 bits; 11_yardmaster_grooms.md R290; reset DESIGN CHOICE 0 (log 10). -/
  reuse   : SMap (BitVec 8) := []
  /-- Ready queues of the eight priorities, first come first (keys priority); 1,024 items each; 11_yardmaster_grooms.md R292; reset empty. -/
  ready   : SMap (List Item) := []
  /-- Pending items of the eight priorities (keys priority); 11_yardmaster_grooms.md R292; reset empty. -/
  pend    : SMap (List Item) := []
  /-- Timetable, in order of due time and acceptance; 2,048 entries; 11_yardmaster_grooms.md R297; reset empty. -/
  time    : List TimeE := []
  /-- Ordered flows (keys flow); 64 flows; 11_yardmaster_grooms.md R298; reset zero sequences. -/
  flows   : SMap Flow := []
  /-- CALL intake, oldest first: event and its index among its tick's CALL events; 65,536 events; 11_yardmaster_grooms.md R300; reset empty. -/
  intake  : List (Event × Nat) := []
  /-- Deposit queue, oldest first; 1,024 entries; 11_yardmaster_grooms.md R303; reset empty. -/
  deposits : List Deposit := []
  /-- Result of the last doorbell: ID and code, YMS_DB_RESULT; 24 bits; 11_yardmaster_grooms.md R289; reset 0. -/
  dbResult : W32 := 0
  /-- Dispatched items whose completion has not reached the yardmaster, oldest first (keys groom); 11_yardmaster_grooms.md R294, R295; reset empty. -/
  running : SMap (List Item) := []
deriving DecidableEq, Repr

/-- A groom's architectural state (R283), opened to the debugger by R423. While the groom runs it is not tracked, and
a halt finds it at values the model leaves open (log 11). -/
structure Core where
  x   : SMap W64 := []
  f   : SMap W64 := []
  csr : SMap W64 := []
  pc  : W64 := 0
  /-- User mode. -/
  user : Bool := false
  /-- LR reservation (R422). -/
  lr  : Option W64 := none
  /-- Lines of the 64 KiB L1 instruction cache, by line address; FENCE.I, an instruction, invalidates them (R18, R285). -/
  l1i : SMap (BitVec 512) := []
deriving DecidableEq, Repr, Inhabited

/-- What a retired instruction means for the flow trace (R431): nothing, a conditional branch, or a TARGET of a kind
(0 JALR, 1 exception, 2 interrupt, 3 MRET) from a pc to a target. -/
inductive Flow1 where
  | plain
  | branch (taken : Bool)
  | target (kind : BitVec 2) (src dest : W64)
deriving DecidableEq, Repr, Inhabited

/-- A data access of a retired instruction, as the data trace records it (R431, R432). -/
structure DataAcc where
  store : Bool
  /-- log2 of its size in bytes. -/
  size  : BitVec 2
  addr  : W64
  value : W64
deriving DecidableEq, Repr, Inhabited

/-- One retired instruction as trace sees it. -/
structure Retired where
  flow : Flow1
  data : List DataAcc
deriving DecidableEq, Repr, Inhabited

/-- A groom as the rest of the chip sees it. -/
structure Groom where
  core    : Core := {}
  item    : Option Item := none
  /-- ENTRY of the last item (R293). -/
  lastEntry : Option W64 := none
  /-- Picoseconds at which the item was dispatched, by which its expiry was moved, and of the last halt (R305,
  R426). -/
  since   : Nat := 0
  extra   : Nat := 0
  haltAt  : Nat := 0
  halted  : Bool := false
  cause   : BitVec 4 := 0
  cmp     : BitVec 3 := 0
  ghit    : W64 := 0
  /-- Machine external interrupt raised by a dispatch (R294). -/
  meip    : Bool := false
  /-- L1D lines held, by line address (R285). -/
  l1d     : SMap (BitVec 512) := []
  /-- Ordered buffer, oldest first: sequence number of the item, opcode and packet (R299). -/
  ordered : List (BitVec 8 × Byte × Pkt) := []
  /-- The ordered packet on which it stalls, while its buffer is full (R299). -/
  stall   : Option (BitVec 8 × Byte × Pkt) := none
  /-- A halt that waits for the instruction on which the groom stalls: cause and comparator (R421, R425). -/
  haltReq : Option (Nat × Nat) := none
  /-- Trace encoder: whole packets, oldest first; SEQ; packets lost; packets since the last SYNC; baseline; branch bits (R433 to R436). -/
  enc     : List (List Byte) := []
  /-- Elapsed picoseconds at which each of those packets entered (R437). -/
  encAt   : List Nat := []
  seq     : BitVec 16 := 0
  lostN   : Nat := 0
  since0  : Nat := 0
  base    : W64 := 0
  brN     : Nat := 0
  brBits  : BitVec 32 := 0
  /-- Trace has begun for this groom (its first packet, a SYNC, is in the encoder or sent). -/
  traced  : Bool := false
deriving DecidableEq, Repr

/-- Grooms and groom scratch. -/
structure Grm where
  /-- The sixteen grooms: architectural registers (x, f, CSR, pc), item, caches, ordered buffer, trace encoder (keys groom); 11_yardmaster_grooms.md R283 to R305, 16_debug_trace.md R421 to R436; reset in reset, holding nothing, registers DESIGN CHOICE 0 (log 11). -/
  g       : SMap Groom := []
  /-- Groom scratch; 4 MiB; 11_yardmaster_grooms.md R284; reset DESIGN CHOICE 0 in every byte (log 9). -/
  scratch : List Host.Cell := []
deriving DecidableEq, Repr

/-- A memory block's queue controller (R321). -/
structure Queue where
  items : List W64 := []
  /-- Value on the read output. -/
  outp  : W64 := 0
  ovf   : Bool := false
  unf   : Bool := false
  /-- Clock edges for which FULL, and EMPTY, may stay set after the condition has ended. -/
  fullLag  : Nat := 0
  emptyLag : Nat := 0
  /-- The same for AF and AE. -/
  afLag    : Nat := 0
  aeLag    : Nat := 0
  /-- Clock edges for which the write side, and the read side, may still ignore accesses after QRST. -/
  rstW  : Nat := 0
  rstR  : Nat := 0
deriving DecidableEq, Repr

/-- A regional clock tree at work (R318, R319). -/
structure RTree where
  /-- A switch: 0 none, 1 the old source's falling edge is awaited, 2 the new source's falling edge, 3 its rising edge. -/
  stage : Nat := 0
  /-- The source in use when the switch began. -/
  sel   : Bool := false
  /-- Rising edges of the source in the present output period. -/
  phase : Nat := 0
  /-- DIV in effect, none before the first period. -/
  div   : Option Nat := none
  /-- Output level, and the last levels of SRC0 and SRC1. -/
  out   : Bool := false
  last0 : Bool := false
  last1 : Bool := false
deriving DecidableEq, Repr

/-- The I/O register of a target ball: input, output data and output enable (R322). -/
structure IoReg where
  inp  : Bool := false
  data : Bool := false
  oe   : Bool := false
deriving DecidableEq, Repr

/-- Paddock (R308 to R331). -/
structure Pdk where
  /-- Configuration frames (keys frame address without FORMAT): cluster, memory-block configuration and contents, target I/O, clock and gateway frames; 12_paddock.md R313 to R324; reset absent (selects 0, configuration 0, contents 0). -/
  frames  : SMap (List Byte) := []
  /-- Flip-flops FFA and FFB (keys ((region × 1,536 + cluster) × 16 + cell) × 2, plus 1 for FFB); 196,608 cells × 2 bits; 12_paddock.md R309, R310, R323; reset RVA and RVB of absent frames, 0. -/
  ff      : SMap Bool := []
  /-- Regional clock trees (keys region): switch in progress, divider, output level; 12_paddock.md R318, R319; reset settled, output low. -/
  rtree   : SMap RTree := []
  /-- Levels of the global trees 0 to 15 in the last idle period; 16 bits; 12_paddock.md R317; reset DESIGN CHOICE 0 (log 146). -/
  gtree   : BitVec 16 := 0
  /-- Levels of the TIO balls 0 to 319 in the last idle period; 320 bits; 12_paddock.md R322; reset DESIGN CHOICE 0 (log 146). -/
  balls   : BitVec 320 := 0
  /-- I/O registers of the TIO balls (keys ball); 12_paddock.md R322; reset DESIGN CHOICE 0 (log 146). -/
  io      : SMap IoReg := []
  /-- Queue controllers of the 96 memory blocks (keys block); 12_paddock.md R321; reset empty queues. -/
  queues  : SMap Queue := []
  /-- Bridge request queue: opcode and packet; 32 packets; 12_paddock.md R329; reset empty. -/
  brReq   : List (Byte × Pkt) := []
  /-- Bridge response queue; 32 packets; 12_paddock.md R329; reset empty. -/
  brResp  : List (Byte × Pkt) := []
  /-- Injected requests of the bridge whose response, for which room is kept, has not come; 6 bits; 12_paddock.md R329, 10_rails.md R276; reset 0. -/
  brOut   : Nat := 0
  /-- Regions in the state before DONE: every TIO ball high-impedance with its pull-down, every flip-flop in reset; 8 bits; 12_paddock.md R323, R330; reset all ones. -/
  held    : BitVec 8 := BitVec.allOnes 8
deriving DecidableEq, Repr

/-- What the loader keeps of the loaded full image. -/
structure Image where
  /-- SHA-512 of header bytes 0x000 to 0x3FF (R357, R359). -/
  digest  : BitVec 512
  /-- The 1,024 header bytes. -/
  header  : List Byte
  calls   : Nat
  mwrs    : Nat
deriving DecidableEq, Repr

/-- A partial image that has passed its checks and is staged (R353). -/
structure Staged where
  header  : List Byte
  digest  : BitVec 512
  stream  : List Byte
  /-- The array part and the paddock part still to be committed. -/
  arr     : Bool
  pdk     : Bool
deriving DecidableEq, Repr

/-- Loader. -/
structure Ldr where
  /-- The loaded full image's header and counts; 13_boot_loading.md R338, R353; reset none. -/
  image   : Option Image := none
  /-- A staged partial image; 13_boot_loading.md R353; reset none. -/
  staged  : Option Staged := none
  /-- A command is in progress, LDR_STATUS.BUSY; 1 bit; 13_boot_loading.md R346; reset 0. -/
  busy    : Bool := false
  /-- Phase, LDR_STATUS.PHASE; 3 bits; 13_boot_loading.md; reset 0. -/
  phase   : BitVec 3 := 0
  /-- This chip has released DONE; 1 bit; 13_boot_loading.md R351; reset 0. -/
  doneOut : Bool := false
  /-- Level of the DONE ball; 1 bit; 13_boot_loading.md R351; reset 0. -/
  doneIn  : Bool := false
  /-- Load chain; 512 bits; 13_boot_loading.md R357; reset DESIGN CHOICE 0 (log 8). -/
  chain   : BitVec 512 := 0
  /-- Explicit link placement LMAP, by virtual link: physical link plus 1; 13_boot_loading.md R348; reset none. -/
  lmap    : Option (SMap Nat) := none
  /-- CALL and CHECK, and model MWR, instructions per virtual barn of the loaded image (keys barn); 13_boot_loading.md R353; reset empty. -/
  counts  : SMap (Nat × Nat) := []
deriving DecidableEq, Repr

/-- One-time-programmable memory (R335). -/
structure Otp where
  /-- Enabled-barn map; 96 bits; 13_boot_loading.md R335, R2; reset DESIGN CHOICE all ones, a -12F part (log 12). -/
  barns    : BitVec 96 := BitVec.allOnes 96
  /-- Grade code; 8 bits; 13_boot_loading.md R335; reset DESIGN CHOICE 0x01, -12F (log 12). -/
  grade    : Byte := 0x01
  /-- Stepping: 0xA1 or 0xB0; 8 bits; 18_host_registers.md VERSION; reset DESIGN CHOICE 0xB0 (log 12). -/
  stepping : Byte := 0xB0
  /-- Serial number; 64 bits; 13_boot_loading.md R335; reset DESIGN CHOICE 0 (log 12). -/
  serial   : W64 := 0
  /-- Identity seed; 256 bits; 13_boot_loading.md R335, R336; reset DESIGN CHOICE 0 (log 12). -/
  seed     : BitVec 256 := 0
  /-- Identity certificate signature; 512 bits; 13_boot_loading.md R335; reset DESIGN CHOICE 0 (log 12). -/
  cert     : BitVec 512 := 0
  /-- Firmware key-hash slot 0; 512 bits; 13_boot_loading.md R335; reset DESIGN CHOICE 0 (log 12). -/
  fwKey0   : BitVec 512 := 0
  /-- Firmware key-hash slot 1; 512 bits; 13_boot_loading.md R335; reset DESIGN CHOICE 0 (log 12). -/
  fwKey1   : BitVec 512 := 0
  /-- Firmware revocation bits; 2 bits; 13_boot_loading.md R335; reset DESIGN CHOICE 0 (log 12). -/
  fwRev    : BitVec 2 := 0
  /-- Firmware rollback counter; 64 bits; 13_boot_loading.md R335; reset DESIGN CHOICE 0 (log 12). -/
  rollback : W64 := 0
  /-- Design key-hash slot 0; 512 bits; 13_boot_loading.md R335; reset DESIGN CHOICE 0 (log 12). -/
  dsKey0   : BitVec 512 := 0
  /-- Design key-hash slot 1; 512 bits; 13_boot_loading.md R335; reset DESIGN CHOICE 0 (log 12). -/
  dsKey1   : BitVec 512 := 0
  /-- Design revocation bits; 2 bits; 13_boot_loading.md R335; reset DESIGN CHOICE 0 (log 12). -/
  dsRev    : BitVec 2 := 0
  /-- Customer image root key; 256 bits; 13_boot_loading.md R335, R336; reset DESIGN CHOICE 0 (log 12). -/
  rootKey  : BitVec 256 := 0
  /-- Debug key-hash slots 0 to 3, hash and 2-bit level (528 bits each); 13_boot_loading.md R335; reset DESIGN CHOICE 0 (log 12). -/
  dbgKey0  : BitVec 528 := 0
  /-- Debug key-hash slot 1; 528 bits; 13_boot_loading.md R335; reset DESIGN CHOICE 0 (log 12). -/
  dbgKey1  : BitVec 528 := 0
  /-- Debug key-hash slot 2; 528 bits; 13_boot_loading.md R335; reset DESIGN CHOICE 0 (log 12). -/
  dbgKey2  : BitVec 528 := 0
  /-- Debug key-hash slot 3; 528 bits; 13_boot_loading.md R335; reset DESIGN CHOICE 0 (log 12). -/
  dbgKey3  : BitVec 528 := 0
  /-- Security configuration; 8 bits; 13_boot_loading.md R335; reset DESIGN CHOICE 0 (log 12). -/
  config   : Byte := 0
  /-- Lock bits; 16 bits; 13_boot_loading.md R335; reset DESIGN CHOICE 0 (log 12). -/
  locks    : BitVec 16 := 0
  /-- Every OTP field passes its parity check; 1 bit; 13_boot_loading.md R332; reset DESIGN CHOICE 1 (log 12). -/
  parityOk : Bool := true
deriving DecidableEq, Repr

/-- Security block and boot ROM. -/
structure Sec where
  /-- One-time-programmable memory; the fields of the table OTP contents; 13_boot_loading.md R335; reset DESIGN CHOICE, field by field (log 12). -/
  otp      : Otp := {}
  /-- The boot ROM waits for RETRY; 1 bit; 13_boot_loading.md R334; reset 0. -/
  waiting  : Bool := false
  /-- Firmware runs; 1 bit; 13_boot_loading.md R332; reset 0. -/
  booted   : Bool := false
  /-- Boot has stopped at an OTP parity failure; 1 bit; 13_boot_loading.md R332; reset 0. -/
  stopped  : Bool := false
  /-- Firmware measurement: SHA-512 of the running firmware's header; 512 bits; 13_boot_loading.md R332, R359; reset DESIGN CHOICE 0 (log 12). -/
  measure  : BitVec 512 := 0
deriving DecidableEq, Repr

/-- A pulse on an output ball, in sampling periods or generator time: start and end in picoseconds. -/
structure Pulse where
  line  : Nat
  start : Nat
  stop  : Nat
deriving DecidableEq, Repr

/-- A running acquisition stream (R378, R379). -/
structure Stream where
  /-- First tick of the window being collected. -/
  win   : Nat
  started : Bool
  /-- Ticks collected in the window: number, lane values and changed lanes, oldest first. -/
  ticks : List (Nat × BitVec 4096 × BitVec 4096)
  /-- The window holds a TRIGGER tick. -/
  trig  : Bool
deriving DecidableEq, Repr

/-- A transition of a TRIG_IN pin as the sampling clock sees it (R367). -/
structure PinTr where
  pin    : Nat
  rising : Bool
  /-- Elapsed picoseconds of the sampling edge, and time of clock instance 0 there in units of 2^-32 ns. -/
  edge   : Nat
  time   : Nat
  /-- The transition qualifies (R367, R368); none until its interval, or a SEQ_RESET, judges it. -/
  qual   : Option Bool := none
deriving DecidableEq, Repr

/-- Trigger engine and acquisition (R360 to R383). -/
structure Trg where
  /-- Sequencer state; 4 bits; 14_trigger_acquisition.md TRG_STATUS.STATE; reset 0. -/
  state    : BitVec 4 := 0
  /-- Counters 0 to 3 (keys counter); 48 bits; 14_trigger_acquisition.md R373; reset 0. -/
  cnt      : SMap Nat := []
  /-- Fraction of a nanosecond that a time counter has counted besides (keys counter), in 2^-32 ns; 14_trigger_acquisition.md R373; reset 0. -/
  frac     : SMap Nat := []
  /-- Terminal bits of the previous evaluation; 4 bits; 14_trigger_acquisition.md R373; reset 0. -/
  term     : BitVec 4 := 0
  /-- Hold-off window open: its first tick, and the events seen in it; 14_trigger_acquisition.md R375; reset none. -/
  holdoff  : Option (Nat × Nat) := none
  /-- Levels of the TRIG_IN pins; 8 bits; 14_trigger_acquisition.md R367; reset DESIGN CHOICE 0 (log 10). -/
  level    : BitVec 8 := 0
  /-- Sampled levels of the pins at the start of the interval; 8 bits; 14_trigger_acquisition.md R364; reset DESIGN CHOICE 0 (log 10). -/
  level0   : BitVec 8 := 0
  /-- Transitions of the pins sampled since the last evaluation, earliest sampling edge first; 14_trigger_acquisition.md R367; reset empty. -/
  trans    : List PinTr := []
  /-- Falling edges of the XTRG lines, delayed by RXDLY: line and elapsed picoseconds; 14_trigger_acquisition.md R370; reset empty. -/
  xedges   : List (Nat × Nat) := []
  /-- Time of clock instance 0 at the start of the interval, in units of 2^-32 ns; 14_trigger_acquisition.md R362, R373; reset 0. -/
  start    : Nat := 0
  /-- Time of clock instance 0 at the last SEQ_RESET within the interval, in units of 2^-32 ns; 14_trigger_acquisition.md R375; reset none. -/
  cleared  : Option Nat := none
  /-- Comparator, counter, sequencer, pin and hold-off registers as they took effect at the last evaluation (keys register); 32 bits each; 14_trigger_acquisition.md R383; reset as the registers. -/
  eff      : SMap W32 := []
  /-- Pulses on TRIG_OUT0 to 3; 14_trigger_acquisition.md R369; reset none. -/
  tout     : List Pulse := []
  /-- Pulses on XTRG0 to 3 driven by this chip; 14_trigger_acquisition.md R370; reset none. -/
  xtrg     : List Pulse := []
  /-- Calibration in progress on a pin; 14_trigger_acquisition.md R368; reset none. -/
  cal      : Option Nat := none
  /-- A start is requested at the next evaluation; 1 bit; 14_trigger_acquisition.md R378; reset 0. -/
  startReq : Bool := false
  /-- A stop is requested at the next evaluation; 1 bit; 14_trigger_acquisition.md R378; reset 0. -/
  stopReq  : Bool := false
  /-- Stop tick; 64 bits; 14_trigger_acquisition.md R378; reset none. -/
  stopTick : Option Nat := none
  /-- Running acquisition streams 0 to 7 (keys stream); 14_trigger_acquisition.md R378; reset none running. -/
  streams  : SMap Stream := []
  /-- Tick of the last TRIGGER, TRG_TRIG_TICK; 64 bits; 14_trigger_acquisition.md TRG_TRIG_TICK_LO; reset 0. -/
  trigTick : W64 := 0
  /-- Acquisition has stopped, TRG_STATUS.ACQ_DONE; 1 bit; 14_trigger_acquisition.md R378; reset 0. -/
  acqDone  : Bool := false
  /-- On-chip acquisition buffer: records, oldest first; 16 MiB; 14_trigger_acquisition.md R381; reset empty. -/
  buf      : List (List Byte) := []
  /-- Records dropped since the last of a kind and stream (keys kind × 8 + stream); 14_trigger_acquisition.md R380; reset none. -/
  gaps     : SMap Bool := []
deriving DecidableEq, Repr

/-- What an accepted request changes in a clock instance (R393, R395, R396): the time set, the nanoseconds stepped, the
slew amount, the increment loaded. -/
inductive PtpEv where
  | set (sec : BitVec 48) (ns : BitVec 30) | step (ns : Int) | slew (ns : Int) | incr (v : BitVec 40)
deriving DecidableEq, Repr

/-- An accepted request that waits for its 4 ns period, with the period in which it arrived (R395). -/
structure PtpReq where
  ev  : PtpEv
  arr : Nat
deriving DecidableEq, Repr

/-- A clock instance (R387 to R398). -/
structure Inst where
  sec   : BitVec 48 := 0
  ns    : BitVec 30 := 0
  frac  : BitVec 32 := 0
  /-- INCR, 8.32 fixed point. -/
  incr  : BitVec 40 := 0x0400000000
  unset : Bool := true
  hold  : Bool := false
  lost  : Bool := false
  cause : BitVec 3 := 0
  /-- Slew remainder in units of 2^-32 ns, signed. -/
  slew  : Int := 0
  slewing : Bool := false
  /-- Accepted requests, each to take effect in a 4 ns period of its own, first first (R395). -/
  pend  : List PtpReq := []
  /-- Picoseconds at the last restart of the servo watchdog. -/
  wdog  : Nat := 0
  /-- Last 1PPS_IN stamp: SEC, NS, 16-bit fraction. -/
  pps   : BitVec 94 := 0
  /-- Periods of 4 ns since the last SET or STEP took effect (R395). -/
  since : Nat := 0
  /-- Time at which a SET (true) or a step backward has landed since the last second boundary of 1PPS_OUT (R407). -/
  mark  : Option (Bool × Nat) := none
deriving DecidableEq, Repr

/-- A boundary stamp: seconds, nanoseconds, 16-bit fraction (R399). -/
structure Stamp where
  sec  : BitVec 48
  ns   : BitVec 30
  frac : BitVec 16
deriving DecidableEq, Repr

/-- A frame in a receive buffer or a forwarding queue. -/
structure RxFrame where
  bytes : List Byte
  stamp : Stamp
  isPtp : Bool
  event : Bool
  copy  : Bool
deriving DecidableEq, Repr

/-- A frame in a transmit slot. -/
structure TxFrame where
  bytes  : List Byte
  insert : Bool
  seq    : Byte
deriving DecidableEq, Repr

/-- A completion of the transmit queue. -/
structure TxDone where
  stamp    : Stamp
  seq      : Byte
  inserted : Bool
deriving DecidableEq, Repr

/-- A 25GBASE-R port (R384 to R406). -/
structure Port where
  rx     : List RxFrame := []
  tx     : List TxFrame := []
  done   : List TxDone := []
  /-- Frames of the other port to be forwarded on this one. -/
  fwd    : List RxFrame := []
  seq    : Byte := 0
  /-- Transmit staging window. -/
  win    : SMap Byte := []
  /-- The last frame sent, with its FCS. -/
  sent   : List Byte := []
deriving DecidableEq, Repr

/-- Time synchronisation (R384 to R409). -/
structure Ptp where
  /-- Clock instance 0: SEC 48, NS 30, FRAC 32, INCR 40 bits, slew, holdover, watchdog; 15_time_sync.md R387 to R398; reset 0 s, INCR 0x04_0000_0000, UNSET. -/
  i0 : Inst := {}
  /-- Clock instance 1; as instance 0; 15_time_sync.md R387; reset as instance 0. -/
  i1 : Inst := {}
  /-- Clock instance 2; as instance 0; 15_time_sync.md R387; reset as instance 0. -/
  i2 : Inst := {}
  /-- Clock instance 3; as instance 0; 15_time_sync.md R387; reset as instance 0. -/
  i3 : Inst := {}
  /-- Ethernet port 0: receive, transmit, completion and forwarding queues; 15_time_sync.md R404, R406; reset empty. -/
  p0 : Port := {}
  /-- Ethernet port 1; as port 0; 15_time_sync.md R404, R406; reset empty. -/
  p1 : Port := {}
  /-- Last pulse on 1PPS_OUT; 15_time_sync.md R407; reset none. -/
  ppsOut : Option Pulse := none
  /-- Second boundary plus offset that the timing instance has passed, by which the next pulse is told; 15_time_sync.md R407; reset DESIGN CHOICE 0 (log 10). -/
  ppsSec : Int := 0
deriving DecidableEq, Repr

/-- A force entry (R430). -/
structure Force where
  en  : Bool
  val : Bool
  key : Nat
deriving DecidableEq, Repr

/-- A debug path's session (R413 to R417). -/
structure Session where
  level   : Nat := 0
  nonce   : BitVec 256 := 0
  nonceOk : Bool := false
  nonceAt : Nat := 0
  lockout : Bool := false
  lockAt  : Nat := 0
  result  : BitVec 4 := 0
  /-- Status, data and offset of the last DBGACC access (R412). -/
  accSt   : BitVec 2 := 0
  accData : W32 := 0
  accOff  : W32 := 0
  /-- An array read waits for its capture (R428); its result. -/
  aqBusy  : Bool := false
  aqStatus : BitVec 2 := 0
  aqSpec  : Bool := false
  aqData  : W32 := 0
  aqTick  : W64 := 0
  /-- A bus-master access waits for its response; its last status (R420). -/
  bmBusy  : Bool := false
  /-- MASK of the access in progress. -/
  bmMask  : Byte := 0
  bmStatus : BitVec 4 := 0
  /-- Peek position in CLAMP_REPORT, by page (R482). -/
  peekPos : SMap Nat := []
deriving DecidableEq, Repr

/-- Debug. -/
structure Dbg where
  /-- Session of the TAP path: level, nonce, lockout, DBGACC, array read, bus master; 16_debug_trace.md R412 to R417; reset level NONE. -/
  tap    : Session := {}
  /-- Session of the debug BAR path; as the TAP path; 16_debug_trace.md R413; reset level NONE. -/
  bar    : Session := {}
  /-- Force entries 0 to 63 (keys entry); 16_debug_trace.md R430; reset disabled. -/
  force  : SMap Force := []
  /-- Debug copies of the high halves latched by peek reads (keys register); 32 bits each; 16_debug_trace.md R418; reset DESIGN CHOICE 0 (log 8). -/
  peek   : SMap W32 := []
  /-- CLAMP_REPORT records and read buffers of the pages (keys page, and page + 2^14 for the buffer): three words and the words still to read; 18_host_registers.md R482; reset empty. -/
  clamp  : SMap (List W32 × Nat) := []
  /-- Peek position of the telemetry alias (keys page); 18_host_registers.md R482; reset 0. -/
  aliasPos : SMap Nat := []
  /-- TAP instruction register; 8 bits; 16_debug_trace.md R411; reset PRESUMED 0x01 IDCODE, as IEEE 1149.1 (log 32). -/
  ir     : Byte := 0x01
  /-- Boundary-scan cells of the 1.8 V signal balls; 16_debug_trace.md R411; reset DESIGN CHOICE empty (log 10). -/
  cells  : List Bool := []
  /-- Bits that the data register selected by the instruction captured, bit 0 first: IDCODE, BYPASS or the boundary-scan chain; 16_debug_trace.md R411; reset DESIGN CHOICE empty (log 10). -/
  scan   : List Bool := []
  /-- The boundary-scan cells drive the balls (EXTEST); 1 bit; 16_debug_trace.md R411; reset 0. -/
  extest : Bool := false
deriving DecidableEq, Repr

/-- A domain's close in progress: its target state. -/
structure Closing where
  target : Nat
  /-- Part of a Stabled entry. -/
  stab   : Bool
deriving DecidableEq, Repr

/-- Power controller and tack room (R440 to R462). -/
structure Pwr where
  /-- Domain states 0 to 31 (keys domain): 0 ON, 1 IDLE, 2 RETAIN, 3 OFF; 2 bits each; 17_power.md R445; reset ON. -/
  dom     : SMap Nat := []
  /-- Domains CLOSING and their targets; 17_power.md R447; reset none. -/
  closing : SMap Closing := []
  /-- Domains WAKING; 32 bits; 17_power.md R445; reset 0. -/
  waking  : BitVec 32 := 0
  /-- Domains whose wake a PWR_DOM_CTRL request waits for; 32 bits; 17_power.md R446; reset 0. -/
  asked   : BitVec 32 := 0
  /-- Domain states before a Stabled entry; 17_power.md R454; reset empty. -/
  before  : SMap Nat := []
  /-- Stabled entry in progress; 1 bit; 17_power.md R453; reset 0. -/
  stabling : Bool := false
  /-- The device is in Stabled; 1 bit; 17_power.md R453; reset 0. -/
  stabled : Bool := false
  /-- Tack room register entries (keys register); 760 entries; 17_power.md R458; reset empty. -/
  tack    : SMap W32 := []
  /-- Tack room entries whose check byte fails; 17_power.md R461; reset none. -/
  tackBad : SMap Bool := []
  /-- Always-on domain runs from VAON_BAK; 1 bit; 17_power.md R441; reset 0. -/
  onBak   : Bool := false
  /-- A step-clock change is in progress; 1 bit; 17_power.md R457; reset 0. -/
  relock  : Bool := false
  /-- Mode and MAXCLK requested by the change in progress; 17_power.md R457; reset 0. -/
  reqMode : BitVec 3 := 0
  /-- THERM_ALERT_N driven low; 1 bit; 19_electrical_package.md R490; reset 0. -/
  therm   : Bool := false
deriving DecidableEq, Repr

/-- A descriptor in progress on a DMA channel (R477). -/
structure DmaRun where
  /-- Its index in the ring. -/
  idx    : Nat
  /-- Rails status of the first failing access, or of a descriptor with a reserved value; otherwise 0. -/
  status : Nat
  irq    : Bool
  /-- An access has failed, so that the channel stops (R478). -/
  failed : Bool
deriving DecidableEq, Repr

/-- Host interface. -/
structure Hst where
  /-- Link in L0; 1 bit; 18_host_registers.md HST_LINK.UP; reset 0. -/
  up      : Bool := false
  /-- The link has been up before; 1 bit; 18_host_registers.md INT_STATUS.LINK_UP; reset 0. -/
  wasUp   : Bool := false
  /-- Link-down events since cold start; 16 bits; 18_host_registers.md HST_LINK.DOWNS; reset 0. -/
  downs   : BitVec 16 := 0
  /-- Negotiated speed and width; 3 and 6 bits; 18_host_registers.md HST_LINK; reset 0. -/
  speed   : BitVec 3 := 0
  /-- Negotiated width; 6 bits; 18_host_registers.md HST_LINK; reset 0. -/
  width   : BitVec 6 := 0
  /-- MSI-X table: words of 32 bits at 0x800 to 0xBFF (keys offset); 18_host_registers.md R480; reset 0 as R463 clears it, mask bits included (log 13). -/
  msix    : SMap W32 := []
  /-- MSI-X pending bits; 64 bits; 18_host_registers.md R475; reset 0. -/
  pba     : BitVec 64 := 0
  /-- MSI-X messages sent, newest first: vector numbers; 18_host_registers.md R475; reset empty. -/
  sent    : List Nat := []
  /-- Descriptors in progress, by DMA channel, oldest first; 18_host_registers.md R477; reset empty. -/
  dma     : SMap (List DmaRun) := []
  /-- Bytes the device wrote to host memory (keys host address), newest values; 18_host_registers.md R477; reset empty. -/
  hostOut : SMap Byte := []
  /-- Value the last read returned to its requester; 32 bits; 00_scope.md R9; reset DESIGN CHOICE 0 (log 8). -/
  out     : W32 := 0
  /-- Bytes a BAR2 read returned; 18_host_registers.md R472; reset empty. -/
  outB    : List Byte := []
deriving DecidableEq, Repr

/-- A DRAM record of the checkpoint service, with the items of R306 as structured data. -/
structure Ckpt where
  count  : W64
  ringPrev : SMap Bool
  stCur  : SMap Bool
  sheds  : List Host.Cell
  dram   : List Host.Cell
  sample : BitVec 1024
  out    : BitVec 1024
  lanes  : BitVec 4096
  recv   : SMap Bool
  /-- Where the record lies in DRAM and the bytes that it takes there (log 11). -/
  place  : Nat
  bytes  : List Byte
deriving DecidableEq, Repr

/-- One Aksil chip and the queue of commands waiting for it. -/
structure State where
  /-- Commands waiting, first in first out; the model's queue (log 1); reset empty. -/
  pending : List Instr := []
  /-- Registers of the BAR0 map that are not derived (keys BAR0 offset + 2^26 × index of the entry a selector shows, or of the debug path); 32 bits each; 18_host_registers.md R479, R480; reset as each register table gives (lines below). -/
  regs    : SMap W32 := []
  clk     : Clock := {}
  tck     : Tck := {}
  arr     : Arr := {}
  exe     : Exe := {}
  pen     : Pen := {}
  integ   : Integ := {}
  shed    : Shed := {}
  dmc     : Dmc := {}
  lnk     : Lnk := {}
  rls     : Rls := {}
  yms     : Yms := {}
  grm     : Grm := {}
  pdk     : Pdk := {}
  ldr     : Ldr := {}
  sec     : Sec := {}
  trg     : Trg := {}
  ptp     : Ptp := {}
  dbg     : Dbg := {}
  pwr     : Pwr := {}
  hst     : Hst := {}
  /-- DRAM record of the checkpoint service, with the items of R306, as structured data (log 11); 11_yardmaster_grooms.md R306; reset none. -/
  ckpt    : Option Ckpt := none
deriving DecidableEq, Repr

/-- The chip right after a cold start: every register at the reset value of its table, every store empty, the run
state EMPTY, every domain ON, no command waiting. -/
def State.reset : State := {}

end Sys2Proof.Machine
end

