-- ==== Sys2Proof/Config.lean ====
section
/-!
DEFINITION. What the spec leaves open: constants without a body, so that nothing can evaluate them and no proof can
rest on a value. Each is named in a log entry.
-/

namespace Sys2Proof

/-- A word the spec leaves open, fresh for each value of the counter `Clock.free` (log 4). -/
opaque Config.freeWord : Nat → W64

/-- The 12-bit `charged units` field of a POWER_BUDGET record whose sum does not fit it (log 15). -/
opaque Config.chargeField : Nat → BitVec 12

/-- The CRC-32 of a line of 128 instruction words that the loader keeps in the golden image; the spec names no
polynomial or bit order for it (log 17). -/
opaque Config.lineCrc : List W64 → W32

/-- Byte offset within its barn's golden slot at which the loader lays out a word or table entry: of a table (0 the
instruction stores, 1 to 5 the per-barn tables) and a key (log 111). -/
opaque Config.goldenPlace : Nat → Nat → Nat

/-- The event-log record of a hop that fails its credit audit; the spec gives it no code or layout (log 23). -/
opaque Config.hopRec : Nat → W128

/-- The architectural state in which a running groom halts: the instructions it has executed are no commands of the
block (log 11). -/
opaque Config.haltCore : Nat → Machine.Core

/-- The architectural state after a groom executes one instruction from a state, or takes an interrupt if one may be
taken (log 11). -/
opaque Config.stepCore : Machine.Core → Bool → Nat → Machine.Core

/-- What that instruction is to the trace unit (log 11). -/
opaque Config.stepFlow : Machine.Core → Bool → Nat → Machine.Retired

/-- Levels that the target system gives the 320 TIO balls at an elapsed time in picoseconds (log 25). -/
opaque Config.tioLevels : Nat → BitVec 320

/-- The level of a wire of a combinational loop of the paddock's fabric, which the spec leaves open (R316, log 25). -/
opaque Config.loopLevel : Nat → Bool

/-- Where the checkpoint service puts a record in DRAM, and the bytes of the record, in a layout the spec does not give
(log 11). -/
opaque Config.ckptPlace : Nat → Nat
opaque Config.ckptBytes : Machine.Ckpt → Nat → List Byte

/-- SHA-512 of bytes; the 64 bytes of the digest, the first least significant. The spec names the standard hash and
does not describe it (log 26). -/
opaque Config.sha512 : List Byte → BitVec 512

/-- Ed25519 verification of a signature over a 64-byte message under a public key, RFC 8032 (log 26). -/
opaque Config.verify : BitVec 256 → BitVec 512 → BitVec 512 → Bool

/-- Ed25519 signature of a 64-byte message under a private key, RFC 8032 (log 26). -/
opaque Config.sign : BitVec 256 → BitVec 512 → BitVec 512

/-- Ed25519 public key of a private key, RFC 8032 (log 26). -/
opaque Config.publicKey : BitVec 256 → BitVec 256

/-- AES-256-GCM decryption: key, IV, additional authenticated data, ciphertext, tag; nothing when the tag fails
(log 26). -/
opaque Config.gcmOpen : BitVec 256 → BitVec 96 → List Byte → List Byte → BitVec 128 → Option (List Byte)

/-- HMAC-SHA-512 of bytes under a 32-byte key (log 26). -/
opaque Config.hmacSha512 : BitVec 256 → List Byte → BitVec 512

/-- Array storage after a load that failed in its write pass: "the array contents are undefined" (R132, R347, log 5). -/
opaque Config.looseArr : Nat → Machine.Arr

/-- The field and the bits that an OTP_PROG request at SEC_BUF names; nothing for a bad request. The spec gives no layout
of the request (log 30). -/
opaque Config.otpRequest : List Byte → Option (Nat × BitVec 528)

/-- Bytes 0x118 to 0x11F of the attestation report: security configuration, firmware and design revocation bits, and
lock bits, in a layout the spec does not give (log 30). -/
opaque Config.attestWord : Byte → BitVec 2 → BitVec 2 → BitVec 16 → W64

end Sys2Proof
end

