-- ==== Sys2Proof/Machine/RegTable.lean ====
section
/-!
DEFINITION. The register tables of BAR0: for each block, its registers with their fields, access types, reset values
and range checks, as the register tables of the chapters give them (R9, R10, R480, R481), and the pages (R479).
-/

namespace Sys2Proof.Machine

/-- Access types (R9). `rwOff`: RW, and written only while bit 31 (EN) of the register is 0 (HST_DMA_CTRL, TRC_CTRL). -/
inductive Acc where
  | rw | ro | wo | w1c | rc | rwOff
deriving DecidableEq, Repr

/-- The range check of a field and the clamp its register table gives (R481). -/
inductive Chk where
  /-- No stated range. -/
  | none
  /-- Values above the bound are clamped to it. -/
  | max (n : Nat)
  /-- Values below the bound are clamped to it. -/
  | min (n : Nat)
  | range (lo hi : Nat)
  /-- The low bits of the field are clamped to 0. -/
  | align (k : Nat)
  /-- A value below the field [hi:lo] of the same register is clamped to it. -/
  | above (hi lo : Nat)
  /-- DBG_AQ_ADDR.WORD, by the KIND of the same write: 31, 7 or 2,047. -/
  | aqWord
  /-- TRG_STR_WIN.W: 0 is clamped to 1, and any value to 1 for a RAW stream. -/
  | win
  /-- TRG_ACQ_RPTR: beyond the region is clamped to its last unit. -/
  | rptr
  /-- HST_DMA_TAIL: above 2^LOG2 − 1 is clamped. -/
  | tail
  /-- DBG_CMP_SEL: above 5 is clamped to 5, except on groom 0. -/
  | cmpSel
deriving DecidableEq, Repr

/-- A field of a register. -/
structure Field where
  hi    : Nat
  lo    : Nat
  acc   : Acc
  reset : Nat
  chk   : Chk
deriving DecidableEq, Repr

/-- A register: its offset in the page, the offset of the selector that chooses the entry it shows (0: none), and its
fields in the order in which R481 checks them. -/
structure Reg where
  off    : Nat
  sel    : Nat
  fields : List Field
deriving DecidableEq, Repr

/-- The block types of the table Page map (R479). -/
inductive Blk where
  | hst | sec | ldr | tck | pwr | yms | pdk | trg | trc | dbg | dmc | lnkTree | dmcCh | ptp | ptpPort | grm | dbgGroom
  | ary | scb | lnk | rls | shd
deriving DecidableEq, Repr

/-- Block code of R479. -/
def Blk.code : Blk → Nat
  | .hst => 0x01 | .sec => 0x02 | .ldr => 0x03 | .tck => 0x04 | .pwr => 0x05 | .yms => 0x06 | .pdk => 0x07
  | .trg => 0x08 | .trc => 0x09 | .dbg => 0x0A | .dmc => 0x0B | .dmcCh => 0x0C | .lnkTree => 0x0D | .ptp => 0x0E
  | .ptpPort => 0x0F | .grm => 0x10 | .dbgGroom => 0x11 | .ary => 0x12 | .scb => 0x13 | .lnk => 0x14 | .rls => 0x15
  | .shd => 0x16

/-- First page and number of pages of a block type (R479). -/
def Blk.pages : Blk → Nat × Nat
  | .hst => (0x000, 1) | .sec => (0x001, 1) | .ldr => (0x002, 1) | .tck => (0x003, 1) | .pwr => (0x004, 1)
  | .yms => (0x005, 1) | .pdk => (0x006, 1) | .trg => (0x007, 1) | .trc => (0x008, 1) | .dbg => (0x009, 1)
  | .dmc => (0x00A, 1) | .lnkTree => (0x00B, 1) | .dmcCh => (0x00C, 4) | .ptp => (0x010, 4) | .ptpPort => (0x014, 2)
  | .grm => (0x020, 16) | .dbgGroom => (0x030, 16) | .ary => (0x040, 4) | .scb => (0x044, 4) | .lnk => (0x050, 24)
  | .rls => (0x080, 48) | .shd => (0x100, 96)

/-- Every block type, in the order of the codes. -/
def Blk.all : List Blk :=
  [.hst, .sec, .ldr, .tck, .pwr, .yms, .pdk, .trg, .trc, .dbg, .dmc, .dmcCh, .lnkTree, .ptp, .ptpPort, .grm, .dbgGroom,
   .ary, .scb, .lnk, .rls, .shd]

/-- The block type and instance of a page index; none: the offset lies in no register page (R479). -/
def pageOf (page : Nat) : Option (Blk × Nat) :=
  (Blk.all.find? fun b => b.pages.1 ≤ page && page < b.pages.1 + b.pages.2).map fun b => (b, page - b.pages.1)

/-- The writable registers of the common layout (R480). -/
def regsCommon : List Reg :=
  [⟨0x010, 0, [⟨1, 1, .wo, 0, .none⟩, ⟨0, 0, .wo, 0, .none⟩]⟩,  -- CTRL
   ⟨0x018, 0, [⟨31, 0, .w1c, 0, .none⟩]⟩,  -- INT_STATUS
   ⟨0x01C, 0, [⟨31, 0, .rw, 0, .none⟩]⟩,  -- INT_ENABLE
   ⟨0x024, 0, [⟨15, 0, .ro, 0, .none⟩]⟩]  -- ERR_COUNT

/-- Registers of the hst page. -/
def regsHst : List Reg :=
  [⟨0x100, 0x000, [⟨31, 31, .ro, 0, .none⟩, ⟨30, 28, .ro, 0, .none⟩, ⟨27, 22, .ro, 0, .none⟩, ⟨15, 0, .ro, 0, .none⟩]⟩,  -- HST_LINK
   ⟨0x104, 0x000, [⟨31, 16, .ro, 38400, .none⟩, ⟨15, 0, .ro, 7836, .none⟩]⟩,  -- HST_PCI_ID
   ⟨0x108, 0x000, [⟨31, 28, .ro, 0, .none⟩, ⟨27, 26, .ro, 0, .none⟩, ⟨25, 0, .ro, 0, .none⟩]⟩,  -- HST_ERR
   ⟨0x10C, 0x000, [⟨31, 31, .rw, 0, .none⟩, ⟨9, 0, .rw, 0, .none⟩, ⟨25, 16, .rw, 0, .above 9 0⟩]⟩,  -- HST_SCR_WIN
   ⟨0x110, 0x000, [⟨4, 0, .rw, 1, .range 1 22⟩]⟩,  -- HST_VEC_SEL
   ⟨0x118, 0x000, [⟨4, 0, .rw, 1, .range 1 22⟩]⟩,  -- HST_PEND_SEL
   ⟨0x114, 0x110, [⟨31, 31, .rw, 0, .none⟩, ⟨5, 0, .rw, 0, .none⟩]⟩,  -- HST_VEC_MAP
   ⟨0x11C, 0x118, [⟨31, 0, .ro, 0, .none⟩]⟩,  -- HST_PEND0
   ⟨0x120, 0x118, [⟨31, 0, .ro, 0, .none⟩]⟩,  -- HST_PEND1
   ⟨0x124, 0x118, [⟨31, 0, .ro, 0, .none⟩]⟩,  -- HST_PEND2
   ⟨0x128, 0x000, [⟨2, 0, .rw, 0, .none⟩]⟩,  -- HST_DMA_SEL
   ⟨0x12C, 0x128, [⟨31, 31, .rw, 0, .none⟩, ⟨7, 4, .rwOff, 4, .range 4 16⟩, ⟨1, 0, .rwOff, 0, .max 2⟩]⟩,  -- HST_DMA_CTRL
   ⟨0x130, 0x128, [⟨31, 0, .rw, 0, .align 5⟩]⟩,  -- HST_DMA_RING_LO
   ⟨0x134, 0x128, [⟨31, 0, .rw, 0, .none⟩]⟩,  -- HST_DMA_RING_HI
   ⟨0x13C, 0x128, [⟨15, 0, .rw, 0, .tail⟩]⟩,  -- HST_DMA_TAIL
   ⟨0x140, 0x128, [⟨31, 31, .ro, 0, .none⟩, ⟨30, 30, .ro, 0, .none⟩, ⟨27, 24, .ro, 0, .none⟩, ⟨15, 0, .ro, 0, .none⟩]⟩]  -- HST_DMA_HEAD

/-- Registers of the sec page. -/
def regsSec : List Reg :=
  [⟨0x100, 0x000, [⟨31, 31, .wo, 0, .none⟩, ⟨27, 26, .ro, 0, .none⟩, ⟨7, 0, .ro, 0, .none⟩]⟩,  -- SEC_BOOT
   ⟨0x104, 0x000, [⟨3, 0, .wo, 0, .none⟩]⟩,  -- SEC_CMD
   ⟨0x108, 0x000, [⟨31, 0, .rw, 0, .align 6⟩]⟩,  -- SEC_BUF_LO
   ⟨0x10C, 0x000, [⟨31, 0, .rw, 0, .none⟩]⟩,  -- SEC_BUF_HI
   ⟨0x110, 0x000, [⟨31, 31, .ro, 0, .none⟩, ⟨3, 0, .ro, 0, .none⟩]⟩,  -- SEC_RESULT
   ⟨0x114, 0x000, [⟨31, 16, .ro, 0, .none⟩, ⟨15, 8, .ro, 0, .none⟩, ⟨7, 6, .ro, 0, .none⟩, ⟨5, 4, .ro, 0, .none⟩, ⟨3, 2, .ro, 0, .none⟩]⟩,  -- SEC_CFG
   ⟨0x118, 0x000, [⟨14, 8, .ro, 0, .none⟩, ⟨6, 0, .ro, 0, .none⟩]⟩]  -- SEC_ROLLBACK

/-- Registers of the ldr page. -/
def regsLdr : List Reg :=
  [⟨0x100, 0x000, [⟨0, 0, .rw, 0, .none⟩]⟩,  -- LDR_CTRL
   ⟨0x104, 0x000, [⟨5, 4, .wo, 0, .max 2⟩, ⟨3, 0, .wo, 0, .none⟩]⟩,  -- LDR_CMD
   ⟨0x108, 0x000, [⟨31, 0, .rw, 0, .none⟩]⟩,  -- LDR_SRC_LO
   ⟨0x10C, 0x000, [⟨31, 0, .rw, 0, .none⟩]⟩,  -- LDR_SRC_HI
   ⟨0x110, 0x000, [⟨31, 0, .rw, 0, .none⟩]⟩,  -- LDR_LEN
   ⟨0x114, 0x000, [⟨31, 0, .rw, 0, .none⟩]⟩,  -- LDR_PLACE_LO
   ⟨0x118, 0x000, [⟨31, 0, .rw, 0, .none⟩]⟩,  -- LDR_PLACE_HI
   ⟨0x11C, 0x000, [⟨31, 31, .ro, 0, .none⟩, ⟨30, 28, .ro, 0, .none⟩, ⟨27, 27, .ro, 0, .none⟩, ⟨26, 26, .ro, 0, .none⟩]⟩,  -- LDR_STATUS
   ⟨0x120, 0x000, [⟨31, 24, .ro, 0, .none⟩]⟩,  -- LDR_REPORT
   ⟨0x124, 0x000, [⟨31, 0, .ro, 0, .none⟩]⟩,  -- LDR_REPORT_ADDR
   ⟨0x128, 0x000, [⟨31, 0, .rw, 0, .none⟩]⟩,  -- LDR_EPOCH_S_LO
   ⟨0x12C, 0x000, [⟨15, 0, .rw, 0, .none⟩]⟩,  -- LDR_EPOCH_S_HI
   ⟨0x130, 0x000, [⟨31, 0, .rw, 0, .max 999999999⟩]⟩,  -- LDR_EPOCH_NS
   ⟨0x134, 0x000, [⟨31, 0, .ro, 0, .none⟩]⟩,  -- LDR_PATCHES
   ⟨0x138, 0x000, [⟨7, 0, .rw, 50, .range 1 133⟩]⟩]  -- LDR_QSPI

/-- Registers of the tck page. -/
def regsTck : List Reg :=
  [⟨0x100, 0x000, [⟨26, 16, .ro, 0, .none⟩, ⟨10, 0, .ro, 0, .none⟩]⟩,  -- TCK_DEPTH
   ⟨0x104, 0x000, [⟨1, 1, .ro, 0, .none⟩, ⟨0, 0, .ro, 0, .none⟩]⟩,  -- TCK_MODE
   ⟨0x108, 0x000, [⟨6, 6, .wo, 0, .none⟩, ⟨5, 5, .wo, 0, .none⟩, ⟨4, 4, .wo, 0, .none⟩, ⟨3, 3, .wo, 0, .none⟩, ⟨2, 2, .wo, 0, .none⟩, ⟨1, 1, .wo, 0, .none⟩, ⟨0, 0, .wo, 0, .none⟩]⟩,  -- TCK_CMD
   ⟨0x10C, 0x000, [⟨31, 0, .rw, 1, .min 1⟩]⟩,  -- TCK_RUN_COUNT
   ⟨0x110, 0x000, [⟨31, 0, .ro, 0, .none⟩]⟩,  -- TCK_COUNT_LO
   ⟨0x114, 0x000, [⟨31, 0, .ro, 0, .none⟩]⟩,  -- TCK_COUNT_HI
   ⟨0x118, 0x000, [⟨31, 29, .ro, 0, .none⟩, ⟨28, 28, .ro, 0, .none⟩, ⟨27, 27, .ro, 0, .none⟩, ⟨26, 26, .ro, 0, .none⟩, ⟨25, 25, .ro, 0, .none⟩, ⟨13, 10, .ro, 0, .none⟩, ⟨9, 0, .ro, 0, .none⟩]⟩,  -- TCK_STATE
   ⟨0x11C, 0x000, [⟨19, 0, .rw, 2000, .range 10 1000000⟩]⟩,  -- TCK_HOLD_WDOG
   ⟨0x120, 0x000, [⟨26, 16, .ro, 0, .none⟩, ⟨10, 0, .ro, 0, .none⟩]⟩,  -- TCK_CTREE
   ⟨0x124, 0x000, [⟨10, 0, .ro, 0, .none⟩]⟩,  -- TCK_CBUDGET
   ⟨0x128, 0x000, [⟨31, 0, .ro, 0, .none⟩]⟩,  -- TCK_HOLD_COUNT
   ⟨0x12C, 0x000, [⟨31, 0, .ro, 0, .none⟩]⟩,  -- TCK_HOLD_MAX
   ⟨0x130, 0x000, [⟨31, 16, .ro, 0, .none⟩, ⟨15, 0, .ro, 0, .none⟩]⟩,  -- TCK_PEN_PEAK
   ⟨0x140, 0x000, [⟨31, 0, .ro, 0, .none⟩]⟩,  -- TCK_FAULT_W0
   ⟨0x144, 0x000, [⟨31, 0, .ro, 0, .none⟩]⟩,  -- TCK_FAULT_W1
   ⟨0x148, 0x000, [⟨31, 28, .ro, 0, .none⟩, ⟨27, 0, .ro, 0, .none⟩]⟩,  -- TCK_FAULT_W2
   ⟨0x14C, 0x000, [⟨31, 24, .ro, 0, .none⟩, ⟨23, 17, .ro, 0, .none⟩, ⟨16, 12, .ro, 0, .none⟩, ⟨11, 6, .ro, 0, .none⟩, ⟨5, 0, .ro, 0, .none⟩]⟩,  -- TCK_FAULT_W3
   ⟨0x150, 0x000, [⟨31, 16, .ro, 0, .none⟩, ⟨15, 0, .ro, 0, .none⟩]⟩,  -- TCK_FAULT_COUNT
   ⟨0x160, 0x000, [⟨31, 31, .wo, 0, .none⟩, ⟨2, 0, .rw, 3, .min 1⟩]⟩,  -- TCK_REPLAY_CFG
   ⟨0x164, 0x000, [⟨31, 28, .ro, 0, .none⟩, ⟨27, 0, .ro, 0, .none⟩]⟩,  -- TCK_REPLAY_STAT
   ⟨0x168, 0x000, [⟨0, 0, .w1c, 0, .none⟩]⟩,  -- TCK_INTEG_STATUS
   ⟨0x16C, 0x000, [⟨31, 31, .ro, 0, .none⟩, ⟨12, 0, .ro, 0, .none⟩]⟩,  -- TCK_UNDO_BOUND
   ⟨0x170, 0x000, [⟨31, 0, .ro, 0, .none⟩]⟩,  -- TCK_RESTART_MAX
   ⟨0x174, 0x000, [⟨3, 0, .rw, 0, .max 9⟩]⟩,  -- TCK_ICNT_SEL
   ⟨0x178, 0x174, [⟨31, 0, .ro, 0, .none⟩]⟩,  -- TCK_ICNT
   ⟨0x17C, 0x000, [⟨10, 0, .ro, 0, .none⟩]⟩,  -- TCK_LOG_FILL
   ⟨0x180, 0x000, [⟨31, 0, .ro, 0, .none⟩]⟩,  -- TCK_LOG_OVWR
   ⟨0x184, 0x000, [⟨31, 0, .ro, 0, .none⟩]⟩,  -- TCK_LOG_W0
   ⟨0x188, 0x000, [⟨31, 0, .ro, 0, .none⟩]⟩,  -- TCK_LOG_W1
   ⟨0x18C, 0x000, [⟨31, 0, .ro, 0, .none⟩]⟩,  -- TCK_LOG_W2
   ⟨0x190, 0x000, [⟨31, 0, .rc, 0, .none⟩]⟩]  -- TCK_LOG_W3

/-- Registers of the pwr page. -/
def regsPwr : List Reg :=
  [⟨0x100, 0x000, [⟨31, 31, .ro, 0, .none⟩, ⟨7, 6, .ro, 0, .none⟩, ⟨5, 5, .ro, 0, .none⟩, ⟨4, 4, .rw, 0, .none⟩, ⟨1, 0, .rw, 0, .max 2⟩]⟩,  -- PWR_MODE
   ⟨0x104, 0x000, [⟨31, 30, .ro, 0, .none⟩, ⟨27, 24, .ro, 0, .none⟩, ⟨1, 0, .ro, 0, .none⟩]⟩,  -- PWR_MODE_RESULT
   ⟨0x108, 0x000, [⟨9, 8, .wo, 0, .none⟩, ⟨4, 0, .wo, 0, .none⟩]⟩,  -- PWR_DOM_CTRL
   ⟨0x10C, 0x000, [⟨31, 30, .ro, 0, .none⟩, ⟨27, 24, .ro, 0, .none⟩, ⟨12, 8, .ro, 0, .none⟩, ⟨1, 0, .ro, 0, .none⟩]⟩,  -- PWR_DOM_RESULT
   ⟨0x110, 0x000, [⟨31, 0, .ro, 0, .none⟩]⟩,  -- PWR_DOM_STATE0
   ⟨0x114, 0x000, [⟨31, 0, .ro, 0, .none⟩]⟩,  -- PWR_DOM_STATE1
   ⟨0x118, 0x000, [⟨31, 0, .ro, 0, .none⟩]⟩,  -- PWR_CLOSING
   ⟨0x11C, 0x000, [⟨31, 0, .ro, 0, .none⟩]⟩,  -- PWR_WAKING
   ⟨0x120, 0x000, [⟨31, 16, .ro, 0, .none⟩, ⟨4, 0, .ro, 0, .none⟩]⟩,  -- PWR_CLOSE_ABORTED
   ⟨0x124, 0x000, [⟨1, 1, .wo, 0, .none⟩, ⟨0, 0, .wo, 0, .none⟩]⟩,  -- PWR_CMD
   ⟨0x128, 0x000, [⟨31, 31, .ro, 0, .none⟩, ⟨30, 30, .ro, 0, .none⟩, ⟨29, 29, .w1c, 0, .none⟩, ⟨28, 28, .w1c, 0, .none⟩, ⟨27, 27, .w1c, 0, .none⟩, ⟨26, 26, .w1c, 0, .none⟩, ⟨25, 25, .ro, 1, .none⟩, ⟨24, 24, .ro, 0, .none⟩]⟩,  -- PWR_STATUS
   ⟨0x12C, 0x000, [⟨7, 4, .rw, 0, .none⟩, ⟨3, 0, .rw, 0, .none⟩]⟩,  -- PWR_WAKE_CFG
   ⟨0x130, 0x000, [⟨3, 0, .rc, 0, .none⟩]⟩,  -- PWR_WAKE_SRC
   ⟨0x134, 0x000, [⟨31, 16, .ro, 0, .none⟩, ⟨9, 0, .ro, 0, .none⟩]⟩,  -- PWR_TACK
   ⟨0x138, 0x000, [⟨31, 24, .rw, 105, .range 60 115⟩, ⟨15, 8, .ro, 0, .none⟩, ⟨7, 0, .ro, 0, .none⟩]⟩]  -- PWR_TEMP

/-- Registers of the yms page. -/
def regsYms : List Reg :=
  [⟨0x100, 0x000, [⟨0, 0, .rw, 0, .none⟩]⟩,  -- YMS_CTRL
   ⟨0x104, 0x000, [⟨11, 0, .rw, 0, .none⟩]⟩,  -- YMS_BIND_SEL
   ⟨0x108, 0x104, [⟨31, 0, .rw, 0, .none⟩]⟩,  -- YMS_BIND_W0
   ⟨0x10C, 0x104, [⟨31, 0, .rw, 0, .none⟩]⟩,  -- YMS_BIND_W1
   ⟨0x110, 0x104, [⟨31, 0, .rw, 0, .none⟩]⟩,  -- YMS_BIND_W2
   ⟨0x114, 0x104, [⟨31, 0, .rw, 0, .none⟩]⟩,  -- YMS_BIND_W3
   ⟨0x118, 0x104, [⟨31, 0, .rw, 0, .none⟩]⟩,  -- YMS_BIND_W4
   ⟨0x11C, 0x104, [⟨31, 0, .rw, 0, .none⟩]⟩,  -- YMS_BIND_W5
   ⟨0x120, 0x104, [⟨31, 0, .rw, 0, .none⟩]⟩,  -- YMS_BIND_W6
   ⟨0x124, 0x104, [⟨31, 0, .rw, 0, .none⟩]⟩,  -- YMS_BIND_W7
   ⟨0x128, 0x000, [⟨31, 31, .rw, 0, .none⟩, ⟨27, 16, .rw, 0, .none⟩, ⟨15, 15, .rw, 0, .none⟩, ⟨11, 0, .rw, 0, .none⟩]⟩,  -- YMS_HWBIND
   ⟨0x12C, 0x000, [⟨31, 0, .rw, 0, .none⟩]⟩,  -- YMS_DB_ARG_LO
   ⟨0x130, 0x000, [⟨31, 0, .rw, 0, .none⟩]⟩,  -- YMS_DB_ARG_HI
   ⟨0x134, 0x000, [⟨11, 0, .wo, 0, .none⟩]⟩,  -- YMS_DOORBELL
   ⟨0x138, 0x000, [⟨31, 12, .ro, 0, .none⟩, ⟨11, 8, .ro, 0, .none⟩]⟩,  -- YMS_DB_RESULT
   ⟨0x13C, 0x000, [⟨2, 0, .rw, 0, .none⟩]⟩,  -- YMS_QFILL_SEL
   ⟨0x140, 0x13C, [⟨26, 16, .ro, 0, .none⟩, ⟨10, 0, .ro, 0, .none⟩]⟩,  -- YMS_QFILL
   ⟨0x144, 0x000, [⟨28, 16, .ro, 0, .none⟩, ⟨12, 0, .ro, 0, .none⟩]⟩,  -- YMS_TABLES
   ⟨0x148, 0x000, [⟨16, 0, .ro, 0, .none⟩]⟩,  -- YMS_INTAKE
   ⟨0x14C, 0x000, [⟨26, 16, .ro, 0, .none⟩, ⟨6, 0, .ro, 0, .none⟩]⟩,  -- YMS_DEPOSIT
   ⟨0x150, 0x000, [⟨5, 0, .rw, 0, .none⟩]⟩,  -- YMS_FLOW_SEL
   ⟨0x154, 0x150, [⟨24, 16, .ro, 0, .none⟩, ⟨15, 8, .ro, 0, .none⟩, ⟨7, 0, .ro, 0, .none⟩]⟩,  -- YMS_FLOW
   ⟨0x158, 0x000, [⟨2, 0, .rw, 0, .none⟩]⟩,  -- YMS_CNT_SEL
   ⟨0x15C, 0x158, [⟨31, 0, .ro, 0, .none⟩]⟩]  -- YMS_CNT

/-- Registers of the pdk page. -/
def regsPdk : List Reg :=
  [⟨0x100, 0x000, [⟨8, 8, .rw, 0, .none⟩, ⟨7, 4, .rw, 0, .none⟩, ⟨0, 0, .rw, 1, .none⟩]⟩,  -- PDK_CTRL
   ⟨0x104, 0x000, [⟨31, 28, .ro, 0, .none⟩, ⟨15, 8, .ro, 0, .none⟩, ⟨0, 0, .ro, 0, .none⟩]⟩,  -- PDK_STATUS
   ⟨0x108, 0x000, [⟨31, 0, .ro, 0, .none⟩]⟩,  -- PDK_LOAD_ERR
   ⟨0x10C, 0x000, [⟨31, 28, .ro, 0, .none⟩, ⟨15, 0, .ro, 0, .none⟩]⟩,  -- PDK_LOAD_ERR_INFO
   ⟨0x110, 0x000, [⟨15, 8, .ro, 0, .none⟩, ⟨7, 0, .ro, 0, .none⟩]⟩,  -- PDK_GW_MODE
   ⟨0x114, 0x000, [⟨15, 8, .w1c, 0, .none⟩, ⟨7, 0, .w1c, 0, .none⟩]⟩,  -- PDK_GW_STAT
   ⟨0x118, 0x000, [⟨2, 0, .rw, 0, .none⟩]⟩,  -- PDK_RCLK_SEL
   ⟨0x11C, 0x118, [⟨31, 31, .ro, 0, .none⟩, ⟨30, 30, .w1c, 0, .none⟩, ⟨29, 29, .rw, 0, .none⟩, ⟨15, 12, .rw, 0, .none⟩, ⟨9, 5, .ro, 0, .none⟩, ⟨4, 0, .ro, 0, .none⟩]⟩,  -- PDK_RCLK
   ⟨0x120, 0x000, [⟨6, 0, .rw, 0, .max 95⟩]⟩,  -- PDK_QC_SEL
   ⟨0x124, 0x120, [⟨31, 31, .w1c, 0, .none⟩, ⟨30, 30, .w1c, 0, .none⟩, ⟨29, 29, .ro, 0, .none⟩, ⟨28, 28, .ro, 1, .none⟩, ⟨27, 27, .ro, 0, .none⟩, ⟨26, 26, .ro, 1, .none⟩, ⟨25, 25, .ro, 0, .none⟩, ⟨12, 0, .ro, 0, .none⟩]⟩,  -- PDK_QC
   ⟨0x128, 0x000, [⟨21, 16, .ro, 0, .none⟩, ⟨5, 0, .ro, 0, .none⟩]⟩]  -- PDK_BR_STAT

/-- Registers of the trg page. -/
def regsTrg : List Reg :=
  [⟨0x100, 0x000, [⟨7, 4, .rw, 0, .none⟩, ⟨1, 1, .wo, 0, .none⟩, ⟨0, 0, .rw, 0, .none⟩]⟩,  -- TRG_CTRL
   ⟨0x104, 0x000, [⟨31, 31, .ro, 0, .none⟩, ⟨30, 30, .ro, 0, .none⟩, ⟨29, 29, .ro, 0, .none⟩, ⟨3, 0, .ro, 0, .none⟩]⟩,  -- TRG_STATUS
   ⟨0x108, 0x000, [⟨3, 0, .rw, 0, .none⟩]⟩,  -- TRG_CMP_SEL
   ⟨0x120, 0x000, [⟨3, 0, .rw, 0, .none⟩]⟩,  -- TRG_SEQ_SEL
   ⟨0x130, 0x000, [⟨3, 0, .rw, 0, .max 3⟩]⟩,  -- TRG_CNT_SEL
   ⟨0x14C, 0x000, [⟨3, 0, .rw, 0, .max 7⟩]⟩,  -- TRG_PIN_SEL
   ⟨0x164, 0x000, [⟨3, 0, .rw, 0, .max 7⟩]⟩,  -- TRG_STR_SEL
   ⟨0x10C, 0x108, [⟨31, 31, .rw, 0, .none⟩, ⟨30, 30, .rw, 0, .none⟩, ⟨29, 28, .rw, 0, .max 2⟩, ⟨27, 27, .rw, 0, .none⟩, ⟨21, 16, .rw, 0, .none⟩, ⟨5, 0, .rw, 0, .none⟩, ⟨13, 8, .rw, 63, .above 5 0⟩]⟩,  -- TRG_CMP_CFG
   ⟨0x110, 0x108, [⟨31, 0, .rw, 0, .none⟩]⟩,  -- TRG_CMP_A_LO
   ⟨0x114, 0x108, [⟨31, 0, .rw, 0, .none⟩]⟩,  -- TRG_CMP_A_HI
   ⟨0x118, 0x108, [⟨31, 0, .rw, 0, .none⟩]⟩,  -- TRG_CMP_B_LO
   ⟨0x11C, 0x108, [⟨31, 0, .rw, 0, .none⟩]⟩,  -- TRG_CMP_B_HI
   ⟨0x124, 0x120, [⟨31, 31, .rw, 0, .none⟩, ⟨23, 20, .rw, 0, .none⟩, ⟨17, 16, .rw, 0, .none⟩, ⟨13, 8, .rw, 0, .max 33⟩, ⟨5, 0, .rw, 0, .max 33⟩]⟩,  -- TRG_SEQ_A
   ⟨0x128, 0x120, [⟨31, 31, .rw, 0, .none⟩, ⟨23, 20, .rw, 0, .none⟩, ⟨17, 16, .rw, 0, .none⟩, ⟨13, 8, .rw, 0, .max 33⟩, ⟨5, 0, .rw, 0, .max 33⟩]⟩,  -- TRG_SEQ_B
   ⟨0x12C, 0x120, [⟨21, 20, .rw, 0, .max 2⟩, ⟨19, 16, .rw, 0, .none⟩, ⟨15, 12, .rw, 0, .none⟩, ⟨11, 8, .rw, 0, .none⟩, ⟨2, 2, .rw, 0, .none⟩, ⟨1, 1, .rw, 0, .none⟩, ⟨0, 0, .rw, 0, .none⟩]⟩,  -- TRG_SEQ_ACT
   ⟨0x134, 0x130, [⟨31, 16, .rw, 65535, .none⟩, ⟨9, 8, .rw, 0, .none⟩, ⟨5, 0, .rw, 0, .max 33⟩]⟩,  -- TRG_CNT_CFG
   ⟨0x138, 0x130, [⟨31, 0, .rw, 4294967295, .none⟩]⟩,  -- TRG_CNT_LIMIT_LO
   ⟨0x13C, 0x130, [⟨15, 0, .rw, 65535, .none⟩]⟩,  -- TRG_CNT_LIMIT_HI
   ⟨0x140, 0x130, [⟨31, 0, .ro, 0, .none⟩]⟩,  -- TRG_CNT_LO
   ⟨0x144, 0x130, [⟨15, 0, .ro, 0, .none⟩]⟩,  -- TRG_CNT_HI
   ⟨0x148, 0x000, [⟨31, 31, .rw, 0, .none⟩, ⟨29, 24, .rw, 0, .max 33⟩, ⟨23, 0, .rw, 1, .min 1⟩]⟩,  -- TRG_HOLDOFF
   ⟨0x150, 0x14C, [⟨31, 31, .rw, 0, .none⟩, ⟨30, 30, .rw, 0, .none⟩, ⟨29, 28, .rw, 0, .none⟩, ⟨25, 24, .rw, 0, .none⟩, ⟨6, 0, .rw, 0, .none⟩]⟩,  -- TRG_PIN_CFG
   ⟨0x154, 0x000, [⟨31, 31, .wo, 0, .none⟩, ⟨30, 30, .ro, 0, .none⟩, ⟨26, 24, .rw, 0, .none⟩, ⟨6, 0, .ro, 0, .none⟩]⟩,  -- TRG_CAL
   ⟨0x158, 0x000, [⟨31, 31, .rw, 0, .none⟩, ⟨30, 24, .rw, 8, .min 1⟩, ⟨23, 23, .rw, 0, .none⟩, ⟨22, 16, .rw, 8, .min 1⟩, ⟨15, 15, .rw, 0, .none⟩, ⟨14, 8, .rw, 8, .min 1⟩, ⟨7, 7, .rw, 0, .none⟩, ⟨6, 0, .rw, 8, .min 1⟩]⟩,  -- TRG_TOUT
   ⟨0x15C, 0x000, [⟨31, 30, .rw, 0, .none⟩, ⟨28, 24, .rw, 8, .min 4⟩, ⟨15, 8, .rw, 0, .none⟩, ⟨7, 0, .rw, 0, .none⟩]⟩,  -- TRG_XTRG
   ⟨0x160, 0x000, [⟨31, 31, .wo, 0, .none⟩, ⟨29, 28, .rw, 0, .none⟩, ⟨23, 0, .ro, 0, .none⟩]⟩,  -- TRG_XTRG_TEST
   ⟨0x168, 0x164, [⟨31, 31, .rw, 0, .none⟩, ⟨30, 28, .rw, 0, .max 4⟩, ⟨27, 27, .rw, 0, .none⟩, ⟨26, 25, .rw, 0, .none⟩, ⟨13, 8, .rw, 0, .none⟩, ⟨21, 16, .rw, 0, .above 13 8⟩]⟩,  -- TRG_STR_CFG
   ⟨0x16C, 0x164, [⟨15, 0, .rw, 1, .win⟩]⟩,  -- TRG_STR_WIN
   ⟨0x170, 0x000, [⟨31, 31, .wo, 0, .none⟩, ⟨30, 30, .wo, 0, .none⟩, ⟨27, 26, .rw, 0, .max 2⟩, ⟨25, 25, .rw, 1, .none⟩, ⟨24, 24, .rw, 0, .none⟩, ⟨23, 23, .rw, 0, .none⟩]⟩,  -- TRG_ACQ_CTRL
   ⟨0x174, 0x000, [⟨31, 0, .rw, 0, .none⟩]⟩,  -- TRG_ACQ_POST
   ⟨0x178, 0x000, [⟨31, 0, .rw, 0, .align 16⟩]⟩,  -- TRG_ACQ_BASE_LO
   ⟨0x17C, 0x000, [⟨6, 0, .rw, 0, .none⟩]⟩,  -- TRG_ACQ_BASE_HI
   ⟨0x180, 0x000, [⟨31, 0, .rw, 64, .range 64 67108864⟩]⟩,  -- TRG_ACQ_LEN
   ⟨0x184, 0x000, [⟨31, 0, .ro, 0, .none⟩]⟩,  -- TRG_ACQ_WPTR
   ⟨0x188, 0x000, [⟨31, 0, .rw, 0, .rptr⟩]⟩,  -- TRG_ACQ_RPTR
   ⟨0x18C, 0x000, [⟨31, 0, .ro, 0, .none⟩]⟩,  -- TRG_ACQ_LOST
   ⟨0x190, 0x000, [⟨31, 0, .ro, 0, .none⟩]⟩,  -- TRG_TRIG_TICK_LO
   ⟨0x194, 0x000, [⟨31, 0, .ro, 0, .none⟩]⟩,  -- TRG_TRIG_TICK_HI
   ⟨0x198, 0x000, [⟨31, 0, .ro, 0, .none⟩]⟩]  -- TRG_ASSERT_COUNT

/-- Registers of the trc page. -/
def regsTrc : List Reg :=
  [⟨0x100, 0x000, [⟨31, 31, .rw, 0, .none⟩, ⟨30, 30, .rwOff, 0, .none⟩, ⟨29, 29, .rwOff, 0, .none⟩, ⟨15, 0, .rwOff, 0, .none⟩]⟩,  -- TRC_CTRL
   ⟨0x104, 0x000, [⟨31, 31, .ro, 0, .none⟩, ⟨30, 30, .ro, 0, .none⟩, ⟨29, 29, .ro, 0, .none⟩]⟩,  -- TRC_STATUS
   ⟨0x108, 0x000, [⟨31, 0, .rw, 0, .none⟩]⟩,  -- TRC_STIM_EN
   ⟨0x10C, 0x000, [⟨1, 0, .rw, 0, .none⟩]⟩,  -- TRC_RANGE_SEL
   ⟨0x110, 0x10C, [⟨31, 0, .rw, 0, .none⟩]⟩,  -- TRC_RANGE_BASE_LO
   ⟨0x114, 0x10C, [⟨31, 31, .rw, 0, .none⟩, ⟨7, 0, .rw, 0, .none⟩]⟩,  -- TRC_RANGE_BASE_HI
   ⟨0x118, 0x10C, [⟨31, 0, .rw, 0, .none⟩]⟩,  -- TRC_RANGE_LIMIT_LO
   ⟨0x11C, 0x10C, [⟨7, 0, .rw, 0, .none⟩]⟩,  -- TRC_RANGE_LIMIT_HI
   ⟨0x120, 0x000, [⟨31, 0, .rw, 0, .align 12⟩]⟩,  -- TRC_BASE_LO
   ⟨0x124, 0x000, [⟨6, 0, .rw, 0, .none⟩]⟩,  -- TRC_BASE_HI
   ⟨0x128, 0x000, [⟨31, 0, .rw, 64, .range 64 67108864⟩]⟩,  -- TRC_LEN
   ⟨0x12C, 0x000, [⟨31, 0, .ro, 0, .none⟩]⟩,  -- TRC_WPTR
   ⟨0x130, 0x000, [⟨31, 0, .ro, 0, .none⟩]⟩]  -- TRC_LOST

/-- Registers of the dbg page. -/
def regsDbg : List Reg :=
  [⟨0x100, 0x000, [⟨9, 8, .wo, 0, .none⟩, ⟨1, 0, .wo, 0, .none⟩]⟩,  -- DBG_AUTH_CMD
   ⟨0x104, 0x000, [⟨31, 31, .ro, 0, .none⟩, ⟨30, 30, .ro, 0, .none⟩, ⟨29, 29, .ro, 0, .none⟩, ⟨7, 4, .ro, 0, .none⟩, ⟨2, 0, .ro, 0, .none⟩]⟩,  -- DBG_AUTH_STATUS
   ⟨0x108, 0x000, [⟨31, 0, .ro, 0, .none⟩]⟩,  -- DBG_NONCE0
   ⟨0x10C, 0x000, [⟨31, 0, .ro, 0, .none⟩]⟩,  -- DBG_NONCE1
   ⟨0x110, 0x000, [⟨31, 0, .ro, 0, .none⟩]⟩,  -- DBG_NONCE2
   ⟨0x114, 0x000, [⟨31, 0, .ro, 0, .none⟩]⟩,  -- DBG_NONCE3
   ⟨0x118, 0x000, [⟨31, 0, .ro, 0, .none⟩]⟩,  -- DBG_NONCE4
   ⟨0x11C, 0x000, [⟨31, 0, .ro, 0, .none⟩]⟩,  -- DBG_NONCE5
   ⟨0x120, 0x000, [⟨31, 0, .ro, 0, .none⟩]⟩,  -- DBG_NONCE6
   ⟨0x124, 0x000, [⟨31, 0, .ro, 0, .none⟩]⟩,  -- DBG_NONCE7
   ⟨0x128, 0x000, [⟨31, 0, .rw, 0, .none⟩]⟩,  -- DBG_KEY0
   ⟨0x12C, 0x000, [⟨31, 0, .rw, 0, .none⟩]⟩,  -- DBG_KEY1
   ⟨0x130, 0x000, [⟨31, 0, .rw, 0, .none⟩]⟩,  -- DBG_KEY2
   ⟨0x134, 0x000, [⟨31, 0, .rw, 0, .none⟩]⟩,  -- DBG_KEY3
   ⟨0x138, 0x000, [⟨31, 0, .rw, 0, .none⟩]⟩,  -- DBG_KEY4
   ⟨0x13C, 0x000, [⟨31, 0, .rw, 0, .none⟩]⟩,  -- DBG_KEY5
   ⟨0x140, 0x000, [⟨31, 0, .rw, 0, .none⟩]⟩,  -- DBG_KEY6
   ⟨0x144, 0x000, [⟨31, 0, .rw, 0, .none⟩]⟩,  -- DBG_KEY7
   ⟨0x148, 0x000, [⟨31, 0, .rw, 0, .none⟩]⟩,  -- DBG_SIG0
   ⟨0x14C, 0x000, [⟨31, 0, .rw, 0, .none⟩]⟩,  -- DBG_SIG1
   ⟨0x150, 0x000, [⟨31, 0, .rw, 0, .none⟩]⟩,  -- DBG_SIG2
   ⟨0x154, 0x000, [⟨31, 0, .rw, 0, .none⟩]⟩,  -- DBG_SIG3
   ⟨0x158, 0x000, [⟨31, 0, .rw, 0, .none⟩]⟩,  -- DBG_SIG4
   ⟨0x15C, 0x000, [⟨31, 0, .rw, 0, .none⟩]⟩,  -- DBG_SIG5
   ⟨0x160, 0x000, [⟨31, 0, .rw, 0, .none⟩]⟩,  -- DBG_SIG6
   ⟨0x164, 0x000, [⟨31, 0, .rw, 0, .none⟩]⟩,  -- DBG_SIG7
   ⟨0x168, 0x000, [⟨31, 0, .rw, 0, .none⟩]⟩,  -- DBG_SIG8
   ⟨0x16C, 0x000, [⟨31, 0, .rw, 0, .none⟩]⟩,  -- DBG_SIG9
   ⟨0x170, 0x000, [⟨31, 0, .rw, 0, .none⟩]⟩,  -- DBG_SIG10
   ⟨0x174, 0x000, [⟨31, 0, .rw, 0, .none⟩]⟩,  -- DBG_SIG11
   ⟨0x178, 0x000, [⟨31, 0, .rw, 0, .none⟩]⟩,  -- DBG_SIG12
   ⟨0x17C, 0x000, [⟨31, 0, .rw, 0, .none⟩]⟩,  -- DBG_SIG13
   ⟨0x180, 0x000, [⟨31, 0, .rw, 0, .none⟩]⟩,  -- DBG_SIG14
   ⟨0x184, 0x000, [⟨31, 0, .rw, 0, .none⟩]⟩,  -- DBG_SIG15
   ⟨0x188, 0x000, [⟨31, 25, .rw, 0, .max 95⟩, ⟨24, 20, .rw, 0, .none⟩, ⟨19, 14, .rw, 0, .max 47⟩, ⟨13, 12, .rw, 0, .max 2⟩, ⟨11, 0, .rw, 0, .aqWord⟩]⟩,  -- DBG_AQ_ADDR
   ⟨0x18C, 0x000, [⟨31, 31, .wo, 0, .none⟩, ⟨30, 30, .ro, 0, .none⟩, ⟨29, 28, .ro, 0, .none⟩, ⟨27, 27, .ro, 0, .none⟩]⟩,  -- DBG_AQ_CTRL
   ⟨0x190, 0x000, [⟨31, 0, .ro, 0, .none⟩]⟩,  -- DBG_AQ_DATA
   ⟨0x194, 0x000, [⟨31, 0, .ro, 0, .none⟩]⟩,  -- DBG_AQ_TICK_LO
   ⟨0x198, 0x000, [⟨31, 0, .ro, 0, .none⟩]⟩,  -- DBG_AQ_TICK_HI
   ⟨0x19C, 0x000, [⟨31, 31, .wo, 0, .none⟩, ⟨30, 30, .rw, 0, .none⟩, ⟨29, 23, .rw, 0, .max 95⟩, ⟨22, 18, .rw, 0, .none⟩, ⟨17, 12, .rw, 0, .max 47⟩, ⟨7, 0, .rw, 0, .none⟩]⟩,  -- DBG_DEP
   ⟨0x1A4, 0x1A0, [⟨31, 31, .rw, 0, .none⟩, ⟨30, 30, .rw, 0, .none⟩, ⟨29, 23, .rw, 0, .max 95⟩, ⟨22, 18, .rw, 0, .none⟩, ⟨17, 12, .rw, 0, .max 47⟩, ⟨7, 0, .rw, 0, .none⟩]⟩,  -- DBG_FORCE
   ⟨0x1A0, 0x000, [⟨5, 0, .rw, 0, .none⟩]⟩,  -- DBG_FORCE_SEL
   ⟨0x1A8, 0x000, [⟨31, 31, .wo, 0, .none⟩, ⟨30, 30, .rw, 0, .none⟩, ⟨29, 29, .ro, 0, .none⟩, ⟨27, 24, .ro, 0, .none⟩, ⟨9, 8, .rw, 0, .max 2⟩, ⟨7, 0, .rw, 255, .none⟩]⟩,  -- DBG_BM_CTRL
   ⟨0x1AC, 0x000, [⟨31, 0, .rw, 0, .align 3⟩]⟩,  -- DBG_BM_ADDR_LO
   ⟨0x1B0, 0x000, [⟨6, 0, .rw, 0, .none⟩]⟩,  -- DBG_BM_ADDR_HI
   ⟨0x1B4, 0x000, [⟨31, 0, .rw, 0, .none⟩]⟩,  -- DBG_BM_DATA_LO
   ⟨0x1B8, 0x000, [⟨31, 0, .rw, 0, .none⟩]⟩,  -- DBG_BM_DATA_HI
   ⟨0x1BC, 0x000, [⟨31, 31, .wo, 0, .none⟩, ⟨15, 0, .rw, 0, .none⟩]⟩]  -- DBG_HALT_GROUP

/-- Registers of the dmc page. -/
def regsDmc : List Reg :=
  [⟨0x100, 0x000, [⟨0, 0, .rw, 0, .none⟩]⟩,  -- DMC_CTRL
   ⟨0x104, 0x000, [⟨6, 6, .ro, 0, .none⟩, ⟨5, 5, .ro, 0, .none⟩, ⟨4, 4, .ro, 0, .none⟩, ⟨3, 0, .ro, 0, .none⟩]⟩,  -- DMC_STATUS
   ⟨0x108, 0x000, [⟨31, 31, .wo, 0, .none⟩, ⟨30, 30, .ro, 0, .none⟩, ⟨1, 1, .ro, 0, .none⟩, ⟨0, 0, .rw, 0, .none⟩]⟩,  -- DMC_FREQ
   ⟨0x10C, 0x000, [⟨2, 0, .rw, 0, .max 6⟩]⟩,  -- DMC_MASK_SEL
   ⟨0x110, 0x10C, [⟨31, 0, .rw, 0, .none⟩]⟩,  -- DMC_MASK_LO
   ⟨0x114, 0x10C, [⟨7, 0, .rw, 0, .none⟩]⟩,  -- DMC_MASK_HI
   ⟨0x118, 0x000, [⟨3, 0, .rw, 0, .max 11⟩]⟩,  -- DMC_PORT_SEL
   ⟨0x11C, 0x118, [⟨15, 0, .rw, 0, .min 10⟩]⟩,  -- DMC_PORT_TARGET
   ⟨0x120, 0x000, [⟨7, 0, .rw, 0, .none⟩]⟩,  -- DMC_MODEL_SEL
   ⟨0x124, 0x120, [⟨31, 12, .ro, 0, .none⟩]⟩,  -- DMC_MODEL_BASE_LO
   ⟨0x128, 0x120, [⟨6, 0, .ro, 0, .none⟩]⟩,  -- DMC_MODEL_BASE_HI
   ⟨0x12C, 0x120, [⟨31, 31, .ro, 0, .none⟩, ⟨5, 0, .ro, 0, .none⟩]⟩,  -- DMC_MODEL_SIZE
   ⟨0x130, 0x000, [⟨31, 0, .ro, 0, .none⟩]⟩,  -- DMC_GOLDEN_LEN
   ⟨0x134, 0x000, [⟨31, 16, .ro, 0, .none⟩]⟩,  -- DMC_WQ_FILL
   ⟨0x138, 0x000, [⟨16, 0, .ro, 0, .none⟩]⟩,  -- DMC_WQ_NOW
   ⟨0x13C, 0x000, [⟨31, 0, .ro, 0, .none⟩]⟩]  -- DMC_DRAIN_HOLDS

/-- Registers of the lnkTree page. -/
def regsLnkTree : List Reg :=
  [⟨0x100, 0x000, [⟨31, 31, .ro, 0, .none⟩, ⟨28, 24, .ro, 0, .none⟩, ⟨23, 0, .ro, 0, .none⟩]⟩,  -- LNK_TREE
   ⟨0x104, 0x000, [⟨31, 0, .wo, 0, .none⟩]⟩,  -- LNK_PERIOD_ADJ
   ⟨0x108, 0x000, [⟨31, 0, .ro, 0, .none⟩]⟩,  -- LNK_PERIOD_LO
   ⟨0x10C, 0x000, [⟨15, 0, .ro, 0, .none⟩]⟩,  -- LNK_PERIOD_HI
   ⟨0x110, 0x000, [⟨31, 16, .ro, 0, .none⟩, ⟨15, 0, .ro, 0, .none⟩]⟩,  -- LNK_TREE_ERRS
   ⟨0x114, 0x000, [⟨15, 0, .rw, 0, .none⟩]⟩]  -- LNK_PERIOD_ADJ_HI

/-- Registers of the dmcCh page. -/
def regsDmcCh : List Reg :=
  [⟨0x100, 0x000, [⟨0, 0, .wo, 0, .none⟩]⟩,  -- DMC_CH_CTRL
   ⟨0x104, 0x000, [⟨31, 30, .ro, 0, .none⟩, ⟨11, 10, .ro, 0, .none⟩, ⟨9, 9, .ro, 0, .none⟩, ⟨8, 8, .ro, 0, .none⟩, ⟨7, 6, .ro, 0, .none⟩]⟩,  -- DMC_CH_STATUS
   ⟨0x108, 0x000, [⟨31, 24, .ro, 0, .none⟩, ⟨23, 12, .ro, 0, .none⟩, ⟨11, 0, .ro, 0, .none⟩]⟩,  -- DMC_CH_ERRS
   ⟨0x10C, 0x000, [⟨15, 8, .ro, 0, .none⟩, ⟨7, 0, .ro, 0, .none⟩]⟩]  -- DMC_CH_TEMP

/-- Registers of the ptp page. -/
def regsPtp : List Reg :=
  [⟨0x100, 0x000, [⟨3, 3, .wo, 0, .none⟩, ⟨2, 2, .wo, 0, .none⟩, ⟨1, 1, .wo, 0, .none⟩, ⟨0, 0, .wo, 0, .none⟩]⟩,  -- PTP_CMD
   ⟨0x104, 0x000, [⟨31, 31, .ro, 1, .none⟩, ⟨30, 30, .ro, 0, .none⟩, ⟨29, 29, .ro, 0, .none⟩, ⟨28, 28, .ro, 0, .none⟩, ⟨26, 24, .ro, 0, .none⟩]⟩,  -- PTP_STATUS
   ⟨0x108, 0x000, [⟨31, 0, .rw, 0, .none⟩]⟩,  -- PTP_INCR_LO
   ⟨0x10C, 0x000, [⟨7, 0, .rw, 4, .none⟩]⟩,  -- PTP_INCR_HI
   ⟨0x110, 0x000, [⟨31, 0, .ro, 0, .none⟩]⟩,  -- PTP_TIME_NS
   ⟨0x114, 0x000, [⟨31, 0, .ro, 0, .none⟩]⟩,  -- PTP_TIME_FRAC
   ⟨0x118, 0x000, [⟨31, 0, .ro, 0, .none⟩]⟩,  -- PTP_TIME_S_LO
   ⟨0x11C, 0x000, [⟨15, 0, .ro, 0, .none⟩]⟩,  -- PTP_TIME_S_HI
   ⟨0x120, 0x000, [⟨31, 0, .rw, 0, .max 999999999⟩]⟩,  -- PTP_SET_NS
   ⟨0x124, 0x000, [⟨31, 0, .rw, 0, .none⟩]⟩,  -- PTP_SET_S_LO
   ⟨0x128, 0x000, [⟨15, 0, .rw, 0, .none⟩]⟩,  -- PTP_SET_S_HI
   ⟨0x12C, 0x000, [⟨31, 0, .rw, 0, .none⟩]⟩,  -- PTP_STEP_LO
   ⟨0x130, 0x000, [⟨31, 0, .rw, 0, .none⟩]⟩,  -- PTP_STEP_HI
   ⟨0x134, 0x000, [⟨31, 0, .wo, 0, .none⟩]⟩,  -- PTP_SLEW
   ⟨0x138, 0x000, [⟨31, 0, .ro, 0, .none⟩]⟩,  -- PTP_SLEW_LEFT
   ⟨0x13C, 0x000, [⟨31, 0, .rw, 1000000, .min 1000⟩]⟩,  -- PTP_JUMP_LIMIT
   ⟨0x140, 0x000, [⟨15, 0, .rw, 3000, .none⟩]⟩,  -- PTP_SYNC_WDOG
   ⟨0x144, 0x000, [⟨31, 0, .ro, 0, .none⟩]⟩,  -- PTP_PPSIN_NS
   ⟨0x148, 0x000, [⟨31, 0, .ro, 0, .none⟩]⟩,  -- PTP_PPSIN_FRAC
   ⟨0x14C, 0x000, [⟨31, 0, .ro, 0, .none⟩]⟩,  -- PTP_PPSIN_S_LO
   ⟨0x150, 0x000, [⟨15, 0, .ro, 0, .none⟩]⟩,  -- PTP_PPSIN_S_HI
   ⟨0x154, 0x000, [⟨31, 31, .rw, 0, .none⟩, ⟨27, 26, .rw, 0, .none⟩, ⟨25, 16, .rw, 100, .range 1 999⟩, ⟨15, 0, .rw, 0, .none⟩]⟩]  -- PTP_PPS_OUT

/-- Registers of the ptpPort page. -/
def regsPtpPort : List Reg :=
  [⟨0x100, 0x000, [⟨31, 31, .ro, 0, .none⟩, ⟨3, 3, .rw, 0, .none⟩, ⟨2, 2, .rw, 0, .none⟩, ⟨1, 0, .rw, 0, .none⟩]⟩,  -- PTP_PORT_CFG
   ⟨0x104, 0x000, [⟨31, 0, .rw, 0, .none⟩]⟩,  -- PTP_PORT_MAC_LO
   ⟨0x108, 0x000, [⟨15, 0, .rw, 0, .none⟩]⟩,  -- PTP_PORT_MAC_HI
   ⟨0x10C, 0x000, [⟨19, 0, .rw, 28200, .none⟩]⟩,  -- PTP_TXLAT
   ⟨0x110, 0x000, [⟨19, 0, .rw, 36500, .none⟩]⟩,  -- PTP_RXLAT
   ⟨0x114, 0x000, [⟨31, 31, .rw, 0, .none⟩, ⟨30, 30, .rw, 0, .none⟩, ⟨7, 0, .rw, 0, .none⟩]⟩,  -- PTP_TC
   ⟨0x118, 0x000, [⟨31, 31, .ro, 0, .none⟩, ⟨30, 30, .ro, 0, .none⟩, ⟨29, 29, .ro, 0, .none⟩, ⟨28, 28, .ro, 0, .none⟩, ⟨8, 0, .ro, 0, .none⟩]⟩,  -- PTP_RX_INFO
   ⟨0x11C, 0x000, [⟨31, 0, .ro, 0, .none⟩]⟩,  -- PTP_RX_TS_FRAC
   ⟨0x120, 0x000, [⟨31, 0, .ro, 0, .none⟩]⟩,  -- PTP_RX_TS_NS
   ⟨0x124, 0x000, [⟨31, 0, .ro, 0, .none⟩]⟩,  -- PTP_RX_TS_S_LO
   ⟨0x128, 0x000, [⟨15, 0, .ro, 0, .none⟩]⟩,  -- PTP_RX_TS_S_HI
   ⟨0x12C, 0x000, [⟨0, 0, .wo, 0, .none⟩]⟩,  -- PTP_RX_POP
   ⟨0x130, 0x000, [⟨31, 31, .wo, 0, .none⟩, ⟨30, 30, .wo, 0, .none⟩, ⟨8, 0, .wo, 0, .range 60 252⟩]⟩,  -- PTP_TX_CMD
   ⟨0x134, 0x000, [⟨15, 8, .ro, 0, .none⟩, ⟨3, 0, .ro, 8, .none⟩]⟩,  -- PTP_TX_STAT
   ⟨0x138, 0x000, [⟨31, 0, .ro, 0, .none⟩]⟩,  -- PTP_TX_TS_FRAC
   ⟨0x13C, 0x000, [⟨31, 0, .ro, 0, .none⟩]⟩,  -- PTP_TX_TS_NS
   ⟨0x140, 0x000, [⟨31, 0, .ro, 0, .none⟩]⟩,  -- PTP_TX_TS_S_LO
   ⟨0x144, 0x000, [⟨31, 31, .rc, 0, .none⟩, ⟨30, 30, .rc, 0, .none⟩, ⟨23, 16, .rc, 0, .none⟩, ⟨15, 0, .rc, 0, .none⟩]⟩,  -- PTP_TX_DONE
   ⟨0x148, 0x000, [⟨2, 0, .rw, 0, .max 6⟩]⟩,  -- PTP_PORT_CNT_SEL
   ⟨0x14C, 0x148, [⟨31, 0, .ro, 0, .none⟩]⟩,  -- PTP_PORT_CNT
   ⟨0x800, 0x000, [⟨31, 0, .ro, 0, .none⟩]⟩,  -- PTP_RX_WIN
   ⟨0x900, 0x000, [⟨31, 0, .wo, 0, .none⟩]⟩]  -- PTP_TX_WIN

/-- Registers of the grm page. -/
def regsGrm : List Reg :=
  [⟨0x100, 0x000, [⟨2, 2, .wo, 0, .none⟩, ⟨1, 1, .rw, 0, .none⟩, ⟨0, 0, .rw, 0, .none⟩]⟩,  -- GRM_CTRL
   ⟨0x104, 0x000, [⟨31, 0, .rw, 0, .align 1⟩]⟩,  -- GRM_RESET_VEC_LO
   ⟨0x108, 0x000, [⟨31, 0, .rw, 0, .none⟩]⟩,  -- GRM_RESET_VEC_HI
   ⟨0x10C, 0x000, [⟨31, 30, .ro, 0, .none⟩]⟩,  -- GRM_STATUS
   ⟨0x110, 0x000, [⟨31, 0, .ro, 0, .none⟩]⟩,  -- GRM_DISP_ENTRY_LO
   ⟨0x114, 0x000, [⟨31, 0, .ro, 0, .none⟩]⟩,  -- GRM_DISP_ENTRY_HI
   ⟨0x118, 0x000, [⟨31, 0, .ro, 0, .none⟩]⟩,  -- GRM_DISP_ARG_LO
   ⟨0x11C, 0x000, [⟨31, 0, .ro, 0, .none⟩]⟩,  -- GRM_DISP_ARG_HI
   ⟨0x120, 0x000, [⟨31, 31, .ro, 0, .none⟩, ⟨30, 30, .ro, 0, .none⟩, ⟨29, 27, .ro, 0, .none⟩, ⟨26, 26, .ro, 0, .none⟩, ⟨25, 20, .ro, 0, .none⟩, ⟨19, 0, .ro, 0, .none⟩]⟩,  -- GRM_DISP_INFO
   ⟨0x124, 0x000, [⟨1, 1, .wo, 0, .none⟩, ⟨0, 0, .wo, 0, .none⟩]⟩,  -- GRM_DONE
   ⟨0x128, 0x000, [⟨31, 31, .rw, 0, .none⟩, ⟨19, 0, .rw, 0, .none⟩]⟩,  -- GRM_DONE_DEC0
   ⟨0x12C, 0x000, [⟨31, 31, .rw, 0, .none⟩, ⟨19, 0, .rw, 0, .none⟩]⟩,  -- GRM_DONE_DEC1
   ⟨0x130, 0x000, [⟨31, 31, .rw, 0, .none⟩, ⟨19, 0, .rw, 0, .none⟩]⟩,  -- GRM_DONE_DEC2
   ⟨0x134, 0x000, [⟨19, 0, .rw, 100000, .max 1000000⟩]⟩,  -- GRM_WDOG
   ⟨0x138, 0x000, [⟨31, 28, .ro, 0, .none⟩, ⟨23, 0, .ro, 0, .none⟩]⟩]  -- GRM_BUS_ERR

/-- Registers of the dbgGroom page. -/
def regsDbgGroom : List Reg :=
  [⟨0x100, 0x000, [⟨31, 31, .wo, 0, .none⟩, ⟨30, 30, .wo, 0, .none⟩, ⟨29, 29, .wo, 0, .none⟩, ⟨2, 2, .rw, 0, .none⟩, ⟨1, 1, .rw, 0, .none⟩]⟩,  -- DBG_GCTRL
   ⟨0x104, 0x000, [⟨31, 31, .ro, 0, .none⟩, ⟨27, 24, .ro, 0, .none⟩, ⟨18, 16, .ro, 0, .none⟩]⟩,  -- DBG_GSTATUS
   ⟨0x108, 0x000, [⟨15, 12, .rw, 0, .max 3⟩, ⟨11, 0, .rw, 0, .none⟩]⟩,  -- DBG_GREG_SEL
   ⟨0x10C, 0x108, [⟨31, 0, .rw, 0, .none⟩]⟩,  -- DBG_GREG_LO
   ⟨0x110, 0x108, [⟨31, 0, .rw, 0, .none⟩]⟩,  -- DBG_GREG_HI
   ⟨0x114, 0x000, [⟨31, 0, .ro, 0, .none⟩]⟩,  -- DBG_GHIT_LO
   ⟨0x118, 0x000, [⟨31, 0, .ro, 0, .none⟩]⟩,  -- DBG_GHIT_HI
   ⟨0x11C, 0x000, [⟨2, 0, .rw, 0, .cmpSel⟩]⟩,  -- DBG_CMP_SEL
   ⟨0x120, 0x11C, [⟨13, 8, .rw, 0, .max 40⟩, ⟨5, 4, .rw, 0, .max 2⟩, ⟨2, 0, .rw, 0, .max 4⟩]⟩,  -- DBG_CMP_CFG
   ⟨0x124, 0x11C, [⟨31, 0, .rw, 0, .none⟩]⟩,  -- DBG_CMP_ADDR_LO
   ⟨0x128, 0x11C, [⟨7, 0, .rw, 0, .none⟩]⟩]  -- DBG_CMP_ADDR_HI

/-- Registers of the ary page. -/
def regsAry : List Reg :=
  [⟨0x100, 0x000, [⟨23, 0, .ro, 0, .none⟩]⟩,  -- ARY_BARN_MODE
   ⟨0x104, 0x000, [⟨23, 0, .ro, 0, .none⟩]⟩,  -- ARY_XSTK_SUMMARY
   ⟨0x108, 0x000, [⟨4, 0, .rw, 0, .max 23⟩]⟩,  -- ARY_XSTK_SEL
   ⟨0x10C, 0x108, [⟨31, 0, .w1c, 0, .none⟩]⟩,  -- ARY_XSTK_LO
   ⟨0x110, 0x108, [⟨31, 0, .w1c, 0, .none⟩]⟩,  -- ARY_XSTK_HI
   ⟨0x114, 0x000, [⟨31, 0, .ro, 0, .none⟩]⟩,  -- ARY_LITERALS
   ⟨0x118, 0x000, [⟨23, 0, .ro, 0, .none⟩]⟩,  -- ARY_ENABLED
   ⟨0x11C, 0x000, [⟨31, 31, .ro, 0, .none⟩, ⟨1, 0, .ro, 0, .none⟩]⟩,  -- ARY_VQUAD
   ⟨0x120, 0x000, [⟨4, 0, .rw, 0, .max 23⟩]⟩,  -- ARY_VMAP_SEL
   ⟨0x124, 0x120, [⟨31, 31, .ro, 0, .none⟩, ⟨6, 0, .ro, 0, .none⟩]⟩,  -- ARY_VMAP
   ⟨0x128, 0x000, [⟨6, 0, .ro, 0, .none⟩]⟩]  -- ARY_XMT_PEAK

/-- Registers of the scb page. -/
def regsScb : List Reg :=
  [⟨0x100, 0x000, [⟨1, 1, .wo, 0, .none⟩, ⟨0, 0, .rw, 1, .none⟩]⟩,  -- SCB_CTRL
   ⟨0x104, 0x000, [⟨31, 31, .ro, 0, .none⟩, ⟨30, 30, .ro, 0, .none⟩, ⟨11, 0, .ro, 0, .none⟩]⟩,  -- SCB_STATUS
   ⟨0x108, 0x000, [⟨31, 10, .ro, 0, .none⟩]⟩,  -- SCB_GOLDEN_LO
   ⟨0x10C, 0x000, [⟨7, 0, .ro, 0, .none⟩]⟩,  -- SCB_GOLDEN_HI
   ⟨0x110, 0x000, [⟨31, 0, .ro, 0, .none⟩]⟩,  -- SCB_SWEEPS
   ⟨0x114, 0x000, [⟨31, 16, .ro, 0, .none⟩, ⟨15, 0, .ro, 0, .none⟩]⟩]  -- SCB_REPAIRS

/-- Registers of the lnk page. -/
def regsLnk : List Reg :=
  [⟨0x100, 0x000, [⟨7, 4, .rw, 0, .none⟩, ⟨3, 3, .rw, 0, .none⟩, ⟨2, 2, .wo, 0, .none⟩, ⟨1, 0, .rw, 0, .max 2⟩]⟩,  -- LNK_CTRL
   ⟨0x104, 0x000, [⟨31, 31, .ro, 0, .none⟩, ⟨30, 30, .w1c, 0, .none⟩, ⟨29, 29, .ro, 0, .none⟩, ⟨28, 28, .ro, 0, .none⟩, ⟨27, 24, .ro, 0, .none⟩, ⟨23, 23, .ro, 0, .none⟩]⟩,  -- LNK_STATUS
   ⟨0x108, 0x000, [⟨3, 0, .wo, 0, .none⟩]⟩,  -- LNK_SLIP
   ⟨0x10C, 0x000, [⟨31, 31, .ro, 0, .none⟩, ⟨29, 24, .ro, 0, .none⟩, ⟨21, 16, .ro, 0, .none⟩, ⟨13, 8, .ro, 0, .none⟩, ⟨5, 0, .ro, 0, .none⟩]⟩,  -- LNK_SKEW
   ⟨0x110, 0x000, [⟨29, 24, .rw, 0, .none⟩, ⟨21, 16, .rw, 0, .none⟩, ⟨13, 8, .rw, 0, .none⟩, ⟨5, 0, .rw, 0, .none⟩]⟩,  -- LNK_DESKEW
   ⟨0x114, 0x000, [⟨31, 31, .wo, 0, .none⟩, ⟨30, 30, .ro, 0, .none⟩, ⟨11, 0, .ro, 0, .none⟩]⟩,  -- LNK_MEAS
   ⟨0x118, 0x000, [⟨19, 16, .rw, 0, .none⟩, ⟨3, 0, .rw, 2, .none⟩]⟩,  -- LNK_PAD
   ⟨0x11C, 0x000, [⟨7, 0, .rw, 0, .none⟩]⟩,  -- LNK_SIDING
   ⟨0x120, 0x000, [⟨31, 24, .ro, 0, .none⟩, ⟨20, 16, .ro, 0, .none⟩, ⟨15, 15, .ro, 0, .none⟩, ⟨10, 0, .ro, 0, .none⟩]⟩,  -- LNK_PEER
   ⟨0x124, 0x000, [⟨31, 31, .ro, 0, .none⟩, ⟨4, 0, .ro, 0, .none⟩]⟩,  -- LNK_VMAP
   ⟨0x128, 0x000, [⟨31, 0, .ro, 0, .none⟩]⟩,  -- LNK_FRAME_ERRS
   ⟨0x12C, 0x000, [⟨31, 0, .ro, 0, .none⟩]⟩,  -- LNK_LATE
   ⟨0x130, 0x000, [⟨31, 29, .rw, 0, .max 4⟩, ⟨28, 28, .rw, 0, .none⟩, ⟨27, 27, .rw, 0, .none⟩, ⟨26, 25, .rw, 0, .none⟩, ⟨24, 24, .wo, 0, .none⟩, ⟨23, 16, .rw, 1, .min 1⟩, ⟨12, 8, .rw, 10, .min 10⟩, ⟨7, 4, .ro, 0, .none⟩, ⟨3, 0, .rw, 0, .none⟩]⟩,  -- LNK_PRBS_CTRL
   ⟨0x134, 0x000, [⟨31, 0, .ro, 0, .none⟩]⟩,  -- LNK_PRBS_ERRS0
   ⟨0x138, 0x000, [⟨31, 0, .ro, 0, .none⟩]⟩,  -- LNK_PRBS_ERRS1
   ⟨0x13C, 0x000, [⟨31, 0, .ro, 0, .none⟩]⟩,  -- LNK_PRBS_ERRS2
   ⟨0x140, 0x000, [⟨31, 0, .ro, 0, .none⟩]⟩,  -- LNK_PRBS_ERRS3
   ⟨0x144, 0x000, [⟨31, 0, .ro, 0, .none⟩]⟩,  -- LNK_MEAS_DELTA_LO
   ⟨0x148, 0x000, [⟨15, 0, .ro, 0, .none⟩]⟩]  -- LNK_MEAS_DELTA_HI

/-- Registers of the rls page. -/
def regsRls : List Reg :=
  [⟨0x100, 0x000, [⟨31, 24, .ro, 0, .none⟩, ⟨21, 16, .ro, 0, .none⟩, ⟨10, 8, .ro, 0, .none⟩, ⟨2, 0, .ro, 0, .none⟩]⟩,  -- RLS_STOP_INFO
   ⟨0x104, 0x000, [⟨7, 6, .rw, 0, .max 2⟩, ⟨5, 4, .rw, 0, .max 2⟩, ⟨3, 2, .rw, 0, .max 2⟩, ⟨1, 0, .rw, 0, .max 2⟩]⟩,  -- RLS_DIR
   ⟨0x108, 0x000, [⟨31, 31, .rw, 0, .none⟩, ⟨26, 16, .rw, 150, .range 1 1500⟩, ⟨11, 0, .rw, 64, .min 9⟩]⟩,  -- RLS_TB0
   ⟨0x10C, 0x000, [⟨31, 31, .rw, 0, .none⟩, ⟨26, 16, .rw, 750, .range 1 1500⟩, ⟨11, 0, .rw, 256, .min 9⟩]⟩,  -- RLS_TB1
   ⟨0x110, 0x000, [⟨31, 31, .rw, 0, .none⟩, ⟨26, 16, .rw, 450, .range 1 1500⟩, ⟨11, 0, .rw, 256, .min 9⟩]⟩,  -- RLS_TB2
   ⟨0x114, 0x000, [⟨31, 31, .rw, 0, .none⟩, ⟨26, 16, .rw, 150, .range 1 1500⟩, ⟨11, 0, .rw, 64, .min 9⟩]⟩,  -- RLS_TB3
   ⟨0x118, 0x000, [⟨10, 0, .rw, 256, .range 16 1024⟩]⟩,  -- RLS_STARVE
   ⟨0x11C, 0x000, [⟨31, 16, .ro, 0, .none⟩, ⟨3, 0, .ro, 0, .none⟩]⟩,  -- RLS_WAKE_WAIT
   ⟨0x120, 0x000, [⟨31, 0, .ro, 0, .none⟩]⟩,  -- RLS_AUDIT_ERR
   ⟨0x124, 0x000, [⟨1, 0, .rw, 0, .none⟩]⟩,  -- RLS_STAT_SEL
   ⟨0x128, 0x124, [⟨31, 0, .ro, 0, .none⟩]⟩,  -- RLS_INJ_LO
   ⟨0x12C, 0x124, [⟨31, 0, .ro, 0, .none⟩]⟩,  -- RLS_INJ_HI
   ⟨0x130, 0x124, [⟨31, 0, .ro, 0, .none⟩]⟩]  -- RLS_THROTTLED

/-- Registers of the shd page. -/
def regsShd : List Reg :=
  [⟨0x100, 0x000, [⟨15, 8, .wo, 0, .none⟩, ⟨4, 3, .wo, 0, .none⟩, ⟨2, 0, .wo, 0, .none⟩]⟩,  -- SHD_OWNER
   ⟨0x104, 0x000, [⟨31, 30, .ro, 0, .none⟩, ⟨29, 28, .ro, 0, .none⟩, ⟨23, 16, .ro, 0, .none⟩, ⟨15, 8, .ro, 0, .none⟩, ⟨4, 3, .ro, 0, .none⟩, ⟨2, 0, .ro, 0, .none⟩]⟩,  -- SHD_OWNER_RESULT
   ⟨0x108, 0x000, [⟨31, 24, .ro, 0, .none⟩, ⟨23, 16, .ro, 0, .none⟩, ⟨15, 8, .ro, 0, .none⟩, ⟨7, 0, .ro, 0, .none⟩]⟩,  -- SHD_OWNMAP0
   ⟨0x10C, 0x000, [⟨31, 24, .ro, 0, .none⟩, ⟨23, 16, .ro, 0, .none⟩, ⟨15, 8, .ro, 0, .none⟩, ⟨7, 0, .ro, 0, .none⟩]⟩,  -- SHD_OWNMAP1
   ⟨0x110, 0x000, [⟨31, 24, .ro, 0, .none⟩, ⟨23, 16, .ro, 0, .none⟩, ⟨15, 8, .ro, 0, .none⟩, ⟨7, 0, .ro, 0, .none⟩]⟩,  -- SHD_OWNMAP2
   ⟨0x114, 0x000, [⟨31, 24, .ro, 0, .none⟩, ⟨23, 16, .ro, 0, .none⟩, ⟨15, 8, .ro, 0, .none⟩, ⟨7, 0, .ro, 0, .none⟩]⟩,  -- SHD_OWNMAP3
   ⟨0x118, 0x000, [⟨31, 24, .ro, 0, .none⟩, ⟨23, 16, .ro, 0, .none⟩, ⟨15, 8, .ro, 0, .none⟩, ⟨7, 0, .ro, 0, .none⟩]⟩,  -- SHD_OWNMAP4
   ⟨0x11C, 0x000, [⟨31, 24, .ro, 0, .none⟩, ⟨23, 16, .ro, 0, .none⟩, ⟨15, 8, .ro, 0, .none⟩, ⟨7, 0, .ro, 0, .none⟩]⟩,  -- SHD_OWNMAP5
   ⟨0x120, 0x000, [⟨31, 24, .ro, 0, .none⟩, ⟨23, 16, .ro, 0, .none⟩, ⟨15, 8, .ro, 0, .none⟩, ⟨7, 0, .ro, 0, .none⟩]⟩,  -- SHD_OWNMAP6
   ⟨0x124, 0x000, [⟨31, 24, .ro, 0, .none⟩, ⟨23, 16, .ro, 0, .none⟩, ⟨15, 8, .ro, 0, .none⟩, ⟨7, 0, .ro, 0, .none⟩]⟩,  -- SHD_OWNMAP7
   ⟨0x128, 0x000, [⟨31, 0, .ro, 0, .none⟩]⟩,  -- SHD_ARRAY_USE
   ⟨0x12C, 0x000, [⟨31, 31, .wo, 0, .none⟩, ⟨30, 30, .ro, 0, .none⟩, ⟨28, 27, .rw, 0, .none⟩, ⟨26, 24, .rw, 0, .none⟩, ⟨23, 12, .rw, 0, .none⟩, ⟨11, 0, .rw, 4095, .above 23 12⟩]⟩,  -- SHD_FILL_CTRL
   ⟨0x130, 0x000, [⟨31, 0, .rw, 0, .none⟩]⟩,  -- SHD_FILL_PAT_LO
   ⟨0x134, 0x000, [⟨31, 0, .rw, 0, .none⟩]⟩,  -- SHD_FILL_PAT_HI
   ⟨0x138, 0x000, [⟨31, 31, .rw, 0, .none⟩, ⟨15, 0, .rw, 1024, .min 1⟩]⟩,  -- SHD_PATROL
   ⟨0x13C, 0x000, [⟨31, 31, .rc, 0, .none⟩, ⟨30, 23, .rc, 0, .none⟩, ⟨16, 15, .rc, 0, .none⟩, ⟨14, 0, .rc, 0, .none⟩]⟩,  -- SHD_PATROL_ERR
   ⟨0x140, 0x000, [⟨31, 0, .ro, 0, .none⟩]⟩]  -- SHD_WLOST

/-- The block-specific registers of a block type. -/
def Blk.regs : Blk → List Reg
  | .hst => regsHst
  | .sec => regsSec
  | .ldr => regsLdr
  | .tck => regsTck
  | .pwr => regsPwr
  | .yms => regsYms
  | .pdk => regsPdk
  | .trg => regsTrg
  | .trc => regsTrc
  | .dbg => regsDbg
  | .dmc => regsDmc
  | .lnkTree => regsLnkTree
  | .dmcCh => regsDmcCh
  | .ptp => regsPtp
  | .ptpPort => regsPtpPort
  | .grm => regsGrm
  | .dbgGroom => regsDbgGroom
  | .ary => regsAry
  | .scb => regsScb
  | .lnk => regsLnk
  | .rls => regsRls
  | .shd => regsShd

/-- The register at an offset of a page of the block, if the offset is not reserved. -/
def Blk.reg (b : Blk) (off : Nat) : Option Reg :=
  (regsCommon.find? fun r => r.off == off).or (b.regs.find? fun r => r.off == off)

/-- Highest implemented block-specific offset (CAPS.TOP, R480). -/
def Blk.top (b : Blk) : Nat := b.regs.foldl (fun m r => Nat.max m r.off) 0

/-- The word of a register's reset fields. -/
def Reg.word (r : Reg) : Nat := r.fields.foldl (fun n f => n + f.reset * 2 ^ f.lo) 0

/-- Reset masks of DMC_MASK (R210), by index. -/
def dmcMaskReset : List Nat :=
  [0x0000200040, 0x0000400080, 0x0000800200, 0x0001000400, 0x0002000800, 0x0004001000, 0x0008002000]

/-- Default latency targets of the DRAM ports (R212). -/
def dmcPortReset : List Nat := [40, 2000, 200, 1000, 300, 300, 1000, 2000, 1000, 1000, 500, 2000]

/-- The reset value of the register held under a key: offset + 2^26 × index of the entry a selector shows. -/
def regReset (key : Nat) : W32 :=
  let off := key % 2 ^ 26
  let i := key / 2 ^ 26
  if off = 0xA110 then BitVec.ofNat 32 (dmcMaskReset.getD i 0)
  else if off = 0xA114 then BitVec.ofNat 32 (dmcMaskReset.getD i 0 / 2 ^ 32)
  else if off = 0xA11C then BitVec.ofNat 32 (dmcPortReset.getD i 0)
  else match pageOf (off / 4096) with
    | some (b, _) => match b.reg (off % 4096) with
      | some r => BitVec.ofNat 32 r.word
      | none => 0
    | none => 0

end Sys2Proof.Machine
end

