-- ==== Sys2Proof/Machine/Ops.lean ====
section
/-!
DEFINITION. The named operations over the stores, the memories, the registers and the clock, and those by which a
command reports to the rest of the chip: interrupts, error counts, detections, the event log.
-/

namespace Sys2Proof

/-- The value a sparse store lists under a key. -/
def SMap.find? {α : Type} : SMap α → Nat → Option α
  | [], _ => none
  | (k', v) :: t, k => if k = k' then some v else SMap.find? t k

/-- The store without a key. -/
def SMap.erase {α : Type} : SMap α → Nat → SMap α
  | [], _ => []
  | (k', v) :: t, k => if k = k' then SMap.erase t k else (k', v) :: SMap.erase t k

/-- The store with a key listed. -/
def SMap.set {α : Type} : SMap α → Nat → α → SMap α
  | [], k, v => [(k, v)]
  | (k', v') :: t, k, v =>
    if k = k' then (k, v) :: t else if k < k' then (k, v) :: (k', v') :: t else (k', v') :: SMap.set t k v

/-- The value of a key in a store whose unlisted keys read as `d`. -/
def SMap.get {α : Type} (d : α) (m : SMap α) (k : Nat) : α := (m.find? k).getD d

/-- A write that keeps the canonical form: the value an unlisted key reads as removes the entry. -/
def SMap.put {α : Type} [DecidableEq α] (d : α) (m : SMap α) (k : Nat) (v : α) : SMap α :=
  if v = d then m.erase k else m.set k v

/-- Writes in order. -/
def SMap.putAll {α : Type} [DecidableEq α] (d : α) (m : SMap α) (l : List (Nat × α)) : SMap α :=
  l.foldl (fun m p => m.put d p.1 p.2) m

/-- The entries whose key satisfies a test. -/
def SMap.keep {α : Type} (m : SMap α) (p : Nat → Bool) : SMap α := m.filter fun e => p e.1

/-- The entries with keys in [lo, lo + n). -/
def SMap.within {α : Type} (m : SMap α) (lo n : Nat) : SMap α := m.keep fun k => lo ≤ k && k < lo + n

/-- The store without the entries with keys in [lo, lo + n). -/
def SMap.without {α : Type} (m : SMap α) (lo n : Nat) : SMap α := m.keep fun k => !(lo ≤ k && k < lo + n)

/-- The canonical form: keys strictly rising, and no entry equal to what an unlisted key reads as. -/
abbrev SMap.wf {α : Type} (d : α) (m : SMap α) : Prop :=
  m.Pairwise (fun a b => a.1 < b.1) ∧ ∀ e ∈ m, e.2 ≠ d

/-- The canonical form of a memory of bytes, of which an unlisted one reads as 0 (log 9). -/
abbrev Memory.wf (m : List Host.Cell) : Prop := SMap.wf (0 : Byte) m

/-- A byte of a memory. -/
def Memory.byte (m : List Host.Cell) (a : Nat) : Byte := SMap.get (0 : Byte) m a

/-- `n` bytes from an address on. -/
def Memory.bytes (m : List Host.Cell) (a n : Nat) : List Byte := (List.range n).map fun i => Memory.byte m (a + i)

/-- A write of one byte. -/
def Memory.putByte (m : List Host.Cell) (a : Nat) (b : Byte) : List Host.Cell := SMap.put (0 : Byte) m a b

/-- Writes the bytes of a list to consecutive addresses. -/
def Memory.putBytes : List Host.Cell → Nat → List Byte → List Host.Cell
  | m, _, [] => m
  | m, a, b :: bs => Memory.putBytes (Memory.putByte m a b) (a + 1) bs

/-- Byte `i` of a word (R8). -/
def wordByte {n : Nat} (w : BitVec n) (i : Nat) : Byte := w.extractLsb' (8 * i) 8

/-- The bytes of a word of `k` bytes, least significant first (R8). -/
def wordBytes {n : Nat} (w : BitVec n) (k : Nat) : List Byte := (List.range k).map (wordByte w)

/-- The number whose little-endian bytes are listed (R8). -/
def bytesNat : List Byte → Nat
  | [] => 0
  | b :: bs => b.toNat + 256 * bytesNat bs

/-- The 64-bit word at a byte address. -/
def Memory.word (m : List Host.Cell) (a : Nat) : W64 := BitVec.ofNat 64 (bytesNat (Memory.bytes m a 8))

/-- Writes the bytes of a word whose mask bit is 1. -/
def Memory.putMasked (m : List Host.Cell) (a : Nat) (w : W64) (mask : Byte) : List Host.Cell :=
  (List.range 8).foldl (fun m i => if mask.getLsbD i then Memory.putByte m (a + i) (wordByte w i) else m) m

/-- Writes a 64-bit word. -/
def Memory.putWord (m : List Host.Cell) (a : Nat) (w : W64) : List Host.Cell := Memory.putMasked m a w 0xFF

/-- Field [lo + len − 1 : lo] of a word as a number. -/
def fld {n : Nat} (w : BitVec n) (lo len : Nat) : Nat := (w.extractLsb' lo len).toNat

/-- The word with the field [lo + len − 1 : lo] set to a number, modulo 2^len. -/
def setFld {n : Nat} (w : BitVec n) (lo len v : Nat) : BitVec n :=
  (w &&& ~~~(BitVec.ofNat n ((2 ^ len - 1) * 2 ^ lo))) ||| BitVec.ofNat n (v % 2 ^ len * 2 ^ lo)

/-- Adds `k` to a count that saturates at `top`. -/
def satAdd (top v k : Nat) : Nat := Nat.min top (v + k)

namespace Machine

/-! ### Pages and registers -/

/-- Offset of the page of instance `i` of a block type (R479). -/
def pg (b : Blk) (i : Nat) : Nat := (b.pages.1 + i) * 4096

/-- The stored register of a key. -/
def rget (m : SMap W32) (key : Nat) : W32 := m.get (regReset key) key

/-- Stores a register. -/
def rput (m : SMap W32) (key : Nat) (v : W32) : SMap W32 := m.put (regReset key) key v

/-- A field of a stored register. -/
def rfld (m : SMap W32) (key lo len : Nat) : Nat := fld (rget m key) lo len

/-- Sets a field of a stored register. -/
def rset (m : SMap W32) (key lo len v : Nat) : SMap W32 := rput m key (setFld (rget m key) lo len v)

/-- Adds `k` to a counter field that saturates at its highest value. -/
def rbump (m : SMap W32) (key lo len k : Nat) : SMap W32 :=
  rset m key lo len (satAdd (2 ^ len - 1) (rfld m key lo len) k)

/-- Raises a field to at least `v`, saturating: a peak. -/
def rpeak (m : SMap W32) (key lo len v : Nat) : SMap W32 :=
  rset m key lo len (Nat.min (2 ^ len - 1) (Nat.max (rfld m key lo len) v))

/-- Key of the entry `i` of a register that a selector windows. -/
def rkey (off i : Nat) : Nat := off + 2 ^ 26 * i

/-- A page counts errors: ERR_COUNT saturates at 0xFFFF (R480). -/
def rerr (m : SMap W32) (page : Nat) (k : Nat) : SMap W32 := rbump m (page + 0x024) 0 16 k

/-- The page at an offset is pending: INT_STATUS AND INT_ENABLE is nonzero (R474). -/
def pagePending (m : SMap W32) (page : Nat) : Bool := (rget m (page + 0x018) &&& rget m (page + 0x01C)) != 0

/-- The vector a block type is mapped to, if any (R474). -/
def vectorOf (m : SMap W32) (b : Blk) : Option Nat :=
  let w := rget m (rkey (pg .hst 0 + 0x114) b.code)
  if w.getLsbD 31 then some (fld w 0 6) else none

/-- The vector of the block of the page at an offset. -/
def vectorOfPage (m : SMap W32) (page : Nat) : Option Nat :=
  match pageOf (page / 4096) with
  | some (b, _) => vectorOf m b
  | none => none

/-- Vector `v` is active: some page of a block type mapped to it is pending (R474). Only a page whose INT_STATUS is
listed can be pending. -/
def vectorActive (m : SMap W32) (v : Nat) : Bool :=
  m.any fun e => e.1 < 2 ^ 26 && e.1 % 4096 == 0x018 && vectorOfPage m (e.1 - 0x018) == some v
    && pagePending m (e.1 - 0x018)

/-- Vector `v` is masked: bit 0 of the Vector Control word of its MSI-X table entry (R480, PCIe 5.0). -/
def vectorMasked (msix : SMap W32) (v : Nat) : Bool := (msix.get 0 (0x800 + 16 * v + 12)).getLsbD 0

/-- The endpoint sends a vector's message, or sets its pending bit while it is masked (R475). -/
def sendVector (h : Hst) (v : Nat) : Hst :=
  if vectorMasked h.msix v then { h with pba := h.pba ||| BitVec.ofNat 64 (2 ^ v) } else { h with sent := v :: h.sent }

/-- The message that a change of the registers of a page brings about (R475): its vector becomes active, or the change
was a write of INT_STATUS or INT_ENABLE that leaves the page pending. -/
def msgAfter (old new : SMap W32) (page : Nat) (written : Bool) (h : Hst) : Hst :=
  match vectorOfPage new page with
  | none => h
  | some v =>
    if (vectorActive new v && !vectorActive old v) || (written && pagePending new page) then sendVector h v else h

/-- Registers with bit `k` of a page's INT_STATUS set (R474). -/
def intRegs (m : SMap W32) (page k : Nat) : SMap W32 :=
  rput m (page + 0x018) (rget m (page + 0x018) ||| BitVec.ofNat 32 (2 ^ k))

/-- A page records an event in bit `k` of its INT_STATUS, with the message of R475. -/
def raiseInt (s : State) (page k : Nat) : State :=
  { s with regs := intRegs s.regs page k, hst := msgAfter s.regs (intRegs s.regs page k) page false s.hst }

/-- `raiseInt` for several bits of one page, lowest first. -/
def raiseInts (s : State) (page : Nat) : List Nat → State
  | [] => s
  | k :: ks => raiseInts (raiseInt s page k) page ks

/-- `raiseInt` when a condition holds. -/
def raiseIf (c : Bool) (s : State) (page k : Nat) : State := if c then raiseInt s page k else s

/-! ### Time -/

/-- One period of the step clock in picoseconds: 1.25 GHz, or 1.00 GHz in Quiet mode or with MAXCLK = 1
(PWR_MODE.CLK). -/
def stepPs (m : SMap W32) : Nat := if (rget m 0x4100).getLsbD 5 then 1000 else 800

/-- Seconds, nanoseconds and fraction after adding an amount in units of 2^-32 ns, normalised (R388). -/
def Inst.addFine (i : Inst) (d : Int) : Inst :=
  let t : Int := ((i.sec.toNat * 1000000000 + i.ns.toNat) * 2 ^ 32 + i.frac.toNat : Nat) + d
  let ns := t / 2 ^ 32
  { i with
    sec := BitVec.ofInt 48 (ns / 1000000000)
    ns := BitVec.ofInt 30 (ns % 1000000000)
    frac := BitVec.ofInt 32 (t % 2 ^ 32) }

/-- 500 ppm of 4 ns in units of 2^-32 ns: the slew step of a period (R396). -/
def slewStep : Nat := 0x0083126F

/-- A clock instance after `k` periods of 4 ns (R387), with the slew term of R396 in closed form: full steps while the
remainder is not smaller than one, then the remainder itself. -/
def Inst.run (i : Inst) (k : Nat) : Inst :=
  let r := i.slew.natAbs
  let full := Nat.min k (r / slewStep)
  let done := full < k
  let amount := if done then r else full * slewStep
  let sgn : Int := if i.slew < 0 then -1 else 1
  let base : Int := (k * i.incr.toNat : Nat)
  let i := { i with since := i.since + k }
  if i.slewing then
    { i.addFine (base + sgn * amount) with
      slew := if done then 0 else i.slew - sgn * amount
      slewing := !done }
  else i.addFine base

/-- Time of a clock instance in units of 2^-32 ns. -/
def Inst.fine (i : Inst) : Nat := (i.sec.toNat * 1000000000 + i.ns.toNat) * 2 ^ 32 + i.frac.toNat

/-- The time has jumped in this period; where a SET or a step backward has landed (R407). -/
def Inst.jumped (i : Inst) (set back : Bool) : Inst :=
  { i with
    since := 0
    mark := if set || back then some (set || i.mark.any fun m => m.1, i.fine) else i.mark }

/-- One period in which an accepted request takes effect (R395, R396). -/
def Inst.take (i : Inst) : PtpEv → Inst
  | .set sec ns => ({ i with sec := sec, ns := ns, frac := 0, unset := false } : Inst).jumped true false
  | .step n => ((i.run 1).addFine (n * 2 ^ 32)).jumped false (n < 0)
  | .slew n => ({ i with slew := n * 2 ^ 32, slewing := n != 0 && !i.hold } : Inst).run 1
  | .incr v => ({ i with incr := v } : Inst).run 1

/-- A clock instance after `k` periods, of which each of the first performs one accepted request (R395). -/
def Inst.pass (k : Nat) : List PtpReq → Inst → Inst
  | [], i => ({ i with pend := [] } : Inst).run k
  | r :: rest, i => match k with
    | 0 => { i with pend := r :: rest }
    | k + 1 => Inst.pass k rest (i.take r.ev)

/-- A clock instance after `k` periods of 4 ns. -/
def Inst.adv (i : Inst) (k : Nat) : Inst := Inst.pass k i.pend i

/-- State code of a domain: 0 ON, 1 IDLE, 2 RETAIN, 3 OFF (R445). -/
def domState (p : Pwr) (d : Nat) : Nat := p.dom.get 0 d

/-- A domain is ON and not waking. -/
def domOn (p : Pwr) (d : Nat) : Bool := domState p d == 0 && !p.waking.getLsbD d

/-- Time passes by `n` periods of the step clock. The generator counts them, and the period counter with it (R81,
R243), except while it relocks (R457) and in Stabled (R453); the clock instances count in 4 ns periods while their domain is ON (R392). -/
def advance (n : Nat) (s : State) : State :=
  let ps := s.clk.ps + n * stepPs s.regs
  let k := ps / 4000 - s.clk.ps / 4000
  { s with
    clk := { s.clk with
      gen := if s.pwr.relock || s.pwr.stabled then s.clk.gen else s.clk.gen + n
      ps := ps
      period := if s.pwr.relock || s.pwr.stabled then s.clk.period else s.clk.period + BitVec.ofNat 48 n }
    ptp := if domOn s.pwr 25 then
        { s.ptp with i0 := s.ptp.i0.adv k, i1 := s.ptp.i1.adv k, i2 := s.ptp.i2.adv k, i3 := s.ptp.i3.adv k }
      else s.ptp }

/-- The first edge of the 1.25 GHz sampling clock at or after an instant (R361): edges lie every 800 ps of the elapsed
time (log 7). -/
def sampleEdge (ps : Nat) : Nat := (ps + 799) / 800 * 800

/-- Time of a clock instance at a sampling edge from now on, in units of 2^-32 ns: interpolated over the five sampling
edges of each 4 ns period (R367, R408). -/
def instAt (s : State) (i : Inst) (x : Nat) : Nat :=
  if domOn s.pwr 25 then (i.adv (x / 4000 - s.clk.ps / 4000)).fine + x % 4000 / 800 * i.incr.toNat / 5 else i.fine

/-- Time of clock instance 0 at a sampling edge. -/
def fineAt (s : State) (x : Nat) : Nat := instAt s s.ptp.i0 x

/-- The low 28 bits of the period counter: CTIME (R243). -/
def ctimeNow (s : State) : BitVec 28 := s.clk.period.extractLsb' 0 28

/-- The generator period that a CTIME names: the difference is signed and modulo 2^28 (R501). -/
def ctimeGen (s : State) (t : BitVec 28) : Nat := (s.clk.gen + (t - ctimeNow s).toInt).toNat

/-- CTIME of a period of the generator `d` periods from now. -/
def ctimeIn (s : State) (d : Nat) : BitVec 28 := ctimeNow s + BitVec.ofNat 28 d

/-- CTIME of a period of the generator. -/
def ctimeAt (s : State) (g : Nat) : BitVec 28 := ctimeNow s + BitVec.ofInt 28 ((g : Int) - s.clk.gen)

/-- The run state is one of a list. -/
def runIn (s : State) (l : List RunState) : Bool := l.contains s.tck.run

end Machine
end Sys2Proof
end

