-- ==== Sys2Proof/Machine/Flags.lean ====
section
/-!
DEFINITION. Faults, detections and reports: their records (R144, R179), the choice of R145, the counters of the
integrity codes and the event log (R181).
-/

namespace Sys2Proof.Machine

/-- A record in the layout of TCK_FAULT_W3 to W0. -/
def FaultRec.word (f : FaultRec) : W128 := f.code ++ f.barn ++ f.stall ++ f.proc ++ f.step ++ f.detail ++ f.tick

/-- A record that names a processor by its global index. -/
def recAt (code g step detail tick : Nat) : FaultRec :=
  { code := BitVec.ofNat 8 code, barn := BitVec.ofNat 7 (g / 1536), stall := BitVec.ofNat 5 (g % 1536 / 48)
    proc := BitVec.ofNat 6 (g % 48), step := BitVec.ofNat 10 step, detail := BitVec.ofNat 28 detail
    tick := BitVec.ofNat 64 tick }

/-- A record that names no processor (barn, stall, processor and step 0). -/
def recPlain (code detail tick : Nat) : FaultRec := recAt code 0 0 detail tick

/-- Global processor index a record names. -/
def FaultRec.index (f : FaultRec) : Nat := f.barn.toNat * 1536 + f.stall.toNat * 48 + f.proc.toNat

/-- The order of R145 among contract faults: earliest step, then lowest code, then highest global index. -/
def FaultRec.before (a b : FaultRec) : Bool :=
  decide (a.step < b.step) || (a.step == b.step && (decide (a.code < b.code) ||
    (a.code == b.code && decide (b.index ≤ a.index))))

/-- The contract fault that the fault record holds (R145). -/
def chosen : List FaultRec → Option FaultRec
  | [] => none
  | f :: fs => match chosen fs with
    | none => some f
    | some h => some (if f.before h then f else h)

/-- Records with the generator period in which they are raised. -/
def stamped (per : Nat) (l : List FaultRec) : List FaultRec := l.map fun f => { f with per := per }

/-- The order of R167 among detections: latest step period, then highest code, then highest global index. -/
def FaultRec.after (a b : FaultRec) : Bool :=
  decide (b.per < a.per) || (a.per == b.per && (decide (b.code < a.code) ||
    (a.code == b.code && decide (b.index ≤ a.index))))

/-- The last detection of an execution (REPLAY_EXHAUSTED, table Integrity record fields). -/
def lastDet : List FaultRec → Option FaultRec
  | [] => none
  | f :: fs => match lastDet fs with
    | none => some f
    | some h => some (if f.after h then f else h)

/-- Entries of one cycle enter the event log in ascending code and then ascending global index; entries of an earlier
period enter first (R181). -/
def FaultRec.logLe (a b : FaultRec) : Bool :=
  decide (a.per < b.per) || (a.per == b.per && (decide (a.code < b.code) ||
    (a.code == b.code && decide (a.index ≤ b.index))))

/-- Places a record among sorted ones. -/
def insRec (f : FaultRec) : List FaultRec → List FaultRec
  | [] => [f]
  | h :: t => if f.logLe h then f :: h :: t else h :: insRec f t

/-- Records in the order in which they enter the event log. -/
def sortRecs : List FaultRec → List FaultRec
  | [] => []
  | f :: fs => insRec f (sortRecs fs)

/-- A fault joins those raised in the execution. A fault of one code at one step with the same subject is one fault:
its record names the processor with the highest global index (R144). `same` tells the subject. -/
def addFault (same : FaultRec → Bool) (f : FaultRec) (l : List FaultRec) : List FaultRec :=
  match l.find? same with
  | none => l ++ [f]
  | some o => if o.index ≤ f.index then l.map (fun x => if same x then f else x) else l

/-- The event log is a ring of 1,024 records (R181). -/
def logCap : Nat := 1024

/-- The log after records enter it, oldest first. -/
def logAdd (log : List W128) (fs : List FaultRec) : List W128 :=
  let l := log ++ fs.map FaultRec.word
  l.drop (l.length - logCap)

/-- Records overwritten when records enter the log. -/
def logLoss (log : List W128) (fs : List FaultRec) : Nat := log.length + fs.length - logCap

/-- Key of TCK_ICNT of an integrity code 0x20 to 0x29. -/
def icntKey (code : BitVec 8) : Nat := rkey 0x3178 (code.toNat - 0x20)

/-- Counts records of the integrity group in TCK_ICNT (R158). -/
def countCodes (m : SMap W32) (fs : List FaultRec) : SMap W32 :=
  fs.foldl (fun m f => if 0x20 ≤ f.code.toNat && f.code.toNat ≤ 0x29 then rbump m (icntKey f.code) 0 32 1 else m) m

/-- Records enter the event log and are counted (R181, R158); an overwrite sets INT_STATUS.LOG_OVWR and TCK_LOG_OVWR
counts it. -/
def logRecs (fs : List FaultRec) (s : State) : State :=
  let loss := logLoss s.integ.log fs
  raiseIf (decide (0 < loss))
    { s with
      integ := { s.integ with log := logAdd s.integ.log fs }
      regs := rbump (countCodes s.regs fs) 0x3180 0 32 loss } 0x3000 8

/-- A detection raised outside a vote: logged at once, it enters the vote of the next execution (R156). -/
def lateDet (f : FaultRec) (s : State) : State :=
  let s := logRecs [f] s
  { s with exe := { s.exe with late := s.exe.late ++ stamped s.clk.gen [f] } }

/-- A detection raised now: during an execution it enters its vote (R156), otherwise the next one's. -/
def detect (f : FaultRec) (s : State) : State :=
  if s.tck.run = .running ∧ s.tck.inTick then { s with exe := { s.exe with dets := s.exe.dets ++ stamped s.clk.gen [f] } }
  else lateDet f s

/-- The number in the tick field of a record: the tick being executed or waiting to start. -/
def tickNo (s : State) : Nat := s.tck.tick

end Sys2Proof.Machine
end

