-- ==== Sys2Proof/Machine/Operands.lean ====
section
/-!
DEFINITION. The operands of a processor's instruction: the selector space (R32, R58), the gathers of a port descriptor
(R47), the truth-table evaluation (R26, R59), and the decoding of an instruction word (R23, R25, R29).
-/

namespace Sys2Proof.Machine

/-- A value as the array carries it: the value rail and the unknown rail (R56). In a two-state barn u is 0. -/
structure Val where
  v : Bool
  u : Bool
deriving DecidableEq, Repr

/-- Known 1 (R60). -/
def Val.isOne (x : Val) : Bool := x.v && !x.u

/-- What a part of an instruction gives besides values: contract faults, detections, sticky reads (keys
barn × 64 + track) and golden repairs started (R165). -/
structure Note where
  faults : List FaultRec := []
  dets   : List FaultRec := []
  sticky : List Nat := []
  reps   : List Repair := []
deriving DecidableEq, Repr

/-- Both notes, in order. -/
def Note.and (a b : Note) : Note :=
  { faults := a.faults ++ b.faults, dets := a.dets ++ b.dets, sticky := a.sticky ++ b.sticky, reps := a.reps ++ b.reps }

/-- A value read, with its note. -/
structure Rd where
  val  : Val
  note : Note := {}
deriving DecidableEq, Repr

/-- Contract fault codes (R143) and integrity codes (R158). -/
def fPremature : Nat := 0x01
def fSelector : Nat := 0x02
def fOpcode : Nat := 0x03
def fLiteral : Nat := 0x04
def fTrack : Nat := 0x05
def fLink : Nat := 0x06
def fDouble : Nat := 0x07
def fBank : Nat := 0x08
def fPort : Nat := 0x09
def fPower : Nat := 0x0A
def fOverrun : Nat := 0x0B
def fLatency : Nat := 0x0C
def dImem : Nat := 0x20
def dRing : Nat := 0x21
def dState : Nat := 0x22
def dShed : Nat := 0x23
def dLink : Nat := 0x24
def dDram : Nat := 0x25
def dUndo : Nat := 0x26
def dExhausted : Nat := 0x27
def dMismatch : Nat := 0x28
def dCfgVote : Nat := 0x29
def fStretch : Nat := 0x30
def fGateway : Nat := 0x31

/-- Barn of a processor's global index. -/
def barnOf (g : Nat) : Nat := g / 1536
/-- Stall of a processor within its barn. -/
def stallOf (g : Nat) : Nat := g % 1536 / 48
/-- Quadrant of a barn. -/
def quadOf (b : Nat) : Nat := b / 24
/-- Key of a processor's memory port: MP(stall div 8) of its barn (R45). -/
def portKey (g : Nat) : Nat := barnOf g * 4 + stallOf g / 8
/-- A barn is placed: it holds a virtual barn (R121). -/
def placed (s : State) (b : Nat) : Bool := s.arr.vmap.get 0 b != 0
/-- A barn is in four-state mode (R56). -/
def isFour (s : State) (b : Nat) : Bool := s.arr.four.get false b

/-- The scrubber of a quadrant. -/
def scbOf (s : State) (q : Nat) : Scb :=
  if q = 0 then s.integ.scb0 else if q = 1 then s.integ.scb1 else if q = 2 then s.integ.scb2 else s.integ.scb3

/-- A stored parity failure in loaded storage: IMEM_PARITY, and a repair from the golden image unless the quadrant's
scrubber is stopped (R155, R165, R177). -/
def imemNote (s : State) (g st detail tab key : Nat) : Note :=
  { dets := [recAt dImem g st detail (tickNo s)]
    reps := if (scbOf s (quadOf (barnOf g))).stopped then [] else [⟨quadOf (barnOf g), tab, key, false⟩] }

/-- The use of an entry of one of the five per-barn tables (0 dictionary, 1 descriptor, 2 source table, 3 slot map,
4 receive map): its one parity bit is checked (R155). -/
def tableNote (s : State) (g st tab key index : Nat) : Note :=
  if s.arr.tabSyn.get false (tab * 2 ^ 24 + key) then
    imemNote s g st ((tab + 3) * 2 ^ 24 + 2 ^ 16 + index) (tab + 1) key
  else {}

/-- A read of a current-tick slot by selector (source 0) or gather (1), with the parity of its group (R155). -/
def ringNote (s : State) (g reader st src slot : Nat) : Note :=
  if s.arr.ringCurSyn.get false (g * 64 + slot / 16) then
    { dets := [recAt dRing reader st (src * 2 ^ 24 + slot) (tickNo s)] } else {}

/-- A read of a previous-tick slot by selector, with the parity of its group (R155). -/
def prevNote (s : State) (g reader st slot : Nat) : Note :=
  if s.arr.ringPrevSyn.get false (g * 64 + slot / 16) then
    { dets := [recAt dRing reader st (2 ^ 12 + slot) (tickNo s)] } else {}

/-- A read of a current-state bit, with the parity of its 16-bit group (R155). -/
def stateNote (s : State) (g st bit : Nat) : Note :=
  if s.arr.stCurSyn.get false (g * 16 + bit / 16) then
    { dets := [recAt dState g st bit (tickNo s)] } else {}

/-- PREMATURE_READ of an operand: it reads 0 (R33, R506). -/
def premature (s : State) (g st op sel : Nat) : Rd :=
  ⟨⟨false, false⟩, { faults := [recAt fPremature g st (op * 2 ^ 24 + sel) (tickNo s)] }⟩

/-- SELECTOR_RESERVED of an operand: it reads 0 (R32, R506). -/
def selReserved (s : State) (g st op sel : Nat) : Rd :=
  ⟨⟨false, false⟩, { faults := [recAt fSelector g st (op * 2 ^ 24 + sel) (tickNo s)] }⟩

/-- A receive track as the network delivers it at a step: data and tag (R105, R108), with the use of its source
entry. -/
def trackIn (s : State) (g st t : Nat) : Bool × Bool × Note :=
  let b := barnOf g
  let e := s.arr.src.get 0 (b * 4096 + t)
  let sb := fld e 8 7
  let lam := if quadOf sb = quadOf b then 6 else 14
  let n := tableNote s g st 2 (b * 4096 + t) t
  if e.getLsbD 15 && decide (lam ≤ st) then
    match s.exe.tracks.find? ((sb * 1024 + (st - lam)) * 64 + fld e 0 6) with
    | some d => (d.val, d.tag, n)
    | none => (false, false, n)
  else (false, false, n)

/-- A receive-map position of a processor: a gateway input bit or a latched link bit-slot (R118, R119, R35). -/
def rmapIn (s : State) (g st i : Nat) : Bool × Note :=
  let e := s.arr.rmap.get 0 (g * 64 + i)
  let n := tableNote s g st 4 (g * 64 + i) i
  if fld e 22 2 = 1 then (s.pen.inCur.getLsbD (fld e 0 10), n)
  else if fld e 22 2 = 2 then (s.exe.recv.get false ((fld e 17 5 * 1024 + fld e 7 10) * 80 + fld e 0 7), n)
  else (false, n)

/-- The port's latch, none before the first landing of the tick (R53). -/
def latchNow (s : State) (g : Nat) : Option W64 :=
  match s.exe.latches.find? (portKey g) with
  | some l => if l.landed then some l.val else none
  | none => none

/-- A selector read in a two-state barn (R32): operand `op` of processor `g` at step `st`. -/
def readTwo (s : State) (g st op sel : Nat) : Rd :=
  if sel < 0x400 then
    if st ≤ sel then premature s g st op sel
    else ⟨⟨s.arr.ringCur.get false (g * 1024 + sel), false⟩, ringNote s g g st 0 sel⟩
  else if sel < 0x430 then
    if st = 0 then premature s g st op sel
    else ⟨⟨s.arr.ringCur.get false ((g - g % 48 + (sel - 0x400)) * 1024 + (st - 1)), false⟩, {}⟩
  else if 0x440 ≤ sel ∧ sel < 0x480 then
    let t := sel - 0x440
    let r := trackIn s g st t
    if r.2.1 && t % 2 == 0 then ⟨⟨false, false⟩, r.2.2.and { sticky := [barnOf g * 64 + t] }⟩
    else ⟨⟨r.1, false⟩, r.2.2⟩
  else if 0x500 ≤ sel ∧ sel < 0x600 then
    ⟨⟨s.arr.stCur.get false (g * 256 + (sel - 0x500)), false⟩, stateNote s g st (sel - 0x500)⟩
  else if 0x600 ≤ sel ∧ sel < 0x640 then
    match latchNow s g with
    | some w => ⟨⟨w.getLsbD (sel - 0x600), false⟩, {}⟩
    | none => premature s g st op sel
  else if 0x640 ≤ sel ∧ sel < 0x680 then
    let r := rmapIn s g st (sel - 0x640)
    ⟨⟨r.1, false⟩, r.2⟩
  else if sel = 0x700 then ⟨⟨false, false⟩, {}⟩
  else if sel = 0x701 then ⟨⟨true, false⟩, {}⟩
  else if sel = 0x702 then ⟨⟨s.tck.tick % 2 == 1, false⟩, {}⟩
  else if sel = 0x703 then ⟨⟨s.tck.tick == 0, false⟩, {}⟩
  else if 0x800 ≤ sel ∧ sel < 0xC00 then
    if s.tck.depth ≤ sel - 0x800 then premature s g st op sel
    else ⟨⟨s.arr.ringPrev.get false (g * 1024 + (sel - 0x800)), false⟩, prevNote s g g st (sel - 0x800)⟩
  else selReserved s g st op sel

/-- A four-state read at an odd offset raises SELECTOR_RESERVED, and PREMATURE_READ beside it where it is also a stall
output at step 0 or an empty latch (R33, R53, R58, R64). -/
def oddRead (s : State) (g st op sel : Nat) (early : Bool) : Rd :=
  let r := selReserved s g st op sel
  if early then ⟨r.val, (premature s g st op sel).note.and r.note⟩ else r

/-- A selector read in a four-state barn (R58), by the pair whose even processor is `g`: v and u, a Z as its rails
(log 127). -/
def readFour (s : State) (g st op sel : Nat) : Rd :=
  if sel < 0x400 then
    if st ≤ sel then premature s g st op sel
    else ⟨⟨s.arr.ringCur.get false (g * 1024 + sel), s.arr.ringCur.get false ((g + 1) * 1024 + sel)⟩,
      (ringNote s g g st 0 sel).and (ringNote s (g + 1) g st 0 sel)⟩
  else if sel < 0x430 then
    if sel % 2 = 1 then oddRead s g st op sel (st == 0)
    else if st = 0 then premature s g st op sel
    else
      let j := g - g % 48 + (sel - 0x400)
      ⟨⟨s.arr.ringCur.get false (j * 1024 + (st - 1)), s.arr.ringCur.get false ((j + 1) * 1024 + (st - 1))⟩, {}⟩
  else if 0x440 ≤ sel ∧ sel < 0x480 then
    if sel % 2 = 1 then selReserved s g st op sel
    else
      let r := trackIn s g st (sel - 0x440)
      let q := trackIn s g st (sel - 0x440 + 1)
      ⟨⟨r.1, q.1⟩, r.2.2.and q.2.2⟩
  else if 0x500 ≤ sel ∧ sel < 0x600 then
    ⟨⟨s.arr.stCur.get false (g * 256 + (sel - 0x500)), s.arr.stCur.get false ((g + 1) * 256 + (sel - 0x500))⟩,
      (stateNote s g st (sel - 0x500)).and (stateNote s (g + 1) st (sel - 0x500))⟩
  else if 0x600 ≤ sel ∧ sel < 0x640 then
    if sel % 2 = 1 then oddRead s g st op sel (latchNow s g).isNone
    else match latchNow s g with
      | some w => ⟨⟨w.getLsbD (sel - 0x600), w.getLsbD (sel - 0x600 + 1)⟩, {}⟩
      | none => premature s g st op sel
  else if 0x640 ≤ sel ∧ sel < 0x680 then
    if sel % 2 = 1 then selReserved s g st op sel
    else
      let r := rmapIn s g st (sel - 0x640)
      let q := rmapIn s g st (sel - 0x640 + 1)
      ⟨⟨r.1, q.1⟩, r.2.and q.2⟩
  else if 0x800 ≤ sel ∧ sel < 0xC00 then
    if s.tck.depth ≤ sel - 0x800 then premature s g st op sel
    else ⟨⟨s.arr.ringPrev.get false (g * 1024 + (sel - 0x800)), s.arr.ringPrev.get false ((g + 1) * 1024 + (sel - 0x800))⟩,
      (prevNote s g g st (sel - 0x800)).and (prevNote s (g + 1) g st (sel - 0x800))⟩
  else readTwo s g st op sel

/-- A selector read in the mode of the processor's barn. -/
def readSel (s : State) (g st op sel : Nat) : Rd :=
  if isFour s (barnOf g) then readFour s g st op sel else readTwo s g st op sel

/-! ### Instruction words -/

/-- The rows that execute an instruction word: an operation class of the table Operations (R25). A reserved class is
executed by the row IDLE, whose result it shares (log 16). -/
inductive OpClass where
  | idle | lutd | lutl | stw | mrd | mwr | xmt | lnk | call | probe | check
deriving DecidableEq, Repr

/-- OPC of a word is a reserved class: 0x3, 0xB to 0xE (R25). -/
def opcReserved (w : W64) : Bool := fld w 60 4 == 0x3 || (0xB ≤ fld w 60 4 && fld w 60 4 ≤ 0xE)

/-- The class of a word. -/
def opClass (w : W64) : OpClass :=
  match fld w 60 4 with
  | 0x1 => .lutd | 0x2 => .lutl | 0x4 => .stw | 0x5 => .mrd | 0x6 => .mwr | 0x7 => .xmt | 0x8 => .lnk
  | 0x9 => .call | 0xA => .probe | 0xF => .check | _ => .idle

/-- A word of class LUTL is a second word when SA = 0xFFF (R29). -/
def isSecond (w : W64) : Bool := fld w 60 4 == 0x2 && fld w 48 12 == 0xFFF
/-- A word of class LUTL is a first word otherwise. -/
def isFirst (w : W64) : Bool := fld w 60 4 == 0x2 && fld w 48 12 != 0xFFF

/-- The word in a processor's slot. -/
def imemWord (s : State) (g st : Nat) : W64 := s.arr.imem.get 0 (g * 1024 + st)

/-- Activity units a word charges (R134). -/
def unitsOf (w : W64) : Nat :=
  match fld w 60 4 with
  | 0x0 => 0 | 0x1 => 1 | 0x2 => if fld w 48 12 = 0xFFF then 1 else 0
  | 0x5 => 3 | 0x6 => 3 | 0x7 => 2 | 0x8 => 2 | _ => 1

/-- FN of a word. -/
def fnOf (w : W64) : Nat := fld w 0 12

/-- Operands A, B, C, D (0 to 3) of the word that `g` executes at `st`. -/
def operand (s : State) (g st k : Nat) : Rd := readSel s g st k (fld (imemWord s g st) (48 - 12 * k) 12)

/-! ### Truth tables -/

/-- An index bit agrees with an operand: it is the operand's value, or the operand is X. -/
def agrees (x : Val) (i k : Nat) : Bool := x.u || (i.testBit k == x.v)

/-- The indices 8·D + 4·C + 2·B + A that operands admit (R26, R59). -/
def lutIndices (a b c d : Val) : List Nat :=
  (List.range 16).filter fun i => agrees a i 0 && agrees b i 1 && agrees c i 2 && agrees d i 3

/-- The function value: the common value over every assignment of the X operands, otherwise X (R26, R59). -/
def lutVal (t : BitVec 16) (a b c d : Val) : Val :=
  let l := lutIndices a b c d
  if l.all fun i => t.getLsbD i then ⟨true, false⟩
  else if l.all fun i => !t.getLsbD i then ⟨false, false⟩
  else ⟨false, true⟩

/-! ### Port descriptors -/

/-- A port descriptor (R46). -/
structure Desc where
  kind   : Nat
  shed   : Nat
  model  : Nat
  lat    : Nat
  aw     : Nat
  astall : Nat
  aproc  : Nat
  aslot  : Nat
  dstLo  : Nat
  dslLo  : Nat
  dstHi  : Nat
  dslHi  : Nat
  dwm1   : Nat
  rsv    : Nat
  base   : Nat
deriving DecidableEq, Repr

/-- The fields of a descriptor word. -/
def Desc.of (w : W128) : Desc :=
  { kind := fld w 126 2, shed := fld w 124 2, model := fld w 116 8, lat := fld w 106 10, aw := fld w 100 6
    astall := fld w 95 5, aproc := fld w 89 6, aslot := fld w 79 10, dstLo := fld w 74 5, dslLo := fld w 64 10
    dstHi := fld w 59 5, dslHi := fld w 49 10, dwm1 := fld w 43 6, rsv := fld w 40 3, base := fld w 0 40 }

/-- A malformed descriptor (R50). -/
def Desc.bad (d : Desc) : Bool :=
  d.kind == 0 || d.kind == 3 || d.rsv != 0
    || (d.kind == 1 && (d.lat != 0 || decide (15 < d.aw) || decide (2 ^ 15 ≤ d.base)))
    || (d.kind == 2 && (decide (d.lat < 128) || decide (32 < d.aw)))
    || decide (48 < d.aproc + d.aw)

/-- Processor `p` of a stall of the barn of `g`. -/
def procAt (g stall p : Nat) : Nat := barnOf g * 1536 + stall * 48 + p

/-- Gathers bits from slot `slot` of the processors listed, bit 0 first: their number, with one PREMATURE_READ when
the slot is not written (R47, R506) and a RING_PARITY for each failing group. -/
def gather (s : State) (g st src fn slot : Nat) (procs : List Nat) : Nat × Note :=
  if procs = [] then (0, {})
  else if st ≤ slot then
    (0, { faults := [recAt fPremature g st (src * 2 ^ 24 + fn * 2 ^ 12 + slot) (tickNo s)] })
  else
    (procs.foldr (fun p n => 2 * n + (s.arr.ringCur.get false (p * 1024 + slot)).toNat) 0,
     procs.foldl (fun n p => n.and (ringNote s p g st 1 slot)) {})

/-- The word address of an access: BASE + the gathered address (R47, R48), modulo 32,768 for a shed. -/
def wordAddr (s : State) (g st fn : Nat) (d : Desc) : Nat × Note :=
  let r := gather s g st 4 fn d.aslot ((List.range d.aw).map fun a => procAt g d.astall (d.aproc + a))
  let sum := d.base + r.1
  (if d.kind = 1 then sum % 2 ^ 15 else sum, r.2)

/-- The write data of an access: the bits below DWM1 + 1 gathered, the others 0 (R47, R49). -/
def wordData (s : State) (g st fn : Nat) (d : Desc) : W64 × Note :=
  let n := d.dwm1 + 1
  let lo := gather s g st 5 fn d.dslLo ((List.range (Nat.min n 48)).map fun i => procAt g d.dstLo i)
  let hi := gather s g st 5 fn d.dslHi ((List.range (n - 48)).map fun i => procAt g d.dstHi i)
  (BitVec.ofNat 64 (lo.1 + 2 ^ 48 * hi.1), lo.2.and hi.2)

/-- Latch bits at or above DWM1 + 1 read 0 (R49). -/
def latchMask (dwm1 : Nat) (w : W64) : W64 := w &&& BitVec.ofNat 64 (2 ^ (dwm1 + 1) - 1)

end Sys2Proof.Machine
end

