-- ==== Sys2Proof/Machine/ShedPort.lean ====
section
/-!
DEFINITION. Port B of the sheds at the bank (R182 to R194, R196, R198, R203, R204): the foreground and background queues,
what port B starts in a bank cycle, the four operations, handover, fill and patrol; and the passing of bank cycles.
-/

namespace Sys2Proof.Machine

/-! ### Stops and packets -/

/-- Quadrant services stop of a quadrant (R259). -/
def servicesStop (q : Nat) : Nat := [10, 13, 34, 37].getD q 0

/-- The barn stops of a quadrant, i = 0 to 7 (R259). -/
def barnStops (q : Nat) : List Nat :=
  [[0, 1, 2, 8, 9, 16, 17, 18], [5, 6, 7, 14, 15, 21, 22, 23], [24, 25, 26, 32, 33, 40, 41, 42],
   [29, 30, 31, 38, 39, 45, 46, 47]].getD q []

/-- Barn stop of a physical barn (R259). -/
def barnStop (b : Nat) : Nat := (barnStops (b / 24)).getD (b % 24 / 3) 0

/-- Ring stop of a groom (R259). -/
def groomStop (g : Nat) : Nat := [11, 12, 35, 36].getD (g / 4) 0

/-- Physical barn of a shed word address (R272). -/
def adBarn (a : W64) : Nat := fld a 17 7
/-- Shed of a shed word address. -/
def adShed (a : W64) : Nat := fld a 15 2
/-- Word within the shed. -/
def adWord (a : W64) : Nat := fld a 0 15
/-- Key of the word: the address itself within [23:0]. -/
def adKey (a : W64) : Nat := fld a 0 24

/-- A response: SRC and DST, SUNIT and DUNIT exchanged; TAG, CLASS and FLOW kept; reserved bits 0 (R270, R271). -/
def respPkt (p : Pkt) (status : Nat) (data : W64) (mask : Byte) (flits : List (BitVec 256)) : Pkt :=
  { p with src := p.dst, dst := p.src, sunit := p.dunit, dunit := p.sunit, rsv := 0, cdir := false, vc := false
           status := BitVec.ofNat 4 status, data := data, mask := mask, flits := flits }

/-- A packet that its unit has made is on its way to its endpoint. -/
def respond (op : Byte) (p : Pkt) (s : State) : State := { s with rls := { s.rls with fly := s.rls.fly ++ [(op, p)] } }

/-- Opcodes of the shed packets (R271). -/
def opShdRead : Byte := 0x01
def opShdWrite : Byte := 0x02
def opShdAdd : Byte := 0x03
def opShdSwap : Byte := 0x04
def opShdResp : Byte := 0x08

/-! ### Owners -/

/-- Key of the SHD_OWNMAP register of a bank. -/
def ownKey (b shed bank : Nat) : Nat := pg .shd b + 0x108 + 4 * (shed * 2 + bank / 4)

/-- Owner code of a bank (R195). -/
def ownerOf (m : SMap W32) (b shed bank : Nat) : Nat := rfld m (ownKey b shed bank) (8 * (bank % 4)) 8

/-- The registers with a bank's owner changed. -/
def setOwner (m : SMap W32) (b shed bank code : Nat) : SMap W32 := rset m (ownKey b shed bank) (8 * (bank % 4)) 8 code

/-- The requester code of a packet, by source stop and unit together (R196, R273); 0xFF for none. -/
def requesterOf (p : Pkt) : Nat :=
  let u := p.sunit.toNat
  let st := p.src.toNat
  if (u = 0x02 ∧ st = 3) ∨ (u = 0x03 ∧ st = 43) ∨ (u = 0xF0 ∧ st = 27) ∨ (u = 0xF1 ∧ st = 4)
    ∨ (0x10 ≤ u ∧ u < 0x20 ∧ st = groomStop (u - 0x10)) then u else 0xFF

/-- Some debug path holds level full. -/
def debugFull (s : State) : Bool := decide (4 ≤ s.dbg.tap.level) || decide (4 ≤ s.dbg.bar.level)

/-- A requester may use a bank through port B: its owner, the loader, or the debug bus master at level full (R196). -/
def mayUse (s : State) (who b shed bank : Nat) : Bool :=
  ownerOf s.regs b shed bank == who || who == 0xF0 || (who == 0xF1 && debugFull s)

/-- An owner code that R195 defines. -/
def ownerValid (c : Nat) : Bool := c < 4 || (0x10 ≤ c && c < 0x20)

/-- The reason for which a handover is refused, 0 for none (R198): 3 a reserved code, 1 the requester, 2 the run
state; DESIGN CHOICE (log 152): of several the one that stands first here. -/
def ownReason (s : State) (who b shed bank new : Nat) : Nat :=
  let cur := ownerOf s.regs b shed bank
  let still := runIn s [.empty, .loaded, .halted, .faulted]
  if !ownerValid new then 3
  else if who = 0xF0 then 0
  else if cur ≠ 0 ∧ cur ≠ 1 ∧ who ≠ cur ∧ who ≠ 0x02 ∧ !(who == 0xF1 && debugFull s) then 1
  else if (cur = 1 ∨ new = 1) ∧ !still then 2
  else 0

/-- A write of SHD_OWNER takes effect (R198): the handover or its refusal, in SHD_OWNER_RESULT. -/
def ownerWrite (who b : Nat) (v : W32) (s : State) : State :=
  let new := fld v 8 8
  let shed := fld v 3 2
  let bank := fld v 0 3
  let why := ownReason s who b shed bank new
  let res := BitVec.ofNat 32 ((if why = 0 then 1 else 2) * 2 ^ 30 + why * 2 ^ 28 + who * 2 ^ 16 + new * 2 ^ 8
    + shed * 2 ^ 3 + bank)
  let m := rput s.regs (pg .shd b + 0x104) res
  raiseIf (why != 0) { s with regs := if why = 0 then setOwner m b shed bank new else m } (pg .shd b) 1

/-! ### Bank cycles -/

/-- Key of a shed word: barn × 2^17 + shed × 2^15 + word address. -/
def shedKey (b shed word : Nat) : Nat := b * 2 ^ 17 + shed * 2 ^ 15 + word

/-- A shed word and its parity syndrome as they stood before a port A write of the bank cycle `gen` (R183). -/
def preCycle (s : State) (gen key : Nat) : W64 × BitVec 8 :=
  match s.exe.aWrites.find? (fun a => a.word == key && a.gen == gen) with
  | some a => (a.old, a.oldSyn)
  | none => (Memory.word s.shed.mem (8 * key), s.shed.syn.get 0 key)

/-- Port A writes the word in the bank cycle that a port B access of now shares with it (R192). -/
def aWritesNow (s : State) (key : Nat) : Bool := s.exe.aWrites.any fun w => w.word == key && w.gen == s.clk.gen

/-- The bank of a word is free to port B: bank 7, or one that port A does not occupy in this bank cycle (R187). -/
def bankFree (s : State) (key : Nat) : Bool :=
  key / 4096 % 8 == 7 || !(s.exe.aUse.contains (key / 4096, s.clk.gen))

/-- The shed with the bytes of a word written, with matching parity. -/
def portBWrite (h : Shed) (key : Nat) (w : W64) (mask : Byte) : Shed :=
  { h with
    mem := Memory.putMasked h.mem (8 * key) w mask
    syn := h.syn.put 0 key (h.syn.get 0 key &&& ~~~mask) }

/-- Schedule steps are being delivered to the array: the run is RUNNING, a tick's schedule has begun, and neither a
freeze nor the commit window holds it (R80, R95, R102). -/
def delivering (s : State) : Bool :=
  s.tck.run == .running && s.tck.inTick && !s.tck.inWin && s.tck.freeze.isNone

/-- A schedule step can still use this bank cycle: a tick is executed, or begins now (R183, R184). -/
def stepsNow (s : State) : Bool := s.tck.run == .running && !s.tck.inWin && s.tck.freeze.isNone

/-! ### The background queue -/

/-- Key of the word a fill writes next. -/
def fillKey (b : Nat) (f : Fill) : Nat := shedKey b f.shed (f.bank * 4096 + f.next)

/-- A fill word is written, or discarded when port A writes that bank 7 word in the same cycle; after the last word BUSY
returns to 0 and FILL_DONE is set (R193, R203). -/
def putFill (b : Nat) (s : State) : State :=
  match s.shed.fills.find? b with
  | none => s
  | some f =>
    let key := fillKey b f
    let lost := f.bank == 7 && aWritesNow s key
    let h := if lost then s.shed else portBWrite s.shed key f.pat 0xFF
    let last := f.next == f.last
    let t := { s with
      shed := { h with
        fills := if last then h.fills.erase b else h.fills.set b { f with next := f.next + 1, came := s.clk.gen + 1 } }
      regs := if lost then rbump s.regs (pg .shd b + 0x140) 0 32 1 else s.regs }
    raiseIf last (raiseIf lost t (pg .shd b) 2) (pg .shd b) 3

/-- The word the patrol reads next, within the barn's four sheds. -/
def patrolKey (s : State) (b : Nat) : Nat := b * 2 ^ 17 + s.shed.patrol.get 0 b

/-- A read of the patrol's sweep: the first failure is latched in SHD_PATROL_ERR while its VALID = 0; the next read
comes SPACING bank cycles later at the earliest (R204). -/
def patrolStep (b : Nat) (s : State) : State :=
  let key := patrolKey s b
  let syn := (preCycle s s.clk.gen key).2
  let reg := pg .shd b + 0x13C
  let latch := syn != 0 && !(rget s.regs reg).getLsbD 31
  let w := BitVec.ofNat 32 (2 ^ 31 + syn.toNat * 2 ^ 23 + key % 2 ^ 17)
  raiseIf latch { s with
    shed := { s.shed with
      patrol := s.shed.patrol.put 0 b ((s.shed.patrol.get 0 b + 1) % 2 ^ 17)
      patNext := s.shed.patNext.put 0 b (s.clk.gen + rfld s.regs (pg .shd b + 0x138) 0 16) }
    regs := if latch then rput s.regs reg w else s.regs } (pg .shd b) 4

/-- The patrol has a read for a shed: enabled, its spacing passed, and its sweep stands in the shed (R204). -/
def patrolDue (s : State) (k : Nat) : Bool :=
  (rget s.regs (pg .shd (k / 4) + 0x138)).getLsbD 31 && decide (s.shed.patNext.get 0 (k / 4) ≤ s.clk.gen)
    && s.shed.patrol.get 0 (k / 4) / 2 ^ 15 == k % 4

/-- The fill engine has a word for a shed. -/
def fillOf (s : State) (k : Nat) : Option Fill := (s.shed.fills.find? (k / 4)).filter fun f => f.shed == k % 4

/-- The head of a shed's background queue, in order of arrival: a patrol read (true) or a fill word, with the key of its
word (R186). -/
def bgHead (s : State) (k : Nat) : Option (Bool × Nat) :=
  match fillOf s k with
  | some f =>
    if patrolDue s k && decide (s.shed.patNext.get 0 (k / 4) < f.came) then some (true, patrolKey s (k / 4))
    else some (false, fillKey (k / 4) f)
  | none => if patrolDue s k then some (true, patrolKey s (k / 4)) else none

/-- The background head exists and its bank is free. -/
def bgFree (s : State) (k : Nat) : Bool :=
  match bgHead s k with
  | some h => bankFree s h.2
  | none => false

/-- A background start: the loss count returns to 0 (R188). -/
def bgStart (k : Nat) (s : State) : State :=
  let t := match bgHead s k with
    | some (true, _) => patrolStep (k / 4) s
    | some (false, _) => putFill (k / 4) s
    | none => s
  { t with shed := { t.shed with loss := t.shed.loss.erase k, want := t.shed.want.filter (· != k) } }

/-- Background losses at which the credit is due (R188). -/
def creditDue : Nat := 1024

/-! ### Foreground operations -/

/-- An access that its requester may not make: OWNERSHIP, ERR_COUNT and OWN_ERR (R196). -/
def ownErr (p : Pkt) (s : State) : State :=
  let b := adBarn p.addr
  respond opShdResp (respPkt p 2 0 0 []) (raiseInt { s with regs := rerr s.regs (pg .shd b) 1 } (pg .shd b) 0)

/-- A parity failure is reported to the requester with the mask of the failing bytes, and counted (R157, R191). -/
def parityErr (p : Pkt) (w : W64 × BitVec 8) (s : State) : State :=
  respond opShdResp (respPkt p 3 w.1 w.2 []) { s with regs := rerr s.regs (pg .shd (adBarn p.addr)) 1 }

/-- A WRITE, or the write cycle of an ADD or SWAP, that port A's write of the word discards: WRITE_LOST and SHD_WLOST
(R193, R194). `w`: the word that the response carries. -/
def writeLost (p : Pkt) (w : W64) (s : State) : State :=
  respond opShdResp (respPkt p 1 w 0 []) { s with regs := rbump s.regs (pg .shd (adBarn p.addr) + 0x140) 0 32 1 }

/-- READ at the bank (R189, R191). -/
def shedRead (p : Pkt) (s : State) : State :=
  let w := preCycle s s.clk.gen (adKey p.addr)
  if w.2 = 0 then respond opShdResp (respPkt p 0 w.1 0 []) s else parityErr p w s

/-- WRITE at the bank, discarded when port A writes the same word in the same cycle (R189, R193). -/
def shedWriteB (p : Pkt) (s : State) : State :=
  if aWritesNow s (adKey p.addr) then writeLost p 0 s
  else respond opShdResp (respPkt p 0 0 0 []) { s with shed := portBWrite s.shed (adKey p.addr) p.data p.mask }

/-- Port B of a shed. -/
def portB (s : State) (k : Nat) : ShedPort := s.shed.ports.get {} k

/-- The state with port B of a shed replaced. -/
def setPortB (s : State) (k : Nat) (x : ShedPort) : State := { s with shed := { s.shed with ports := s.shed.ports.put {} k x } }

/-- Number of the shed of a shed word address. -/
def shedNo (a : W64) : Nat := adBarn a * 4 + adShed a

/-- The read cycle of an ADD or SWAP; its write cycle comes next (R189, R190, R194). -/
def shedAtomic (p : Pkt) (f : W64 → W64) (s : State) : State :=
  let w := preCycle s s.clk.gen (adKey p.addr)
  if w.2 ≠ 0 then parityErr p w s
  else setPortB s (shedNo p.addr) { portB s (shedNo p.addr) with
    wr := some ⟨adKey p.addr, f w.1, w.1, p, aWritesNow s (adKey p.addr)⟩ }

/-- The write cycle of an ADD or SWAP (R190, R194). -/
def shedFinish (k : Nat) (w : ShedWr) (s : State) : State :=
  let t := setPortB s k { portB s k with wr := none }
  if w.lost || aWritesNow s w.key then writeLost w.pkt w.old t
  else respond opShdResp (respPkt w.pkt 0 w.old 0 []) { t with shed := portBWrite t.shed w.key w.word 0xFF }

/-- An operation at the bank, for its owner (R189, R196). -/
def shedOp (op : Byte) (p : Pkt) (s : State) : State :=
  if !mayUse s (requesterOf p) (adBarn p.addr) (adShed p.addr) (adWord p.addr / 4096) then ownErr p s
  else if op = opShdRead then shedRead p s
  else if op = opShdWrite then shedWriteB p s
  else if op = opShdAdd then shedAtomic p (fun w => w + p.data) s
  else shedAtomic p (fun _ => p.data) s

/-- A GO takes effect: checked against the bank's owner, it starts the fill (R203). DESIGN CHOICE (log 151): the pattern is
the one that the registers hold then. -/
def fillGo (who b : Nat) (w : W32) (s : State) : State :=
  let shed := fld w 27 2
  let bank := fld w 24 3
  if mayUse s who b shed bank then
    let pat := rget s.regs (pg .shd b + 0x134) ++ rget s.regs (pg .shd b + 0x130)
    { s with shed := { s.shed with
      fills := s.shed.fills.set b ⟨shed, bank, fld w 12 12, fld w 0 12, pat, s.clk.gen + 1⟩ } }
  else raiseInt s (pg .shd b) 0

/-- The word that a foreground request accesses; none for a register write, which waits for no bank (log 124). -/
def reqKey : ShedReq → Option Nat
  | .op _ p => some (adKey p.addr)
  | .owner _ _ => none
  | .fill _ _ => none

/-- The request's bank is free. -/
def reqFree (s : State) (r : ShedReq) : Bool :=
  match reqKey r with
  | some key => bankFree s key
  | none => true

/-- A foreground request of a shed starts. -/
def fgStart (k : Nat) (r : ShedReq) (s : State) : State :=
  match r with
  | .op op p => shedOp op p s
  | .owner who v => ownerWrite who (k / 4) v s
  | .fill who w => fillGo who (k / 4) w s

/-- A foreground start while the background head's bank is free is a background loss (R188). -/
def addLoss (k : Nat) (s : State) : State :=
  if bgFree s k then { s with shed := { s.shed with loss := s.shed.loss.put 0 k (s.shed.loss.get 0 k + 1) } } else s

/-! ### One bank cycle of port B -/

/-- Port B of a shed starts an access in this bank cycle (R185). -/
def markStart (k : Nat) (s : State) : State :=
  { s with shed := { s.shed with started := s.shed.started.put 0 k (s.clk.gen + 1) } }

/-- What port B of a shed starts in this bank cycle, by the table of R187: the write cycle of an ADD or SWAP before
anything else; the background head when its credit is due; the foreground head; the background head that is to be
started. -/
def serveShed (k : Nat) (s : State) : State :=
  let p := portB s k
  if s.pwr.relock || s.shed.started.get 0 k == s.clk.gen + 1 then s
  else match p.wr with
  | some w => if bankFree s w.key then shedFinish k w (markStart k s) else s
  | none =>
    if creditDue ≤ s.shed.loss.get 0 k && bgFree s k then bgStart k (markStart k s)
    else
      let bg := if s.shed.want.contains k && bgFree s k then bgStart k (markStart k s) else s
      match p.queue with
      | [] => bg
      | r :: rest =>
        if reqFree s r then fgStart k r (setPortB (addLoss k (markStart k s)) k { p with queue := rest }) else bg

/-- A request enters the foreground queue of a shed; where no schedule step can still use this bank cycle, port B takes
its turn at once, otherwise as the cycle ends (R186, log 125). -/
def shedArrive (k : Nat) (r : ShedReq) (s : State) : State :=
  let t := setPortB s k { portB s k with queue := (portB s k).queue ++ [r] }
  if stepsNow s then t else serveShed k t

/-! ### Time -/

/-- No port B has anything to do. -/
def portsIdle (s : State) : Bool := s.shed.ports.isEmpty && s.shed.want.isEmpty

/-- Port B of every shed that has something to do takes its turn in this bank cycle. -/
def serveSheds (s : State) : State := (s.shed.ports.map (·.1) ++ s.shed.want).foldl (fun s k => serveShed k s) s

/-- Time passes by `n` periods of the step clock, with the bank cycles of port B (R182). -/
def pass : Nat → State → State
  | 0, s => advance 0 s
  | n + 1, s => if portsIdle s then advance (n + 1) s else pass n (advance 1 (serveSheds s))

/-- Time passes up to a period of the generator. -/
def passTo (gen : Nat) (s : State) : State := pass (gen - s.clk.gen) s

/-- Time passes up to an instant in picoseconds, in whole periods. -/
def passPs (ps : Nat) (s : State) : State := pass ((ps - s.clk.ps + stepPs s.regs - 1) / stepPs s.regs) s

end Sys2Proof.Machine
end

