-- ==== Sys2Proof/Machine/Array.lean ====
section
/-!
DEFINITION. Processor steps: the rows IDLE, LUTD, LUTL, STW, MRD, MWR, XMT, LNK, CALL, PROBE, CHECK and READ_LANDING.
A processor's command takes place at its schedule step; the commands of a tick come in the order of the steps, and at
a step in any order (log 16).
-/

namespace Sys2Proof.Machine

/-- Channel bit k of an address: the parity of A[38:0] ANDed with mask k of DMC_MASK (R209, R210). -/
def hashBit (m : SMap W32) (k addr : Nat) : Bool :=
  let mask := rfld m (rkey 0xA110 k) 0 32 + rfld m (rkey 0xA114 k) 0 8 * 2 ^ 32
  (List.range 39).foldl (fun p i => p != (addr.testBit i && mask.testBit i)) false

/-- Channel of an address (R209). -/
def channelOf (m : SMap W32) (addr : Nat) : Nat := (hashBit m 0 addr).toNat + 2 * (hashBit m 1 addr).toNat

/-- The generator period of a schedule step at or after the step counter. -/
def genAt (s : State) (st : Nat) : Nat := s.clk.gen + (st - s.tck.step)

/-- The record of a contract fault of a step, with the period of the step (R144, R181). -/
def faultAt (s : State) (code proc st detail : Nat) : FaultRec :=
  { recAt code proc st detail (tickNo s) with per := genAt s st }

/-- At or after a period the array executes nothing more: a stop has been sent or received whose CTIME it is not before
(R147, R248). -/
def stoppedBy (s : State) (g : Nat) : Bool :=
  match s.tck.stopAt with
  | some t => decide (ctimeGen s t ≤ g)
  | none => false

/-- Step `st` of the tick may be executed: it lies in the schedule and not before the step counter, no hold and no stop
is to freeze the array at or before it, and every landing before it has taken place. -/
def stepOpen (s : State) (st : Nat) : Bool :=
  delivering s && decide (st < s.tck.depth) && decide (s.tck.step ≤ st)
    && s.tck.holds.all (fun h => h.tick != s.tck.tick || decide (st < h.step))
    && s.exe.flights.all (fun f => decide (st < f.land)) && !stoppedBy s (genAt s st)

/-- Processor `g` executes slot `st` now, and its word is of class `cls` (R21): its barn is placed, it has executed
every slot before, and in a four-state barn it is the even processor of its pair (R57). -/
def stepOk (s : State) (g st : Nat) (cls : OpClass) : Bool :=
  stepOpen s st && s.exe.ran.get 0 g == st && placed s (barnOf g)
    && (!isFour s (barnOf g) || g % 2 == 0) && opClass (imemWord s g st) == cls

/-- The processor that executes a processor's slots: the even one of its pair in a four-state barn (R57). -/
def executor (s : State) (g : Nat) : Nat := if isFour s (barnOf g) then g / 2 * 2 else g

/-- A store of words by slot holds an entry of a processor, or its pair, in the schedule. -/
def inSchedule {α : Type} (m : SMap α) (s : State) (g : Nat) : Bool :=
  let e := executor s g
  !(m.within (e * 1024) s.tck.depth).isEmpty
    || (isFour s (barnOf g) && !(m.within ((e + 1) * 1024) s.tck.depth).isEmpty)

/-- A processor, or its pair, has in the schedule a word other than 0 or one that fails its parity (R21, R155). -/
def hasWords (s : State) (g : Nat) : Bool := inSchedule s.arr.imem s g || inSchedule s.arr.imemSyn s g

/-- The array as a tick begins: in the slots of the schedule the ring of a processor whose words are all IDLE with zero
fields takes their results, 0, at once, since no command stands for them (R21, R25, log 16). -/
def idleRings (s : State) : Arr :=
  let busy (g slot : Nat) : Bool := decide (s.tck.depth ≤ slot) || !placed s (barnOf g) || hasWords s g
  { s.arr with
    ringCur := s.arr.ringCur.keep fun k => busy (k / 1024) (k % 1024)
    ringCurSyn := s.arr.ringCurSyn.keep fun k => busy (k / 64) (k % 64 * 16) }

/-- Fetch: the word's parity, and in a four-state barn the odd processor's word, which must be zero (R155, R57). -/
def fetchNote (s : State) (g st : Nat) : Note :=
  let one (p : Nat) : Note :=
    let syn := s.arr.imemSyn.get 0 (p * 1024 + st)
    if syn = 0 then {} else imemNote s p st (syn.toNat * 2 ^ 16 + st) 0 (p * 1024 + st)
  if isFour s (barnOf g) then
    (one g).and ((one (g + 1)).and
      (if imemWord s (g + 1) st = 0 then {}
       else { faults := [recAt fOpcode (g + 1) st (2 ^ 24) (tickNo s)] }))
  else one g

/-- Units the word charges its barn: twice in a four-state barn (R134, R135). -/
def chargeOf (s : State) (g st : Nat) : Nat :=
  unitsOf (imemWord s g st) * (if isFour s (barnOf g) then 2 else 1)

/-- The execution after the charge of a word: the barn's sum at the step, and POWER_BUDGET when it exceeds the
budget (R138, R144). -/
def addCharge (s : State) (g st : Nat) (e : Exe) : Exe :=
  let u := chargeOf s g st
  let k := barnOf g * 1024 + st
  let sum := e.charge.get 0 k + u
  let p := if u = 0 then e.chargeP.get 0 k else Nat.max (e.chargeP.get 0 k) (g + 1)
  let b := s.arr.budget.get 0 (barnOf g)
  let cu := if sum < 4096 then BitVec.ofNat 12 sum else Config.chargeField sum
  let rec' : FaultRec := { faultAt s fPower (p - 1) st b with detail := cu ++ 0#4 ++ BitVec.ofNat 12 b }
  { e with
    charge := e.charge.put 0 k sum
    chargeP := e.chargeP.put 0 k p
    faults := if b < sum then
        addFault (fun f => f.code == 0x0A && f.step == rec'.step && f.barn == rec'.barn) rec' e.faults
      else e.faults }

/-- The result enters the slot of the ring; the first slot of a group begins its parity anew (R21, R155, log 8). -/
def arrResult (a : Arr) (four : Bool) (g st : Nat) (x : Val) : Arr :=
  let r := a.ringCur.put false (g * 1024 + st) x.v
  let n := if st % 16 = 0 then a.ringCurSyn.erase (g * 64 + st / 16) else a.ringCurSyn
  { a with
    ringCur := if four then r.put false ((g + 1) * 1024 + st) x.u else r
    ringCurSyn := if four && st % 16 == 0 then n.erase ((g + 1) * 64 + st / 16) else n }

/-- Repairs are requested once for each word. -/
def addRepairs (l new : List Repair) : List Repair :=
  new.foldl (fun l r => if l.any (fun x => x.tab == r.tab && x.key == r.key) then l else l ++ [r]) l

/-- Both lockstep copies of the repairs requested (R177). -/
def mapRepairs (f : List Repair → List Repair) (i : Integ) : Integ :=
  { i with repairs := f i.repairs, repairsB := f i.repairsB }

/-- Repairs are started (R165). -/
def startRepairs (l : List Repair) : Integ → Integ := mapRepairs fun r => addRepairs r l

/-- What every executed word does: time reaches its step, the fetch and the operands give their notes, the barn is
charged, and the result enters the ring (R21). -/
def retire (s : State) (g st : Nat) (x : Val) (n : Note) : State :=
  let m := (fetchNote s g st).and n
  let t := pass (st - s.tck.step) s
  { t with
    tck := { s.tck with step := st }
    arr := arrResult s.arr (isFour s (barnOf g)) g st x
    exe := addCharge s g st { s.exe with
      ran := s.exe.ran.put 0 g (st + 1)
      faults := s.exe.faults ++ stamped (genAt s st) m.faults
      dets := s.exe.dets ++ stamped (genAt s st) m.dets
      sticky := s.exe.sticky ++ m.sticky }
    integ := startRepairs m.reps s.integ }

/-- An event of the always-on domain, or of what lies outside the chip, takes place if it can; otherwise nothing happens
(log 2). -/
def event (c : Bool) (s t : State) : Host.Outcome State Fault Refusal := .next (if c then t else s)

/-- An event takes place if it can; otherwise nothing happens (log 2). In Stabled every domain but the always-on one is
stopped, and no other event takes place (R453, log 35). -/
def when (c : Bool) (s t : State) : Host.Outcome State Fault Refusal := event (c && !s.pwr.stabled) s t

/-! ### IDLE, LUTD, LUTL, STW -/

/-- IDLE writes 0; a reserved class writes 0 and raises OPCODE_RESERVED (R25). -/
def idleNote (s : State) (g st : Nat) : Note :=
  let w := imemWord s g st
  if opcReserved w then { faults := [recAt fOpcode g st (fld w 60 4) (tickNo s)] } else {}

/-- The effect of IDLE and of the reserved classes. -/
def doIdle (g st : Nat) (s : State) : State := retire s g st ⟨false, false⟩ (idleNote s g st)

/-- IDLE (R25). -/
def execIdle (g : Gp) (st : Step) (s : State) : Host.Outcome State Fault Refusal :=
  when (stepOk s g st .idle) s (doIdle g st s)

/-- The dictionary entry that a LUTD names (R43). -/
def dictOf (s : State) (g fn : Nat) : BitVec 16 := s.arr.dict.get 0 (barnOf g * 4096 + fn)

/-- The notes of the four operands of a word. -/
def fourNotes (s : State) (g st : Nat) : Note :=
  (operand s g st 0).note.and ((operand s g st 1).note.and ((operand s g st 2).note.and (operand s g st 3).note))

/-- The value of a LUTD (R25, R26, R59). -/
def lutdVal (s : State) (g st : Nat) : Val :=
  lutVal (dictOf s g (fnOf (imemWord s g st))) (operand s g st 0).val (operand s g st 1).val (operand s g st 2).val
    (operand s g st 3).val

/-- The effect of LUTD. -/
def doLutd (g st : Nat) (s : State) : State :=
  let fn := fnOf (imemWord s g st)
  retire s g st (lutdVal s g st) ((fourNotes s g st).and (tableNote s g st 0 (barnOf g * 4096 + fn) fn))

/-- LUTD (R25). -/
def execLutd (g : Gp) (st : Step) (s : State) : Host.Outcome State Fault Refusal :=
  when (stepOk s g st .lutd) s (doLutd g st s)

/-- LITERAL_PAIR_BROKEN of a first word: cause 2 in slot S − 1, cause 0 when no second word follows (R31). -/
def firstNote (s : State) (g st : Nat) : Note :=
  if st + 1 = s.tck.depth then { faults := [recAt fLiteral g st (2 * 2 ^ 24) (tickNo s)] }
  else if isSecond (imemWord s g (st + 1)) then {} else { faults := [recAt fLiteral g st 0 (tickNo s)] }

/-- LITERAL_PAIR_BROKEN of a second word, cause 1: no first word stands in the slot before (R31). -/
def secondNote (s : State) (g st : Nat) : Note :=
  if st ≠ 0 ∧ isFirst (imemWord s g (st - 1)) then {}
  else { faults := [recAt fLiteral g st (2 ^ 24) (tickNo s)] }

/-- The operands a first word leaves for its second word (R30). -/
def litOf (s : State) (g st : Nat) : LitPend :=
  let a := (operand s g st 0).val
  let b := (operand s g st 1).val
  let c := (operand s g st 2).val
  let d := (operand s g st 3).val
  { step := st
    val := BitVec.ofBool d.v ++ BitVec.ofBool c.v ++ BitVec.ofBool b.v ++ BitVec.ofBool a.v
    unk := BitVec.ofBool d.u ++ BitVec.ofBool c.u ++ BitVec.ofBool b.u ++ BitVec.ofBool a.u }

/-- The value of a second word: the table on the operands of the step before. With no first word before it, the spec
states no value: both rails are free, the unknown rail in a four-state barn (log 4). -/
def secondVal (s : State) (g st : Nat) : Val :=
  let t : BitVec 16 := (imemWord s g st).extractLsb' 0 16
  let at' (p : LitPend) (k : Nat) : Val := ⟨p.val.getLsbD k, p.unk.getLsbD k⟩
  let broken : Val := ⟨(Config.freeWord s.clk.free).getLsbD 0,
    isFour s (barnOf g) && (Config.freeWord s.clk.free).getLsbD 1⟩
  match s.exe.lit.find? g with
  | some p => if p.step + 1 = st then lutVal t (at' p 0) (at' p 1) (at' p 2) (at' p 3) else broken
  | none => broken

/-- The effect of LUTL: a first word keeps its operands and writes 0; a second word writes the value (R30). -/
def doLutl (g st : Nat) (s : State) : State :=
  if isSecond (imemWord s g st) then
    let t := retire s g st (secondVal s g st) (secondNote s g st)
    { t with
      exe := { t.exe with lit := t.exe.lit.erase g }
      clk := { t.clk with free := t.clk.free + 1 } }
  else
    let t := retire s g st ⟨false, false⟩ ((fourNotes s g st).and (firstNote s g st))
    { t with exe := { t.exe with lit := t.exe.lit.set g (litOf s g st) } }

/-- LUTL (R30). -/
def execLutl (g : Gp) (st : Step) (s : State) : Host.Outcome State Fault Refusal :=
  when (stepOk s g st .lutl) s (doLutl g st s)

/-- A counted write to a next-state bit; a second one is suppressed (R41). -/
def nextWrite (m : SMap NextBit) (g bit st : Nat) (v : Bool) : SMap NextBit :=
  match m.find? (g * 256 + bit) with
  | some _ => m
  | none => m.set (g * 256 + bit) ⟨v, st⟩

/-- STATE_DOUBLE_WRITE, when the bit has been written in the tick (R41, R144). -/
def doubleNote (s : State) (g st bit : Nat) : Note :=
  match s.arr.stNext.find? (g * 256 + bit) with
  | some n => { faults := [recAt fDouble g st (n.step * 2 ^ 10 + bit) (tickNo s)] }
  | none => {}

/-- The pair that an STW writes: A when B is 1; with B = X, the current value if A is known and equal to it, and
otherwise X (R60). -/
def stwVal (s : State) (g bit : Nat) (a b : Val) : Val :=
  let cur : Val := ⟨s.arr.stCur.get false (g * 256 + bit), s.arr.stCur.get false ((g + 1) * 256 + bit)⟩
  if b.u then (if !a.u && a == cur then a else ⟨false, true⟩) else a

/-- The effect of STW (R41, R60). -/
def doStw (g st : Nat) (s : State) : State :=
  let a := operand s g st 0
  let b := operand s g st 1
  let bit := fnOf (imemWord s g st) % 256
  let four := isFour s (barnOf g)
  let counts := b.val.v || b.val.u
  let x := stwVal s g bit a.val b.val
  let t := retire s g st a.val ((a.note.and b.note).and (if counts then doubleNote s g st bit else {}))
  let n := nextWrite s.arr.stNext g bit st x.v
  let next := if counts then (if four then nextWrite n (g + 1) bit st x.u else n) else s.arr.stNext
  { t with arr := { t.arr with stNext := next } }

/-- STW (R41). -/
def execStw (g : Gp) (st : Step) (s : State) : Host.Outcome State Fault Refusal :=
  when (stepOk s g st .stw) s (doStw g st s)

/-! ### MRD and MWR -/

/-- The descriptor that an MRD or MWR names by FN[9:0] (R25, R46). -/
def descOf (s : State) (g st : Nat) : Desc :=
  Desc.of (s.arr.desc.get 0 (barnOf g * 4096 + fnOf (imemWord s g st) % 1024))

/-- The use of the descriptor: its parity, and OPCODE_RESERVED cause 2 when it is malformed (R155, R50). -/
def descNote (s : State) (g st : Nat) : Note :=
  let fn := fnOf (imemWord s g st) % 1024
  (tableNote s g st 1 (barnOf g * 4096 + fn) fn).and
    (if (descOf s g st).bad then { faults := [recAt fOpcode g st (2 * 2 ^ 24 + fn) (tickNo s)] } else {})

/-- An issue on a memory port, counted whether A is 0 or 1: a second one in a step raises PORT_OVERSUBSCRIBED (R51). -/
def addIssue (s : State) (g st : Nat) (e : Exe) : Exe :=
  let k := portKey g * 1024 + st
  let f := faultAt s fPort g st (portKey g % 4)
  match s.exe.issues.find? k with
  | none => { e with issues := e.issues.set k (g + 1) }
  | some p =>
    let h := if p ≤ g + 1 then f else faultAt s fPort (p - 1) st (portKey g % 4)
    { e with
      issues := e.issues.set k (Nat.max p (g + 1))
      faults := addFault (fun x => x.code == f.code && x.step == f.step && x.barn == f.barn && x.detail == f.detail)
        h e.faults }

/-- Key of a bank in a step. -/
def bankKey (b shed word st : Nat) : Nat := ((b * 4 + shed) * 8 + word / 4096) * 1024 + st

/-- Another port has accessed the bank in the step (R51). -/
def bankConflict (s : State) (g st shed word : Nat) : Bool :=
  match s.exe.banks.find? (bankKey (barnOf g) shed word st) with
  | some a => a.ports != BitVec.ofNat 4 (2 ^ (portKey g % 4))
  | none => false

/-- A port A access to a bank: accesses of different ports to one bank in a step raise SHED_BANK_CONFLICT, with the
ports that took part (R51, R144). -/
def addBank (s : State) (g st shed word : Nat) (e : Exe) : Exe :=
  let k := bankKey (barnOf g) shed word st
  let me := BitVec.ofNat 4 (2 ^ (portKey g % 4))
  match s.exe.banks.find? k with
  | none => { e with banks := e.banks.set k ⟨me, g⟩ }
  | some a =>
    let ports := a.ports ||| me
    let p := Nat.max a.proc g
    let place := shed * 2 ^ 12 + word / 4096 * 2 ^ 8
    let f := faultAt s fBank p st (place + ports.toNat)
    { e with
      banks := e.banks.set k ⟨ports, p⟩
      faults := if ports = me then e.faults
        else addFault (fun x => x.code == f.code && x.step == f.step && x.barn == f.barn
          && fld x.detail 4 24 == place / 16) f e.faults }

/-- A port A read's parity check (R155, R179). -/
def shedNote (s : State) (g st shed word : Nat) (syn : BitVec 8) : Note :=
  if syn = 0 then {}
  else { dets := [recAt dShed g st (shed * 2 ^ 24 + word / 4096 * 2 ^ 21 + syn.toNat * 2 ^ 13 + word % 4096)
            (tickNo s)] }

/-- Base byte address of a memory model (DMC_MODEL_BASE). -/
def modelBase (m : SMap W32) (model : Nat) : Nat :=
  rfld m (rkey 0xA124 model) 12 20 * 2 ^ 12 + rfld m (rkey 0xA128 model) 0 7 * 2 ^ 32

/-- Byte address of a word offset of a model: modulo the model's size (R221). -/
def modelAddr (m : SMap W32) (model off : Nat) : Nat :=
  modelBase m model + 8 * (off % 2 ^ rfld m (rkey 0xA12C model) 0 6)

/-- The newest held or queued write to a word: in the holding pen among the ticks before, then in the model write
queue (R222). -/
def forwarded (s : State) (addr : Nat) : Option W64 :=
  match s.pen.old.writes.reverse.find? (fun w => w.addr == addr) with
  | some w => some w.word
  | none => (s.dmc.wq.reverse.find? fun w => w.addr == addr).map MWrite.word

/-- Read latency of a descriptor in steps: the image's shed read latency, or LAT (R52). -/
def descLat (s : State) (d : Desc) : Nat := if d.kind = 1 then s.arr.shedLat else d.lat

/-- SCHEDULE_OVERRUN, cause 0: the landing would fall at or after step S (R53). -/
def overrunNote (s : State) (g st : Nat) : Note :=
  let d := descOf s g st
  if !d.bad && decide (s.tck.depth ≤ st + descLat s d) then
    { faults := [recAt fOverrun g st (fnOf (imemWord s g st) % 1024) (tickNo s)] }
  else {}

/-- A free word: the value the spec leaves open where two ports meet in one bank (log 4). -/
def freeNow (s : State) : W64 := Config.freeWord s.clk.free

/-- The shed word and syndrome that a port A read of step `st` finds in its bank cycle (R183): port B has had its turn in
the cycles before. -/
def shedFound (s : State) (g st : Nat) : W64 × BitVec 8 :=
  let d := descOf s g st
  let v := pass (st - s.tck.step) s
  preCycle v v.clk.gen (shedKey (barnOf g) d.shed (wordAddr s g st (fnOf (imemWord s g st) % 1024) d).1)

/-- The read that an MRD puts in flight (R52, R222). -/
def mrdFlight (s : State) (g st : Nat) (en : Bool) : Flight :=
  let d := descOf s g st
  let a := (wordAddr s g st (fnOf (imemWord s g st) % 1024) d).1
  let fwd := forwarded s (modelAddr s.regs d.model a)
  let shedWord := if bankConflict s g st d.shed a then freeNow s
    else (shedFound s g st).1
  { barn := barnOf g, port := portKey g % 4, issue := st, land := st + descLat s d, en := en, proc := g
    model := d.kind == 2, modelNo := d.model
    addr := modelAddr s.regs d.model a, dwm1 := d.dwm1
    word := if d.kind = 1 then shedWord else fwd.getD 0
    arrived := !en || d.kind == 1 || fwd.isSome
    bad := false, late := false, seq := s.dmc.seq }

/-- The access of an enabled MRD: the gather, and for a shed the bank and the parity of the word read. -/
def mrdNote (s : State) (g st : Nat) : Note :=
  let d := descOf s g st
  let r := wordAddr s g st (fnOf (imemWord s g st) % 1024) d
  r.2.and (if d.kind = 1 then
      shedNote s g st d.shed r.1 (shedFound s g st).2
    else {})

/-- Port A occupies the bank of a word in the bank cycle of a period (R183). -/
def usePortA (gen key : Nat) (e : Exe) : Exe :=
  { e with aUse := (e.aUse.filter fun u => u.2 == gen) ++ [(key / 4096, gen)] }

/-- The effect of MRD: a read is issued when A is 1; the port's landing takes place either way (R52). With a malformed
descriptor nothing is gathered or read and nothing lands (log 110). -/
def doMrd (g st : Nat) (s : State) : State :=
  let a := operand s g st 0
  let d := descOf s g st
  let en := a.val.isOne
  let acts := en && !d.bad
  let w := (wordAddr s g st (fnOf (imemWord s g st) % 1024) d).1
  let t := retire s g st a.val (((a.note.and (descNote s g st)).and (overrunNote s g st)).and
    (if acts then mrdNote s g st else {}))
  let e := addIssue s g st t.exe
  let e := if acts && d.kind == 1 then usePortA t.clk.gen (shedKey (barnOf g) d.shed w) (addBank s g st d.shed w e) else e
  { t with
    exe := { e with flights :=
      if d.bad || decide (s.tck.depth ≤ st + descLat s d) then e.flights else e.flights ++ [mrdFlight s g st en] }
    clk := { t.clk with free := t.clk.free + 1 } }

/-- MRD (R52). -/
def execMrd (g : Gp) (st : Step) (s : State) : Host.Outcome State Fault Refusal :=
  when (stepOk s g st .mrd) s (doMrd g st s)

/-- Capacity of a shed's undo log (R160). -/
def undoCap : Nat := 4096

/-- The undo log and the unlogged writes after an enabled port A write; `p`: the word before it (R160, R168). -/
def logWrite (s : State) (g st shed key : Nat) (p : W64 × BitVec 8) (i : Integ) : Integ :=
  let k := barnOf g * 4 + shed
  let log := i.undo.get [] k
  if log.length < undoCap then
    { i with undo := i.undo.set k (⟨key, p.1, p.2, s.tck.tick, st, g⟩ :: log) }
  else if i.unlogged.any (fun u => u.shed == k && u.tick == s.tck.tick) then i
  else { i with unlogged := i.unlogged ++ [⟨k, s.tck.tick, st⟩] }

/-- UNDO_OVERFLOW is reported once for each shed in each tick with unlogged writes, at the first (R168). -/
def overflowReports (s : State) (g st shed : Nat) : List FaultRec :=
  let k := barnOf g * 4 + shed
  if undoCap ≤ (s.integ.undo.get [] k).length
      && !(s.integ.unlogged.any fun u => u.shed == k && u.tick == s.tck.tick) then
    [recAt dUndo (barnOf g * 1536) st shed (tickNo s)]
  else []

/-- Where two port A writes meet in one bank, the word takes a free value. -/
def mwrWord (s : State) (g st shed a : Nat) (d : Desc) : W64 :=
  if bankConflict s g st shed a then freeNow s else (wordData s g st (fnOf (imemWord s g st) % 1024) d).1

/-- The shed after a port A write: the word with matching parity. -/
def shedWrite (sh : Shed) (key : Nat) (w : W64) : Shed :=
  { sh with mem := Memory.putWord sh.mem (8 * key) w, syn := sh.syn.erase key }

/-- Held effects are kept in the order of their step and, within a step, of their processor (R28, R76). -/
def insWrite (w : MWrite) : List MWrite → List MWrite
  | [] => [w]
  | h :: t => if h.step < w.step ∨ (h.step = w.step ∧ h.proc ≤ w.proc) then h :: insWrite w t else w :: h :: t

/-- The effect of MWR: a shed word is written, with its undo entry; a model write is placed in the holding pen
(R54, R55, R160). With a malformed descriptor nothing is gathered or written (log 110). -/
def doMwr (g st : Nat) (s : State) : State :=
  let a := operand s g st 0
  let d := descOf s g st
  let fn := fnOf (imemWord s g st) % 1024
  let addr := wordAddr s g st fn d
  let dat := wordData s g st fn d
  let acts := a.val.isOne && !d.bad
  let t := retire s g st a.val ((a.note.and (descNote s g st)).and (if acts then addr.2.and dat.2 else {}))
  let e := addIssue s g st t.exe
  let key := shedKey (barnOf g) d.shed addr.1
  let gen := t.clk.gen
  let pre := preCycle t gen key
  if acts && d.kind == 1 then
    let e := usePortA t.clk.gen key (addBank s g st d.shed addr.1 e)
    { t with
      exe := { e with
        reports := e.reports ++ stamped gen (overflowReports s g st d.shed)
        aWrites := (e.aWrites.filter fun w => w.gen == gen) ++ [⟨key, gen, pre.1, pre.2⟩] }
      integ := logWrite t g st d.shed key pre t.integ
      shed := shedWrite t.shed key (mwrWord s g st d.shed addr.1 d)
      clk := { t.clk with free := t.clk.free + 1 } }
  else if acts then
    let w : MWrite := ⟨st, g, d.model, modelAddr s.regs d.model addr.1, dat.1, false, 0⟩
    { t with
      exe := e
      pen := { s.pen with cur := { s.pen.cur with writes := insWrite w s.pen.cur.writes } }
      regs := rpeak t.regs 0x3130 16 16 (s.pen.cur.writes.length + 1) }
  else { t with exe := e }

/-- MWR (R54). -/
def execMwr (g : Gp) (st : Step) (s : State) : Host.Outcome State Fault Refusal :=
  when (stepOk s g st .mwr) s (doMwr g st s)

/-! ### XMT and LNK -/

/-- A drive of a send track: a second one in the step raises TRACK_COLLISION, and the track carries the operand of
the processor with the highest global index (R105, R107). -/
def driveTrack (s : State) (g st track : Nat) (v tag : Bool) (e : Exe) : Exe :=
  let k := (barnOf g * 1024 + st) * 64 + track
  match e.tracks.find? k with
  | none => { e with tracks := e.tracks.set k ⟨v, tag, g⟩ }
  | some d =>
    let f := faultAt s fTrack (Nat.max d.proc g) st track
    { e with
      tracks := if d.proc ≤ g then e.tracks.set k ⟨v, tag, g⟩ else e.tracks
      faults := addFault (fun x => x.code == f.code && x.step == f.step && x.barn == f.barn && x.detail == f.detail)
        f e.faults }

/-- Send tracks of a barn driven in a step (ARY_XMT_PEAK). -/
def tracksDriven (e : Exe) (b st : Nat) : Nat := (e.tracks.within ((b * 1024 + st) * 64) 64).length

/-- The effect of XMT: A onto the track; in a four-state barn v onto track 2m with u as its tag, and u onto track
2m + 1 (R60, R62, R108). -/
def doXmt (g st : Nat) (s : State) : State :=
  let a := operand s g st 0
  let track := fnOf (imemWord s g st) % 64
  let t := retire s g st a.val a.note
  let e := if isFour s (barnOf g) then
      driveTrack s g st (track / 2 * 2 + 1) a.val.u false (driveTrack s g st (track / 2 * 2) a.val.v a.val.u t.exe)
    else driveTrack s g st track a.val.v false t.exe
  { t with
    exe := e
    regs := rpeak t.regs (pg .ary (quadOf (barnOf g)) + 0x128) 0 7 (tracksDriven e (barnOf g) st) }

/-- XMT (R105). -/
def execXmt (g : Gp) (st : Step) (s : State) : Host.Outcome State Fault Refusal :=
  when (stepOk s g st .xmt) s (doXmt g st s)

/-- The link slot map entry of an index (R113). -/
def slotEntry (s : State) (g fn : Nat) : BitVec 16 := s.arr.slots.get 0 (barnOf g * 4096 + fn)

/-- A value driven through a slot-map entry: what it drives, into the execution and the holding pen. KIND 0b01
drives a link bit-slot unless it would arrive after the tick (R112, R114, R117); KIND 0b10 places a gateway bit in the
holding pen; a second drive raises LINK_SLOT_COLLISION (R115); KIND 0b00 and 0b11 raise OPCODE_RESERVED (R113). -/
def driveSlot (s : State) (g st fn : Nat) (v : Bool) (ep : Exe × PenTick) : Exe × PenTick :=
  let e := ep.1
  let p := ep.2
  let w := slotEntry s g fn
  let n := tableNote s g st 3 (barnOf g * 4096 + fn) fn
  let e := { e with dets := e.dets ++ stamped (genAt s st) n.dets }
  if fld w 14 2 = 1 then
    let j := fld w 7 5
    let pos := fld w 0 7
    let k := (j * 1024 + st) * 80 + pos
    if s.tck.depth + 16 < st + s.arr.linkBud.get 0 j then
      ({ e with faults := e.faults ++ [faultAt s fOverrun g st (2 ^ 24 + fn)] }, p)
    else match e.linkTx.find? k with
      | none => ({ e with linkTx := e.linkTx.set k ⟨v, false, g⟩ }, p)
      | some d =>
        let f := faultAt s fLink (Nat.max d.proc g) st (j * 2 ^ 7 + pos)
        ({ e with
            linkTx := if d.proc ≤ g then e.linkTx.set k ⟨v, false, g⟩ else e.linkTx
            faults := addFault (fun x => x.code == f.code && x.step == f.step && x.detail == f.detail) f e.faults }, p)
  else if fld w 14 2 = 2 then
    let bit := fld w 0 10
    match p.gw.find? bit with
    | none => (e, { p with gw := p.gw.set bit ⟨v, st, g⟩ })
    | some d =>
      let later := d.step < st || d.proc ≤ g
      let f := faultAt s fLink (if d.step < st then g else Nat.max d.proc g) st (2 ^ 27 + bit)
      ({ e with faults := addFault (fun x => x.code == f.code && x.step == f.step && x.detail == f.detail) f e.faults },
       if later then { p with gw := p.gw.set bit ⟨v, st, g⟩ } else p)
  else ({ e with faults := e.faults ++ [faultAt s fOpcode g st (3 * 2 ^ 24 + fn)] }, p)

/-- Repairs that the use of a slot-map entry starts. -/
def slotReps (s : State) (g st fn : Nat) : List Repair := (tableNote s g st 3 (barnOf g * 4096 + fn) fn).reps

/-- The effect of LNK: A through entry FN; in a four-state barn v through the entry with FN[0] = 0 and u through the
one with FN[0] = 1 (R60, R114). -/
def doLnk (g st : Nat) (s : State) : State :=
  let a := operand s g st 0
  let fn := fnOf (imemWord s g st)
  let t := retire s g st a.val a.note
  let even := fn / 2 * 2
  let r := if isFour s (barnOf g) then
      driveSlot s g st (even + 1) a.val.u (driveSlot s g st even a.val.v (t.exe, s.pen.cur))
    else driveSlot s g st fn a.val.v (t.exe, s.pen.cur)
  let reps := if isFour s (barnOf g) then slotReps s g st even ++ slotReps s g st (even + 1) else slotReps s g st fn
  { t with
    exe := r.1
    pen := { s.pen with cur := r.2 }
    integ := startRepairs reps t.integ }

/-- LNK (R114). -/
def execLnk (g : Gp) (st : Step) (s : State) : Host.Outcome State Fault Refusal :=
  when (stepOk s g st .lnk) s (doLnk g st s)

/-! ### CALL, PROBE, CHECK -/

/-- Events are kept in the order of their step and, within a step, of their processor (R28). -/
def insEvent (e : Event) : List Event → List Event
  | [] => [e]
  | h :: t => if h.step < e.step ∨ (h.step = e.step ∧ h.proc ≤ e.proc) then h :: insEvent e t else e :: h :: t

/-- The holding pen and TCK_PEN_PEAK after an event (R72). -/
def placeEvent (e : Event) (t : State) : State :=
  { t with
    pen := { t.pen with cur := { t.pen.cur with events := insEvent e t.pen.cur.events } }
    regs := rpeak t.regs 0x3130 0 16 (t.pen.cur.events.length + 1) }

/-- The event of a CALL or CHECK with number FN. -/
def eventOf (s : State) (g st : Nat) (chk : Bool) : Event :=
  ⟨st, g, chk, BitVec.ofNat 12 (fnOf (imemWord s g st)), s.tck.tick⟩

/-- The effect of CALL: an event with tag FN when A is known 1 (R28, R60). -/
def doCall (g st : Nat) (s : State) : State :=
  let a := operand s g st 0
  let t := retire s g st a.val a.note
  if a.val.isOne then placeEvent (eventOf s g st false) t else t

/-- CALL (R28). -/
def execCall (g : Gp) (st : Step) (s : State) : Host.Outcome State Fault Refusal :=
  when (stepOk s g st .call) s (doCall g st s)

/-- The effect of CHECK: an assertion event with number FN unless A is known 1 (R25, R60). -/
def doCheck (g st : Nat) (s : State) : State :=
  let a := operand s g st 0
  let t := retire s g st a.val a.note
  if a.val.isOne then t else placeEvent (eventOf s g st true) t

/-- CHECK (R25). -/
def execCheck (g : Gp) (st : Step) (s : State) : Host.Outcome State Fault Refusal :=
  when (stepOk s g st .check) s (doCheck g st s)

/-- A probe lane takes the value of the latest step and, at one step, of the highest global index (R27). -/
def setLane (m : SMap ProbeW) (lane : Nat) (p : ProbeW) : SMap ProbeW :=
  match m.find? lane with
  | none => m.set lane p
  | some o => if o.step < p.step ∨ o.proc ≤ p.proc then m.set lane p else m

/-- The effect of PROBE: A becomes the tick's value of lane FN; in a four-state barn v in the lane with FN[0] = 0 and
u in the one with FN[0] = 1 (R27, R60). -/
def doProbe (g st : Nat) (s : State) : State :=
  let a := operand s g st 0
  let fn := fnOf (imemWord s g st)
  let t := retire s g st a.val a.note
  let pr := s.pen.cur.probes
  let lanes := if isFour s (barnOf g) then
      setLane (setLane pr (fn / 2 * 2) ⟨a.val.v, st, g⟩) (fn / 2 * 2 + 1) ⟨a.val.u, st, g⟩
    else setLane pr fn ⟨a.val.v, st, g⟩
  { t with pen := { s.pen with cur := { s.pen.cur with probes := lanes } } }

/-- PROBE (R27). -/
def execProbe (g : Gp) (st : Step) (s : State) : Host.Outcome State Fault Refusal :=
  when (stepOk s g st .probe) s (doProbe g st s)

/-! ### READ_LANDING -/

/-- The flights that land on a port at a step. -/
def landing (s : State) (b m st : Nat) : List Flight :=
  s.exe.flights.filter fun f => f.barn == b && f.port == m && f.land == st

/-- A landing can take place: its step is reached, no hold is to freeze the array there, and its data has arrived. -/
def landingOk (s : State) (b m st : Nat) : Bool :=
  delivering s && decide (st < s.tck.depth) && decide (s.tck.step ≤ st)
    && s.tck.holds.all (fun h => h.tick != s.tck.tick || decide (st < h.step))
    && s.exe.flights.all (fun f => decide (st ≤ f.land)) && !stoppedBy s (genAt s st)
    && !(landing s b m st).isEmpty && (landing s b m st).all (fun f => f.arrived)

/-- The latch after a landing: the read word if A was 1, masked by DWM1; otherwise the value it holds (R49, R52). Where
two landings meet on one port, the word is a free value (log 4). -/
def latchAfter (s : State) (b m st : Nat) : Latch :=
  let old := match s.exe.latches.find? (b * 4 + m) with
    | some l => l.val
    | none => 0
  match landing s b m st with
  | [f] => ⟨if f.en then latchMask f.dwm1 f.word else old, true⟩
  | _ => ⟨freeNow s, true⟩

/-- What landings raise: DRAM_CRC for a word marked bad, and PORT_OVERSUBSCRIBED for two landings (R172, R51). -/
def landNote (s : State) (b m st : Nat) : Note :=
  let l := landing s b m st
  { faults := if 1 < l.length then
        [recAt fPort (l.foldl (fun p f => Nat.max p f.proc) 0) st (2 ^ 27 + m) (tickNo s)] else []
    dets := (l.filter fun f => f.bad && f.en).map fun f =>
      recAt dDram f.proc st (f.modelNo * 2 ^ 16 + channelOf s.regs f.addr) (tickNo s) }

/-- The effect of READ_LANDING (R52). -/
def doReadLanding (b m st : Nat) (s : State) : State :=
  let n := landNote s b m st
  let t := pass (st - s.tck.step) s
  { t with
    tck := { s.tck with step := st }
    exe := { s.exe with
      flights := s.exe.flights.filter fun f => !(f.barn == b && f.port == m && f.land == st)
      latches := s.exe.latches.set (b * 4 + m) (latchAfter s b m st)
      faults := s.exe.faults ++ stamped (genAt s st) n.faults
      dets := s.exe.dets ++ stamped (genAt s st) n.dets }
    clk := { t.clk with free := t.clk.free + 1 } }

/-- READ_LANDING (R52). -/
def execReadLanding (b : BarnId) (m : PortId) (st : Step) (s : State) : Host.Outcome State Fault Refusal :=
  when (landingOk s b m st) s (doReadLanding b m st s)

end Sys2Proof.Machine
end

