-- ==== Sys2Proof/Machine/DramOps.lean ====
section
/-!
DEFINITION. The shared operations of the DRAM controller: the installed size (R208), what an address is answered with
(R218, R219, R507), the requests and released writes that wait, in order of arrival (R212 to R214), a burst read with
its re-reads (R216), the retry buffer (R217), and the reads of the golden image (R172).
-/

namespace Sys2Proof.Machine

/-- Capacity of a DIMM in bytes: 32 GiB for 16 Gb devices in one rank, doubled by 32 Gb devices and by a second rank
(R207). -/
def dimmBytes (d : Bool × Bool × Nat × Bool) : Nat :=
  2 ^ 35 * (if d.2.1 then 2 else 1) * (if d.2.2.1 = 2 then 2 else 1)

/-- The DIMM found in a channel; none before its training. -/
def dimmOf (d : Dmc) (c : Nat) : Option (Bool × Bool × Nat × Bool) := d.dimm.find? c

/-- Every channel that has been trained is populated, and alike (R208). -/
def popOk (d : Dmc) : Bool := d.dimm.all fun e => e.2.1 && (match dimmOf d 0 with
  | some z => decide (e.2 = z)
  | none => true)

/-- The installed size: four times the DIMM capacity once the four channels hold alike DIMMs (R208); before, a DESIGN CHOICE
(log 153), 0, so that every address is out of range. -/
def dramSize (d : Dmc) : Nat :=
  match dimmOf d 0 with
  | some z => if d.dimm.length = 4 ∧ popOk d then 4 * dimmBytes z else 0
  | none => 0

/-- STATE of a channel: 0 untrained, 1 READY, 2 TRAINING, 3 FAILED (DMC_CH_STATUS). -/
def chanState (m : SMap W32) (c : Nat) : Nat := rfld m (pg .dmcCh c + 0x104) 30 2

/-- The controller serves requests: ENABLE = 1, and the population does not break R208, which leaves no channel enabled
(R208, R507, log 112). -/
def dmcOn (s : State) : Bool := (rget s.regs 0xA100).getLsbD 0 && popOk s.dmc

/-- The controller starts requests: it serves them and is not changing frequency (R225). -/
def dmcStarts (s : State) : Bool := dmcOn s && !(rget s.regs 0xA108).getLsbD 30

/-- The controller cannot start a request of this address's channel now: it starts none, or the channel is in training
(R225, R226, R507). -/
def memBusy (s : State) (a : Nat) : Bool := !dmcStarts s || chanState s.regs (channelOf s.regs a) == 2

/-! ### What an address is answered with -/

/-- The bitwise majority of three copies (R176). -/
def major (a b c : W32) : W32 := (a &&& b) ||| (a &&& c) ||| (b &&& c)

/-- The majority of a scrubber's configuration (R176). -/
def scbCfg (c : Scb) : ScbCfg :=
  { enable := (c.c0.enable && c.c1.enable) || (c.c0.enable && c.c2.enable) || (c.c1.enable && c.c2.enable)
    lo := major c.c0.lo c.c1.lo c.c2.lo
    hi := major c.c0.hi c.c1.hi c.c2.hi }

/-- Base byte address of the golden region in a scrubber's configuration (SCB_GOLDEN). -/
def goldenBase (c : ScbCfg) : Nat := c.lo.toNat / 2 ^ 10 * 2 ^ 10 + c.hi.toNat % 2 ^ 8 * 2 ^ 32

/-- The address lies in the golden region, which the scrubbers' configurations and DMC_GOLDEN_LEN give (R219). -/
def inGolden (s : State) (a : Nat) : Bool :=
  (List.range 4).any fun q =>
    let b := goldenBase (scbCfg (scbOf s q))
    decide (b ≤ a) && decide (a < b + (rget s.regs 0xA130).toNat * 1024)

/-- The address lies in the shadow region, the top 1 GiB of installed DRAM (R349). -/
def inShadow (s : State) (a : Nat) : Bool := decide (dramSize s.dmc ≤ a + 2 ^ 30)

/-- What an address is answered with before anything is performed: 7 DATA_ERROR, 8 RANGE, 9 PROTECTED, 0 for none
(R218, R219, R507). -/
def portStatus (s : State) (write loader : Bool) (a : Nat) : Nat :=
  if !dmcOn s then 7
  else if dramSize s.dmc ≤ a then 8
  else if write && !loader && (inGolden s a || inShadow s a) then 9
  else if chanState s.regs (channelOf s.regs a) = 3 then 7
  else 0

/-- What the DMC page records of a refused request: RANGE in ERR_COUNT, PROTECTED in INT_STATUS (R219). -/
def portNote (status : Nat) (s : State) : State :=
  if status = 8 then { s with regs := rerr s.regs 0xA000 1 } else raiseIf (status == 9) s 0xA000 4

/-! ### Writes that wait, in order of arrival -/

/-- Word `i` of two data flits. -/
def flitWord (l : List (BitVec 256)) (i : Nat) : W64 := ((l.getD (i / 4) 0).extractLsb' (64 * (i % 4)) 64)

/-- Byte address of the burst that a request names (R271). -/
def burstAddr (p : Pkt) : Nat := fld p.addr 6 33 * 64

/-- Opcodes of the DRAM requests (R271). -/
def opMemRead : Byte := 0x20
def opMemWrite : Byte := 0x21

/-- The pieces of a burst that a MEM_WRITE writes: MASK bit i writes bytes 8i to 8i + 7 (R271). -/
def pktPieces (p : Pkt) : List (Nat × List Byte) :=
  ((List.range 8).filter fun i => p.mask.getLsbD i).map fun i => (burstAddr p + 8 * i, wordBytes (flitWord p.flits i) 8)

/-- Bytes written at addresses, in order. -/
def putPieces (m : List Host.Cell) (l : List (Nat × List Byte)) : List Host.Cell :=
  l.foldl (fun m p => Memory.putBytes m p.1 p.2) m

/-- The same of a packet of which only the bytes of a mask count in each word (R420). -/
def maskedPieces (p : Pkt) (m : Byte) : List (Nat × List Byte) :=
  (pktPieces p).flatMap fun x => (x.2.zipIdx.filter fun b => m.getLsbD (b.2 % 8)).map fun b => (x.1 + b.2, [b.1])

/-- Address of a request's burst. -/
def bodyAddr : DramBody → Nat
  | .pkt _ p => burstAddr p
  | .masked p _ => burstAddr p
  | .put a _ => a / 64 * 64

/-- What a request writes. -/
def bodyPieces : DramBody → List (Nat × List Byte)
  | .pkt op p => if op = opMemWrite then pktPieces p else []
  | .masked p m => maskedPieces p m
  | .put a l => [(a, l)]

/-- A request writes. -/
def bodyWrites : DramBody → Bool
  | .pkt op _ => op == opMemWrite
  | .masked _ _ => true
  | .put _ _ => true

/-- A write that waits, placed among others by its arrival. -/
def insPend (x : Nat × List (Nat × List Byte)) : List (Nat × List (Nat × List Byte)) → List (Nat × List (Nat × List Byte))
  | [] => [x]
  | h :: t => if h.1 ≤ x.1 then h :: insPend x t else x :: h :: t

/-- The writes that wait, queued model writes and requests, in order of arrival (R214). -/
def pendList (d : Dmc) : List (Nat × List (Nat × List Byte)) :=
  (d.waiting.filter fun r => bodyWrites r.body).foldl (fun l r => insPend (r.seq, bodyPieces r.body) l)
    (d.wq.map fun w => (w.seq, [(w.addr, wordBytes w.word 8)]))

/-- DRAM as a read that arrived as number `n` finds it: with every write that arrived before it (R214). -/
def dramBefore (n : Nat) (d : Dmc) : List Host.Cell :=
  ((pendList d).filter fun x => decide (x.1 < n)).foldl (fun m x => putPieces m x.2) d.mem

/-- DRAM with every write that waits: what a read that arrives now returns (R214, R301). -/
def dramNow (d : Dmc) : List Host.Cell := (pendList d).foldl (fun m x => putPieces m x.2) d.mem

/-- A write to the burst of an address waits that arrived before number `n`. -/
def writeBefore (d : Dmc) (n a : Nat) : Bool :=
  (d.wq.any fun w => decide (w.seq < n) && w.addr / 64 == a / 64)
    || d.waiting.any fun r => decide (r.seq < n) && bodyWrites r.body && bodyAddr r.body / 64 == a / 64

/-- A request cannot be started: its channel is busy, an earlier request of its port waits, or it is a write and an
earlier one of its burst waits (R212, R214, R225, R226). -/
def mustWait (s : State) (r : DramReq) : Bool :=
  memBusy s (bodyAddr r.body) || (s.dmc.waiting.any fun x => x.port == r.port && decide (x.seq < r.seq))
    || (bodyWrites r.body && writeBefore s.dmc r.seq (bodyAddr r.body))

/-- A request as it arrives at the controller now. -/
def reqNow (s : State) (port : Nat) (b : DramBody) : DramReq := ⟨s.dmc.seq, port, s.clk.ps, b⟩

/-- A request waits. -/
def enqueue (r : DramReq) (s : State) : State :=
  { s with dmc := { s.dmc with waiting := s.dmc.waiting ++ [r], seq := s.dmc.seq + 1 } }

/-! ### Refresh -/

/-- DMC_CH_STATUS of a channel. -/
def chStat (c : Nat) : Nat := pg .dmcCh c + 0x104

/-- Key of a rank. -/
def rankKey (c rank : Nat) : Nat := c * 2 + rank

/-- Refresh interval of a rank in picoseconds: 3.9 µs, 1.95 µs while it is hot (R215). -/
def refreshPs (s : State) (c rank : Nat) : Nat := if (rget s.regs (chStat c)).getLsbD (10 + rank) then 1950000 else 3900000

/-- A rank that training has made ready and that is not in self-refresh. -/
def rankReady (s : State) (c rank : Nat) : Bool :=
  chanState s.regs c == 1 && decide (rank < rfld s.regs (chStat c) 6 2) && !(rget s.regs (chStat c)).getLsbD 9

/-- The refreshes of a rank that are due by now are issued, each at its time: none is postponed (R213, R215). -/
def refreshRank (s : State) (c rank : Nat) (d : Dmc) : Dmc :=
  let k := rankKey c rank
  let n := (s.clk.ps - d.refrAt.get 0 k) / refreshPs s c rank
  if rankReady s c rank then
    { d with
      refr := d.refr.put 0 k (d.refr.get 0 k + n)
      refrAt := d.refrAt.put 0 k (d.refrAt.get 0 k + n * refreshPs s c rank) }
  else d

/-- The refreshes of a channel's ranks that are due by now (R213). -/
def refreshChan (s : State) (c : Nat) : Dmc := refreshRank s c 1 (refreshRank s c 0 s.dmc)

/-- The ranks of a channel enter self-refresh, or leave it, after which their refresh interval begins afresh (R215, R225,
R227). -/
def selfRefresh (b : Bool) (c : Nat) (s : State) : State :=
  { s with
    regs := rset s.regs (chStat c) 9 1 b.toNat
    dmc := if b then s.dmc else { s.dmc with
      refrAt := (s.dmc.refrAt.put 0 (rankKey c 0) s.clk.ps).put 0 (rankKey c 1) s.clk.ps } }

/-- A frequency change is in progress: DMC_FREQ.BUSY (R225). -/
def freqBusy (s : State) : Bool := (rget s.regs 0xA108).getLsbD 30

/-! ### Commands performed -/

/-- A command is issued, after the refreshes that are due, and enters its channel's retry buffer of 64 entries, a write
with its data (R213, R217). -/
def noteCmd (a : Nat) (data : Option (List (Nat × List Byte))) (s : State) : State :=
  let c := channelOf s.regs a
  { s with dmc := { refreshChan s c with retry := s.dmc.retry.set c ((⟨a, data⟩ :: s.dmc.retry.get [] c).take 64) } }

/-- Bytes are stored; a burst written whole passes its check from then on (R216). -/
def stored (a : Nat) (l : List Byte) (d : Dmc) : Dmc :=
  { d with
    mem := Memory.putBytes d.mem a l
    crcErr := d.crcErr.keep fun k => !(decide (a ≤ 64 * k) && decide (64 * k + 64 ≤ a + l.length)) }

/-- A burst read succeeds on its first, second or third try, or on none (`passes` = 3; always so for a burst whose
stored check fails): REREADS and CRC_FAIL of its channel (R216). -/
def readBurst (addr passes : Nat) (s : State) : State × Bool :=
  let p := if s.dmc.crcErr.get 0 (addr / 64) ≠ 0 then 3 else passes
  let key := pg .dmcCh (channelOf s.regs addr) + 0x108
  let m := rbump s.regs key 12 12 (Nat.min p 2)
  ({ s with regs := if p = 3 then rbump m key 24 8 1 else m }, p != 3)

/-- A write of bytes of one burst through a port of a unit of the chip other than the loader: host DMA, the spills
(R212, R219). -/
def portWrite (port a : Nat) (l : List Byte) (s : State) : State :=
  let st := portStatus s true false a
  let r := reqNow s port (.put a l)
  if st ≠ 0 then portNote st s
  else if mustWait s r then enqueue r s
  else
    let t := noteCmd a (some [(a, l)]) s
    { t with dmc := stored a l t.dmc }

/-- A read of one burst by a unit of the chip whose port the DRAM answers: the status. A burst passes unless its stored
check fails (R216, R218, R219, R507, log 113). -/
def burstStatus (s : State) (a : Nat) : Nat :=
  if portStatus s false false a ≠ 0 then portStatus s false false a
  else if s.dmc.crcErr.get 0 (a / 64) ≠ 0 then 7 else 0

/-- What the controller records of such a read: a refusal, or the command with its re-reads and INT_STATUS.DATA_ERR. -/
def burstNote (a : Nat) (s : State) : State :=
  let st := portStatus s false false a
  if st ≠ 0 then portNote st s
  else
    let r := readBurst a 0 (noteCmd a none s)
    raiseIf (!r.2) r.1 0xA000 3

/-- The bursts that `n` bytes from an address on meet. -/
def burstsOf (a n : Nat) : List Nat := (List.range ((a % 64 + n + 63) / 64)).map fun i => a / 64 * 64 + 64 * i

/-- The bursts of a list up to the first that is answered with an error, which is read as well (R216). -/
def upToError (s : State) : List Nat → List Nat
  | [] => []
  | a :: l => if burstStatus s a = 0 then a :: upToError s l else [a]

/-- DRAM reads `n` bytes for a unit of the chip: every burst passes (R216, R218, R219, R507). -/
def dramReads (s : State) (a n : Nat) : Bool := (burstsOf a n).all fun b => burstStatus s b == 0

/-- What the controller records of reads of bursts in order, up to the first that fails. -/
def burstsNote (l : List Nat) (s : State) : State := (upToError s l).foldl (fun s b => burstNote b s) s

/-- What the controller records of such reads. -/
def readsNote (a n : Nat) (s : State) : State := burstsNote (burstsOf a n) s

/-- Bytes at an address cut at the bursts' ends. `n`: at most so many bursts. -/
def cutBursts : Nat → Nat → List Byte → List (Nat × List Byte)
  | 0, _, _ => []
  | n + 1, a, l => if l = [] then [] else (a, l.take (64 - a % 64)) :: cutBursts n (a + (64 - a % 64)) (l.drop (64 - a % 64))

/-- The writes of bytes at an address, burst by burst, through a port. -/
def portWrites (port a : Nat) (l : List Byte) (s : State) : State :=
  (cutBursts (l.length + 1) a l).foldl (fun s p => portWrite port p.1 p.2 s) s

/-! ### The golden image -/

/-- Byte address of a word or entry in a golden image at a base: the slot of its barn, 13 MiB each, and its place in it
(R174, log 111). `tab`: 0 the instruction stores, 1 to 5 the per-barn tables; `key`: as in `Repair`. -/
def goldenAt (base tab key : Nat) : Nat :=
  let barn := if tab = 0 then key / 1024 / 1536 else if tab = 5 then key / 64 / 1536 else key / 4096
  base + 13 * 2 ^ 20 * barn + Config.goldenPlace tab key % (13 * 2 ^ 20)

/-- Byte address of a word or entry of the golden image that a quadrant's scrubber reads (R174). -/
def goldenAddr (s : State) (q tab key : Nat) : Nat := goldenAt (goldenBase (scbCfg (scbOf s q))) tab key

/-- The addresses of a line's words in the golden image, one for each burst (R174). -/
def lineBursts (s : State) (q line : Nat) : List Nat :=
  ((List.range 128).map fun i => goldenAddr s q 0 (line / 8 * 1024 + line % 8 * 128 + i) / 64 * 64).foldl
    (fun l a => if l.contains a then l else l ++ [a]) []

/-- What the controller records of a golden read of one burst, which sets no INT_STATUS.DATA_ERR (R172, R216). -/
def goldenNote (ok : Bool) (a : Nat) (s : State) : State :=
  let st := portStatus s false false a
  if st ≠ 0 then portNote st s else (readBurst a (if ok then 0 else 3) (noteCmd a none s)).1

/-- What the controller records of golden reads of bursts in order, up to the first that fails. -/
def goldenNotes (l : List Nat) (s : State) : State := (upToError s l).foldl (fun s a => goldenNote true a s) s

/-- The first burst of a list that a golden read cannot deliver. -/
def badGolden (s : State) (l : List Nat) : Option Nat := l.find? fun a => burstStatus s a != 0

/-- The record of a golden read that fails: DRAM_CRC with the repair source and the channel of the burst (R172, R179). -/
def goldenRec (s : State) (a : Nat) : FaultRec := recPlain dDram (2 ^ 24 + channelOf s.regs a) (tickNo s)

end Sys2Proof.Machine
end

