-- ==== Sys2Proof/Machine/Integrity.lean ====
section
/-!
DEFINITION. Error detection and tick replay: undo, what an abort or rollback restores (R159), the replay limit and
taint (R167 to R169), repairs from the golden image (R165), and the scrubbers (R173 to R178).
-/

namespace Sys2Proof.Machine

/-! ### Undo -/

/-- The record of an undo entry that fails its own parity check (R162, R179). -/
def undoRec (e : UndoE) : FaultRec :=
  recAt dShed e.proc e.step
    (2 ^ 26 + e.word % 2 ^ 17 / 2 ^ 15 * 2 ^ 24 + e.word % 2 ^ 15 / 4096 * 2 ^ 21 + e.syn.toNat * 2 ^ 13 + e.word % 4096)
    e.tick

/-- Undoes the entries of one shed's log, newest first, up to one that fails its own parity check (R162). -/
def undoShed : List UndoE → Shed → Shed × List FaultRec
  | [], sh => (sh, [])
  | e :: es, sh =>
    if e.syn ≠ 0 then (sh, [undoRec e])
    else undoShed es { sh with mem := Memory.putWord sh.mem (8 * e.word) e.old, syn := sh.syn.put 0 e.word e.syn }

/-- Undoes every shed's log. -/
def undoAll : SMap (List UndoE) → Shed → Shed × List FaultRec
  | [], sh => (sh, [])
  | (_, es) :: rest, sh =>
    let r := undoShed es sh
    let q := undoAll rest r.1
    (q.1, r.2 ++ q.2)

/-- The detections of a rollback that reads the retained copies: their parity (R155, R169). -/
def retainedRecs (s : State) : List FaultRec :=
  (s.arr.stRetSyn.map fun e => recAt dState (e.1 / 16) 0 (2 * 2 ^ 24 + e.1 % 16 * 16) (tickNo s)) ++
  (s.arr.ringRetSyn.map fun e => recAt dRing (e.1 / 64) 0 (3 * 2 ^ 24 + 2 ^ 12 + e.1 % 64 * 16) (tickNo s))

/-- The result of undoing every unconfirmed tick: the state, the detections it raised, and whether some storage could
not be restored (R159, R168, R169). -/
structure Undone where
  st   : State
  dets : List FaultRec
  bad  : Bool
deriving DecidableEq, Repr

/-- The banks whose words the undo restores, which port A occupies in the bank cycle of the undo (R162, R187, R188,
log 137). -/
def undoBanks (s : State) : List (Nat × Nat) :=
  s.integ.undo.foldl (fun l e => l ++ (e.2.map fun u => (u.word / 4096, s.clk.gen))) []

/-- The array storage with the ticks not confirmed taken back: the next generation is discarded and, after a
speculative commit, the retained generation and the retained rings come back (R159). -/
def arrUndo (a : Arr) (spec : Bool) : Arr :=
  { a with
    stNext := [], stNextSyn := []
    stCur := if spec then a.stRet else a.stCur
    stCurSyn := if spec then a.stRetSyn else a.stCurSyn
    ringPrev := if spec then a.ringRet else a.ringPrev
    ringPrevSyn := if spec then a.ringRetSyn else a.ringPrevSyn }

/-- The execution with its pipelines, latches, collisions and notes emptied: nothing of it enters the next one
(R53, R106, R159). -/
def exeClear (e : Exe) : Exe :=
  { e with
    ran := [], lit := [], tracks := [], issues := [], lands := [], banks := [], charge := [], chargeP := []
    flights := [], latches := [], faults := [], dets := [], reports := [], sticky := [] }

/-- The unconfirmed ticks have begun, so that the earliest of them executes again with the inputs already latched
(R77, R86). -/
def begun (s : State) : Bool := s.tck.redo || s.tck.inTick || s.tck.specPend

/-- What the links have sent and received, with the ticks not confirmed taken back (R120, R159, R164). -/
def exeUndo (s : State) : Exe :=
  let two := s.tck.specPend && s.tck.inTick
  let e := exeClear s.exe
  { e with
    staged := if begun s then [] else e.staged
    linkTx := if begun s then [] else e.linkTx
    linkOld := if two then e.linkOld2 else e.linkOld
    recv := if two then e.recvOld else e.recv }

/-- Undoes every tick that is not confirmed: the tick being executed and, after a speculative commit, the one before
it (R86, R92, R97, R146, R159). The tick that executes next is the earliest undone, with its latched inputs; what the
undo detects enters the vote of that execution (R156). No vote of an undone tick is kept. -/
def undoTicks (s : State) : Undone :=
  let spec := s.tck.specPend
  let u := undoAll s.integ.undo s.shed
  let dets := stamped s.clk.gen (u.2 ++ if spec then retainedRecs s else [])
  { st := { s with
      arr := arrUndo s.arr spec
      shed := u.1
      integ := { s.integ with undo := [], unlogged := [] }
      exe := { exeUndo s with aUse := s.exe.aUse ++ undoBanks s, detsOld := [], stickyOld := [], late := s.exe.late ++ dets }
      pen := { s.pen with
        cur := {}, old := {}, deps := [], depsOld := []
        inCur := if spec && s.tck.inTick then s.pen.inOld.getD s.pen.inCur else s.pen.inCur
        inOld := none
        inNext := if spec && s.tck.inTick then some s.pen.inCur else s.pen.inNext }
      yms := { s.yms with deposits := s.pen.depsOld ++ s.pen.deps ++ s.yms.deposits }
      tck := { s.tck with
        tick := if spec then s.tck.tick - 1 else s.tck.tick
        specPend := false, inTick := false, inWin := false, redo := begun s, step := 0
        decision := .none, childGot := 0, childVote := .none, childForced := 0, voting := false
        holds := s.tck.holds.filter fun h => h.tick != s.tck.tick } }
    dets := dets
    bad := !(dets.isEmpty) || !(s.integ.unlogged.isEmpty) }

/-! ### Entering HALTED and FAULTED -/

/-- Enters HALTED (R95): INT_STATUS.HALTED. -/
def enterHalted (s : State) : State :=
  raiseInt { s with tck := { s.tck with run := .halted, haltReq := false, runLeft := none } } 0x3000 0

/-- Enters FAULTED (R95): INT_STATUS.FAULTED. -/
def enterFaulted (s : State) : State :=
  raiseInt { s with tck := { s.tck with run := .faulted, freeze := none, haltReq := false, runLeft := none } } 0x3000 1

/-- Sets TAINT (R168, R169). -/
def setTaint (s : State) : State := raiseInt { s with regs := rset s.regs 0x3168 0 1 1 } 0x3000 7

/-- N of R166. -/
def replayLimit (m : SMap W32) : Nat := rfld m 0x3160 0 3

/-- The record of REPLAY_EXHAUSTED: the fields of the last detection that this chip raised, the cause, that
detection's code, and N (R167, R179). -/
def exhaustedRec (s : State) (cause : Nat) (dets : List FaultRec) : FaultRec :=
  match lastDet dets with
  | none => recPlain dExhausted (cause * 2 ^ 24 + replayLimit s.regs) (tickNo s)
  | some d =>
    { d with
      code := BitVec.ofNat 8 dExhausted
      detail := BitVec.ofNat 28 (cause * 2 ^ 24 + d.code.toNat * 2 ^ 8 + replayLimit s.regs)
      tick := BitVec.ofNat 64 (tickNo s) }

/-- REPLAY_EXHAUSTED: reported, recorded in the fault record (R180), and the run halts at the boundary before the
tick (R167). The count of re-executions starts afresh. -/
def exhaust (s : State) (cause : Nat) (dets : List FaultRec) : State :=
  let r := exhaustedRec s cause dets
  let s := logRecs [r] s
  let s := { s with
    integ := { s.integ with frec := r.word }
    regs := rset s.regs 0x3164 28 4 0
    tck := { s.tck with freeze := none, rollback := false } }
  enterHalted (raiseInt s 0x3000 6)

/-! ### Repairs from the golden image -/

/-- Writes the golden value of a word or entry, with matching parity (R165). -/
def repairArr (a : Arr) (i : Integ) (r : Repair) : Arr :=
  if r.tab = 0 then
    { a with imem := a.imem.put 0 r.key (i.gImem.get 0 r.key), imemSyn := a.imemSyn.erase r.key }
  else
    let syn := a.tabSyn.erase ((r.tab - 1) * 2 ^ 24 + r.key)
    if r.tab = 1 then { a with dict := a.dict.put 0 r.key (i.gDict.get 0 r.key), tabSyn := syn }
    else if r.tab = 2 then { a with desc := a.desc.put 0 r.key (i.gDesc.get 0 r.key), tabSyn := syn }
    else if r.tab = 3 then { a with src := a.src.put 0 r.key (i.gSrc.get 0 r.key), tabSyn := syn }
    else if r.tab = 4 then { a with slots := a.slots.put 0 r.key (i.gSlots.get 0 r.key), tabSyn := syn }
    else { a with rmap := a.rmap.put 0 r.key (i.gRmap.get 0 r.key), tabSyn := syn }

/-- The quadrant's scrubber writes back one repair: SCB_REPAIRS.FETCH and INT_STATUS.REPAIR. -/
def writeRepair (r : Repair) (s : State) : State :=
  raiseInt { s with
    arr := repairArr s.arr s.integ r
    tck := { s.tck with lastPart := s.clk.gen }
    regs := rbump s.regs (pg .scb r.quad + 0x114) 16 16 1 } (pg .scb r.quad) 2

/-- The two lockstep copies of a quadrant's scrubber differ in their state or in a repair decision (R177). -/
def copiesDiffer (s : State) (q : Nat) : Bool :=
  (scbOf s q).a != (scbOf s q).b
    || (s.integ.repairs.filter fun r => r.quad == q) != s.integ.repairsB.filter fun r => r.quad == q

/-- Integrity with a quadrant's scrubber replaced. -/
def setScb (i : Integ) (q : Nat) (c : Scb) : Integ :=
  if q = 0 then { i with scb0 := c } else if q = 1 then { i with scb1 := c } else if q = 2 then { i with scb2 := c }
  else { i with scb3 := c }

/-- A scrubber stops when its two lockstep copies differ, and performs no repair from then on (R177). -/
def stopScb (q : Nat) (s : State) : State :=
  let i := setScb s.integ q { scbOf s q with stopped := true }
  let i := mapRepairs (fun l => l.filter fun r => r.quad != q) i
  raiseInt (logRecs [recAt dMismatch (24 * q * 1536) 0 q (tickNo s)] { s with integ := i }) (pg .scb q) 1

/-- The comparator of a quadrant's scrubber (R177). -/
def compareScb (q : Nat) (s : State) : State := if !(scbOf s q).stopped && copiesDiffer s q then stopScb q s else s

/-- The comparators of the four scrubbers. -/
def compareAll (s : State) : State := compareScb 3 (compareScb 2 (compareScb 1 (compareScb 0 s)))

/-- Writes back every repair whose golden data waits for a period without a fetch, after the comparison of its two copies
(R165, R177). -/
def writeRepairs (s : State) : State :=
  let s := compareAll s
  let ready := s.integ.repairs.filter fun r => r.data
  let t := ready.foldl (fun s r => writeRepair r s) s
  { t with integ := mapRepairs (fun l => l.filter fun r => !r.data) t.integ }

/-- The array fetches in this period (R165): a schedule step is delivered. -/
def fetching (s : State) : Bool := delivering s

/-- The oldest repair whose golden data has not arrived. -/
def nextRepair (s : State) : Option Repair := s.integ.repairs.find? fun r => !r.data

/-- The golden read of a repair: delivered, or refused by the controller or failing its check (R172, R216). -/
def goldenOk (s : State) (ok : Bool) (a : Nat) : Bool := ok && burstStatus s a == 0

/-- A repair is requested no more. -/
def dropRepair (r : Repair) : Integ → Integ := mapRepairs fun l => l.filter fun x => !(x.tab == r.tab && x.key == r.key)

/-- The effect of GOLDEN_REPAIR on the oldest repair whose data has not arrived. Read with success, the golden value
is written back now or, while the array fetches, in the next period without a fetch. A read that fails its check, or
that the controller does not perform, raises DRAM_CRC with the repair source, and the word stays unrepaired (R165,
R172, R218, R507). -/
def doGoldenRepair (ok : Bool) (s : State) : State :=
  let s := compareAll s
  match nextRepair s with
  | none => s
  | some r =>
    let a := goldenAddr s r.quad r.tab r.key
    let t := goldenNote ok a s
    if goldenOk s ok a then
      if fetching s then { t with integ := mapRepairs (fun l => l ++ [{ r with data := true }]) (dropRepair r t.integ) }
      else writeRepair r { t with integ := dropRepair r t.integ }
    else
      detect (goldenRec s a) { t with
        integ := dropRepair r t.integ
        tck := { t.tck with lastPart := s.clk.gen } }

/-- A golden read of a repair can be started, or is refused, now (R212, R225). -/
def repairOk (s : State) : Bool :=
  match nextRepair s with
  | none => true
  | some r =>
    let a := goldenAddr s r.quad r.tab r.key
    portStatus s false false a != 0 || !memBusy s a

/-- GOLDEN_REPAIR (R165). -/
def execGoldenRepair (ok : Bool) (s : State) : Host.Outcome State Fault Refusal :=
  when (repairOk s) s (doGoldenRepair ok s)

/-! ### The scrubbers -/

/-- One SCRUBBER_CFG_VOTE report for each register bit in which a copy differs from the majority (R176, R179). -/
def cfgRecs (s : State) (q : Nat) (c : Scb) : List FaultRec :=
  let m := scbCfg c
  let one (reg bit : Nat) : FaultRec :=
    recAt dCfgVote (24 * q * 1536) 0 (q * 2 ^ 26 + bit * 2 ^ 8 + reg / 4) (tickNo s)
  let diff (x y z m : W32) : W32 := (x ^^^ m) ||| (y ^^^ m) ||| (z ^^^ m)
  let bits (reg : Nat) (w : W32) : List FaultRec := ((List.range 32).filter fun i => w.getLsbD i).map (one reg)
  (if c.c0.enable == m.enable && c.c1.enable == m.enable && c.c2.enable == m.enable then [] else [one 0x100 0])
    ++ bits 0x108 (diff c.c0.lo c.c1.lo c.c2.lo m.lo) ++ bits 0x10C (diff c.c0.hi c.c1.hi c.c2.hi m.hi)

/-- The copies of a scrubber's configuration are voted on: a disagreeing copy takes the majority, and the vote is
reported (R176). -/
def voteCfg (q : Nat) (s : State) : State :=
  let c := scbOf s q
  let m := scbCfg c
  let recs := cfgRecs s q c
  if recs = [] then s
  else raiseInt (logRecs recs { s with integ := setScb s.integ q { c with c0 := m, c1 := m, c2 := m } }) (pg .scb q) 0

/-- Key of the line of a processor's slot: processor × 8 + slot div 128 (R174). -/
def lineKey (imemKey : Nat) : Nat := imemKey / 1024 * 8 + imemKey % 1024 / 128

/-- Key of the first word of a line. -/
def lineLo (line : Nat) : Nat := line / 8 * 1024 + line % 8 * 128

/-- The words of a line as a list, for its CRC: those of the golden image, but for the words listed. -/
def lineList (g seen : SMap W64) (line : Nat) : List W64 :=
  (List.range 128).map fun i => (seen.find? (lineLo line + i)).getD (g.get 0 (lineLo line + i))

/-- A word lies in row `r` of an enabled barn of a quadrant: of processor r / 128 of either bank of a stall, the eight
words from slot 8 × (r mod 128) on (R173). -/
def atRow (s : State) (q r key : Nat) : Bool :=
  let g := key / 1024
  quadOf (barnOf g) == q && s.sec.otp.barns.getLsbD (barnOf g) && g % 48 % 24 == r / 128 && key % 1024 / 8 == r % 128

/-- The lines of keys, each once, in ascending order. -/
def linesOf (keys : List Nat) : List Nat :=
  (keys.foldl (fun m k => SMap.set m (lineKey k) true) ([] : SMap Bool)).map fun e => e.1

/-- The words of a row that differ from the golden image, as the row is read. -/
def rowDiffs (s : State) (q r : Nat) : SMap W64 :=
  ((s.arr.imem ++ s.integ.gImem).filter fun e => atRow s q r e.1).foldl (fun m e =>
    let w := s.arr.imem.get 0 e.1
    if w = s.integ.gImem.get 0 e.1 then m else SMap.set m e.1 w) []

/-- The lines of the words of a row that fail their parity (R155, R174). -/
def rowParity (s : State) (q r : Nat) : List Nat :=
  linesOf ((s.arr.imemSyn.filter fun e => atRow s q r e.1 && e.2 != 0).map fun e => e.1)

/-- Failing parity bits of a line's words in a row. -/
def rowSyn (s : State) (q r line : Nat) : BitVec 2 :=
  (s.arr.imemSyn.filter fun e => atRow s q r e.1 && lineKey e.1 == line).foldl (fun b e => b ||| e.2) 0

/-- The lines whose CRC-32, over their words as they were read, differs from the golden one (R174). -/
def crcLines (g seen : SMap W64) : List Nat :=
  (linesOf (seen.map fun e => e.1)).filter fun l => Config.lineCrc (lineList g seen l) != Config.lineCrc (lineList g [] l)

/-- The report of a failing line: IMEM_PARITY with scrub source 1 (parity) or 2 (CRC) (R174, R179). -/
def lineRec (s : State) (syn : BitVec 2) (line : Nat) : FaultRec :=
  recAt dImem (line / 8) 0 ((if syn = 0 then 2 else 1) * 2 ^ 24 + syn.toNat * 2 ^ 16 + line % 8 * 128) (tickNo s)

/-- The array with a line rewritten from the golden image (R174). -/
def arrLine (a : Arr) (g : SMap W64) (line : Nat) : Arr :=
  { a with
    imem := (a.imem.without (lineLo line) 128).putAll 0 (g.within (lineLo line) 128)
    imemSyn := a.imemSyn.without (lineLo line) 128 }

/-- Both lockstep copies of a scrubber replaced (R177). -/
def setCopies (q : Nat) (c : ScbCopy) (s : State) : State :=
  { s with integ := setScb s.integ q { scbOf s q with a := c, b := c } }

/-- A line's golden words are written into the array (R174). -/
def lineWritten (q line : Nat) (c : ScbCopy) (s : State) : State :=
  let t := setCopies q { c with seen := c.seen.without (lineLo line) 128 } s
  raiseInt { t with
    arr := arrLine s.arr s.integ.gImem line
    regs := rbump s.regs (pg .scb q + 0x114) 0 16 1 } (pg .scb q) 2

/-- A line repair: the line is read from the golden image and rewritten, or, when a golden read fails, stays
unrepaired with DRAM_CRC; while the controller cannot start the read it waits (R172, R174, R225). A line takes one
step to rewrite (log 17). -/
def lineRepair (q line : Nat) (c : ScbCopy) (s : State) : State :=
  let l := lineBursts s q line
  let t := goldenNotes l s
  match badGolden s l with
  | some a => detect (goldenRec s a) (setCopies q c t)
  | none =>
    if l.any (memBusy s) then s
    else
      lineWritten q line c t

/-- A row read: a line with a word that fails its parity is reported and repaired before the sweep goes on; after the
sixteenth row the lines are compared by their CRC (R155, R173, R174). -/
def readRow (q : Nat) (c : ScbCopy) (s : State) : State :=
  let r := c.row
  let seen := (rowDiffs s q r).foldl (fun m e => SMap.set m e.1 e.2) c.seen
  let par := rowParity s q r
  let crc := if r % 16 = 15 then (crcLines s.integ.gImem seen).filter (fun l => !par.contains l) else []
  let recs := (par.map fun l => lineRec s (rowSyn s q r l) l) ++ crc.map (lineRec s 0)
  logRecs (sortRecs recs) (setCopies q
    { c with
      row := if r = 3071 then 0 else r + 1
      seen := if r % 16 = 15 then [] else seen
      lines := par ++ crc }
    { s with regs := if r = 3071 then rbump s.regs (pg .scb q + 0x110) 0 32 1 else s.regs })

/-- A scrub step of a quadrant that works: a pending line repair comes before the sweep; otherwise the next row is
read, or the first of its lines again when the loader has written one of them (R173 to R175). -/
def scrubRow (q : Nat) (s : State) : State :=
  let c := (scbOf s q).a
  match c.lines with
  | line :: rest => lineRepair q line { c with lines := rest } s
  | [] =>
    if (scbCfg (scbOf s q)).enable then
      readRow q (if c.reread then { c with row := c.row / 16 * 16, seen := [], reread := false } else c) s
    else s

/-- One scrub step of a quadrant: the configuration vote, the lockstep comparison, and the row (R173, R176, R177).
In run state EMPTY nothing is swept. -/
def scrubStep (q : Nat) (s : State) : State :=
  let s := compareScb q (voteCfg q s)
  if (scbOf s q).stopped ∨ s.tck.run = .empty then s else scrubRow q s

/-- The scrub steps W8 to W15 of a commit window, in every quadrant (R173). -/
def scrubWindow (s : State) : State :=
  let all (s : State) : State := scrubStep 3 (scrubStep 2 (scrubStep 1 (scrubStep 0 s)))
  let t := all (all (all (all (all (all (all (all s)))))))
  { t with integ := { t.integ with scbAt := [(0, s.clk.gen), (1, s.clk.gen), (2, s.clk.gen), (3, s.clk.gen)] } }

/-- The effect of SCRUB_READ_STEP: 16 periods of the generator after the quadrant's last read step, one scrub step
(R173). -/
def doScrubReadStep (q : Nat) (s : State) : State :=
  let t := passTo (s.integ.scbAt.get s.clk.gen q + 16) s
  scrubStep q { t with integ := { t.integ with scbAt := t.integ.scbAt.set q t.clk.gen } }

/-- SCRUB_READ_STEP, in the run states in which no commit window occurs (R173); in EMPTY it sweeps nothing, and the copies
are voted on and compared (R176, R177). -/
def execScrubReadStep (q : QuadId) (s : State) : Host.Outcome State Fault Refusal :=
  when (runIn s [.empty, .loaded, .waiting, .halted, .faulted, .draining]) s (doScrubReadStep q s)

end Sys2Proof.Machine
end

