-- ==== Sys2Proof/Machine/Window.lean ====
section
/-!
DEFINITION. The commit window: the row COMMIT_WINDOW, and what begins a tick. The window W0 to W15 is one indivisible
command (log 18).
-/

namespace Sys2Proof.Machine

/-- Links that carry a virtual link of the loaded image (LNK_VMAP.VALID). -/
def activeLinks (m : SMap W32) : List Nat := (List.range 24).filter fun j => (rget m (pg .lnk j + 0x124)).getLsbD 31

/-- A link's state. -/
def linkOf (l : Lnk) (j : Nat) : Link := l.links.get {} j

/-- A link's state replaced. -/
def setLink (l : Lnk) (j : Nat) (k : Link) : Lnk := { l with links := l.links.set j k }

/-- The more severe of two votes: stop, then abort, then commit (R248). -/
def severe (a b : Vote) : Vote :=
  if a = .stop ∨ b = .stop then .stop
  else if a = .abort ∨ b = .abort then .abort
  else if a = .commit ∨ b = .commit then .commit
  else .none

/-! ### The control tree -/

/-- Links to the children in the control tree (LNK_TREE.CHILDREN). -/
def treeKids (m : SMap W32) : BitVec 24 := (rget m 0xB100).extractLsb' 0 24

/-- The children's links, in ascending order. -/
def kidList (m : SMap W32) : List Nat := (List.range 24).filter fun j => (treeKids m).getLsbD j

/-- Link to the parent, if the chip has one (LNK_TREE). -/
def treeParent (m : SMap W32) : Option Nat :=
  if (rget m 0xB100).getLsbD 31 then some (rfld m 0xB100 24 5) else none

/-- Elapsed picoseconds of the period `n` periods from now. -/
def psIn (s : State) (n : Nat) : Nat := s.clk.ps + n * stepPs s.regs

/-- A link has one more event to send, of an instant. -/
def pushEv (at' : Nat) (e : TreeEv) (l : Lnk) (j : Nat) : Lnk :=
  setLink l j { linkOf l j with evq := (linkOf l j).evq ++ [(at', e)] }

/-- An event waits to be sent down every tree link to a child. -/
def pushDown (at' : Nat) (e : TreeEv) (s : State) : State := { s with lnk := (kidList s.regs).foldl (pushEv at' e) s.lnk }

/-- An event waits to be sent to the parent. -/
def pushUp (at' : Nat) (e : TreeEv) (s : State) : State :=
  match treeParent s.regs with
  | some j => { s with lnk := pushEv at' e s.lnk j }
  | none => s

/-- UI of 31.25 ps of which a cut-off lies before its frame's first bit, in picoseconds (R237). -/
def cutPs : Nat := 1000

/-- Picoseconds of a line frame (R229). -/
def framePs : Nat := 33000

/-- W of R237, the step periods between the cut-offs of successive frames at most: 42 at 1.25 GHz, 33 at 1.00 GHz. -/
def frameW (m : SMap W32) : Nat := if stepPs m = 1000 then 33 else 42

/-- Number, from the next frame of a link on, of the frame whose cut-off is the first at or after an instant (R237,
R247). -/
def cutNumber (k : Link) (ps : Nat) : Nat := if k.grid = 0 then 0 else (ps + cutPs - k.grid + framePs - 1) / framePs

/-- The instant and the period of an unsent hold event in a queue. -/
def unsentHold : List (Nat × TreeEv) → Option (Nat × BitVec 28)
  | [] => none
  | (a, .hold t) :: _ => some (a, t)
  | _ :: es => unsentHold es

/-- The unsent hold event of a link that a request of an instant is carried with: no cut-off lies between them (R237,
R249). -/
def carriedWith (k : Link) (ps : Nat) : Option (BitVec 28) :=
  match unsentHold k.evq with
  | some (a, t) => if cutNumber k a = cutNumber k ps then some t else none
  | none => none

/-- The earlier of two periods, seen from now. -/
def earlier (now a b : BitVec 28) : BitVec 28 := if (a - now).toNat ≤ (b - now).toNat then a else b

/-- The unsent hold event of a queue set to the earlier period of a request that merges with it (R249). -/
def mergeEv (t now : BitVec 28) : List (Nat × TreeEv) → List (Nat × TreeEv)
  | [] => []
  | (a, .hold o) :: es => (a, .hold (earlier now o t)) :: es
  | e :: es => e :: mergeEv t now es

/-- A hold event on a link: requests between the same two cut-offs merge at the earliest (R249). -/
def pushHold (at' : Nat) (t now : BitVec 28) (l : Lnk) (j : Nat) : Lnk :=
  match carriedWith (linkOf l j) at' with
  | some _ => setLink l j { linkOf l j with evq := mergeEv t now (linkOf l j).evq }
  | none => pushEv at' (.hold t) l j

/-- The tick and step that a generator period executes, for a hold that names the period (R249): a tick takes S + 16
periods. -/
def stepOf (s : State) (g : Nat) : Nat × Nat :=
  let n := s.tck.resumeStep + (g - s.tck.resumeGen)
  (s.tck.tick + n / (s.tck.depth + 16), n % (s.tck.depth + 16))

/-- A hold is requested once for each kind, tick and step (R83). -/
def addHold (h : HoldReq) (l : List HoldReq) : List HoldReq := if l.contains h then l else l ++ [h]

/-- The period of the root's hold broadcast that no child has been sent yet, with which a further request merges (R249,
log 123). -/
def downUnsent (s : State) (at' : Nat) : Option (BitVec 28) :=
  if (kidList s.regs).all fun j => (carriedWith (linkOf s.lnk j) at').isSome then
    (kidList s.regs).head?.bind fun j => carriedWith (linkOf s.lnk j) at'
  else none

/-- A request moved to another tick and step, where it is of the one named (R249). -/
def HoldReq.move (a b : Nat × Nat) (h : HoldReq) : HoldReq :=
  if (h.tick, h.step) = a then { h with tick := b.1, step := b.2 } else h

/-- The holds of one tick and step, the requests for it, and the late reads that wait in them, moved to another (R249). -/
def moveHold (a b : Nat × Nat) (s : State) : State :=
  { s with
    tck := { s.tck with holds := s.tck.holds.foldl (fun l h => addHold (h.move a b) l) [] }
    lnk := { s.lnk with
      asked := s.lnk.asked.map fun x => { x with req := x.req.move a b }
      childHold := s.lnk.childHold.map fun e => (e.1, e.2.map fun x => { x with req := x.req.move a b }) }
    exe := { s.exe with flights := s.exe.flights.map fun f =>
      if f.late ∧ (s.tck.tick, f.hold) = a then { f with hold := b.2 } else f } }

/-- A request at the root, its own or a child's, forms a hold and is broadcast; requests carried between the same two
cut-offs form one hold at the earliest of their steps (R83, R249). -/
def rootHold (at' : Nat) (k : HoldKind) (t : BitVec 28) (s : State) : State :=
  let p := stepOf s (ctimeGen s t)
  let u := { s with tck := { s.tck with holds := addHold ⟨k, p.2, p.1⟩ s.tck.holds } }
  if s.tck.holds.any fun h => (h.tick, h.step) = p then u
  else match downUnsent s at' with
  | none => pushDown at' (.hold t) u
  | some o =>
    let q := stepOf s (ctimeGen s (earlier (ctimeNow s) o t))
    let v := moveHold p q (moveHold (stepOf s (ctimeGen s o)) q u)
    { v with lnk := (kidList s.regs).foldl (pushHold at' t (ctimeNow s)) v.lnk }

/-- A request of a chip below the root, its own or a child's, is sent up, unless one for the same step stands already;
requests carried between the same two cut-offs form one at the earliest of their steps (R83, R249). -/
def upHold (at' : Nat) (k : HoldKind) (t : BitVec 28) (j : Nat) (s : State) : State :=
  let p := stepOf s (ctimeGen s t)
  let u := { s with lnk := { s.lnk with asked := s.lnk.asked ++ [⟨t, ⟨k, p.2, p.1⟩⟩] } }
  if s.lnk.asked.any fun a => (a.req.tick, a.req.step) = p then u
  else match carriedWith (linkOf s.lnk j) at' with
  | none => { u with lnk := pushEv at' (.hold t) u.lnk j }
  | some o =>
    let e := earlier (ctimeNow s) o t
    let q := stepOf s (ctimeGen s e)
    let v := moveHold p q (moveHold (stepOf s (ctimeGen s o)) q u)
    { v with lnk := { pushHold at' t (ctimeNow s) v.lnk j with
      asked := v.lnk.asked.map fun a => if a.time = o ∨ a.time = t then { a with time := e } else a } }

/-- A request of this chip, or one it passes on, goes to the root or is broadcast by it (R88, R249). -/
def raiseHold (at' : Nat) (k : HoldKind) (t : BitVec 28) (s : State) : State :=
  if s.tck.root then rootHold at' k t s
  else match treeParent s.regs with
  | some j => upHold at' k t j s
  | none => s

/-- A stop goes to the root or from it, and takes effect at its CTIME (R248, R252). -/
def sendStop (at' : Nat) (t : BitVec 28) (s : State) : State :=
  if s.tck.stopAt.isSome then s
  else
    let u := { s with tck := { s.tck with stopAt := some t, voting := false } }
    if s.tck.root then pushDown at' (.vote .stop t) u else pushUp at' (.vote .stop t) u

/-- Once the chip's own vote and every child's are there, the most severe of them goes up, or at the root becomes the
decision (R89, R247, R248). -/
def formVote (at' : Nat) (s : State) : State :=
  if s.tck.voting ∧ s.tck.childGot = treeKids s.regs then
    let v := severe s.tck.localVote s.tck.childVote
    let u := { s with tck := { s.tck with
      voting := false, childGot := 0, childVote := .none
      decision := if s.tck.root then v else s.tck.decision } }
    if s.tck.root then pushDown at' (.vote v 0) u else pushUp at' (.vote v 0) u
  else s

/-! ### W0 to W3 -/

/-- Next-generation check in W0 to W2, of every word written in the tick (R155): source 1. -/
def nextGenRecs (s : State) : List FaultRec :=
  stamped s.clk.gen (s.arr.stNextSyn.map fun e => recAt dState (e.1 / 16) 0 (2 ^ 24 + e.1 % 16 * 16) (tickNo s))

/-- The detections that enter the vote of this execution (R69, R156): its own, and those raised since the last one's
W3. DESIGN CHOICE (log 150): those count as raised in this execution for the record of REPLAY_EXHAUSTED (R179) too. -/
def votedDets (s : State) : List FaultRec := s.exe.late ++ s.exe.dets ++ nextGenRecs s

/-- Regions whose acknowledge is missing at W2: OACK = 1 and GW_OACK differs from the toggle value of the last release
(R328). -/
def outOverrun (s : State) (oack : BitVec 8) : BitVec 8 :=
  (rget s.regs 0x6110).extractLsb' 0 8 &&& (oack ^^^ s.pen.otog)

/-- Regions without a capture since the previous sample: STRICT = 1, from the second sample after START on (R328). -/
def inOverrun (s : State) : BitVec 8 :=
  if s.pen.samples = 0 then 0 else (rget s.regs 0x6110).extractLsb' 8 8 &&& ~~~s.pen.capt

/-- The lowest bit set. -/
def lowBit (b : BitVec 8) : Nat := ((List.range 8).find? fun i => b.getLsbD i).getD 0

/-- The record of GATEWAY_OVERRUN: the lowest region concerned, of the outputs when they are concerned (R328,
log 19). -/
def overrunRec (s : State) (out inp : BitVec 8) : FaultRec :=
  if out ≠ 0 ∧ (inp = 0 ∨ lowBit out ≤ lowBit inp) then recPlain fGateway (lowBit out) (tickNo s)
  else recPlain fGateway (2 ^ 27 + lowBit inp) (tickNo s)

/-- The contract faults of an execution that enters FAULTED, which write entries of their own (R181): those of one
without a detection (R146 to R148). -/
def ownEntries (s : State) : List FaultRec := if votedDets s = [] then s.exe.faults else []

/-- W0 and W1: repairs whose data waits are written back, and every detection and report of the schedule enters the
counters and the event log, with the contract faults that write entries (R68, R165, R181). -/
def gatherReports (s : State) : State :=
  logRecs (sortRecs (s.exe.dets ++ nextGenRecs s ++ s.exe.reports ++ ownEntries s)) (writeRepairs s)

/-- Free entries of the model write queue and of the CALL intake below which a hold is requested (R224, R302). -/
def freeMin : Nat := 49152

/-- Entries of the model write queue and of the CALL intake (R223, R300). -/
def queueCap : Nat := 65536

/-- A request for step 0 of the tick after next: in a multi-chip system it goes up the control tree, naming the period
of that step (R224, R249, R302). -/
def requestHold (c : Bool) (k : HoldKind) (s : State) : State :=
  if !c then s
  else if s.tck.multi then raiseHold (psIn s 3) k (ctimeIn s (s.tck.depth + 32)) s
  else { s with tck := { s.tck with holds := addHold ⟨k, 0, s.tck.tick + 2⟩ s.tck.holds } }

/-- W3: the drain hold and the intake hold for step 0 of the tick after next (R224, R302). -/
def requestHolds (s : State) : State :=
  let drain := decide (queueCap - s.dmc.wq.length < freeMin)
  let take := decide (queueCap - s.yms.intake.length < freeMin)
  let m := if drain then rbump s.regs 0xA13C 0 32 1 else s.regs
  let t := { s with
    tck := { s.tck with drainReq := drain, intakeReq := take }
    regs := if take then rbump m (rkey 0x515C 5) 0 32 1 else m }
  requestHold take .intake (requestHold drain .drain (raiseIf take t 0x5000 4))

/-! ### W4 -/

/-- A force entry applies to the current generation (R430). -/
def applyForces (f : SMap Force) (st : SMap Bool) : SMap Bool :=
  f.foldl (fun m e => if e.2.en then m.put false e.2.key e.2.val else m) st

/-- Committing array storage: the next generation becomes current, the current one retained; the ring banks swap, the
former previous bank is retained (R36, R38, R40, R430). -/
def arrCommit (a : Arr) (f : SMap Force) : Arr :=
  { a with
    stRet := a.stCur, stRetSyn := a.stCurSyn
    stCur := applyForces f (a.stCur.putAll false (a.stNext.map fun e => (e.1, e.2.val)))
    stCurSyn := a.stCurSyn.putAll false a.stNextSyn
    stNext := [], stNextSyn := []
    ringRet := a.ringPrev, ringRetSyn := a.ringPrevSyn
    ringPrev := a.ringCur, ringPrevSyn := a.ringCurSyn
    ringCur := a.ringPrev, ringCurSyn := a.ringPrevSyn }

/-- Deposits moved at a committing W4: the lesser of 64 and 16,384 − MWRS, as YMS_DEPOSIT.CAP holds it (R304). -/
def depositCap (m : SMap W32) : Nat := rfld m 0x514C 0 7

/-- A deposit as a memory-model write of the tick (R304). -/
def depositWrite (m : SMap W32) (d : Deposit) : MWrite :=
  ⟨1023, 147456, d.model, modelAddr m d.model d.off, d.word, true, 0⟩

/-- W4 of a committing execution (R40, R36, R304, R430): the array commits, and deposits join the tick's writes. -/
def commitTick (s : State) : State :=
  let d := s.yms.deposits.take (depositCap s.regs)
  { s with
    arr := arrCommit s.arr s.dbg.force
    pen := { s.pen with
      cur := { s.pen.cur with writes := s.pen.cur.writes ++ d.map (depositWrite s.regs) }
      deps := d }
    yms := { s.yms with deposits := s.yms.deposits.drop (depositCap s.regs) } }

/-- Sets the sticky flags of confirmed reads (keys barn × 64 + track) with INT_STATUS.XSTICKY of the quadrants where
one is newly set (R63). -/
def stickyFlags : List Nat → State → State
  | [], s => s
  | k :: ks, s =>
    let b := k / 64
    let key := rkey (pg .ary (quadOf b) + (if k % 64 < 32 then 0x10C else 0x110)) (b % 24)
    let set := (rget s.regs key).getLsbD (k % 32)
    stickyFlags ks (raiseIf (!set) { s with regs := rset s.regs key (k % 32) 1 1 } (pg .ary (quadOf b)) 0)

/-- A tick is confirmed: the tick counter advances, its undo entries are freed, its sticky reads set their flags, and
the count of re-executions restarts (R100, R161, R63, R166). -/
def confirm (tick : Nat) (sticky : List Nat) (s : State) : State :=
  let s := stickyFlags sticky s
  { s with
    tck := { s.tck with
      count := s.tck.count + 1
      runLeft := s.tck.runLeft.map fun n => n - 1
      rollback := false }
    integ := { s.integ with
      undo := (s.integ.undo.map fun e => (e.1, e.2.filter fun u => u.tick != tick)).filter fun e => !e.2.isEmpty
      unlogged := s.integ.unlogged.filter fun u => u.tick != tick }
    regs := rset s.regs 0x3164 28 4 0 }

/-! ### W5 to W7 -/

/-- W5: the gateway inputs are sampled for the next tick, unless a sample for it is held (R77, R324). -/
def sampleInputs (s : State) : State :=
  match s.pen.inNext with
  | some _ => s
  | none => { s with pen := { s.pen with
      inNext := some s.pen.staging, itog := ~~~s.pen.itog, capt := 0, samples := Nat.min 2 (s.pen.samples + 1) } }

/-- Gateway outputs after a release: the bits driven take their values, the others keep theirs (R111). -/
def gwAfter (out : BitVec 1024) (gw : SMap ProbeW) : BitVec 1024 :=
  gw.foldl (fun o e => setFld o e.1 1 e.2.val.toNat) out

/-- Probe lanes after a release (R27). -/
def lanesAfter (l : BitVec 4096) (pr : SMap ProbeW) : BitVec 4096 :=
  pr.foldl (fun o e => setFld o e.1 1 e.2.val.toNat) l

/-- W5 to W7 of a released tick: gateway outputs, then the events and the probe values, then the memory-model writes
(R68, R75, R76, R327). The trigger engine's evaluation of the tick is due (R361). `w6`: periods from now to the start
of W6. -/
def releaseTick (w6 : Nat) (p : PenTick) (s : State) : State :=
  let calls := p.events.filter fun e => !e.isChk
  let wq := s.dmc.wq ++ p.writes.zipIdx.map fun e => { e.1 with seq := s.dmc.seq + e.2 }
  let e := sampleEdge (s.clk.ps + w6 * stepPs s.regs)
  { s with
    pen := { s.pen with
      out := gwAfter s.pen.out p.gw
      otog := ~~~s.pen.otog
      lanes := lanesAfter s.pen.lanes p.probes
      lanesOld := s.pen.lanes
      evalAt := e
      evalTime := fineAt s e
      asserts := p.events.filter fun e => e.isChk
      due := true }
    yms := { s.yms with intake := s.yms.intake ++ calls.zipIdx }
    dmc := { s.dmc with wq := wq, seq := s.dmc.seq + p.writes.length }
    regs := rpeak s.regs 0xA134 16 16 ((wq.length + 1) / 2) }

/-! ### The window -/

/-- The contract faults of an execution as it enters FAULTED: the fault record and TCK_FAULT_COUNT.RAISED (R145,
R146). -/
def recordFaults (faults : List FaultRec) (s : State) : State :=
  { s with
    integ := { s.integ with frec := match chosen faults with
      | some f => f.word
      | none => s.integ.frec }
    regs := rset s.regs 0x3150 0 16 (Nat.min 0xFFFF faults.length) }

/-- A run-group fault: its record (R85, R328), and, a DESIGN CHOICE (log 148), its entry in the event log. -/
def recordRun (f : FaultRec) (s : State) : State :=
  let s := logRecs [f] s
  { s with integ := { s.integ with frec := f.word } }

/-- GATEWAY_OVERRUN: PDK_GW_STAT records every region concerned, INT_STATUS.GW_OVERRUN of the PDK page is set
(R328). -/
def noteOverrun (out inp : BitVec 8) (s : State) : State :=
  raiseInt { s with regs := rput s.regs 0x6114 (rget s.regs 0x6114 ||| (0#16 ++ inp ++ out)) } 0x6000 0

/-- A deferral: the contract faults of an execution with an integrity fault are neither recorded nor acted on; they
write one deferral entry, and DEFERRED counts it (R148, R181). -/
def deferFaults (faults : List FaultRec) (s : State) : State :=
  match chosen faults with
  | none => s
  | some f =>
    let s := logRecs [{ f with code := f.code + 0x10 }] s
    { s with regs := rbump s.regs 0x3150 16 16 1 }

/-- What a window with GATEWAY_OVERRUN records: the contract faults as any other window does, and the fault record of
GATEWAY_OVERRUN in place of theirs (R145, R148, R181, R328, log 114). DESIGN CHOICE (log 147): without a contract fault,
TCK_FAULT_COUNT.RAISED keeps its earlier count. -/
def recordOverrun (dets faults : List FaultRec) (out inp : BitVec 8) (s : State) : State :=
  let t := if dets ≠ [] then deferFaults faults s else if faults ≠ [] then recordFaults faults s else s
  recordRun (overrunRec s out inp) (noteOverrun out inp t)

/-- The run stops before the earliest tick undone, in FAULTED (R86, R146, R328). Repairs whose data waits are written:
the array does not fetch (R165). DESIGN CHOICE (log 149): an undo that cannot be restored sets TAINT here and reports no
REPLAY_EXHAUSTED. -/
def faultStop (s : State) : State :=
  let u := undoTicks (writeRepairs s)
  let s := logRecs (sortRecs u.dets) u.st
  enterFaulted (if u.bad then setTaint s else s)

/-- Re-executions of the tick (TCK_REPLAY_STAT.CUR). -/
def replayCur (m : SMap W32) : Nat := rfld m 0x3164 28 4

/-- A link at the start of a restart hold: its resend begins afresh, the hold that every chip raises stands on the
control tree, and the holds of the undone ticks are not sent (R163, R164, R253). -/
def restartLink (l : Lnk) (j : Nat) : Lnk :=
  setLink l j { linkOf l j with
    rsNext := 0, rsGot := [], ackTx := false, ackRx := false, lvl := true, rxHold := true
    evq := (linkOf l j).evq.filter fun e => match e.2 with
      | .hold _ => false
      | .rehold _ => false
      | .release _ => false
      | _ => true }

/-- The links at the start of a restart hold: the chip waits for every child's part (R163, R249). -/
def restartLinks (s : State) : Lnk :=
  let a : Ask := ⟨ctimeNow s, ⟨.restart, 0, s.tck.tick⟩⟩
  { (activeLinks s.regs).foldl restartLink s.lnk with
    childHold := (kidList s.regs).map fun j => (j, [a])
    asked := [a]
    childArr := [] }

/-- An abort or rollback has been decided: every unconfirmed tick is undone, the abort is counted, and the tick is
executed again after a restart hold, unless the limit N is reached or something could not be restored (R159, R163,
R166 to R169). `dets`: the detections this chip raised in the aborted execution. -/
def replayTick (dets : List FaultRec) (s : State) : State :=
  let u := undoTicks s
  let s := logRecs (sortRecs u.dets) u.st
  let s := raiseInt { s with regs := rbump s.regs 0x3164 0 28 1 } 0x3000 5
  if u.bad then exhaust (setTaint s) 1 (dets ++ u.dets)
  else if replayLimit s.regs ≤ replayCur s.regs then exhaust s 0 dets
  else
    { s with
      regs := rbump (rbump s.regs 0x3164 28 4 1) 0x3128 0 32 1
      lnk := if s.tck.multi then restartLinks s else s.lnk
      tck := { s.tck with
        rollback := s.tck.multi
        freeze := some ⟨.restart, 0, s.clk.gen, s.clk.ps⟩
        holds := if s.tck.multi then [] else s.tck.holds
        lastPart := s.clk.gen, undoDone := true, treeResume := none } }

/-- W4 to W7 of a single-chip system (R68 to R71, R145 to R148). -/
def windowSingle (oack : BitVec 8) (s : State) : State :=
  let dets := votedDets s
  let faults := s.exe.faults
  let out := outOverrun s oack
  let inp := inOverrun s
  let s := gatherReports s
  let s := requestHolds s
  if out ≠ 0 ∨ inp ≠ 0 then
    let s := recordOverrun dets faults out inp s
    faultStop { s with exe := { s.exe with late := [] } }
  else if dets ≠ [] then
    let s := deferFaults faults s
    let s := replayTick dets { s with exe := { s.exe with late := [] } }
    s
  else if faults ≠ [] then faultStop (recordFaults faults s)
  else
    let tick := s.tck.tick
    let sticky := s.exe.sticky
    let s := confirm tick sticky (commitTick s)
    let p := s.pen.cur
    let s := releaseTick 6 p (sampleInputs s)
    { s with
      pen := { s.pen with cur := {}, deps := [] }
      exe := exeClear s.exe
      tck := { s.tck with inTick := false, tick := tick + 1 } }

/-- The vote a chip hands to the control tree at W3: stop for a contract fault or GATEWAY_OVERRUN, abort for a
detection, otherwise commit (R68, R147, R248). -/
def voteOf (overrun : Bool) (dets faults : List FaultRec) : Vote :=
  if overrun then .stop else if dets ≠ [] then .abort else if faults ≠ [] then .stop else .commit

/-- The vote is launched: a stop at once with its CTIME, any other with the children's (R247, R248). -/
def launchVote (v : Vote) (s : State) : State :=
  if v = .stop then sendStop (psIn s 4) (ctimeIn s (s.tck.ctree + 4)) s
  else formVote (psIn s 4) { s with tck := { s.tck with voting := true } }

/-- The tick committed speculatively at W4, with its vote launched (R93, R94, R247). -/
def commitSpec (v : Vote) (dets : List FaultRec) (s : State) : State :=
  let s := commitTick s
  launchVote v { s with
    pen := { s.pen with old := s.pen.cur, cur := {}, depsOld := s.pen.deps, deps := [] }
    exe := { exeClear s.exe with detsOld := dets, stickyOld := s.exe.sticky, late := [] }
    tck := { s.tck with
      specPend := true, decision := .none, localVote := v, inTick := false, tick := s.tck.tick + 1
      w4 := ctimeIn s 4 } }

/-- W4 to W7 of a multi-chip system (R92 to R94, R147): the decision for the previous tick is applied, then this tick
is committed speculatively; W5 to W7 release the tick now confirmed. DESIGN CHOICE (log 107): the contract faults of an
execution that a rollback abandons are neither deferred nor logged. -/
def windowMulti (oack : BitVec 8) (s : State) : State :=
  let dets := votedDets s
  let faults := s.exe.faults
  let out := outOverrun s oack
  let inp := inOverrun s
  let overrun := out != 0 || inp != 0
  let s := requestHolds (gatherReports s)
  if s.tck.specPend && s.tck.decision == .abort then
    let last := s.exe.detsOld
    replayTick last { s with exe := { s.exe with late := [] } }
  else
    let confirmed := s.tck.specPend
    let old := s.pen.old
    let s := if confirmed then confirm (s.tck.tick - 1) s.exe.stickyOld s else s
    let v := voteOf overrun dets faults
    let s := if overrun then recordOverrun dets faults out inp s
      else if dets ≠ [] then deferFaults faults s
      else if faults ≠ [] then recordFaults faults s
      else s
    let s := sampleInputs (commitSpec v dets s)
    if confirmed then releaseTick 6 old s else s

/-- The code of a vote (R248). -/
def voteCode : Vote → BitVec 2
  | .none => 0 | .commit => 1 | .abort => 2 | .stop => 3

/-- The tick trailer: TICK, GROUPS, VOTE (R238). -/
def trailerOf (tick depth : Nat) (v : Vote) : BitVec 80 :=
  (0#51 ++ voteCode v ++ BitVec.ofNat 11 depth ++ BitVec.ofNat 16 tick)

/-- W8 to W15: scrub reads, and the tick trailer is due on every active link (R68, R238). `tick`: the tick executed. -/
def windowTail (tick : Nat) (s : State) : State :=
  let s := scrubWindow s
  let t := trailerOf tick s.tck.depth s.tck.localVote
  let w8 := s.clk.ps - 8 * stepPs s.regs
  { s with lnk := (activeLinks s.regs).foldl (fun l j => setLink l j { linkOf l j with trailer := some (w8, t) }) s.lnk }

/-- Every processor of a placed barn whose store holds, in the schedule, a word other than 0 or one that fails its parity
has executed its S slots (R21, R155); one whose slots are all IDLE with zero fields needs no command (log 16). In a
four-state barn a word of either processor of a pair asks that the pair has run (R57). -/
def allRan (s : State) : Bool :=
  let ran (k : Nat) : Bool :=
    let g := k / 1024
    decide (s.tck.depth ≤ k % 1024) || !placed s (barnOf g) || s.exe.ran.get 0 (executor s g) == s.tck.depth
  s.arr.imem.all (fun e => ran e.1) && s.arr.imemSyn.all fun e => ran e.1

/-- The schedule is over: every step up to S − 1 has been delivered and nothing waits in it. -/
def scheduleDone (s : State) : Bool :=
  delivering s && decide (s.tck.step < s.tck.depth) && allRan s
    && s.tck.holds.all (fun h => h.tick != s.tck.tick || h.step == 0)
    && s.exe.flights.isEmpty && !stoppedBy s (s.clk.gen + (s.tck.depth - s.tck.step) + 4)
    && (!s.tck.specPend || s.tck.decision == .commit || s.tck.decision == .abort)

/-- Time at W0. -/
def atW0 (s : State) : State :=
  let t := pass (s.tck.depth - s.tck.step) s
  { t with tck := { t.tck with step := s.tck.depth - 1 } }

/-- A commit window (R68): W0 to W3, the decision and its effects at W4 to W7, W8 to W15. A freeze that it
leaves begins at the end of W15 (R163); a tick that ends in FAULTED has its window to the end (log 128). -/
def wholeWindow (oack : BitVec 8) (s : State) : State :=
  let tick := s.tck.tick
  let s := atW0 s
  let s := if s.tck.multi then windowMulti oack s else windowSingle oack s
  let s := windowTail tick (pass 16 s)
  { s with tck := { s.tck with
    freeze := s.tck.freeze.map fun f => { f with since := s.clk.gen, sincePs := s.clk.ps }
    resumeGen := s.clk.gen, resumeStep := 0 } }

/-! ### The tick boundary -/

/-- The run stops at this boundary: a halt was requested, a break's delay is over, or RUN_N's count is reached, an
execution that still awaits its decision included (R96, R97, R99). -/
def stopsHere (s : State) : Bool :=
  s.tck.haltReq
    || (match s.tck.breakAt with
        | some t => decide (t < s.tck.tick)
        | none => false)
    || (match s.tck.runLeft with
        | some n => decide (n ≤ if s.tck.specPend then 1 else 0)
        | none => false)

/-- A released tick waits for the trigger engine, which is ON and enabled (R361, R362). -/
def evalDue (s : State) : Bool := s.pen.due && (rget s.regs 0x7100).getLsbD 0 && domOn s.pwr 27

/-- A link's pointers as a tick begins again after an undo, or a run begins: no group of it sent or received. -/
def startLink (tick : Nat) (k : Link) : Link :=
  { k with
    sent := 0, sentTick := tick, trailer := none, got := 0, gotTick := tick, trTick := tick, lateTo := 0 }

/-- The links as a tick begins. -/
def beginLinks (again : Bool) (tick : Nat) (l : SMap Link) : SMap Link :=
  l.map fun e => (e.1, if again then startLink tick e.2 else { e.2 with lateTo := 0 })

/-- A new tick begins at step 0 with empty pipelines and cleared latches; the link positions and the gateway sample
are latched, or after an undo kept (R35, R53, R106, R119, R120, R77). -/
def beginTick (s : State) : State :=
  let again := s.tck.redo
  { s with
    arr := idleRings s
    exe := { exeClear s.exe with
      staged := []
      linkTx := []
      linkOld := if again then s.exe.linkOld else s.exe.linkTx
      linkOld2 := if again then s.exe.linkOld2 else s.exe.linkOld
      recv := if again then s.exe.recv else s.exe.staged
      recvOld := if again then s.exe.recvOld else s.exe.recv }
    pen := { s.pen with
      inOld := if again then s.pen.inOld else some s.pen.inCur
      inCur := if again then s.pen.inCur else s.pen.inNext.getD s.pen.inCur
      inNext := if again then s.pen.inNext else none }
    lnk := { s.lnk with links := beginLinks again s.tck.tick s.lnk.links }
    tck := { s.tck with inTick := true, step := 0, redo := false, resumeGen := s.clk.gen, resumeStep := 0 } }

end Sys2Proof.Machine
end

