-- ==== Sys2Proof/Machine/Hold.lean ====
section
/-!
DEFINITION. Holds: the rows HOLD_DECISION, HOLD_FREEZE, MODEL_READ_ARRIVAL, HOLD_RESUME, TICK_STRETCH_TIMEOUT and
RESTART_HOLD_END (R79 to R86, R163).
-/

namespace Sys2Proof.Machine

/-- The memory-model read that port `m` of barn `b` issued at step `st`. -/
def flightOf (s : State) (b m st : Nat) : Option Flight :=
  s.exe.flights.find? fun f => f.barn == b && f.port == m && f.issue == st && f.model && f.en

/-- The flights with the reads of a port and issuing step changed. -/
def setFlights (l : List Flight) (b m st : Nat) (f : Flight → Flight) : List Flight :=
  l.map fun x => if x.barn == b && x.port == m && x.issue == st && x.model && x.en then f x else x

/-! ### HOLD_DECISION -/

/-- The decision step of a read: s + L − 64 − C (R79). -/
def decisionStep (s : State) (f : Flight) : Nat := f.land - 64 - s.tck.ctree

/-- The decision step of the read is reached, and no hold freezes the array at or before it. -/
def decisionOk (s : State) (b m st : Nat) : Bool :=
  match flightOf s b m st with
  | none => false
  | some f => stepOpen s (decisionStep s f) && !f.late

/-- The effect of HOLD_DECISION: data that has not arrived raises a hold request for step s + L; in a multi-chip
system the request goes to the root, and the array freezes as the root broadcasts it (R79, R88, R249). -/
def doHoldDecision (b m st : Nat) (s : State) : State :=
  match flightOf s b m st with
  | none => s
  | some f =>
    let d := decisionStep s f
    let t := pass (d - s.tck.step) s
    if f.arrived then { t with tck := { s.tck with step := d } }
    else
      let u := { t with
        exe := { s.exe with flights := setFlights s.exe.flights b m st fun x => { x with late := true, hold := x.land } }
        tck := { s.tck with
          step := d
          holds := if s.tck.multi then s.tck.holds else addHold ⟨.read, f.land, s.tck.tick⟩ s.tck.holds } }
      if s.tck.multi then raiseHold u.clk.ps .read (ctimeIn t (f.land - d)) u else u

/-- HOLD_DECISION (R79) of the read that port `m` of barn `b` issued at step `st`. -/
def execHoldDecision (b : BarnId) (m : PortId) (st : Step) (s : State) : Host.Outcome State Fault Refusal :=
  when (decisionOk s b m st) s (doHoldDecision b m st s)

/-! ### HOLD_FREEZE -/

/-- The earliest of the requests for the tick being executed or waiting to start. -/
def nextHold (s : State) : Option HoldReq :=
  (s.tck.holds.filter fun h => h.tick == s.tck.tick).foldl (fun o h => match o with
    | none => some h
    | some x => if h.step < x.step then some h else some x) none

/-- The array can reach the frozen step: every landing before it has taken place, and step 0 is held before the tick
begins, where the run does not stop at that boundary. -/
def freezeOk (s : State) : Bool :=
  s.tck.run == .running && s.tck.freeze.isNone && match nextHold s with
    | none => false
    | some h =>
      if s.tck.inTick then
        decide (s.tck.step < h.step) && decide (h.step < s.tck.depth) && s.exe.flights.all fun f => decide (h.step ≤ f.land)
      else h.step == 0 && !stopsHere s

/-- The effect of HOLD_FREEZE: the array freezes with the step not executed (R80), and repairs whose data waits are
written (R165); TCK_HOLD_COUNT counts the hold. -/
def doHoldFreeze (s : State) : State :=
  match nextHold s with
  | none => s
  | some h =>
    let t := if s.tck.inTick then pass (h.step - s.tck.step) s else s
    writeRepairs { t with
      tck := { s.tck with
        step := h.step
        freeze := some ⟨h.kind, h.step, t.clk.gen, t.clk.ps⟩ }
      regs := rbump t.regs 0x3128 0 32 1 }

/-- HOLD_FREEZE (R80). -/
def execHoldFreeze (s : State) : Host.Outcome State Fault Refusal := when (freezeOk s) s (doHoldFreeze s)

/-! ### MODEL_READ_ARRIVAL -/

/-- The controller can read the word: it starts requests, and the channel is not FAILED (R218, R507). -/
def arrivalOk (s : State) (b m st : Nat) : Bool :=
  match flightOf s b m st with
  | none => false
  | some f => !f.arrived && !memBusy s f.addr && chanState s.regs (channelOf s.regs f.addr) != 3

/-- The effect of MODEL_READ_ARRIVAL: the word of DRAM, with every write that arrived before the read, or after three
failing reads a word with an error mark, reaches the hub (R82, R172, R214, R216). -/
def doModelReadArrival (b m st passes : Nat) (s : State) : State :=
  match flightOf s b m st with
  | none => s
  | some f =>
    let r := readBurst f.addr passes (noteCmd f.addr none s)
    { r.1 with
      exe := { s.exe with flights := setFlights s.exe.flights b m st fun x =>
        { x with
          word := Memory.word (dramBefore x.seq s.dmc) x.addr, arrived := true, bad := !r.2, arr := s.clk.gen } } }

/-- MODEL_READ_ARRIVAL (R82): `passes` is the read that passes its check, or 3 for none. -/
def execModelReadArrival (b : BarnId) (m : PortId) (st : Step) (passes : Fin 4) (s : State) :
    Host.Outcome State Fault Refusal :=
  when (arrivalOk s b m st) s (doModelReadArrival b m st passes s)

/-! ### HOLD_RESUME -/

/-- A late read of this chip that the hold at `step` waits for (R82, R83). -/
def waitsFor (step : Nat) (f : Flight) : Bool := f.late && !f.arrived && f.hold == step

/-- This chip's part of the restart hold is over: undo and repairs are complete, and on every active link every group
of the resend has been received, so that ACK is set (R163, R253). -/
def restartPart (s : State) : Bool :=
  s.integ.repairs.isEmpty && (!s.tck.multi || (activeLinks s.regs).all fun j => (linkOf s.lnk j).ackTx)

/-- The cause of a request of this chip has not ended (R82, R163, R224, R302). -/
def causeOpen (s : State) (h : HoldReq) : Bool :=
  match h.kind with
  | .read => h.tick == s.tck.tick && s.exe.flights.any (waitsFor h.step)
  | .drain => s.tck.drainReq
  | .intake => s.tck.intakeReq
  | .restart => !restartPart s
  | .stop => false

/-- A child's request for a tick and step has not been released (R249). -/
def childAt (s : State) (p : Nat × Nat) : Bool :=
  s.lnk.childHold.any fun e => e.2.any fun a => (a.req.tick, a.req.step) == p

/-- The requests for a step of the tick being executed or waiting to start. -/
def reqsAt (s : State) (step : Nat) : List HoldReq :=
  s.tck.holds.filter fun h => h.tick == s.tck.tick && h.step == step

/-- The period in which the last late read that waited in the hold at a step arrived, or the cause of its drain or
intake hold ended (R82, R224, R302). -/
def causeArr (s : State) (step : Nat) : Nat :=
  let reads := (s.exe.flights.filter fun f => f.late && f.hold == step).foldl (fun n f => Nat.max n f.arr) 0
  if (reqsAt s step).any fun h => h.kind == .drain || h.kind == .intake then Nat.max reads s.tck.lastArr else reads

/-- An own arrival with the latest that the children have reported for the hold of a tick and step (R249). -/
def withChildren (s : State) (p : Nat × Nat) (own : Nat) : Nat :=
  (s.lnk.childArr.filter fun a => (a.1, a.2.1) == p).foldl (fun n a => Nat.max n (ctimeGen s a.2.2)) own

/-- The period at which the held step is executed: C + 2 periods after the last arrival, ended cause or completed part,
and not less than 2 after the freeze; as the root broadcast it, if it has (R82, R163, R249). -/
def resumeGen (s : State) (f : Freeze) : Nat :=
  match s.tck.treeResume with
  | some t => ctimeGen s t
  | none =>
    Nat.max (withChildren s (s.tck.tick, f.step) (if f.kind = .restart then s.tck.lastPart else causeArr s f.step) + s.tck.ctree + 2) (f.since + 2)

/-- Nanoseconds since a freeze. -/
def frozenNs (s : State) (f : Freeze) : Nat := (s.clk.ps - f.sincePs) / 1000

/-- What this chip holds the array for has ended (R82, R163). -/
def partOver (s : State) (f : Freeze) : Bool :=
  if f.kind = .restart then restartPart s else !(reqsAt s f.step).any (causeOpen s)

/-- The freeze in effect, or the one that the earliest request of the tick will bring about. -/
def heldAt (s : State) : Option Freeze :=
  match s.tck.freeze with
  | some f => some f
  | none => (nextHold s).map fun h => ⟨h.kind, h.step, genAt s h.step, s.clk.ps⟩

/-- The earliest period that a broadcast in the frame formed now reaches every chip before (R247, R251): D counts the
wait for a frame, which lies behind. -/
def broadcastGen (s : State) : Nat := s.clk.gen + s.tck.down + 2 - frameW s.regs

/-- The root broadcasts the release of the earliest hold, once: its own causes and its children's requests of that step
have ended (R83, R249). A release that reached the root late makes the resume period later (R251). -/
def rootRelease (s : State) : State :=
  match heldAt s with
  | none => s
  | some f =>
    if s.tck.root ∧ s.tck.treeResume.isNone ∧ !childAt s (s.tck.tick, f.step) ∧ f.kind ≠ .stop ∧ partOver s f then
      let r := ctimeAt s (Nat.max (resumeGen s f) (broadcastGen s))
      pushDown s.clk.ps (.release r) { s with tck := { s.tck with treeResume := some r } }
    else s

/-- The resume period is known: in a multi-chip system from the root's broadcast. -/
def resumeKnown (s : State) (f : Freeze) : Bool :=
  if s.tck.multi then (rootRelease s).tck.treeResume.isSome else partOver s f

/-- The hold can end: every late read that caused it has arrived, every requesting queue has its free entries; before
step 0 the released tick has been evaluated. -/
def resumeOk (s : State) : Bool :=
  match s.tck.freeze with
  | none => false
  | some f => f.kind != .restart && f.kind != .stop && (s.tck.inTick || !evalDue s) && resumeKnown s f && !stoppedBy s (resumeGen (rootRelease s) f)

/-- The state with a hold over. -/
def holdOver (f : Freeze) (s t : State) : State :=
  { t with
    tck := { s.tck with
      freeze := none
      holds := s.tck.holds.filter fun h => !(h.tick == s.tck.tick && h.step == f.step)
      treeResume := none, resumeGen := t.clk.gen, resumeStep := f.step }
    lnk := { s.lnk with childArr := s.lnk.childArr.filter fun a => (a.1, a.2.1) != (s.tck.tick, f.step) }
    regs := rpeak t.regs 0x312C 0 32 (frozenNs t f) }

/-- The effect of HOLD_RESUME: the held step is next to be executed; a tick held at step 0 begins, so that a halt or
break of the meantime stops the run after it (R82, R86). TCK_HOLD_MAX holds the longest freeze. -/
def doHoldResume (s : State) : State :=
  match s.tck.freeze with
  | none => s
  | some f =>
    let s := if s.tck.multi then rootRelease s else s
    let t := holdOver f s (passTo (resumeGen s f) s)
    if t.tck.inTick then t else beginTick t

/-- HOLD_RESUME (R82). -/
def execHoldResume (s : State) : Host.Outcome State Fault Refusal := when (resumeOk s) s (doHoldResume s)

/-! ### RESTART_HOLD_END -/

/-- The restart hold can end. -/
def restartOk (s : State) : Bool :=
  match s.tck.freeze with
  | none => false
  | some f => f.kind == .restart && resumeKnown s f && !stoppedBy s (resumeGen (rootRelease s) f)

/-- The effect of RESTART_HOLD_END: the aborted tick begins again at step 0 with its latched inputs (R159, R163);
TCK_RESTART_MAX holds the longest restart hold. -/
def doRestartHoldEnd (s : State) : State :=
  match s.tck.freeze with
  | none => s
  | some f =>
    let s := if s.tck.multi then rootRelease s else s
    let t := passTo (resumeGen s f) s
    beginTick { t with
      lnk := { t.lnk with childArr := [] }
      tck := { t.tck with freeze := none, undoDone := false, treeResume := none }
      regs := rpeak t.regs 0x3170 0 32 (frozenNs t f) }

/-- RESTART_HOLD_END (R163). -/
def execRestartHoldEnd (s : State) : Host.Outcome State Fault Refusal := when (restartOk s) s (doRestartHoldEnd s)

/-! ### TICK_STRETCH_TIMEOUT -/

/-- Picoseconds after which the tick-stretch watchdog fires: TCK_HOLD_WDOG.LIMIT_US. -/
def wdogPs (m : SMap W32) : Nat := rfld m 0x311C 0 20 * 1000000

/-- The step of the hold in which a late read waits: its own request's, or in a multi-chip system the step at which the
root merged it with an earlier one, the latest of the tick's holds up to it (R83, R249). -/
def heldStep (s : State) (f : Flight) : Nat :=
  if s.tck.multi then
    (s.tck.holds.filter fun h => h.tick == s.tck.tick && decide (h.step ≤ f.hold)).foldl (fun n h => Nat.max n h.step) 0
  else f.hold

/-- The late read that a timed-out hold names: one that waits in the hold at the frozen step; of several the first of the
list (R85, log 115). -/
def lateRead (s : State) (step : Nat) : Option Flight :=
  s.exe.flights.find? fun f => f.late && !f.arrived && heldStep s f == step

/-- The requests of this chip: what it has asked of the root, or at the root and on a single chip the holds themselves. -/
def ownReqs (s : State) : List HoldReq :=
  if s.tck.multi && !s.tck.root then s.lnk.asked.map fun a => a.req else s.tck.holds

/-- A cause of a drain or intake hold that this chip requests is open at the frozen step. -/
def queueOpen (s : State) (f : Freeze) (k : HoldKind) : Bool :=
  f.step == 0 && (if k = .drain then s.tck.drainReq else s.tck.intakeReq)
    && (ownReqs s).any fun h => h.kind == k && h.tick == s.tck.tick && h.step == f.step

/-- The fault record of a timed-out hold of this chip; none when no cause of it is this chip's (R85). -/
def timeoutRec (s : State) (f : Freeze) : Option FaultRec :=
  if f.kind = .restart then
    if restartPart s then none else some (recPlain fStretch (2 ^ 25) (tickNo s))
  else match lateRead s f.step with
    | some r => some (recAt fStretch r.proc r.land (r.modelNo % 256) (tickNo s))
    | none =>
      if queueOpen s f .drain then some (recPlain fStretch (2 ^ 27) (tickNo s))
      else if queueOpen s f .intake then some (recPlain fStretch (2 ^ 26) (tickNo s))
      else none

/-- A hold whose cause is still open can time out. -/
def timeoutOk (s : State) : Bool :=
  match s.tck.freeze with
  | none => false
  | some f => f.kind != .stop && (timeoutRec s f).isSome && s.tck.stopAt.isNone && s.tck.treeResume.isNone

/-- Time at the end of the watchdog's limit, with the freeze entered in TCK_HOLD_MAX or TCK_RESTART_MAX. -/
def atTimeout (s : State) (f : Freeze) : State :=
  let t := passPs (f.sincePs + wdogPs s.regs) s
  { t with regs := rpeak t.regs (if f.kind = .restart then 0x3170 else 0x312C) 0 32 (frozenNs t f) }

/-- The detections and reports of an execution that is stopped before its window enter the event log (R181). -/
def logOpen (s : State) : State :=
  let t := logRecs (sortRecs (s.exe.dets ++ s.exe.reports)) s
  { t with exe := { t.exe with dets := [], reports := [] } }

/-- The effect of TICK_STRETCH_TIMEOUT: the fault is recorded; a single-chip run undoes the tick and enters FAULTED;
in a multi-chip system the stop goes up the control tree and takes effect C periods later (R85, R86, R248). -/
def doTickStretchTimeout (s : State) : State :=
  match s.tck.freeze with
  | none => s
  | some f =>
    match timeoutRec s f with
    | none => s
    | some r =>
      let t := recordRun r (atTimeout s f)
      if s.tck.multi then sendStop t.clk.ps (ctimeIn t s.tck.ctree) { t with tck := { t.tck with localVote := .stop } }
      else
        let t := logOpen t
        faultStop { t with tck := { t.tck with holds := t.tck.holds.filter fun h => h.tick != t.tck.tick } }

/-- TICK_STRETCH_TIMEOUT (R85). -/
def execTickStretchTimeout (s : State) : Host.Outcome State Fault Refusal :=
  when (timeoutOk s) s (doTickStretchTimeout s)

end Sys2Proof.Machine
end

