-- ==== Sys2Proof/Machine/RegFile.lean ====
section
/-!
DEFINITION. The register file behind BAR0 (R9, R10, R458, R480 to R482): which entry an offset shows, the per-field
range check and clamp, CLAMP_REPORT, and the tack room's register entries. What a register's write brings about beside
its fields is given by the chapters' own operations.
-/

namespace Sys2Proof.Machine

/-- The number of a debug path: 0 TAP, 1 debug BAR (R414). -/
def pathIdx : DbgPath → Nat
  | .tap => 0
  | .bar => 1

/-- The registers of the DBG page of which each debug path has a copy (R413). -/
def dbgBanked (off : Nat) : Bool := 0x9100 ≤ off && off ≤ 0x91B8

/-- The key of the register that an offset shows: the entry that its selector chooses, or the path's copy. -/
def keyOf (m : SMap W32) (path off : Nat) (r : Reg) : Nat :=
  if dbgBanked off then rkey off path
  else if r.sel = 0 then off
  else rkey off (rget m (off - off % 4096 + r.sel)).toNat

/-- The register at a BAR0 offset, unless it is reserved or lies in no page. -/
def regAt (off : Nat) : Option Reg :=
  match pageOf (off / 4096) with
  | some (b, _) => b.reg (off % 4096)
  | none => none

/-- A DMC mask after the check of R210: its own home bit set, the other hashed bits' home bits clear, bit 39 clear. -/
def maskClamp (idx v : Nat) : Nat :=
  let homes := [6, 7, 9, 10, 11, 12, 13]
  (homes.zipIdx.foldl (fun n h => if h.2 = idx then n ||| 2 ^ h.1 else n &&& (2 ^ 40 - 1 - 2 ^ h.1)) v) % 2 ^ 39

/-- The value a field takes in place of the written one (R481). `m`: the registers, `off`: the register's offset, `w`:
the written word with the clamps of the fields checked before. -/
def Chk.clamp (m : SMap W32) (off : Nat) (w : W32) (f : Field) (v : Nat) : Nat :=
  match f.chk with
  | .none =>
    if off = 0xA110 then maskClamp (rget m 0xA10C).toNat v % 2 ^ 32 else if off = 0xA114 then v % 128 else v
  | .max n => Nat.min v n
  | .min n => Nat.max v n
  | .range lo hi => Nat.min (Nat.max v lo) hi
  | .align k => v / 2 ^ k * 2 ^ k
  | .above hi lo => Nat.max v (fld w lo (hi - lo + 1))
  | .aqWord => Nat.min v (if fld w 12 2 = 0 then 31 else if fld w 12 2 = 1 then 7 else 2047)
  | .win => if rfld m (rkey 0x7168 (rget m 0x7164).toNat) 28 3 = 0 then 1 else Nat.max v 1
  | .rptr => Nat.min v (rfld m 0x7180 0 32 * 64 - 1)
  | .tail => Nat.min v (2 ^ rfld m (rkey 0x12C (rget m 0x128).toNat) 4 4 - 1)
  | .cmpSel => if off / 4096 = 0x30 then v else Nat.min v 5

/-- A clamp as CLAMP_REPORT records it: field, written and clamped value (R482). -/
structure Clamped where
  lo      : Nat
  width   : Nat
  written : Nat
  clamped : Nat
deriving DecidableEq, Repr

/-- What a write leaves: the register's new value, the written word as its fields' checks leave it, and the clamps. -/
structure Written where
  new    : W32
  eff    : W32
  clamps : List Clamped
deriving DecidableEq, Repr

/-- A write of one field (R9, R481). A field written only while EN = 0 is left alone otherwise. -/
def writeField (m : SMap W32) (off : Nat) (old v : W32) (a : Written) (f : Field) : Written :=
  let n := f.hi - f.lo + 1
  let x := fld v f.lo n
  let c := Chk.clamp m off a.eff f x
  match f.acc with
  | .ro => a
  | .rc => a
  | .w1c => { a with new := setFld a.new f.lo n (fld (old &&& ~~~v) f.lo n) }
  | .wo => ⟨a.new, setFld a.eff f.lo n c, if c = x then a.clamps else a.clamps ++ [⟨f.lo, n, x, c⟩]⟩
  | .rw => ⟨setFld a.new f.lo n c, setFld a.eff f.lo n c, if c = x then a.clamps else a.clamps ++ [⟨f.lo, n, x, c⟩]⟩
  | .rwOff =>
    if old.getLsbD 31 then a
    else ⟨setFld a.new f.lo n c, setFld a.eff f.lo n c, if c = x then a.clamps else a.clamps ++ [⟨f.lo, n, x, c⟩]⟩

/-- A write of every field of a register, in the order in which R481 checks them. -/
def writeFields (m : SMap W32) (off : Nat) (r : Reg) (old v : W32) : Written :=
  r.fields.foldl (writeField m off old v) ⟨old, v, []⟩

/-- The RW bits of a register. -/
def Reg.rwMask (r : Reg) : W32 :=
  r.fields.foldl (fun w f => match f.acc with
    | .rw => setFld w f.lo (f.hi - f.lo + 1) (2 ^ (f.hi - f.lo + 1) - 1)
    | .rwOff => setFld w f.lo (f.hi - f.lo + 1) (2 ^ (f.hi - f.lo + 1) - 1)
    | _ => w) 0

/-! ### CLAMP_REPORT -/

/-- Every peek position of a page returns to word 0 (R482). -/
def peekHome (d : Dbg) (page : Nat) : Dbg :=
  { d with
    tap := { d.tap with peekPos := d.tap.peekPos.erase page }
    bar := { d.bar with peekPos := d.bar.peekPos.erase page }
    aliasPos := d.aliasPos.erase page }

/-- The three words of a clamp record (R482): `src` is the SOURCE code, `off` the register's offset in its page. -/
def clampWords (src off : Nat) (l : List Clamped) : List W32 :=
  match l with
  | [] => []
  | c :: rest =>
    [BitVec.ofNat 32 (2 ^ 31 + (if rest = [] then 0 else 2 ^ 30) + src * 2 ^ 27 + c.lo * 2 ^ 22 + (c.width - 1) * 2 ^ 17
      + off), BitVec.ofNat 32 c.written, BitVec.ofNat 32 c.clamped]

/-- The debug state after clamps of one write: the first clamp is recorded, later ones set MORE (R482). -/
def reportClamps (src off page : Nat) (l : List Clamped) (d : Dbg) : Dbg :=
  if l = [] then d
  else match d.clamp.find? page with
    | some (w0 :: ws, n) => { d with clamp := d.clamp.set page ((w0 ||| BitVec.ofNat 32 (2 ^ 30)) :: ws, n) }
    | _ => peekHome { d with clamp := d.clamp.set page (clampWords src off l, 3) } page

/-! ### The tack room -/

/-- Register entries of the tack room (R458). -/
def tackCap : Nat := 760

/-- Pages whose registers the tack room never stores: DBG, DBG groom and SEC (R458). -/
def tackSkips (off : Nat) : Bool :=
  match pageOf (off / 4096) with
  | some (.dbg, _) => true
  | some (.dbgGroom, _) => true
  | some (.sec, _) => true
  | some _ => false
  | none => true

/-- The tack room after a write: a register whose RW fields are not all at their reset values holds an entry; the
entry is freed when they are; with every entry in use nothing is stored (R458). -/
def tackStore (off : Nat) (r : Reg) (new reset : W32) (p : Pwr) : Pwr × Bool :=
  let mask := r.rwMask
  if mask = 0 || tackSkips off then (p, false)
  else if new &&& mask = reset &&& mask then ({ p with tack := p.tack.erase off, tackBad := p.tackBad.erase off }, false)
  else if (p.tack.find? off).isNone && decide (tackCap ≤ p.tack.length) then (p, true)
  else ({ p with tack := p.tack.set off (new &&& mask), tackBad := p.tackBad.erase off }, false)

/-! ### Writes -/

/-- The state after the fields of a register are written: the register, CLAMP_REPORT, the tack room; with what the
checks made of the written word. `src` is the SOURCE code of R482; `path` the debug path (0 for every other source). -/
def fieldWrite (src path off : Nat) (v : W32) (s : State) : State × W32 :=
  match regAt off with
  | none => (s, v)
  | some r =>
    let key := keyOf s.regs path off r
    let old := rget s.regs key
    let w := writeFields s.regs off r old v
    let t := tackStore off r w.new (regReset key) s.pwr
    let m := rput s.regs key w.new
    ({ s with
      regs := if t.2 then rset m 0x4128 29 1 1 else m
      dbg := reportClamps src (off % 4096) (off / 4096) w.clamps s.dbg
      pwr := t.1 }, w.eff)

/-- A hardware update of fields of a register, which no check applies to. -/
def hwSet (off lo len v : Nat) (s : State) : State := { s with regs := rset s.regs off lo len v }

end Sys2Proof.Machine
end

