-- ==== Sys2Proof/Machine/TraceOps.lean ====
section
/-!
DEFINITION. Groom trace encoders: the packets of R432, their order, loss and counting (R433 to R436). The commands that
bring packets about call these operations.
-/

namespace Sys2Proof.Machine

/-- A groom's state. -/
def groomOf (s : State) (g : Nat) : Groom := s.grm.g.get {} g

/-- The state with a groom's state replaced. -/
def setGroom (s : State) (g : Nat) (x : Groom) : State := { s with grm := { s.grm with g := s.grm.g.put {} g x } }

/-- The groom is selected and trace is enabled (R431). -/
def traceOn (m : SMap W32) (g : Nat) : Bool := (rget m 0x8100).getLsbD 31 && (rget m 0x8100).getLsbD g

/-- Bytes held by a groom's encoder. -/
def encBytes (x : Groom) : Nat := (x.enc.map List.length).foldl (· + ·) 0

/-- Capacity of a trace encoder (R436). -/
def encCap : Nat := 512

/-- Header byte of a packet (R432). -/
def trcHead (type g : Nat) : Byte := BitVec.ofNat 8 (type * 16 + g)

/-- The pc of the next instruction to retire: known while the groom is in reset or halted, otherwise open (log 11). -/
def groomPc (s : State) (g : Nat) (x : Groom) : W64 :=
  if x.halted || !(rget s.regs (pg .grm g + 0x100)).getLsbD 0 then x.core.pc else Config.freeWord (s.clk.free + g)

/-- A SYNC packet (R432): reason, SEQ, pc, tick counter and the time of clock instance 0. -/
def syncPkt (s : State) (g reason : Nat) (x : Groom) : List Byte :=
  [trcHead 1 g, BitVec.ofNat 8 reason] ++ wordBytes x.seq 2 ++ wordBytes (groomPc s g x) 8 ++ wordBytes s.tck.count 8
    ++ wordBytes s.ptp.i0.sec 6 ++ wordBytes (s.ptp.i0.ns.setWidth 32) 4 ++ [0, 0]

/-- A packet enters the encoder, or is lost when it does not fit or packets are being lost (R436): the encoder and the
number of packets lost. Every packet advances SEQ (R434). -/
def encPut (now : Nat) (p : List Byte) (x : Groom) : Groom × Nat :=
  if x.lostN ≠ 0 ∨ encCap < encBytes x + p.length then
    ({ x with seq := x.seq + 1, lostN := x.lostN + 1, since0 := x.since0 + 1 }, 1)
  else ({ x with seq := x.seq + 1, enc := x.enc ++ [p], encAt := x.encAt ++ [now], since0 := x.since0 + 1 }, 0)

/-- A SYNC enters the encoder; its pc becomes the baseline (R433, R434). -/
def encSync (s : State) (g reason : Nat) (x : Groom) : Groom × Nat :=
  let r := encPut s.clk.ps (syncPkt s g reason x) x
  ({ r.1 with since0 := 0, base := if r.2 = 0 then groomPc s g x else x.base, traced := true }, r.2)

/-- BRANCH bits accumulated are sent before any other packet of the groom (R433). -/
def encBranch (now g : Nat) (x : Groom) : Groom × Nat :=
  if x.brN = 0 then (x, 0)
  else
    let r := encPut now ([trcHead 2 g, BitVec.ofNat 8 x.brN] ++ wordBytes x.brBits 4) x
    ({ r.1 with brN := 0, brBits := 0 }, r.2)

/-- A packet other than SYNC: the groom's first packet is a SYNC with REASON 1, BRANCH bits go before it, and after
every 256 counted packets a SYNC follows (R433, R434). -/
def encPkt (s : State) (g : Nat) (p : List Byte) (x : Groom) : Groom × Nat :=
  let a := if x.traced then (x, 0) else encSync s g 1 x
  let b := encBranch s.clk.ps g a.1
  let c := encPut s.clk.ps p b.1
  let d := if 256 ≤ c.1.since0 then encSync s g 0 c.1 else (c.1, 0)
  (d.1, a.2 + b.2 + c.2 + d.2)

/-- A conditional branch adds its bit; 32 of them are sent (R431, R433). -/
def encBit (s : State) (g : Nat) (taken : Bool) (x : Groom) : Groom × Nat :=
  let a := if x.traced then (x, 0) else encSync s g 1 x
  let y := { a.1 with brBits := setFld a.1.brBits a.1.brN 1 taken.toNat, brN := a.1.brN + 1 }
  if y.brN < 32 then (y, a.2)
  else
    let b := encBranch s.clk.ps g y
    let d := if 256 ≤ b.1.since0 then encSync s g 0 b.1 else (b.1, 0)
    (d.1, a.2 + b.2 + d.2)

/-- Packets lost advance TRC_LOST and set INT_STATUS.OVERFLOW (R436). -/
def trcLost (n : Nat) (s : State) : State :=
  if n = 0 then s else raiseInt { s with regs := rbump s.regs 0x8130 0 32 n } 0x8000 0

/-- The free values of the sixteen grooms' pcs are drawn. -/
def passFree (s : State) : State := { s with clk := { s.clk with free := s.clk.free + 16 } }

/-- A groom emits a packet while trace is enabled and it is selected (R431). -/
def emitTrace (g : Nat) (p : List Byte) (s : State) : State :=
  if traceOn s.regs g then
    let r := encPkt s g p (groomOf s g)
    trcLost r.2 (passFree (setGroom s g r.1))
  else s

/-- Least number of low bytes of a target for which the higher ones equal the baseline's (R433). -/
def targetLen (base dest : W64) : Nat :=
  ((List.range 7).find? fun k => base.toNat / 2 ^ (8 * (k + 1)) == dest.toNat / 2 ^ (8 * (k + 1))).elim 8 (· + 1)

/-- A TARGET packet: the low bytes of the target; of an exception or interrupt the pc besides (R432, R433). -/
def targetPkt (g : Nat) (kind : BitVec 2) (src dest base : W64) : List Byte :=
  let n := targetLen base dest
  [trcHead 3 g, BitVec.ofNat 8 (n + kind.toNat * 16)] ++ (if kind = 1 ∨ kind = 2 then wordBytes src 8 else [])
    ++ wordBytes dest n

/-- Base and limit of a range of the data trace (TRC_RANGE). -/
def rangeBase (m : SMap W32) (k : Nat) : Nat := (rget m (rkey 0x8110 k)).toNat + rfld m (rkey 0x8114 k) 0 8 * 2 ^ 32
def rangeLimit (m : SMap W32) (k : Nat) : Nat := (rget m (rkey 0x8118 k)).toNat + rfld m (rkey 0x811C k) 0 8 * 2 ^ 32

/-- The lowest enabled range that holds an address (R431, R432). -/
def rangeOf (m : SMap W32) (a : W64) : Option Nat :=
  (List.range 4).find? fun k => (rget m (rkey 0x8114 k)).getLsbD 31 && decide (rangeBase m k ≤ a.toNat)
    && decide (a.toNat < rangeLimit m k)

/-- Data trace is produced: DATA = 1 and at most 4 grooms selected (R431). -/
def dataTrace (m : SMap W32) : Bool :=
  (rget m 0x8100).getLsbD 30 && decide (((List.range 16).filter fun g => (rget m 0x8100).getLsbD g).length ≤ 4)

/-- A DATA packet (R432). -/
def dataPkt (g k : Nat) (d : DataAcc) : List Byte :=
  [trcHead 4 g, BitVec.ofNat 8 ((if d.store then 2 else 1) + d.size.toNat * 4 + k * 16)] ++ wordBytes d.addr 8
    ++ wordBytes d.value (2 ^ d.size.toNat)

/-- The flow trace of a retired instruction: a branch bit, a TARGET packet whose target becomes the baseline, or nothing
(R431, R433). -/
def emitFlow (g : Nat) (f : Flow1) (s : State) : State :=
  match f with
  | .plain => s
  | .branch taken =>
    if traceOn s.regs g then
      let r := encBit s g taken (groomOf s g)
      trcLost r.2 (passFree (setGroom s g r.1))
    else s
  | .target kind src dest =>
    let t := emitTrace g (targetPkt g kind src dest (groomOf s g).base) s
    if traceOn s.regs g then setGroom t g { groomOf t g with base := dest } else t

/-- The data trace of a retired instruction: a packet for every access in an enabled range (R431). -/
def emitData (g : Nat) : List DataAcc → State → State
  | [], s => s
  | d :: ds, s => emitData g ds (match rangeOf s.regs d.addr with
    | some k => if dataTrace s.regs then emitTrace g (dataPkt g k d) s else s
    | none => s)

/-- The trace of a retired instruction (R431). -/
def emitRetired (g : Nat) (r : Retired) (s : State) : State := emitData g r.data (emitFlow g r.flow s)

/-- Once 36 bytes are free, an encoder that lost packets emits OVERFLOW with the number lost and SYNC with REASON 3
(R436). -/
def encRecover (s : State) (g : Nat) (x : Groom) : Groom :=
  if x.lostN ≠ 0 ∧ encBytes x + 36 ≤ encCap then
    let o := [trcHead 6 g, 0] ++ wordBytes (BitVec.ofNat 16 (Nat.min 0xFFFF x.lostN)) 2
    let y := (encPut s.clk.ps o { x with lostN := 0 }).1
    (encSync s g 3 y).1
  else x

end Sys2Proof.Machine
end

