-- ==== Sys2Proof/Machine/Domains.lean ====
section
/-!
DEFINITION. Power domains as every other chapter uses them: which domain and ring stop a page belongs to (R259, R444,
R479), what a wake does (R448 to R451, R461), and how an access meets a closed or closing domain (R279, R280).
-/

namespace Sys2Proof.Machine

/-- The domain of a page (R444). The register pages served by a quadrant services stop's own endpoint belong to the
rails, the DMC page to the hub infrastructure (log 20). -/
def pageDomain : Blk → Nat → Nat
  | .hst, _ => 24
  | .pwr, _ => 31
  | .pdk, _ => 26
  | .trg, _ => 27
  | .trc, _ => 28
  | .dbg, _ => 28
  | .dbgGroom, _ => 28
  | .dmcCh, i => 22 + i / 2
  | .ptp, _ => 25
  | .ptpPort, _ => 25
  | .grm, i => 20 + i / 8
  | .ary, _ => 29
  | .scb, _ => 29
  | .rls, _ => 29
  | .lnk, i => 16 + i / 6
  | .shd, i => i / 6
  | .sec, _ => 30
  | .ldr, _ => 30
  | .tck, _ => 30
  | .yms, _ => 30
  | .dmc, _ => 30
  | .lnkTree, _ => 30

/-! ### Endpoint ports and queues of the rails -/

/-- Index of an endpoint port at its stop: a barn's place among the stop's three, a groom's among its four, 1 for the
debug bus master, 4 for the stop's own register endpoint, otherwise 0; the Ethernet and PTP unit, which has no unit code,
has port 1 of stop 44 (log 22). -/
def portIndex (unit barn : Nat) : Nat :=
  if unit = 0 then barn % 3 else if 0x10 ≤ unit ∧ unit < 0x20 then unit % 4 else if unit = 0xF1 then 1
  else if unit = 0x01 then 4 else 0

/-- The endpoint ports of a domain: stop and port (R259, R260, R444). -/
def portsOf (d : Nat) : List (Nat × Nat) :=
  if d < 16 then (List.range 6).map fun i => (barnStop (d * 6 + i), (d * 6 + i) % 3)
  else if d = 20 ∨ d = 21 then (List.range 8).map fun i => (groomStop ((d - 20) * 8 + i), i % 4)
  else if d = 24 then [(3, 0)]
  else if d = 25 then [(44, 1)]
  else if d = 26 then [(43, 0)]
  else if d = 27 then [(44, 0)]
  else if d = 28 then [(4, 1)]
  else if d = 30 then [(19, 0), (20, 0), (27, 0)]
  else if d = 31 then [(28, 0)]
  else []

/-- Number of the input buffer at a stop of a ring and virtual channel (R265). -/
def ringKey (stop ring : Nat) (vc : Bool) : Nat := (stop * 4 + ring) * 2 + vc.toNat
/-- Number of the injection queue of a stop, port and class (R266). -/
def injKey (stop port cls : Nat) : Nat := 384 + (stop * 5 + port) * 4 + cls
/-- Number of the ejection queue of a stop and port (R266). -/
def ejKey (stop port : Nat) : Nat := 1344 + stop * 5 + port

/-- The rails after a wake of a domain from OFF: every endpoint credit of its ports is in place (R281). -/
def fullCredits (d : Nat) (r : Rls) : Rls :=
  { r with held := (portsOf d).foldl (fun h p => SMap.without h (injKey p.1 p.2 0) 4) r.held }

/-- The serving stop of a page (R479). -/
def pageStop : Blk → Nat → Nat
  | .hst, _ => 3
  | .sec, _ => 27
  | .ldr, _ => 27
  | .tck, _ => 27
  | .pwr, _ => 28
  | .yms, _ => 20
  | .pdk, _ => 43
  | .trg, _ => 44
  | .trc, _ => 4
  | .dbg, _ => 4
  | .dmc, _ => 19
  | .lnkTree, _ => 27
  | .dmcCh, _ => 19
  | .ptp, _ => 44
  | .ptpPort, _ => 44
  | .grm, g => groomStop g
  | .dbgGroom, _ => 4
  | .ary, q => servicesStop q
  | .scb, q => servicesStop q
  | .lnk, j => servicesStop (j / 6)
  | .rls, n => n
  | .shd, b => barnStop b

/-- The pages of a domain, with their block and instance. -/
def pagesOf (d : Nat) : List (Blk × Nat) :=
  (Blk.all.flatMap fun b => (List.range b.pages.2).map fun i => (b, i)).filter fun p => pageDomain p.1 p.2 == d

/-- Offset of the page of a domain page. -/
def pageOff (p : Blk × Nat) : Nat := pg p.1 p.2

/-! ### Losing registers and memories -/

/-- Registers that keep their value through OFF: the loader's link placement LNK_VMAP, and the state of the trained
channels, which the tack room keeps (R227, log 20). -/
def keptReg (off : Nat) : Bool :=
  match pageOf (off / 4096) with
  | some (.lnk, _) => off % 4096 == 0x124
  | some (.dmcCh, _) => off % 4096 == 0x104
  | _ => false

/-- The registers with those of a domain's pages at their reset values. -/
def dropRegs (d : Nat) (m : SMap W32) : SMap W32 :=
  m.keep fun k => keptReg (k % 2 ^ 26) || match pageOf (k % 2 ^ 26 / 4096) with
    | some (b, i) => pageDomain b i != d
    | none => true

/-- The array storage with everything of the barns [b, b + n) cleared (R448). -/
def clearBarns (a : Arr) (b n : Nat) : Arr :=
  let p := b * 1536
  let k := n * 1536
  let tabs := [0, 1, 2, 3, 4].foldl (fun m t =>
    SMap.without m (t * 2 ^ 24 + (if t = 4 then p * 64 else b * 4096)) (if t = 4 then k * 64 else n * 4096)) a.tabSyn
  { a with
    imem := a.imem.without (p * 1024) (k * 1024), imemSyn := a.imemSyn.without (p * 1024) (k * 1024)
    ringCur := a.ringCur.without (p * 1024) (k * 1024), ringPrev := a.ringPrev.without (p * 1024) (k * 1024)
    ringRet := a.ringRet.without (p * 1024) (k * 1024)
    ringCurSyn := a.ringCurSyn.without (p * 64) (k * 64), ringPrevSyn := a.ringPrevSyn.without (p * 64) (k * 64)
    ringRetSyn := a.ringRetSyn.without (p * 64) (k * 64)
    stCur := a.stCur.without (p * 256) (k * 256), stRet := a.stRet.without (p * 256) (k * 256)
    stNext := a.stNext.without (p * 256) (k * 256), stInit := a.stInit.without (p * 256) (k * 256)
    stCurSyn := a.stCurSyn.without (p * 16) (k * 16), stNextSyn := a.stNextSyn.without (p * 16) (k * 16)
    stRetSyn := a.stRetSyn.without (p * 16) (k * 16)
    dict := a.dict.without (b * 4096) (n * 4096), desc := a.desc.without (b * 4096) (n * 4096)
    src := a.src.without (b * 4096) (n * 4096), slots := a.slots.without (b * 4096) (n * 4096)
    rmap := a.rmap.without (p * 64) (k * 64), tabSyn := tabs }

/-- The sheds of the barns [b, b + n) with zero data and matching parity, and their fills ended (R205). -/
def clearSheds (h : Shed) (b n : Nat) : Shed :=
  { h with
    mem := SMap.without h.mem (b * 2 ^ 20) (n * 2 ^ 20)
    syn := h.syn.without (b * 2 ^ 17) (n * 2 ^ 17)
    loss := h.loss.without (b * 4) (n * 4)
    fills := h.fills.without b n
    patrol := h.patrol.without b n
    patNext := h.patNext.without b n }

/-- Raises a bit on the SHD page of each barn in [b, b + n). -/
def raiseBarns (bit b : Nat) : Nat → State → State
  | 0, s => s
  | n + 1, s => raiseBarns bit (b + 1) n (raiseInt s (pg .shd b) bit)

/-- The reset vector of a groom: GRM_RESET_VEC, of which bit 0 is 0. -/
def resetVec (m : SMap W32) (g : Nat) : W64 := rget m (pg .grm g + 0x108) ++ rget m (pg .grm g + 0x104)

/-- A groom after a wake from OFF: registers lost, caches clear, no item; released at its reset vector when its
restored RUN is 1 (R448, R451). The ordered buffer of its endpoint is kept with the packets in it (log 122). -/
def groomOff (m : SMap W32) (g : Nat) (x : Groom) : Groom :=
  { ({} : Groom) with
    core := { ({} : Core) with pc := resetVec m g }, traced := x.traced, ordered := x.ordered, stall := x.stall }

/-- On the return to ON a selected groom's first packet is SYNC with REASON 2 (R438). -/
def wakeSync (g : Nat) (s : State) : State :=
  if traceOn s.regs g then
    let r := encSync s g 2 (groomOf s g)
    trcLost r.2 (passFree (setGroom s g r.1))
  else s

/-- `wakeSync` for the grooms [g, g + n). -/
def wakeSyncs (g : Nat) : Nat → State → State
  | 0, s => s
  | n + 1, s => wakeSyncs (g + 1) n (wakeSync g s)

/-- The clock instances after a wake of their domain or a cold start: 0 s, INCR at its reset value, UNSET; the last
1PPS_IN stamps stay (R391, R408). -/
def ptpUnset (now : Nat) (p : Ptp) : Ptp :=
  { p with
    i0 := { wdog := now, pps := p.i0.pps }, i1 := { wdog := now, pps := p.i1.pps }
    i2 := { wdog := now, pps := p.i2.pps }, i3 := { wdog := now, pps := p.i3.pps }, ppsOut := none }

/-- PTP_INCR of the four instances at its reset value (R391). -/
def incrReset (m : SMap W32) : SMap W32 :=
  (List.range 4).foldl (fun m i => (m.erase (pg .ptp i + 0x108)).erase (pg .ptp i + 0x10C)) m

/-- What leaving ON loses of a lane group: frame lock on every link (R450). -/
def unlockLinks (j : Nat) : Nat → State → State
  | 0, s => s
  | n + 1, s =>
    let k := pg .lnk j + 0x104
    unlockLinks (j + 1) n { s with
      regs := rset (rset s.regs k 31 1 0) k 24 4 0
      lnk := setLink s.lnk j { linkOf s.lnk j with pass := [0, 0, 0, 0], fail := [0, 0, 0, 0] } }

/-! ### Restoring registers -/

/-- The part's grade limits the step clock to 1.00 GHz: -10H and -10Q (R1, R456). -/
def slowGrade (o : Otp) : Bool := o.grade == 0x03 || o.grade == 0x04

/-- What a restored PWR_MODE becomes on a grade of 1.00 GHz: MAXCLK = 0 is clamped to 1 (R3, R456). -/
def modeRestored (o : Otp) (off : Nat) (v : W32) : W32 × List Clamped :=
  if off = 0x4100 ∧ slowGrade o ∧ !v.getLsbD 4 then (setFld v 4 1 1, [⟨4, 1, 0, 1⟩]) else (v, [])

/-- Restores one register entry: a failing check byte sets TACK_BAD and leaves the reset value; otherwise the value
passes the range check of a write, and a clamp advances PWR_TACK.CLAMPS and sets RESTORE_CLAMP (R461). -/
def restoreOne (off : Nat) (v : W32) (s : State) : State :=
  if s.pwr.tackBad.get false off then { s with regs := rset s.regs 0x4128 28 1 1 }
  else match regAt off with
    | none => s
    | some r =>
      let key := keyOf s.regs 0 off r
      let old := rget s.regs key
      let x := modeRestored s.sec.otp off v
      let w := writeFields s.regs off r old ((x.1 &&& r.rwMask) ||| (old &&& ~~~r.rwMask))
      let clamps := x.2 ++ w.clamps
      let t := { s with
        regs := if clamps = [] then rput s.regs key w.new else rbump (rput s.regs key w.new) 0x4134 16 16 1
        dbg := reportClamps 3 (off % 4096) (off / 4096) clamps s.dbg }
      raiseIf (clamps != []) t 0x4000 7

/-- Restores the entries listed. -/
def restoreAll : List (Nat × W32) → State → State
  | [], s => s
  | e :: es, s => restoreAll es (restoreOne e.1 e.2 s)

/-- The tack room's entries of a domain's pages. -/
def tackOf (d : Nat) (p : Pwr) : List (Nat × W32) :=
  p.tack.filter fun e => match pageOf (e.1 / 4096) with
    | some (b, i) => pageDomain b i == d
    | none => false

/-! ### The wake -/

/-- What a wake from OFF clears (R205, R330, R448). -/
def clearDomain (d : Nat) (s : State) : State :=
  if d < 16 then
    { s with
      arr := clearBarns s.arr (d * 6) 6
      shed := clearSheds s.shed (d * 6) 6
      integ := { s.integ with undo := s.integ.undo.without (d * 24) 24 } }
  else if d < 20 then
    { s with lnk := { s.lnk with links := s.lnk.links.without ((d - 16) * 6) 6 } }
  else if d = 25 then { s with ptp := { s.ptp with i0 := {}, i1 := {}, i2 := {}, i3 := {}, p0 := {}, p1 := {} } }
  else if d = 26 then
    { s with
      pdk := { s.pdk with
        frames := [], ff := [], rtree := [], io := [], queues := [], brReq := [], brResp := [], brOut := 0
        held := BitVec.allOnes 8 }
      pen := { s.pen with staging := 0, capt := 0 } }
  else if d = 27 then { s with trg := { ({} : Trg) with level := s.trg.level, level0 := s.trg.level } }
  else if d = 28 then { s with dbg := { s.dbg with tap := {}, bar := {}, force := [] } }
  else s

/-- The grooms [g, g + n) after a wake from OFF. -/
def offGrooms (g : Nat) : Nat → State → State
  | 0, s => s
  | n + 1, s => offGrooms (g + 1) n (setGroom s g (groomOff s.regs g (groomOf s g)))

/-- What follows the restore of a wake from OFF: INT_STATUS.CLEARED, PDK_STATUS.CLEARED, grooms at their reset
vectors. -/
def afterRestore (d : Nat) (s : State) : State :=
  if d < 16 then raiseBarns 5 (d * 6) 6 s
  else if d = 20 then offGrooms 0 8 s
  else if d = 21 then offGrooms 8 8 s
  else if d = 26 then raiseInt { s with regs := rset s.regs 0x6104 0 1 1 } 0x6000 4
  else s

/-- What every wake does: clock instances unset, self-refresh left unless a frequency change keeps the ranks in it, the
first trace packet (R225, R227, R391, R438). -/
def anyWake (d : Nat) (s : State) : State :=
  if d = 20 then wakeSyncs 0 8 s
  else if d = 21 then wakeSyncs 8 8 s
  else if d = 22 ∨ d = 23 then
    let c := (d - 22) * 2
    if freqBusy s then s else selfRefresh false (c + 1) (selfRefresh false c s)
  else if d = 25 then { s with ptp := ptpUnset s.clk.ps s.ptp, regs := incrReset s.regs }
  else s

/-- The pages' CLAMP_REPORT records, debug copies and peek positions that an OFF domain loses (R445, R482). -/
def dropViews (d : Nat) (x : Dbg) : Dbg :=
  let kept (page : Nat) : Bool := match pageOf page with
    | some (b, i) => pageDomain b i != d
    | none => true
  { x with
    clamp := x.clamp.keep fun k => kept (k % 2 ^ 14)
    aliasPos := x.aliasPos.keep fun k => kept (k % 2 ^ 14)
    peek := x.peek.keep fun k => kept (k % 2 ^ 26 / 4096) }

/-- A domain begins to wake (R445, R448). -/
def startWake (d : Nat) (s : State) : State :=
  { s with pwr := { s.pwr with waking := s.pwr.waking ||| BitVec.ofNat 32 (2 ^ d) } }

/-- The domain becomes ON: from OFF its memories are cleared and its registers restored from the tack room; a request
that waits for it is done (R446, R448). -/
def wakeNow (d : Nat) (s : State) : State :=
  let asked := s.pwr.asked.getLsbD d
  let off := domState s.pwr d == 3
  let s := { s with pwr := { s.pwr with
    dom := s.pwr.dom.put 0 d 0, closing := s.pwr.closing.erase d
    waking := s.pwr.waking &&& ~~~(BitVec.ofNat 32 (2 ^ d))
    asked := s.pwr.asked &&& ~~~(BitVec.ofNat 32 (2 ^ d)) } }
  let s := if off then
      let c := clearDomain d { s with regs := dropRegs d s.regs, rls := fullCredits d s.rls, dbg := dropViews d s.dbg }
      afterRestore d (restoreAll (tackOf d c.pwr) c)
    else s
  raiseIf asked (anyWake d s) 0x4000 3

/-! ### Closing cancelled -/

/-- A close in progress does not take place: its request ends ABORTED (R446, R449); a Stabled entry stops, naming the
domain with reason 7 (R453). -/
def abortClose (d : Nat) (s : State) : State :=
  match s.pwr.closing.find? d with
  | none => s
  | some c =>
    let res := (3 * 2 ^ 30 + (if c.stab then 7 * 2 ^ 24 else 0) + d * 2 ^ 8 + c.target)
    { s with
      pwr := { s.pwr with closing := s.pwr.closing.erase d, stabling := s.pwr.stabling && !c.stab }
      regs := rput s.regs 0x410C (BitVec.ofNat 32 res) }

/-- A packet cancels a domain's close: PWR_CLOSE_ABORTED, PWR_DOM_RESULT with result ABORTED, INT_STATUS.CLOSE_ABORTED; a
Stabled entry stops, naming the domain with reason 7 (R447, R453). -/
def cancelClose (d : Nat) (s : State) : State :=
  if (s.pwr.closing.find? d).isSome then
    let t := abortClose d s
    raiseInt { t with regs := rset (rbump t.regs 0x4120 16 16 1) 0x4120 0 5 d } 0x4000 2
  else s

/-- A packet for a port of a domain that is ON or CLOSING finds it ON, and cancels its close; one for a domain below
ON waits for its wake (R279, R280). `stop`: the port's stop. -/
def waitWake (stop : Nat) (s : State) : State :=
  raiseInt { s with regs := rbump s.regs (pg .rls stop + 0x11C) 16 16 1 } (pg .rls stop) 1

/-- An access reaches a page: a close in progress is cancelled; a closed domain is woken first, and the access is
performed after the wake (R279, R280, R448). -/
def reachPage (off : Nat) (s : State) : State :=
  match pageOf (off / 4096) with
  | none => s
  | some (b, i) =>
    let d := pageDomain b i
    if domOn s.pwr d then cancelClose d s else wakeNow d (waitWake (pageStop b i) (cancelClose d s))

/-! ### Regulators -/

/-- Rail cycles, at 1.5 GHz, in an elapsed time. -/
def railCycle (ps : Nat) : Nat := ps * 3 / 2000

/-- The regulator register of a stop and class. -/
def tbOff (stop cls : Nat) : Nat := pg .rls stop + 0x108 + 4 * cls

/-- A bucket when a packet of `flits` flits starts: the missing tokens, the rail cycle from which it refills, and the
cycles the packet waits only for tokens (R278). -/
def takeTokens (m : SMap W32) (stop cls flits now missing last : Nat) : Nat × Nat × Nat :=
  let rate := rfld m (tbOff stop cls) 16 11
  let size := rfld m (tbOff stop cls) 0 12 * 1500
  let miss := Nat.min size (missing - (now - last) * rate)
  let need := flits * 1500
  if miss + need ≤ size then (miss + need, Nat.max now last, 0)
  else
    let short := miss + need - size
    let wait := (short + rate - 1) / rate
    (miss + need - wait * rate, Nat.max now last + wait, wait)

/-- A write of a regulator register: the bucket as it stands, then under the new BURST and RATE; it is reduced to BURST if
it holds more (R278, R282, log 67). `old`: the registers before the write. -/
def tbSettle (stop cls : Nat) (old : SMap W32) (s : State) : State :=
  let k := stop * 4 + cls
  let now := railCycle s.clk.ps
  let size := rfld old (tbOff stop cls) 0 12 * 1500
  let rate := rfld old (tbOff stop cls) 16 11
  let miss := Nat.min size (s.rls.tokens.get 0 k - (now - s.rls.refill.get 0 k) * rate)
  let new := rfld s.regs (tbOff stop cls) 0 12 * 1500
  { s with rls := { s.rls with
    tokens := s.rls.tokens.put 0 k (new - Nat.min new (size - miss))
    refill := s.rls.refill.put 0 k (Nat.max now (s.rls.refill.get 0 k)) } }

/-- UNLIMITED of a class at a stop. -/
def unlimited (m : SMap W32) (stop cls : Nat) : Bool := (rget m (tbOff stop cls)).getLsbD 31

/-- The bucket's answer for a packet at a rail cycle. -/
def bucket (m : SMap W32) (r : Rls) (now stop cls flits : Nat) : Nat × Nat × Nat :=
  takeTokens m stop cls flits now (r.tokens.get 0 (stop * 4 + cls)) (r.refill.get 0 (stop * 4 + cls))

/-- The regulator allows a packet of a class to start in a rail cycle (R278). -/
def allowed (m : SMap W32) (r : Rls) (now stop cls flits : Nat) : Bool :=
  unlimited m stop cls || (bucket m r now stop cls flits).2.2 == 0

/-- Injection of a packet at a stop in a rail cycle: its flits are counted and taken from the bucket, and the cycles
that it waits only for tokens are counted (R278, RLS_INJ, RLS_THROTTLED). -/
def started (m : SMap W32) (now stop cls flits : Nat) (r : Rls) : Rls :=
  let k := stop * 4 + cls
  let t := bucket m r now stop cls flits
  let free := unlimited m stop cls
  { r with
    inj := r.inj.put 0 k ((r.inj.get 0 k + flits) % 2 ^ 64)
    tokens := if free then r.tokens else r.tokens.put 0 k t.1
    refill := if free then r.refill else r.refill.put 0 k t.2.1
    thr := if free then r.thr else r.thr.put 0 k (satAdd (2 ^ 32 - 1) (r.thr.get 0 k) t.2.2) }

/-- Injection at a stop now. -/
def inject (stop cls flits : Nat) (s : State) : State :=
  { s with rls := started s.regs (railCycle s.clk.ps) stop cls flits s.rls }

/-- A port is used in a rail cycle (R279). -/
def usePort (now stop port : Nat) (r : Rls) : Rls := { r with last := r.last.put 0 (stop * 5 + port) now }

/-- A request of a unit and its response, of so many flits, at their ports: counted, their tokens taken, the ports used
(R271, R278, R279, log 126). -/
def exchange (cls : Nat) (src dst : Nat × Nat) (ask resp : Nat) (s : State) : State :=
  let t := inject dst.1 cls resp (inject src.1 cls ask s)
  let now := railCycle s.clk.ps
  { t with rls := usePort now dst.1 dst.2 (usePort now src.1 src.2 t.rls) }

/-- Injection of a register access's request at the requester's stop and of its response at the page's stop, of one flit
each: the host's from stop 3, a groom's, the debug bus master's from stop 4 (R258, R271, R278, log 126). -/
def accessPackets (r : Requester) (cls off : Nat) (s : State) : State :=
  match pageOf (off / 4096) with
  | none => s
  | some (b, i) =>
    let at' (p : Nat × Nat) : State := exchange cls p (pageStop b i, 4) 1 1 s
    match r with
    | .host => at' (3, 0)
    | .groom g => at' (groomStop g, g % 4)
    | .debug _ => at' (4, 1)
    | .loader => s

end Sys2Proof.Machine
end

