-- ==== Sys2Proof/Machine/Access.lean ====
section
/-!
DEFINITION. Who may write which register (R410, R417, R470, R473), and what an access that is not permitted does. Every
row that is a write of a register goes through `viaWrite`.
-/

namespace Sys2Proof.Machine

/-- The session of a debug path (R413). -/
def sess (s : State) : DbgPath → Session
  | .tap => s.dbg.tap
  | .bar => s.dbg.bar

/-- The state with a debug path's session replaced. -/
def setSess (s : State) (p : DbgPath) (x : Session) : State :=
  match p with
  | .tap => { s with dbg := { s.dbg with tap := x } }
  | .bar => { s with dbg := { s.dbg with bar := x } }

/-- The least level that permits a debug write at an offset: 0 NONE, 1 observe, 2 groom control, 3 array control,
4 full (R417). -/
def writeLevel (off : Nat) : Nat :=
  match pageOf (off / 4096) with
  | some (.dbg, _) =>
    let o := off % 4096
    if 0x100 ≤ o ∧ o ≤ 0x184 then 0
    else if o = 0x188 ∨ o = 0x18C ∨ (0x1A8 ≤ o ∧ o ≤ 0x1B8) then 1
    else if o = 0x1BC then 2
    else if o = 0x19C ∨ o = 0x1A0 ∨ o = 0x1A4 then 3
    else 4
  | some (.trc, _) => 1
  | some (.dbgGroom, _) => 2
  | some (.grm, _) => 2
  | some (.tck, _) => 3
  | _ => 4

/-- A bad access of the host: HST_ERR records its cause and offset, and INT_STATUS.BAD_ACCESS is set (R470). -/
def badAccess (cause bar off : Nat) (s : State) : State :=
  raiseInt { s with regs := rput s.regs 0x108 (BitVec.ofNat 32 (cause * 2 ^ 28 + bar * 2 ^ 26 + off % 2 ^ 26)) } 0 9

/-- A debug access that its path's level does not permit: INT_STATUS.DENIED and ERR_COUNT of the DBG page (R417). -/
def denied (s : State) : State := raiseInt { s with regs := rerr s.regs 0x9000 1 } 0x9000 0

/-- A bad debug access: ERR_COUNT of the DBG page (R410). -/
def badDebug (s : State) : State := { s with regs := rerr s.regs 0x9000 1 }

/-- The offset lies on a page that only the debug paths reach (R473). -/
def dbgOnly (off : Nat) : Bool :=
  match pageOf (off / 4096) with
  | some (.dbg, _) => true
  | some (.dbgGroom, _) => true
  | _ => false

/-- The page ignores writes: the SHD page of a barn that is not enabled. -/
def deadPage (s : State) (off : Nat) : Bool :=
  match pageOf (off / 4096) with
  | some (.shd, b) => !s.sec.otp.barns.getLsbD b
  | _ => false

/-- A write at an offset may be performed for the requester. -/
def mayWrite (r : Requester) (off : Nat) (s : State) : Bool :=
  (pageOf (off / 4096)).isSome && match r with
    | .host => !dbgOnly off && off != 0x10C
    | .groom _ => !dbgOnly off
    | .debug p => decide (writeLevel off ≤ (sess s p).level) && off != 0x10C
    | .loader => !dbgOnly off && off != 0x10C

/-- What a write that is not performed does. -/
def refuseWrite (r : Requester) (off : Nat) (s : State) : State :=
  match r with
  | .host => badAccess (if (pageOf (off / 4096)).isSome then 0xD else 8) 0 off s
  | .debug p => if (pageOf (off / 4096)).isNone then badDebug s
      else if writeLevel off ≤ (sess s p).level then s else denied s
  | .groom _ => s
  | .loader => s

/-- The requester runs: not in Stabled (R453, log 35), nor a groom that is stalled (R299). -/
def runs (r : Requester) (s : State) : Bool :=
  !s.pwr.stabled && match r with
    | .groom g => (groomOf s g).stall.isNone
    | _ => true

/-- A write of the register at an offset, by a requester that runs: refused, ignored by the page of a barn that is not
enabled, or performed, for a closed domain after its wake (R417, R448, R473). -/
def viaWrite (r : Requester) (off : Nat) (act : State → State) (s : State) : State :=
  if !runs r s then s
  else if mayWrite r off s then
    (let t := accessPackets r 0 off s
     if deadPage t off then t else act (reachPage off t))
  else refuseWrite r off s

/-- SOURCE of a requester in CLAMP_REPORT (R482). -/
def clampSrc : Requester → Nat
  | .host => 0
  | .groom _ => 1
  | .debug _ => 2
  | .loader => 4

/-- The debug path of a requester, 0 for the others. -/
def pathOf : Requester → Nat
  | .debug p => pathIdx p
  | _ => 0

/-- The owner code of a requester (R195, R273): host DMA's 0x02 for the host, 0x10 + g for a groom, 0xF1 for the debug
bus master, 0xF0 for the loader. -/
def unitOf : Requester → Nat
  | .host => 0x02
  | .groom g => 0x10 + g
  | .debug _ => 0xF1
  | .loader => 0xF0

/-- The value a read returns to its requester. -/
def answer (v : W32) (s : State) : State := { s with hst := { s.hst with out := v } }

/-- A debug read at an offset is permitted: ID, VERSION and CAPS of any page, the path's authorisation registers, and
every register from observe on (R417). -/
def mayPeek (off : Nat) (level : Nat) : Bool :=
  off % 4096 == 0 || off % 4096 == 4 || off % 4096 == 8 || (0x9100 ≤ off && off ≤ 0x9184) || decide (1 ≤ level)

/-- A read of a register of an existing page, by a requester that runs: `act` reads it for a requester without the peek
path, `peek` for a debug path. A debug read that is not permitted returns 0 (R417, R418). -/
def viaRead (r : Requester) (off : Nat) (act peek : State → State) (s : State) : State :=
  if !runs r s then s
  else match r with
  | .debug p =>
    if mayPeek off (sess s p).level then peek (reachPage off (accessPackets r 0 off s)) else answer 0 (denied s)
  | _ => act (reachPage off (accessPackets r 0 off s))

end Sys2Proof.Machine
end

