-- ==== Sys2Proof/Machine/Run.lean ====
section
/-!
DEFINITION. Run control: the rows START, RUN, RUN_N, HALT, BREAK_ARM, BREAK_DISARM, CLEAR_FAULT, GO, TICK_START,
TICK_BOUNDARY and CONTROL_TREE_STOP (R78, R86, R95 to R99, R248, R250, R252).
-/

namespace Sys2Proof.Machine

/-! ### What keeps a run from starting -/

/-- Some array-used bank 0 to 6 of a placed barn has an owner other than ARRAY (R201). Owners stand in SHD_OWNMAP. -/
def ownedAway (s : State) : Bool :=
  s.arr.vmap.any fun e =>
    let p := pg .shd e.1
    let used := rget s.regs (p + 0x128)
    (List.range 32).any fun k => k % 8 != 7 && used.getLsbD k && rfld s.regs (p + 0x108 + 4 * (k / 4)) (8 * (k % 4)) 8 != 1

/-- A link that carries a virtual link of the loaded image has LOCKED = 0 (R242). -/
def linkDown (s : State) : Bool := (activeLinks s.regs).any fun j => !(rget s.regs (pg .lnk j + 0x104)).getLsbD 31

/-- TREE_LOST is set on some link page (R252). -/
def treeLost (s : State) : Bool := (List.range 24).any fun j => (rget s.regs (pg .lnk j + 0x104)).getLsbD 30

/-- The commit of a partial image's array part is pending (R355). -/
def partPending (s : State) : Bool :=
  match s.ldr.staged with
  | some p => p.arr
  | none => false

/-- START, RUN and RUN_N are not performed (R201, R242, R252, R355, R457). -/
def barred (s : State) : Bool := ownedAway s || linkDown s || treeLost s || partPending s || s.pwr.relock

/-- TAINT is set: RUN and RUN_N are not performed (R170). -/
def tainted (s : State) : Bool := (rget s.regs 0x3168).getLsbD 0

/-- Wakes every array group below ON that holds a placed barn, among the groups listed, and aborts the close of one
(R449, R452). -/
def wakeGroups : List Nat → State → State
  | [], s => s
  | d :: ds, s =>
    wakeGroups ds (if s.arr.vmap.any (fun e => e.1 / 6 == d) then
      (if domOn s.pwr d then abortClose d s else startWake d (abortClose d s)) else s)

/-- `wakeGroups` for all sixteen array groups. -/
def wakePlaced (s : State) : State := wakeGroups (List.range 16) s

/-- Every array group that holds a placed barn is ON: step 0 of the next tick, and the end of WAITING, wait for it
(R452). -/
def groupsOn (s : State) : Bool := s.arr.vmap.all fun e => domOn s.pwr (e.1 / 6)

/-- INT_STATUS.CMD_REJECT of the TCK page (R96). -/
def cmdReject (s : State) : State := raiseInt s 0x3000 3

/-! ### The commands' effects -/

/-- The registers of the TRG page that take effect at an evaluation (R383): comparators, sequencer, counters, hold-off,
pins. -/
def trgShadow (m : SMap W32) : SMap W32 :=
  m.keep fun k => 0x710C ≤ k % 2 ^ 26 && k % 2 ^ 26 ≤ 0x7150

/-- A key of a TRIG_IN pin's register. -/
def pinKey (k : Nat) : Bool := k % 2 ^ 26 == 0x7150

/-- The registers in effect at an evaluation: the pins' are those of the interval that it closes (R363, R383,
log 143). -/
def trgInForce (eff m : SMap W32) : SMap W32 :=
  (eff.filter fun e => pinKey e.1).foldl (fun m e => rput m e.1 e.2) ((trgShadow m).keep fun k => !pinKey k)

/-- The pins' sampled levels and transitions of an interval that begins at a sampling edge, whose sample is its first
(R362, R364). -/
def pinsFrom (e : Nat) (t : Trg) : Trg :=
  { t with
    level0 := (t.trans.filter fun x => decide (x.edge ≤ e)).foldl (fun l x => setFld l x.pin 1 x.rising.toNat) t.level0
    trans := t.trans.filter fun x => decide (e ≤ x.edge)
    xedges := t.xedges.filter fun x => decide (e ≤ x.2) }

/-- The trigger engine's first interval begins now: at START, or when ENABLE is written to 1 (R362). -/
def beginInterval (s : State) : State :=
  let e := sampleEdge s.clk.ps
  { s with
    pen := { s.pen with due := false }
    trg := { pinsFrom e s.trg with start := fineAt s e, cleared := none, eff := trgShadow s.regs } }

/-- The statistics that restart from 0 at START. -/
def restartStats (m : SMap W32) : SMap W32 :=
  let m := rput (rput (rput m 0x3128 0) 0x312C 0) 0x3130 0
  let m := rput (rset m 0x3150 16 16 0) 0xA134 0
  let m := rput (rput m 0xA13C 0) 0x7198 0
  rput (rput (rput (rput m 0x40128 0) 0x41128 0) 0x42128 0) 0x43128 0

/-- START (R96): LOADED to WAITING; ticks are numbered from 0. -/
def actStart (s : State) : State :=
  if s.tck.run = .loaded ∧ !barred s then
    let s := beginInterval (wakePlaced s)
    { s with
      tck := { s.tck with run := .waiting, count := 0, tick := 0, step := 0, redo := false, goAt := none }
      pen := { s.pen with samples := 0, inNext := none, inOld := none, lanes := 0, lanesOld := 0 }
      regs := restartStats s.regs }
  else cmdReject s

/-- The next tick is about to begin: after a halt it reads the sample taken before the halt, after an undo the inputs
latched (R78, R86). The break that halted the run is over. -/
def resume (n : Option Nat) (s : State) : State :=
  let s := wakePlaced s
  { s with tck := { s.tck with run := .running, runLeft := n, haltReq := false } }

/-- RUN (R96). -/
def actRun (s : State) : State :=
  if s.tck.run = .halted ∧ !barred s ∧ !tainted s then resume none s else cmdReject s

/-- RUN_N with its latched count (R96). -/
def actRunN (n : Nat) (s : State) : State :=
  if s.tck.run = .halted ∧ !barred s ∧ !tainted s then resume (some n) s else cmdReject s

/-- HALT (R96): from WAITING back to LOADED; from RUNNING a stop at the next tick boundary. -/
def actHalt (s : State) : State :=
  if s.tck.run = .waiting then { s with tck := { s.tck with run := .loaded, goAt := none } }
  else if s.tck.run = .running then { s with tck := { s.tck with haltReq := true } }
  else cmdReject s

/-- BREAK_ARM (R96, R99). -/
def actArm (s : State) : State := { s with tck := { s.tck with brk := true } }

/-- BREAK_DISARM (R96, R99). A break that has been requested and not been taken is cancelled (log 116). -/
def actDisarm (s : State) : State := { s with tck := { s.tck with brk := false, breakAt := none } }

/-- CLEAR_FAULT (R86, R96, R146, R147): HALTED at the boundary before the earliest tick undone; the tick counter reads
that tick's number. -/
def actClear (s : State) : State :=
  if s.tck.run = .faulted then
    enterHalted { s with tck := { s.tck with count := BitVec.ofNat 64 s.tck.tick } }
  else cmdReject s

/-- A command's effect at its CTIME, or at once in a single-chip system. -/
def actCmd (c : TreeCmd) (s : State) : State :=
  match c with
  | .start => actStart s
  | .go => { s with tck := { s.tck with goAt := some (ctimeNow s) } }
  | .run => actRun s
  | .runN n => actRunN n s
  | .clearFault => actClear s
  | .halt => actHalt s
  | .breakArm => actArm s
  | .breakDisarm => actDisarm s

/-- The state accepts a command, as the table Commands lists; what bars a start is checked as well (R96). -/
def accepts (c : TreeCmd) (s : State) : Bool :=
  match c with
  | .start => s.tck.run == .loaded && !barred s
  | .go => s.tck.run == .waiting
  | .run => s.tck.run == .halted && !barred s && !tainted s
  | .runN _ => s.tck.run == .halted && !barred s && !tainted s
  | .clearFault => s.tck.run == .faulted
  | .halt => s.tck.run == .waiting || s.tck.run == .running
  | .breakArm => true
  | .breakDisarm => true

/-! ### Commands in a multi-chip system -/

/-- Ticks are executed or drained: commands wait for their CTIME beside them. -/
def busyRun (s : State) : Bool := s.tck.run == .running || s.tck.run == .draining

/-- The waiting commands take effect, each at its CTIME, until one of them starts a run. -/
def actCmds : List (BitVec 28 × TreeCmd) → State → State
  | [], s => s
  | p :: l, s =>
    if busyRun s then s
    else actCmds l (actCmd p.2 (passTo (ctimeGen s p.1) { s with tck := { s.tck with cmds := s.tck.cmds.drop 1 } }))

/-- A command waits to be sent to some child. -/
def cmdsUnsent (s : State) : Bool :=
  (kidList s.regs).any fun j => (linkOf s.lnk j).evq.any fun e => match e.2 with
    | .cmd _ _ => true
    | _ => false

/-- Where no tick is executed, time passes up to the CTIME of the commands that wait, once every child has been sent
them (R88, R250). -/
def settleCmds (s : State) : State := if busyRun s || cmdsUnsent s then s else actCmds s.tck.cmds s

/-- A command takes effect at its CTIME on this chip; GO's is the start instant (R78, R88, R250). -/
def treeCommand (t : BitVec 28) (c : TreeCmd) (s : State) : State :=
  if c = .go then { s with tck := { s.tck with goAt := if s.tck.run = .waiting then some t else s.tck.goAt } }
  else settleCmds { s with tck := { s.tck with cmds := s.tck.cmds ++ [(t, c)] } }

/-- The waiting command's CTIME has come. -/
def isDue (s : State) (p : BitVec 28 × TreeCmd) : Bool := decide ((p.1 - ctimeNow s).toInt ≤ 0)

/-- Break is armed, with the commands whose CTIME has come (R88, R99). -/
def brkNow (s : State) : Bool :=
  (s.tck.cmds.filter (isDue s)).foldl (fun b p => if p.2 = .breakArm then true else if p.2 = .breakDisarm then false else b)
    s.tck.brk

/-- Performs the waiting commands whose CTIME has come, in the order in which they were accepted. -/
def applyDue (s : State) : State :=
  (s.tck.cmds.filter (isDue s)).foldl (fun s p => actCmd p.2 s)
    { s with tck := { s.tck with cmds := s.tck.cmds.filter fun p => !isDue s p } }

/-- A command waits to be sent down every tree link to a child (R250). LNK_TREE.CHILDREN names them. -/
def sendDown (at' : Nat) (t : BitVec 28) (c : TreeCmd) (s : State) : State := pushDown at' (.cmd t c) s

/-- The root accepts a command now: it is sent down, and takes effect D periods later (R88, R250). -/
def acceptCmd (c : TreeCmd) (s : State) : State :=
  let t := ctimeIn s s.tck.down
  treeCommand t c (sendDown s.clk.ps t c s)

/-- A command written to the root waits for its next downward frame whose CTIME is free; a root without children
accepts it at once (R250). -/
def rootCommand (c : TreeCmd) (s : State) : State :=
  if kidList s.regs = [] then acceptCmd c s
  else { s with lnk := { s.lnk with rootCmds := s.lnk.rootCmds ++ [c] } }

/-- A run-control command written to this chip (R96, R98, R250): ignored below the root, rejected where the state does
not accept it. -/
def tckCommand (c : TreeCmd) (s : State) : State :=
  if s.tck.multi && !s.tck.root then raiseInt s 0x3000 4
  else if !accepts c s then cmdReject s
  else if s.tck.multi then rootCommand c s
  else actCmd c s

/-- TCK_CMD (R96). -/
def tckCmdOff : Nat := 0x3108

/-- The effect of START. -/
def doStart (r : Requester) (s : State) : State := viaWrite r tckCmdOff (tckCommand .start) s
/-- The effect of RUN. -/
def doRun (r : Requester) (s : State) : State := viaWrite r tckCmdOff (tckCommand .run) s
/-- The effect of RUN_N: N is latched from TCK_RUN_COUNT. -/
def doRunN (r : Requester) (s : State) : State :=
  viaWrite r tckCmdOff (fun s => tckCommand (.runN (rget s.regs 0x310C).toNat) s) s
/-- The effect of HALT. -/
def doHalt (r : Requester) (s : State) : State := viaWrite r tckCmdOff (tckCommand .halt) s
/-- The effect of BREAK_ARM. -/
def doBreakArm (r : Requester) (s : State) : State := viaWrite r tckCmdOff (tckCommand .breakArm) s
/-- The effect of BREAK_DISARM. -/
def doBreakDisarm (r : Requester) (s : State) : State := viaWrite r tckCmdOff (tckCommand .breakDisarm) s
/-- The effect of CLEAR_FAULT. -/
def doClearFault (r : Requester) (s : State) : State := viaWrite r tckCmdOff (tckCommand .clearFault) s

/-- START (R96). -/
def execStart (r : Requester) (s : State) : Host.Outcome State Fault Refusal := .next (doStart r s)
/-- RUN (R96). -/
def execRun (r : Requester) (s : State) : Host.Outcome State Fault Refusal := .next (doRun r s)
/-- RUN_N (R96). -/
def execRunN (r : Requester) (s : State) : Host.Outcome State Fault Refusal := .next (doRunN r s)
/-- HALT (R96, R97). -/
def execHalt (r : Requester) (s : State) : Host.Outcome State Fault Refusal := .next (doHalt r s)
/-- BREAK_ARM (R96, R99). -/
def execBreakArm (r : Requester) (s : State) : Host.Outcome State Fault Refusal := .next (doBreakArm r s)
/-- BREAK_DISARM (R96, R99). -/
def execBreakDisarm (r : Requester) (s : State) : Host.Outcome State Fault Refusal := .next (doBreakDisarm r s)
/-- CLEAR_FAULT (R86, R96). -/
def execClearFault (r : Requester) (s : State) : Host.Outcome State Fault Refusal := .next (doClearFault r s)

/-! ### COMMIT_WINDOW and TICK_BOUNDARY -/

/-- The effect of COMMIT_WINDOW: its window; where it ends the run, the commands that wait act at their CTIME (R68,
R88). -/
def doCommitWindow (oack : BitVec 8) (s : State) : State := settleCmds (wholeWindow oack s)

/-- COMMIT_WINDOW (R68). `oack`: the values of GW_OACK as they stood 3 step periods before W2. -/
def execCommitWindow (oack : BitVec 8) (s : State) : Host.Outcome State Fault Refusal :=
  when (scheduleDone s) s (doCommitWindow oack s)

/-- The three periods in which a drained tick is released: outputs, then events and probes, then memory-model writes;
the run then enters HALTED (R97). -/
def drainRelease (s : State) : State :=
  let p := s.pen.old
  let t := releaseTick 1 p (confirm (s.tck.tick - 1) s.exe.stickyOld s)
  enterHalted (pass 3 { t with
    pen := { t.pen with old := {}, depsOld := [] }
    exe := { t.exe with detsOld := [], stickyOld := [] }
    tck := { t.tck with specPend := false, decision := .none } })

/-- The decision for the last tick h, drained, takes effect C periods after W4 of h (R97): on commit h is confirmed and
released; on abort h alone is undone, executed again and drained again. -/
def drainDecision (v : Vote) (s : State) : State :=
  let u := passTo (ctimeGen s (s.tck.w4 + BitVec.ofNat 28 s.tck.ctree)) s
  if v = .commit then drainRelease u
  else if v = .abort then
    let t := replayTick u.exe.detsOld { u with tck := { u.tck with run := .running } }
    { t with tck := { t.tck with haltReq := t.tck.run == .running } }
  else s

/-- The stop at a boundary: HALTED in a single-chip system, DRAINING while a decision is awaited (R97). A taken break
clears TCK_STATE.BRK and sets INT_STATUS.BREAK (R99). -/
def stopAtBoundary (s : State) : State :=
  let broke := match s.tck.breakAt with
    | some t => decide (t < s.tck.tick)
    | none => false
  let s := raiseIf broke { s with tck := { s.tck with
    brk := s.tck.brk && !broke
    breakAt := if broke then none else s.tck.breakAt } } 0x3000 2
  if s.tck.specPend then
    let t := { s with tck := { s.tck with run := .draining, haltReq := false, runLeft := none } }
    if s.tck.decision = .none then t else drainDecision s.tck.decision t
  else enterHalted s

/-- The tick before has ended without an abort and no hold freezes step 0; the released tick has been evaluated. -/
def atBoundary (s : State) : Bool :=
  s.tck.run == .running && !s.tck.inTick && s.tck.freeze.isNone && !evalDue s
    && (stopsHere s || (groupsOn s && s.tck.holds.all (fun h => h.tick != s.tck.tick || h.step != 0))) && !stoppedBy s s.clk.gen

/-- The effect of TICK_BOUNDARY; the commands of a run that stops act from then on at their CTIME (R88, R97, R99,
R119). -/
def doTickBoundary (s : State) : State := if stopsHere s then settleCmds (stopAtBoundary s) else beginTick s

/-- TICK_BOUNDARY (R97). -/
def execTickBoundary (s : State) : Host.Outcome State Fault Refusal :=
  when (atBoundary (applyDue s)) s (doTickBoundary (applyDue s))

/-! ### GO and TICK_START -/

/-- The tick epoch in LDR_EPOCH: seconds and nanoseconds; zero means none (R352). -/
def epoch (m : SMap W32) : Nat × Nat :=
  (rfld m 0x2128 0 32 + rfld m 0x212C 0 16 * 2 ^ 32, rfld m 0x2130 0 32)

/-- The tick epoch has been reached: there is none, or clock instance 0, set, has reached it (R352, R391). -/
def epochReached (s : State) : Bool :=
  let e := epoch s.regs
  let i := s.ptp.i0
  e == (0, 0) || (!i.unset && (decide (e.1 < i.sec.toNat) || (i.sec.toNat == e.1 && decide (e.2 ≤ i.ns.toNat))))

/-- The start instant may come: WAITING, DONE high, the epoch reached and the placed groups ON (R96, R352, R452). -/
def mayStart (s : State) : Bool := s.tck.run == .waiting && s.ldr.doneIn && epochReached s && groupsOn s

/-- The effect of GO: the root sends it, with the CTIME at which every chip starts (R250). -/
def doGo (s : State) : State := rootCommand .go s

/-- GO, at the root of a multi-chip system (R250). -/
def execGo (s : State) : Host.Outcome State Fault Refusal :=
  when (mayStart s && s.tck.multi && s.tck.root && s.tck.goAt.isNone && !s.lnk.rootCmds.contains .go) s (doGo s)

/-- The start instant: in a multi-chip system the CTIME of GO; otherwise the period in which DONE is high and the epoch
reached (R78, R352). -/
def atStart (s : State) : State :=
  match s.tck.goAt with
  | some t => passTo (ctimeGen s t) s
  | none => s

/-- The effect of TICK_START: the inputs of tick 0 are sampled at the start instant, and step 0 of tick 0 begins 16
periods later (R78); previous-tick slots read 0 in tick 0 (R34). -/
def doTickStart (s : State) : State :=
  let s := atStart s
  let s := { s with
    tck := { s.tck with run := .running, goAt := none, specPend := false, rollback := false, holds := [] }
    pen := { s.pen with
      inNext := some s.pen.staging, itog := ~~~s.pen.itog, capt := 0, samples := 1, cur := {}, old := {}
      deps := [], depsOld := [] }
    lnk := { s.lnk with
      links := s.lnk.links.map fun e => (e.1, { startLink 0 e.2 with cut := 0 }), childHold := [], asked := [], childArr := [] }
    arr := { s.arr with ringPrev := [], ringPrevSyn := [] } }
  beginTick (pass 16 s)

/-- TICK_START (R78). -/
def execTickStart (s : State) : Host.Outcome State Fault Refusal :=
  when (if s.tck.multi then s.tck.run == .waiting && s.tck.goAt.isSome && groupsOn s else mayStart s) s
    (doTickStart s)

/-! ### CONTROL_TREE_STOP -/

/-- The CTIME of the stop of a hold that times out: its watchdog's limit and C after the freeze (R85, R248). -/
def timeoutTime (s : State) (f : Freeze) : BitVec 28 :=
  ctimeAt s f.since + BitVec.ofNat 28 ((wdogPs s.regs + stepPs s.regs - 1) / stepPs s.regs + s.tck.ctree)

/-- A control-tree loss that another chip detected: the stop is neither of W4 of the last tick plus C, as a contract
fault's is, nor of the hold in effect that timed out, and no link of this chip is lost (R248, R252, log 21). -/
def lossElsewhere (s : State) (t : BitVec 28) : Bool :=
  t != s.tck.w4 + BitVec.ofNat 28 s.tck.ctree && !treeLost s && s.tck.localVote != .stop
    && (match s.tck.freeze with
        | some f => t != timeoutTime s f
        | none => true)

/-- The record of a control-tree loss on a chip that did not detect it (R252). -/
def lossRec (s : State) : FaultRec := recPlain dLink (0x1F * 2 ^ 8) (tickNo s)

/-- The effect of CONTROL_TREE_STOP: at the CTIME of the stop the array freezes, every unconfirmed tick is undone, and
the run enters FAULTED; a chip whose own vote or fault was not the stop holds no fault record (R70, R147, R248, R252). -/
def doControlTreeStop (s : State) : State :=
  match s.tck.stopAt with
  | none => s
  | some t =>
    let lost := lossElsewhere s t
    let u := passTo (ctimeGen s t) s
    let u := logOpen (if lost then logRecs [lossRec u] u else u)
    let u := faultStop (if s.tck.localVote = .stop then u else { u with integ := { u.integ with frec := 0 } })
    settleCmds { u with
      lnk := { u.lnk with childHold := [], asked := [], childArr := [] }
      tck := { u.tck with stopAt := none, goAt := none, localVote := .none, holds := [], treeResume := none } }

/-- CONTROL_TREE_STOP, of a chip with an image (R248, R252). -/
def execControlTreeStop (s : State) : Host.Outcome State Fault Refusal :=
  when (s.tck.multi && s.tck.stopAt.isSome && s.tck.run != .empty) s (doControlTreeStop s)

end Sys2Proof.Machine
end

