-- ==== Sys2Proof/Machine/Rails.lean ====
section
/-!
DEFINITION. The rails (R258 to R282): routing, the header flit, regulators, injection, delivery and refusal of packets,
responses, and the row CREDIT_AUDIT. A packet's command takes it from its source stop to its unit while nothing else is
in the network; otherwise the packet enters its injection queue, and the network's cycles carry it (Network.lean).
-/

namespace Sys2Proof.Machine

/-! ### Routing -/

/-- The policy that RLS_DIR of a stop gives for a class: 0 SHORTEST, 1 POSITIVE, 2 NEGATIVE. -/
def dirPolicy (m : SMap W32) (stop cls : Nat) : Nat := rfld m (pg .rls stop + 0x104) (2 * cls) 2

/-- Hops and direction (true: negative) of a leg on a ring of `n` stops (R262). -/
def leg (policy n src dst : Nat) : Nat × Bool :=
  let pos := (dst + n - src) % n
  let neg := (n - pos) % n
  if policy = 1 then (pos, false)
  else if policy = 2 then (neg, true)
  else if pos ≤ neg ∨ pos = 0 then (pos, false) else (neg, true)

/-- A leg crosses its ring's dateline, between the highest-numbered stop and stop index 0 (R264). -/
def crosses (l : Nat × Bool) (src dst : Nat) : Bool :=
  l.1 != 0 && (if l.2 then decide (src < dst) else decide (dst < src))

/-- The route of a packet: CDIR, the virtual channel it arrives on, and its rail cycles without waiting (R261 to
R264). -/
structure Route where
  cdir   : Bool
  vc     : Bool
  cycles : Nat
deriving DecidableEq, Repr

/-- The route from a stop to a stop in a class. -/
def routeOf (m : SMap W32) (src dst cls : Nat) : Route :=
  let p := dirPolicy m src cls
  let row := leg p 8 (src % 8) (dst % 8)
  let col := leg p 6 (src / 8) (dst / 8)
  let turn := if row.1 ≠ 0 ∧ col.1 ≠ 0 then 3 else 0
  { cdir := col.2
    vc := if col.1 ≠ 0 then crosses col (src / 8) (dst / 8) else crosses row (src % 8) (dst % 8)
    cycles := if src = dst then 4 else 2 + 2 * row.1 + turn + 2 * col.1 + 2 }

/-! ### The header flit -/

/-- The header flit of a packet of an opcode (R270). -/
def headerFlit (op : Byte) (p : Pkt) : BitVec 256 :=
  p.data ++ p.addr ++ p.rsv ++ p.status ++ p.mask ++ p.sunit ++ p.dunit ++ BitVec.ofBool p.cdir ++ BitVec.ofBool p.vc
    ++ p.tick16 ++ p.prio ++ BitVec.ofBool p.flowv ++ p.flow ++ op ++ p.tag ++ BitVec.ofNat 4 p.flits.length ++ p.cls
    ++ p.src ++ p.dst

/-- Flits of a packet: its header and its data flits. -/
def flitsOf (p : Pkt) : Nat := 1 + p.flits.length

/-! ### Units -/

/-- The domain of the unit that a stop serves under a unit code (R259, R260, R273); a shed port B interface is found by
its barn. -/
def unitDomain (stop unit : Nat) : Option Nat :=
  if unit = 0x01 then some 29
  else if unit = 0x02 then (if stop = 3 then some 24 else none)
  else if unit = 0x03 then (if stop = 43 then some 26 else none)
  else if unit = 0x04 then (if stop = 19 then some 30 else none)
  else if unit = 0x05 then (if stop = 20 then some 30 else none)
  else if unit = 0x06 then (if stop = 44 then some 27 else none)
  else if unit = 0x07 then (if stop = 28 then some 31 else none)
  else if 0x10 ≤ unit ∧ unit < 0x20 then (if stop = groomStop (unit - 0x10) then some (20 + (unit - 0x10) / 8) else none)
  else if unit = 0xF0 then (if stop = 27 then some 30 else none)
  else if unit = 0xF1 then (if stop = 4 then some 28 else none)
  else none

/-- The port of a packet at its source stop (R260). -/
def srcPort (p : Pkt) : Nat := portIndex p.sunit.toNat (adBarn p.addr)

/-- The port of a packet at its destination stop; the stop's own where the stop does not serve the unit (R260, R275). -/
def dstPort (p : Pkt) : Nat :=
  if p.dunit = 0 then (if barnStop (adBarn p.addr) = p.dst.toNat then adBarn p.addr % 3 else 4)
  else if (unitDomain p.dst.toNat p.dunit.toNat).isSome then portIndex p.dunit.toNat 0 else 4

/-! ### Packets -/

/-- The packet as the rails deliver it: CDIR and VC as written on its way (R262, R264, R270). -/
def carried (m : SMap W32) (p : Pkt) : Pkt :=
  let r := routeOf m p.src.toNat p.dst.toNat p.cls.toNat
  { p with cdir := r.cdir, vc := r.vc }

/-- TICK16 at injection: of the number of the tick that is executed, 0 in EMPTY and LOADED (R270). -/
def tick16 (s : State) : BitVec 16 := if runIn s [.empty, .loaded] then 0 else BitVec.ofNat 16 s.tck.tick

/-- Opcode of a DRAM response (R271). -/
def opMemResp : Byte := 0x28

/-- A data flit whose value the spec leaves open. -/
def freeFlit (k : Nat) : BitVec 256 :=
  Config.freeWord (k + 3) ++ Config.freeWord (k + 2) ++ Config.freeWord (k + 1) ++ Config.freeWord k

/-- A DRAM read's response has two data flits even where no data is returned (R271); the spec leaves them open. -/
def blankFlits (k : Nat) (op : Byte) (p : Pkt) : List (BitVec 256) :=
  if op = opMemResp ∧ p.flits = [] then [freeFlit k, freeFlit (k + 4)] else []

/-- A response that returns a status and no data. -/
def respondBlank (op : Byte) (p : Pkt) (status : Nat) (s : State) : State :=
  respond op (respPkt p status 0 0 (blankFlits s.clk.free op p)) { s with clk := { s.clk with free := s.clk.free + 8 } }

/-- A packet for a stop above 47: BAD_DEST at the source stop; a request is answered NO_ROUTE, anything else discarded
(R275). -/
def noRoute (respOp : Option Byte) (p : Pkt) (s : State) : State :=
  let t := raiseInt s (pg .rls p.src.toNat) 2
  match respOp with
  | some op => respondBlank op p 5 t
  | none => t

/-- A request that the destination stop cannot deliver is answered NO_UNIT, anything else discarded with BAD_DEST
(R275). -/
def noUnit (respOp : Option Byte) (p : Pkt) (s : State) : State :=
  match respOp with
  | some op => respondBlank op p 6 s
  | none => raiseInt s (pg .rls p.dst.toNat) 2

/-! ### The network's queues -/

/-- Depth of a queue: 16 flits, of an ejection queue 32 (R265, R266). -/
def depthOf (key : Nat) : Nat := if key < 1344 then 16 else 32

/-- The queue has room for a packet, by the credits that its sender holds (R265, R266). -/
def hasRoom (r : Rls) (key flits : Nat) : Bool := decide (r.held.get 0 key + flits ≤ depthOf key)

/-- A packet takes its credits of a queue. -/
def takeRoom (key flits : Nat) (r : Rls) : Rls := { r with held := r.held.put 0 key (r.held.get 0 key + flits) }

/-- Nothing is in the network, and no credit is on its way or to be reset. -/
def netIdle (r : Rls) : Bool := r.net.isEmpty && r.back.isEmpty && r.fix.isEmpty

/-- Nothing is in the network, and every credit is in place: a packet whose regulator allows it meets nothing it waits
for. -/
def netClear (r : Rls) : Bool := netIdle r && r.held.isEmpty

/-- A packet enters a queue, with its credits; its last flit is there `flits` - 1 cycles after its first. -/
def enterNet (op : Byte) (p : Pkt) (key ready : Nat) (noted : Bool) (now : Nat) (r : Rls) : Rls :=
  takeRoom key (flitsOf p) { r with
    net := r.net ++ [⟨r.seq, op, p, key, ready, ready + p.flits.length, false, 0, noted⟩]
    seq := r.seq + 1
    cycle := if netIdle r then now else r.cycle }

/-- The injection queue of a packet (R266). -/
def injQueue (p : Pkt) : Nat := injKey p.src.toNat (srcPort p) p.cls.toNat

/-- The response opcode of a request (R271). -/
def respOf (op : Byte) : Option Byte :=
  if op = opShdRead ∨ op = opShdWrite ∨ op = opShdAdd ∨ op = opShdSwap then some opShdResp
  else if op = opMemRead ∨ op = opMemWrite then some opMemResp
  else none

/-- Opcodes of responses (R271). -/
def isResp (op : Byte) : Bool := op == opShdResp || op == opMemResp || op == 0x18

/-- Flits of the response to a request: three for a DRAM read, one for any other (R271). -/
def respFlits (op : Byte) : Nat := if op = opMemRead then 3 else if (respOf op).isSome then 1 else 0

/-- The ejection queue of the port that a packet comes from, and of the one that it goes to (R266). -/
def askQueue (p : Pkt) : Nat := ejKey p.src.toNat (srcPort p)
def goQueue (p : Pkt) : Nat := ejKey p.dst.toNat (dstPort p)

/-- An ejection queue has room for so many flits beside those reserved for responses (R266, R276). -/
def freeRoom (r : Rls) (key flits : Nat) : Bool := hasRoom r key (r.resv.get 0 key + flits)

/-- The requester can reserve room for the whole response of a packet; one that has none needs no room (R276). -/
def respRoom (r : Rls) (op : Byte) (p : Pkt) : Bool := respFlits op == 0 || freeRoom r (askQueue p) (respFlits op)

/-- A request reserves room for its response, and a response gives its reservation up (R276). -/
def reserve (op : Byte) (p : Pkt) (r : Rls) : Rls :=
  if isResp op then { r with resv := r.resv.put 0 (goQueue p) (r.resv.get 0 (goQueue p) - flitsOf p) }
  else { r with resv := r.resv.put 0 (askQueue p) (r.resv.get 0 (askQueue p) + respFlits op) }

/-- A packet enters its injection queue, 2 cycles before it can leave on a ring; a unit whose endpoint lacks the credits
does not send, nor one that has no room for the response (R263, R266, R276). -/
def enqueuePkt (op : Byte) (p : Pkt) (s : State) : State :=
  let now := railCycle s.clk.ps
  if hasRoom s.rls (injQueue p) (flitsOf p) then
    let r := if isResp op then s.rls else reserve op p s.rls
    { s with rls := usePort now p.src.toNat (srcPort p) (enterNet op p (injQueue p) (now + 2) false now r) }
  else s

/-- A packet that has reached its destination stop waits in its port's ejection queue for the wake of the port's domain,
which it triggers (R280, R448). -/
def waitAt (d : Nat) (op : Byte) (p : Pkt) (s : State) : State :=
  let t := waitWake p.dst.toNat (cancelClose d s)
  let now := railCycle s.clk.ps
  { t with
    rls := enterNet op p (ejKey p.dst.toNat (dstPort p)) now true now t.rls
    pwr := { t.pwr with waking := t.pwr.waking ||| BitVec.ofNat 32 (2 ^ d) } }

/-- A packet reaches the port of a unit in domain `d`: delivered, after cancelling a close in progress, or waiting for
the domain's wake (R279, R280). -/
def reachUnit (d : Nat) (op : Byte) (p : Pkt) (deliver : State → State) (s : State) : State :=
  if domOn s.pwr d then deliver (cancelClose d s) else waitAt d op p s

/-- A packet injected, carried and delivered with no waiting: TICK16, CDIR and VC written (R261 to R264, R270, R278). -/
def carryNow (p : Pkt) (arrive : Pkt → State → State) (s : State) : State :=
  let now := railCycle s.clk.ps
  let t := inject p.src.toNat p.cls.toNat (flitsOf p) s
  arrive (carried s.regs { p with tick16 := tick16 s })
    { t with rls := usePort now p.dst.toNat (dstPort p) (usePort now p.src.toNat (srcPort p) t.rls) }

/-- A packet leaves its unit; in Stabled the rails carry nothing (R281). NO_ROUTE for a destination above 47 (R275);
otherwise carried to its unit, where it meets nothing it waits for, or given to its injection queue (R266, log 126).
`arrive` is what happens at the destination stop. -/
def launch (op : Byte) (respOp : Option Byte) (p : Pkt) (arrive : Pkt → State → State) (s : State) : State :=
  if s.pwr.stabled then s
  else if 47 < p.dst.toNat then noRoute respOp p s
  else if !respRoom s.rls op p then s
  else if netClear s.rls && allowed s.regs s.rls (railCycle s.clk.ps) p.src.toNat p.cls.toNat (flitsOf p) then
    carryNow p arrive { s with rls := reserve op p s.rls }
  else enqueuePkt op p s

/-- The packet's injection queue takes it, where it has to wait, and its unit has room for the response; NO_ROUTE needs
neither (R266, R275, R276). -/
def canSend (r : Rls) (op : Byte) (p : Pkt) : Bool :=
  decide (47 < p.dst.toNat) || (hasRoom r (injQueue p) (flitsOf p) && respRoom r op p)

/-! ### Ordered packets -/

/-- Flow of the yardmaster. -/
def flowOf (y : Yms) (f : Nat) : Flow := y.flows.get {} f

/-- The groom that a packet comes from, by its source stop and unit together (R273). -/
def groomFrom (p : Pkt) : Option Nat :=
  let u := p.sunit.toNat
  if 0x10 ≤ u ∧ u < 0x20 ∧ p.src.toNat = groomStop (u - 0x10) then some (u - 0x10) else none

/-- The groom that a packet comes from is stalled (R299). -/
def stalledFrom (s : State) (p : Pkt) : Bool :=
  match groomFrom p with
  | some g => (groomOf s g).stall.isSome
  | none => false

/-- A packet of an ordered flow waits that is not of its flow's oldest unreleased item, or whose item's earlier packets
wait still: the groom and the item's sequence number (R299). -/
def waitsInOrder (s : State) (p : Pkt) : Option (Nat × BitVec 8) :=
  match groomFrom p with
  | none => none
  | some g => match (groomOf s g).item with
    | none => none
    | some i =>
      let q := i.seq.getD 0
      if p.flowv && i.flowv && p.flow == i.flow && (q != (flowOf s.yms p.flow.toNat).head
          || (groomOf s g).ordered.any fun e => e.1 == q && e.2.2.flow == p.flow) then some (g, q) else none

/-- Flits of an ordered buffer (R299). -/
def orderedCap : Nat := 64

/-- Flits in an ordered buffer. -/
def orderedFlits (x : Groom) : Nat := (x.ordered.map fun e => flitsOf e.2.2).foldl (· + ·) 0

/-- An ordered packet enters its groom's buffer; on a full buffer the groom stalls (R299). -/
def holdPkt (e : BitVec 8 × Byte × Pkt) (x : Groom) : Groom :=
  if orderedFlits x + flitsOf e.2.2 ≤ orderedCap then { x with ordered := x.ordered ++ [e], stall := none }
  else { x with stall := some e }

/-- A stalled groom resumes when its packet fits (R299). -/
def unstall (x : Groom) : Groom :=
  match x.stall with
  | some e => holdPkt e x
  | none => x

/-- A packet that its sender gives to its endpoint: injected, or held in order; a stalled groom sends nothing
(R299). -/
def send (op : Byte) (respOp : Option Byte) (p : Pkt) (arrive : Pkt → State → State) (s : State) : State :=
  if stalledFrom s p then s
  else match waitsInOrder s p with
  | some (g, q) => setGroom s g (holdPkt (q, op, p) (groomOf s g))
  | none => launch op respOp p arrive s

/-- A packet that a unit of the block makes: injected, or kept by the unit until its endpoint has the credits
(R266). -/
def unitSend (op : Byte) (respOp : Option Byte) (p : Pkt) (arrive : Pkt → State → State) (s : State) : State :=
  if canSend s.rls op p then launch op respOp p arrive s else respond op p s

/-- A packet waits in its port's ejection queue until its unit takes it (R266). -/
def waitRoom (op : Byte) (p : Pkt) (s : State) : State :=
  let now := railCycle s.clk.ps
  { s with rls := enterNet op p (goQueue p) now true now s.rls }

/-- A packet's operands name a packet of the format: at most 8 data flits, from an existing source stop. -/
def pktOk (p : Pkt) (flits : Nat) : Bool := p.flits.length == flits && decide (p.src.toNat < 48)

/-- A packet's operands with any number of data flits up to 8. -/
def pktFree (p : Pkt) (most : Nat) : Bool := decide (p.flits.length ≤ most) && decide (p.src.toNat < 48)

/-- A packet that its unit makes now goes to its endpoint: not of a stalled groom, nor where the endpoint lacks the
credits (R266, R299). -/
def sends (s : State) (op : Byte) (p : Pkt) : Bool :=
  !s.pwr.stabled && !stalledFrom s p && ((waitsInOrder s p).isSome || canSend s.rls op p)

/-- A response on its way is the packet `p` of opcode `op`: the first such is removed. -/
def takeFly (op : Byte) (p : Pkt) (s : State) : State :=
  { s with rls := { s.rls with fly := s.rls.fly.erase (op, p) } }

/-- A packet on its way leaves its source stop, unless that stop answered for a destination that does not exist, and
reaches its unit; it stays while its endpoint lacks the credits (R261 to R264, R266, R275, R278). -/
def flyArrive (op : Byte) (p : Pkt) (arrive : Pkt → State → State) (s : State) : State :=
  if s.pwr.stabled then s
  else if p.src.toNat < 48 then (if canSend s.rls op p then launch op none p arrive (takeFly op p s) else s)
  else arrive p (takeFly op p s)

/-! ### CREDIT_AUDIT -/

/-- Number of an audited queue. -/
def queueKey : RailQueue → Nat
  | .ring n r v => ringKey n r (v == 1)
  | .inject n p c => injKey n p c
  | .eject n p => ejKey n p

/-- Stop of an audited queue. -/
def queueStop : RailQueue → Nat
  | .ring n _ _ => n
  | .inject n _ _ => n
  | .eject n _ => n

/-- Flits in a queue and on the wire to it. -/
def queueFlits (r : Rls) (key : Nat) : Nat :=
  ((r.net.filter fun x => x.place == key).map fun x => flitsOf x.pkt).foldl (· + ·) 0

/-- Credits of a queue on their way back. -/
def queueBack (r : Rls) (key : Nat) : Nat := (r.back.filter fun e => e.1 == key).length

/-- The sum that the audit takes: the sender's credits, the flits on the wire and in the queue, and the credits on their
way back (R267). -/
def creditSum (r : Rls) (key : Nat) : Nat := depthOf key - r.held.get 0 key + queueFlits r key + queueBack r key

/-- The credits of a queue do not add up to its depth (R267). -/
def creditBad (r : Rls) (key : Nat) : Bool := creditSum r key != depthOf key || decide (depthOf key < r.held.get 0 key)

/-- No flit is on the wire to a queue and no credit on its way back, in a rail cycle. -/
def wireIdle (now : Nat) (r : Rls) (key : Nat) : Bool :=
  queueBack r key == 0 && r.net.all fun x => x.place != key || decide (x.tail ≤ now)

/-- The credit counts to be reset from the occupancy are, where the wire carries nothing (R267). -/
def resetCredits (now : Nat) (r : Rls) : Rls :=
  { r with
    held := (r.fix.filter (wireIdle now r)).foldl (fun h k => h.put 0 k (queueFlits r k)) r.held
    fix := r.fix.filter fun k => !wireIdle now r k }

/-- An event-log entry whose layout the spec leaves open enters the ring (R181, R267). -/
def logWord (w : W128) (s : State) : State :=
  let full := s.integ.log.length == logCap
  raiseIf full { s with
    integ := { s.integ with log := (s.integ.log ++ [w]).drop (if full then 1 else 0) }
    regs := if full then rbump s.regs 0x3180 0 32 1 else s.regs } 0x3000 8

/-- The effect of CREDIT_AUDIT on a queue whose credits do not add up: the mismatch is counted and logged, and the
credit count is reset from the queue's occupancy as soon as its wire carries nothing (R267). -/
def doCreditAudit (h : RailQueue) (s : State) : State :=
  let page := pg .rls (queueStop h)
  let t := logWord (Config.hopRec (queueKey h)) { s with
    rls := resetCredits (railCycle s.clk.ps) { s.rls with fix := s.rls.fix ++ [queueKey h] }
    regs := rerr (rbump s.regs (page + 0x120) 0 32 1) page 1 }
  raiseInt t page 0

/-- CREDIT_AUDIT (R267): a queue whose credits add up is left as it is, and one that is to be reset already is counted
once. -/
def execCreditAudit (h : RailQueue) (s : State) : Host.Outcome State Fault Refusal :=
  when (creditBad s.rls (queueKey h) && !s.rls.fix.contains (queueKey h)) s (doCreditAudit h s)

end Sys2Proof.Machine
end

