-- ==== Sys2Proof/Machine/Sheds.lean ====
section
/-!
DEFINITION. The sheds' rows (R182 to R206): SHD_READ, SHD_WRITE, SHD_ADD, SHD_SWAP, SHD_RESP, SHD_OWNER,
FILL_START, FILL_WORD, PATROL_READ and SHD_PATROL_ERR.
-/

namespace Sys2Proof.Machine

/-! ### Requests -/

/-- A request at the port B interface of its barn: the barn's stop and number, its presence; it enters the foreground
queue (R186, R191, R275). -/
def shedDeliver (op : Byte) (p : Pkt) (s : State) : State :=
  let b := adBarn p.addr
  if p.dunit ≠ 0 ∨ 96 ≤ b ∨ barnStop b ≠ p.dst.toNat then noUnit (some opShdResp) p s
  else if !s.sec.otp.barns.getLsbD b then respond opShdResp (respPkt p 4 0 0 []) s
  else reachUnit (b / 6) op p (shedArrive (shedNo p.addr) (.op op p)) s

/-- The effect of SHD_READ. -/
def doShdRead (p : Pkt) (s : State) : State := send opShdRead (some opShdResp) p (shedDeliver opShdRead) s
/-- SHD_READ (R189). -/
def execShdRead (p : Pkt) (s : State) : Host.Outcome State Fault Refusal := when (pktOk p 0) s (doShdRead p s)
/-- The effect of SHD_WRITE. -/
def doShdWrite (p : Pkt) (s : State) : State := send opShdWrite (some opShdResp) p (shedDeliver opShdWrite) s
/-- SHD_WRITE (R189). -/
def execShdWrite (p : Pkt) (s : State) : Host.Outcome State Fault Refusal := when (pktOk p 0) s (doShdWrite p s)
/-- The effect of SHD_ADD. -/
def doShdAdd (p : Pkt) (s : State) : State := send opShdAdd (some opShdResp) p (shedDeliver opShdAdd) s
/-- SHD_ADD (R189, R190). -/
def execShdAdd (p : Pkt) (s : State) : Host.Outcome State Fault Refusal := when (pktOk p 0) s (doShdAdd p s)
/-- The effect of SHD_SWAP. -/
def doShdSwap (p : Pkt) (s : State) : State := send opShdSwap (some opShdResp) p (shedDeliver opShdSwap) s
/-- SHD_SWAP (R189, R190). -/
def execShdSwap (p : Pkt) (s : State) : Host.Outcome State Fault Refusal := when (pktOk p 0) s (doShdSwap p s)

/-! ### Responses -/

/-- A groom's shed-window access that did not end OK: GRM_BUS_ERR and INT_STATUS.BUS_ERR (R286). -/
def groomBusErr (g : Nat) (p : Pkt) (s : State) : State :=
  let w := BitVec.ofNat 32 (p.status.toNat * 2 ^ 28 + adKey p.addr)
  raiseInt { s with regs := rput s.regs (pg .grm g + 0x138) w } (pg .grm g) 1

/-- The debug bus master's access ends: STATUS, the data of a read, BUSY = 0 (R420). The tag names the path. -/
def bmEnd (p : Pkt) (data : Option W64) (s : State) : State :=
  let q := if p.tag = 0 then DbgPath.tap else DbgPath.bar
  let x := sess s q
  let m := match data with
    | some w => rput (rput s.regs (rkey 0x91B4 (pathIdx q)) (w.extractLsb' 0 32)) (rkey 0x91B8 (pathIdx q)) (w.extractLsb' 32 32)
    | none => s.regs
  setSess { s with regs := m } q { x with bmBusy := false, bmStatus := p.status }

/-- What a response does at the unit that requested it: a groom's failing access, the debug bus master's result, the
paddock's response queue. `data`: the word a read returned. -/
def atRequester (op : Byte) (p : Pkt) (data : Option W64) (s : State) : State :=
  let u := p.dunit.toNat
  if 0x10 ≤ u ∧ u < 0x20 then (if op = opShdResp ∧ p.status ≠ 0 then groomBusErr (u - 0x10) p s else s)
  else if u = 0xF1 then bmEnd p data s
  else if u = 0x03 then { s with pdk := { s.pdk with brResp := s.pdk.brResp ++ [(op, p)], brOut := s.pdk.brOut - 1 } }
  else s

/-- A response at its destination stop reaches the unit that requested it, after the wake of the unit's domain; one that
the stop cannot deliver is discarded with BAD_DEST (R275, R279, R280). -/
def toRequester (op : Byte) (p : Pkt) (act : State → State) (s : State) : State :=
  match unitDomain p.dst.toNat p.dunit.toNat with
  | some d => reachUnit d op p act s
  | none => noUnit none p s

/-- The word that a shed response returns, where it returns one (R191). -/
def shedData (p : Pkt) : Option W64 := if p.status = 2 ∨ 4 ≤ p.status.toNat then none else some p.data

/-- SHD_RESP at its destination stop. -/
def shedRespDeliver (p : Pkt) (s : State) : State := toRequester opShdResp p (atRequester opShdResp p (shedData p)) s

/-- The effect of SHD_RESP: the response reaches its requester (R191, R274). -/
def doShdResp (p : Pkt) (s : State) : State := flyArrive opShdResp p shedRespDeliver s

/-- SHD_RESP, of a response on its way (R191). -/
def execShdResp (p : Pkt) (s : State) : Host.Outcome State Fault Refusal :=
  when (s.rls.fly.contains (opShdResp, p)) s (doShdResp p s)

/-! ### Ownership, fill and patrol -/

/-- The effect of SHD_OWNER: the write takes its place in the foreground queue of the shed it names (R199). -/
def doShdOwner (r : Requester) (b : Nat) (v : W32) (s : State) : State :=
  viaWrite r (pg .shd b + 0x100) (shedArrive (b * 4 + fld v 3 2) (.owner (unitOf r) v)) s

/-- SHD_OWNER (R198). -/
def execShdOwner (r : Requester) (b : BarnId) (v : W32) (s : State) : Host.Outcome State Fault Refusal :=
  .next (doShdOwner r b v s)

/-- BUSY of a barn's fill engine: a fill is in progress, or a GO waits in the queue of a shed (R203). -/
def fillBusy (s : State) (b : Nat) : Bool :=
  (s.shed.fills.find? b).isSome || (List.range 4).any fun k => (portB s (b * 4 + k)).queue.any fun r => match r with
    | .fill _ _ => true
    | _ => false

/-- A write of SHD_FILL_CTRL: its fields; a GO enters the foreground queue of the shed it names, unless the engine is
busy (R203). -/
def fillWrite (r : Requester) (b : Nat) (v : W32) (s : State) : State :=
  let w := fieldWrite (clampSrc r) 0 (pg .shd b + 0x12C) v s
  if v.getLsbD 31 && !fillBusy s b then shedArrive (b * 4 + fld w.2 27 2) (.fill (unitOf r) w.2) w.1 else w.1

/-- The effect of FILL_START. -/
def doFillStart (r : Requester) (b : Nat) (v : W32) (s : State) : State :=
  viaWrite r (pg .shd b + 0x12C) (fillWrite r b v) s

/-- FILL_START (R203). -/
def execFillStart (r : Requester) (b : BarnId) (v : W32) (s : State) : Host.Outcome State Fault Refusal :=
  .next (doFillStart r b v s)

/-- The background head of a shed is to be started: port B takes its turn at once, where no schedule step can still use
this bank cycle, otherwise as the cycle ends (R187, log 125). -/
def wantBg (k : Nat) (s : State) : State :=
  let t := { s with shed := { s.shed with want := (s.shed.want.filter (· != k)) ++ [k] } }
  if stepsNow s then t else serveShed k t

/-- The background head of a shed is a patrol read (true) or a fill word. -/
def bgIs (s : State) (k : Nat) (patrol : Bool) : Bool := ((bgHead s k).map (·.1)) == some patrol

/-- The shed of a barn's fill. -/
def fillShed (s : State) (b : Nat) : Nat := b * 4 + ((s.shed.fills.find? b).map Fill.shed).getD 0

/-- The effect of FILL_WORD: the fill's next word is to be started as a background request (R186, R187, R203). -/
def doFillWord (b : Nat) (s : State) : State := wantBg (fillShed s b) s

/-- FILL_WORD, of a fill whose word stands at the head of its background queue (R203). -/
def execFillWord (b : BarnId) (s : State) : Host.Outcome State Fault Refusal :=
  when ((s.shed.fills.find? b).isSome && bgIs s (fillShed s b) false && domOn s.pwr (b / 6)) s (doFillWord b s)

/-- The shed that a barn's patrol reads next. -/
def patrolShed (s : State) (b : Nat) : Nat := b * 4 + s.shed.patrol.get 0 b / 2 ^ 15

/-- The effect of PATROL_READ: the patrol's next read is to be started as a background request (R186, R187, R204). -/
def doPatrolRead (b : Nat) (s : State) : State := wantBg (patrolShed s b) s

/-- PATROL_READ, of a patrol whose read stands at the head of its background queue: SHD_PATROL.ENABLE = 1, and SPACING
has passed (R204). -/
def execPatrolRead (b : BarnId) (s : State) : Host.Outcome State Fault Refusal :=
  when (bgIs s (patrolShed s b) true && domOn s.pwr (b / 6) && s.sec.otp.barns.getLsbD b) s (doPatrolRead b s)

/-- The effect of SHD_PATROL_ERR, a read of the register: the read clears it, a debug read does not (R204). -/
def doShdPatrolErr (r : Requester) (b : Nat) (s : State) : State :=
  let off := pg .shd b + 0x13C
  viaRead r off (fun s => answer (rget s.regs off) { s with regs := rput s.regs off 0 })
    (fun s => answer (rget s.regs off) s) s

/-- SHD_PATROL_ERR (R204). -/
def execShdPatrolErr (r : Requester) (b : BarnId) (s : State) : Host.Outcome State Fault Refusal :=
  .next (doShdPatrolErr r b s)

end Sys2Proof.Machine
end

