-- ==== Sys2Proof/Machine/Dram.lean ====
section
/-!
DEFINITION. The DRAM controller (R207 to R227, R507): the rows MEM_READ, MEM_WRITE, MEM_RESP, REFRESH, TEMP_POLL,
FREQ_CHANGE, FREQ_CHANGE_DONE, TRAIN, TRAINING_DONE, ALERT, MODEL_WRITE_DRAIN and DMC_MASK.
-/

namespace Sys2Proof.Machine

/-! ### Requests -/

/-- The request comes through port 3, the loader's (R212). -/
def fromLoader (p : Pkt) : Bool := requesterOf p == 0xF0

/-- A burst's 64 bytes as two data flits, lowest address first (R271). -/
def burstFlits (l : List Byte) : List (BitVec 256) :=
  [BitVec.ofNat 256 (bytesNat (l.take 32)), BitVec.ofNat 256 (bytesNat (l.drop 32))]

/-- A burst after a write: MASK bit i writes bytes 8i to 8i + 7 (R271). -/
def writeBurst (m : List Host.Cell) (a : Nat) (mask : Byte) (l : List (BitVec 256)) : List Host.Cell :=
  (List.range 8).foldl (fun m i => if mask.getLsbD i then Memory.putWord m (a + 8 * i) (flitWord l i) else m) m

/-- Port of a unit of the chip (R212); 12 for a unit that R212 gives none (log 112). -/
def dramPort (p : Pkt) : Nat :=
  let u := p.sunit.toNat
  if u = 0xF0 then 3 else if 0x10 ≤ u ∧ u < 0x18 then 4 else if 0x18 ≤ u ∧ u < 0x20 then 5 else if u = 0x02 then 6
  else if u = 0x06 then 9 else if u = 0x03 then 10 else if u = 0xF1 then 11 else 12

/-- A read burst that arrived as number `n`: delivered on a passing read with every write that arrived before it,
otherwise answered DATA_ERROR with data the spec leaves open (R214, R216). -/
def memReadAt (n passes : Nat) (p : Pkt) (s : State) : State :=
  let a := burstAddr p
  let r := readBurst a passes (noteCmd a none s)
  if r.2 then respond opMemResp (respPkt p 0 0 0 (burstFlits (Memory.bytes (dramBefore n s.dmc) a 64))) r.1
  else raiseInt (respondBlank opMemResp p 7 r.1) 0xA000 3

/-- A write burst; written whole, its check passes from then on (R214, R216). -/
def memWriteAt (p : Pkt) (s : State) : State :=
  let a := burstAddr p
  let t := noteCmd a (some (pktPieces p)) s
  respond opMemResp (respPkt p 0 0 0 []) { t with dmc := { t.dmc with
    mem := writeBurst t.dmc.mem a p.mask p.flits
    crcErr := if p.mask = 0xFF then t.dmc.crcErr.erase (a / 64) else t.dmc.crcErr } }

/-- A request that the controller starts, or answers with its status (R214, R218, R219, R507). -/
def startReq (passes : Nat) (r : DramReq) (s : State) : State :=
  match r.body with
  | .pkt op p =>
    let st := portStatus s (op == opMemWrite) (fromLoader p) (burstAddr p)
    if st ≠ 0 then portNote st (respondBlank opMemResp p st s)
    else if op = opMemRead then memReadAt r.seq passes p s else memWriteAt p s
  | .masked p m =>
    let st := portStatus s true (fromLoader p) (burstAddr p)
    if st ≠ 0 then portNote st (respondBlank opMemResp p st s)
    else
      let t := noteCmd (burstAddr p) (some (maskedPieces p m)) s
      respond opMemResp (respPkt p 0 0 0 []) { t with dmc := { t.dmc with mem := putPieces t.dmc.mem (maskedPieces p m) } }
  | .put a l =>
    let st := portStatus s true false a
    if st ≠ 0 then portNote st s
    else
      let t := noteCmd a (some [(a, l)]) s
      { t with dmc := stored a l t.dmc }

/-- What a packet asks: a write of the debug bus master names one word, of which the bytes outside MASK keep what they
hold (R420). -/
def bodyOf (op : Byte) (p : Pkt) (s : State) : DramBody :=
  if op = opMemWrite ∧ p.sunit = 0xF1 then .masked p (if p.tag = 0 then s.dbg.tap.bmMask else s.dbg.bar.bmMask) else .pkt op p

/-- A request at the controller (R212, R214, R218, R219, R507): refused with its status, kept while the controller
cannot start it, or performed. -/
def atController (op : Byte) (passes : Nat) (p : Pkt) (s : State) : State :=
  let r := reqNow s (dramPort p) (bodyOf op p s)
  let st := portStatus s (op == opMemWrite) (fromLoader p) (burstAddr p)
  if st = 0 ∧ mustWait s r then enqueue r s else startReq passes r s

/-- The domain of an address's channel is ON for an access (R280, R444). -/
def reachChan (a : Nat) (s : State) : State :=
  let d := 22 + channelOf s.regs a / 2
  if domOn s.pwr d then cancelClose d s else wakeNow d (waitWake 19 (cancelClose d s))

/-- Domain of the channel that a request needs (R444). -/
def chanDomain (s : State) (p : Pkt) : Nat := 22 + channelOf s.regs (burstAddr p) / 2

/-- A DRAM request at its destination stop: unit 0x04 of stop 19, and the channel's domain (R273, R275, R280,
log 20). -/
def memDeliver (op : Byte) (passes : Nat) (p : Pkt) (s : State) : State :=
  if p.dunit ≠ 0x04 ∨ p.dst ≠ 19 then noUnit (some opMemResp) p s
  else reachUnit (chanDomain s p) op p (atController op passes p) s

/-- The outcome of a read that waited: its passing read, 3 for none, is open. -/
def freePasses (s : State) : Nat := (Config.freeWord s.clk.free).toNat % 4

/-- The state with one free value drawn. -/
def drawFree (s : State) : State := { s with clk := { s.clk with free := s.clk.free + 1 } }

/-- Urgency of a waiting request: 0 below half its port's target, 1 from 50 %, 2 from 75 %, 3 from 100 % (R213). -/
def urgency (s : State) (r : DramReq) : Nat :=
  let age := s.clk.ps - r.came
  let t := rfld s.regs (rkey 0xA11C r.port) 0 16 * 1000
  if age * 2 < t then 0 else if age * 4 < 3 * t then 1 else if age < t then 2 else 3

/-- The request that the controller starts next: of those that can be started the one of highest urgency, then of the
lowest port, then the oldest (R213). -/
def nextReq (s : State) : Option DramReq :=
  (s.dmc.waiting.filter fun r => !mustWait s r).foldl (fun o r => match o with
    | none => some r
    | some x =>
      if urgency s x < urgency s r ∨ (urgency s r = urgency s x ∧ (r.port < x.port ∨ (r.port = x.port ∧ r.seq < x.seq)))
      then some r else some x) none

/-- The waiting requests are started, at most `n` of them (R213, R225). -/
def startUpTo : Nat → State → State
  | 0, s => s
  | n + 1, s => match nextReq s with
    | none => s
    | some r => startUpTo n (startReq (freePasses s) r (drawFree { s with dmc := { s.dmc with waiting := s.dmc.waiting.erase r } }))

/-- Every waiting request that can be started is (R213, R225). -/
def startWaiting (s : State) : State := startUpTo s.dmc.waiting.length s

/-- The effect of MEM_READ. -/
def doMemRead (p : Pkt) (passes : Nat) (s : State) : State :=
  send opMemRead (some opMemResp) p (memDeliver opMemRead passes) s

/-- MEM_READ (R216, R271): `passes` is the read that passes its check, or 3 for none. -/
def execMemRead (p : Pkt) (passes : Fin 4) (s : State) : Host.Outcome State Fault Refusal :=
  when (pktOk p 0) s (doMemRead p passes s)

/-- A groom's own write-through L1D line takes its write (R285). -/
def cacheWrite (p : Pkt) (s : State) : State :=
  match groomFrom p with
  | none => s
  | some g =>
    let x := groomOf s g
    match x.l1d.find? (burstAddr p) with
    | none => s
    | some l =>
      let n := (List.range 8).foldl (fun l i => if p.mask.getLsbD i then setFld l (64 * i) 64 (flitWord p.flits i).toNat
        else l) l
      setGroom s g { x with l1d := x.l1d.set (burstAddr p) n }

/-- The effect of MEM_WRITE: the groom's line takes the write that its endpoint takes. -/
def doMemWrite (p : Pkt) (s : State) : State :=
  send opMemWrite (some opMemResp) p (memDeliver opMemWrite 0) (if sends s opMemWrite p then cacheWrite p s else s)

/-- MEM_WRITE (R271). -/
def execMemWrite (p : Pkt) (s : State) : Host.Outcome State Fault Refusal := when (pktOk p 2) s (doMemWrite p s)

/-- The word that the debug bus master's path named in DBG_BM_ADDR, within a burst (R420). -/
def bmWord (s : State) (p : Pkt) : Nat := rfld s.regs (rkey 0x91AC (if p.tag = 0 then 0 else 1)) 3 3

/-- Lines of an L1D: 64 KiB in lines of 64 bytes (R18, R285). -/
def l1dLines : Nat := 1024

/-- The L1D lines with room for one more: of a full cache one line leaves, which one is open (log 11). -/
def cacheRoom (k a : Nat) (l : SMap (BitVec 512)) : SMap (BitVec 512) :=
  if l1dLines ≤ l.length ∧ (l.find? a).isNone then l.eraseIdx ((Config.freeWord k).toNat % l1dLines) else l

/-- A DRAM line read by a groom enters its L1D (R285, log 11). -/
def cacheFill (p : Pkt) (s : State) : State :=
  let u := p.dunit.toNat
  if 0x10 ≤ u ∧ u < 0x20 ∧ p.flits.length = 2 ∧ p.status = 0 then
    let x := groomOf s (u - 0x10)
    drawFree (setGroom s (u - 0x10) { x with
      l1d := (cacheRoom s.clk.free (burstAddr p) x.l1d).set (burstAddr p) ((p.flits.getD 1 0) ++ (p.flits.getD 0 0)) })
  else s

/-- The word that a DRAM response returns to the debug bus master. -/
def memData (s : State) (p : Pkt) : Option W64 := if p.flits = [] then none else some (flitWord p.flits (bmWord s p))

/-- MEM_RESP at its destination stop. -/
def memRespDeliver (p : Pkt) (s : State) : State :=
  toRequester opMemResp p (fun s => atRequester opMemResp p (memData s p) (cacheFill p s)) s

/-- The effect of MEM_RESP. -/
def doMemResp (p : Pkt) (s : State) : State := flyArrive opMemResp p memRespDeliver s

/-- MEM_RESP, of a response on its way (R271, R274). -/
def execMemResp (p : Pkt) (s : State) : Host.Outcome State Fault Refusal :=
  when (s.rls.fly.contains (opMemResp, p)) s (doMemResp p s)

/-! ### Refresh and temperature -/

/-- A deadline is reached, or time can pass up to it because no tick is being executed. -/
def reaches (s : State) (ps : Nat) : Bool := decide (ps ≤ s.clk.ps) || !(runIn s [.running, .draining])

/-- The refresh of a rank is due. -/
def refreshDue (s : State) (c rank : Nat) : Nat := s.dmc.refrAt.get 0 (rankKey c rank) + refreshPs s c rank

/-- The effect of REFRESH. -/
def doRefresh (c rank : Nat) (s : State) : State :=
  let t := passPs (refreshDue s c rank) s
  { t with dmc := { t.dmc with
    refr := t.dmc.refr.put 0 (rankKey c rank) (t.dmc.refr.get 0 (rankKey c rank) + 1)
    refrAt := t.dmc.refrAt.put 0 (rankKey c rank) t.clk.ps } }

/-- REFRESH (R215, R507). -/
def execRefresh (c : ChanId) (rank : Fin 2) (s : State) : Host.Outcome State Fault Refusal :=
  when (rankReady s c rank && reaches s (refreshDue s c rank)) s (doRefresh c rank s)

/-- Mode register 4 indicates a refresh rate above the 85 °C range: its field [2:0] is 3 or more (JESD79-5, log 24). -/
def mr4Hot (b : Byte) : Bool := decide (3 ≤ fld b 0 3)

/-- The poll of one rank: DMC_CH_TEMP and HOT (R215). -/
def pollRank (c rank : Nat) (b : Byte) (s : State) : State :=
  if rankReady s c rank then
    let was := (rget s.regs (chStat c)).getLsbD (10 + rank)
    let m := rset s.regs (pg .dmcCh c + 0x10C) (8 * rank) 8 b.toNat
    raiseIf (mr4Hot b && !was) { s with regs := rset m (chStat c) (10 + rank) 1 (mr4Hot b).toNat } 0xA000 5
  else s

/-- The polls of the ranks from `k` on, of one byte each. -/
def pollRanks (k : Nat) : List Byte → State → State
  | [], s => s
  | b :: bs, s => pollRanks (k + 1) bs (pollRank (k / 2) (k % 2) b s)

/-- The next poll is due 16 ms after the last (R215). -/
def pollDue (s : State) : Nat := s.dmc.pollAt + 16000000000

/-- The effect of TEMP_POLL: every rank's mode register 4 and DQS oscillator (R215). -/
def doTempPoll (mr4 : List Byte) (s : State) : State :=
  let t := pollRanks 0 mr4 (passPs (pollDue s) s)
  { t with dmc := { t.dmc with dqsAdj := t.dmc.dqsAdj + 1, pollAt := t.clk.ps } }

/-- TEMP_POLL (R215): mode register 4 of ranks 0 and 1 of channels 0 to 3. -/
def execTempPoll (mr4 : List Byte) (s : State) : Host.Outcome State Fault Refusal :=
  when (mr4.length == 8 && reaches s (pollDue s) && !(rget s.regs 0xA108).getLsbD 30) s (doTempPoll mr4 s)

/-! ### Frequency change -/

/-- A GO is accepted once training has filled both sets, while no change is in progress (R225). -/
def freqOk (s : State) : Bool := s.dmc.trained == 0xF && !(rget s.regs 0xA108).getLsbD 30

/-- Every rank enters self-refresh (R225). -/
def allRefresh (s : State) : State := (List.range 4).foldl (fun s c => selfRefresh true c s) s

/-- The ranks of the channels whose domain is not in RETAIN or OFF leave self-refresh (R225, R227). -/
def exitRefresh (s : State) : State :=
  (List.range 4).foldl (fun s c => if domState s.pwr (22 + c / 2) < 2 then selfRefresh false c s else s) s

/-- A write of DMC_FREQ: the change accepted, every rank enters self-refresh (R225). -/
def freqWrite (r : Requester) (v : W32) (s : State) : State :=
  let t := (fieldWrite (clampSrc r) 0 0xA108 v s).1
  if !v.getLsbD 31 then t
  else if freqOk t then
    allRefresh { t with
      regs := rset t.regs 0xA108 30 1 1
      dmc := { t.dmc with newSet := (rget t.regs 0xA108).getLsbD 0 } }
  else raiseInt t 0xA000 1

/-- The effect of FREQ_CHANGE. -/
def doFreqChange (r : Requester) (v : W32) (s : State) : State := viaWrite r 0xA108 (freqWrite r v) s

/-- FREQ_CHANGE (R225). -/
def execFreqChange (r : Requester) (v : W32) (s : State) : Host.Outcome State Fault Refusal := .next (doFreqChange r v s)

/-- The effect of FREQ_CHANGE_DONE: the ranks leave self-refresh, ACTIVE names the new set, FREQ_DONE is set, and
requests start again (R225). -/
def doFreqChangeDone (s : State) : State :=
  let s := exitRefresh s
  startWaiting (raiseInt { s with
    regs := rset (rset s.regs 0xA108 30 1 0) 0xA108 1 1 s.dmc.newSet.toNat
    dmc := { s.dmc with dqsAdj := s.dmc.dqsAdj + 1 } } 0xA000 0)

/-- FREQ_CHANGE_DONE, while DMC_FREQ.BUSY = 1 (R225). -/
def execFreqChangeDone (s : State) : Host.Outcome State Fault Refusal :=
  when ((rget s.regs 0xA108).getLsbD 30) s (doFreqChangeDone s)

/-! ### Training -/

/-- A write of DMC_CH_CTRL.TRAIN (R226). -/
def trainWrite (c : Nat) (s : State) : State :=
  if (rget s.regs 0xA100).getLsbD 0 then raiseInt s 0xA000 7 else { s with regs := rset s.regs (chStat c) 30 2 2 }

/-- The effect of TRAIN. -/
def doTrain (r : Requester) (c : Nat) (s : State) : State := viaWrite r (pg .dmcCh c + 0x100) (trainWrite c) s

/-- TRAIN (R226). -/
def execTrain (r : Requester) (c : ChanId) (s : State) : Host.Outcome State Fault Refusal := .next (doTrain r c s)

/-- The effect of TRAINING_DONE: STATE, what the SPD tells, and both timing sets' trained values (R208, R226). -/
def doTrainingDone (c : Nat) (ok present density : Bool) (ranks : Nat) (speed : Bool) (s : State) : State :=
  let good := ok && present && (ranks == 1 || ranks == 2)
  let m := rset s.regs (chStat c) 30 2 (if good then 1 else 3)
  let m := rset (rset m (chStat c) 8 1 density.toNat) (chStat c) 6 2 ranks
  startWaiting { s with
    regs := rset (rset m (chStat c) 10 2 0) (chStat c) 9 1 0
    dmc := { s.dmc with
      dimm := s.dmc.dimm.set c (present, density, ranks, speed)
      trained := setFld s.dmc.trained c 1 good.toNat
      alerts := s.dmc.alerts.erase c
      retry := s.dmc.retry.erase c
      refrAt := (s.dmc.refrAt.put 0 (rankKey c 0) s.clk.ps).put 0 (rankKey c 1) s.clk.ps } }

/-- TRAINING_DONE, of a channel in training (R226): `ok` training succeeds; the SPD shows whether a DIMM is present, its
density (1: 32 Gb), ranks and speed (1: DDR5-6400). -/
def execTrainingDone (c : ChanId) (ok present density : Bool) (ranks : BitVec 2) (speed : Bool) (s : State) :
    Host.Outcome State Fault Refusal :=
  when (chanState s.regs c == 2) s (doTrainingDone c ok present density ranks.toNat speed s)

/-! ### Alerts and failed writes -/

/-- The record of a released memory-model write that fails (R169, R179). -/
def writeFailRec (s : State) (w : MWrite) : FaultRec :=
  recPlain dDram (2 * 2 ^ 24 + w.model % 256 * 2 ^ 16 + channelOf s.regs w.addr) (tickNo s)

/-- Released writes fail in DRAM: each is a detection, TAINT is set, and a run halts at the next tick boundary with the
last of them in its fault record (R156, R169, R180). -/
def failWrites (l : List MWrite) (s : State) : State :=
  if l = [] then s
  else
    let recs := l.map (writeFailRec s)
    let t := setTaint (recs.foldl (fun s r => detect r s) s)
    if s.tck.run = .running then
      { t with
        tck := { t.tck with haltReq := true }
        integ := { t.integ with frec := (recs.getLast?.map FaultRec.word).getD t.integ.frec } }
    else t

/-- The drain hold of this chip ends when its queue has 49,152 free entries (R224). -/
def drainEnds (s : State) : State :=
  if s.tck.drainReq ∧ freeMin ≤ queueCap - s.dmc.wq.length then
    { s with tck := { s.tck with drainReq := false, lastArr := s.clk.gen } }
  else s

/-- The channel enters FAILED: it issues nothing further, and the writes queued for it fail (R218). -/
def failChannel (c : Nat) (s : State) : State :=
  let mine := fun w : MWrite => channelOf s.regs w.addr == c
  let t := failWrites (s.dmc.wq.filter mine) (raiseInt { s with
    regs := rset s.regs (chStat c) 30 2 3
    dmc := { s.dmc with alerts := s.dmc.alerts.erase c, retry := s.dmc.retry.erase c } } 0xA000 2)
  startWaiting (drainEnds { t with dmc := { t.dmc with wq := s.dmc.wq.filter fun w => !mine w } })

/-- The commands of a retry buffer issued again in their original order: each write leaves its data once more, and a
read's duplicate data is discarded (R217). -/
def reissue (l : List DramCmd) (m : List Host.Cell) : List Host.Cell :=
  l.reverse.foldl (fun m c => match c.data with
    | some d => putPieces m d
    | none => m) m

/-- The effect of ALERT: the window's commands are reissued; after three failing reissues in a row the channel fails
(R217, R218, log 118). -/
def doAlert (c : Nat) (failed : Bool) (s : State) : State :=
  let n := if failed then s.dmc.alerts.get 0 c + 1 else 0
  let t := { s with
    regs := rbump s.regs (pg .dmcCh c + 0x108) 0 12 1
    dmc := { s.dmc with
      alerts := s.dmc.alerts.put 0 c n
      mem := if failed then s.dmc.mem else reissue (s.dmc.retry.get [] c) s.dmc.mem } }
  if 3 ≤ n then failChannel c t else t

/-- ALERT of a channel in service (R217); `failed`: the reissue fails as well. -/
def execAlert (c : ChanId) (failed : Bool) (s : State) : Host.Outcome State Fault Refusal :=
  when (chanState s.regs c == 1) s (doAlert c failed s)

/-! ### MODEL_WRITE_DRAIN -/

/-- A queued write is made with the oldest one: it lies in the same burst, and no other request's write of that burst
arrived before it (R214, R223). -/
def merges (d : Dmc) (w x : MWrite) : Bool :=
  x.addr / 64 == w.addr / 64
    && !(d.waiting.any fun r => bodyWrites r.body && bodyAddr r.body / 64 == x.addr / 64 && decide (r.seq < x.seq))

/-- The writes of the queue's oldest burst, merged, in queue order (R223). -/
def mergedWrites (d : Dmc) : List MWrite :=
  match d.wq with
  | [] => []
  | w :: _ => d.wq.filter (merges d w)

/-- The queue without them. -/
def restWrites (d : Dmc) : List MWrite :=
  match d.wq with
  | [] => []
  | w :: _ => d.wq.filter fun x => !merges d w x

/-- Address of the queue's oldest write. -/
def headAddr (l : List MWrite) : Nat := (l.head?.map fun w => w.addr).getD 0

/-- Queued writes of one burst leave the queue: its burst read, changed and written, accepted by the DRAM; failed in a
FAILED channel, or when the burst read fails its check (R169, R216, R218, R223, log 119). -/
def drainBurst (ws : List MWrite) (a : Nat) (s : State) : State :=
  if chanState s.regs (channelOf s.regs a) = 3 then failWrites ws s
  else
    let r := readBurst a 0 (noteCmd a none s)
    if r.2 then
      let u := noteCmd a (some (ws.map fun w => (w.addr, wordBytes w.word 8))) r.1
      { u with dmc := { u.dmc with mem := ws.foldl (fun m w => Memory.putWord m w.addr w.word) u.dmc.mem } }
    else failWrites ws (raiseInt r.1 0xA000 3)

/-- Port 1 can be served: the queue is not empty, no other request's write of the oldest burst arrived before it, and
the controller starts requests of its channel, or the channel has failed. -/
def drainOk (s : State) : Bool :=
  let a := headAddr s.dmc.wq
  !s.dmc.wq.isEmpty && !memBusy s a && !(mergedWrites s.dmc).isEmpty && domOn s.pwr (22 + channelOf s.regs a / 2)

/-- The effect of MODEL_WRITE_DRAIN: the burst's writes leave the queue, accepted by the DRAM or failed; requests that
waited for them start (R214, R218, R223, R224). -/
def doModelWriteDrain (s : State) : State :=
  let ws := mergedWrites s.dmc
  startWaiting (drainEnds (drainBurst ws (headAddr s.dmc.wq) { s with dmc := { s.dmc with wq := restWrites s.dmc } }))

/-- MODEL_WRITE_DRAIN (R223); a burst write that an alert meets stays in the queue. -/
def execModelWriteDrain (accepted : Bool) (s : State) : Host.Outcome State Fault Refusal :=
  when (accepted && drainOk s) s (doModelWriteDrain s)

/-! ### DMC_MASK -/

/-- Offset of DMC_MASK_LO or DMC_MASK_HI. -/
def maskOff (hi : Bool) : Nat := if hi then 0xA114 else 0xA110

/-- The location of an address: each home bit becomes its hashed bit (R209, R210). Of a legal mask set it is its own
inverse. -/
def locate (m : SMap W32) (a : Nat) : Nat :=
  [6, 7, 9, 10, 11, 12, 13].zipIdx.foldl (fun r h =>
    r - (if a.testBit h.1 then 2 ^ h.1 else 0) + (if hashBit m h.2 a then 2 ^ h.1 else 0)) a

/-- The address under new masks of the location that an address names under the old ones. -/
def moved (old new : SMap W32) (a : Nat) : Nat := locate new (locate old a)

/-- DRAM after a change of the masks, every command complete: every byte keeps its location and so lies at another
address, and the CRC of a moved burst covers the address that it was written at (R210, R216, log 9). -/
def moveDram (old new : SMap W32) (d : Dmc) : Dmc :=
  { d with
    retry := []
    mem := d.mem.foldl (fun m (c : Host.Cell) => Memory.putByte m (moved old new c.1) c.2) []
    crcErr := (d.mem.map (fun c : Host.Cell => c.1 / 64) ++ d.crcErr.map Prod.fst).foldl (fun m k =>
      let n := moved old new (64 * k) / 64
      m.put 0 n (d.crcErr.get 0 k ^^^ 2 * (k ^^^ n))) [] }

/-- A write of DMC_MASK: checked and clamped, or ignored with MASK_BUSY while the controller is enabled (R210). -/
def maskWrite (r : Requester) (hi : Bool) (v : W32) (s : State) : State :=
  if (rget s.regs 0xA100).getLsbD 0 then raiseInt s 0xA000 6
  else
    let t := (fieldWrite (clampSrc r) 0 (maskOff hi) v s).1
    { t with dmc := moveDram s.regs t.regs t.dmc }

/-- The effect of DMC_MASK. -/
def doDmcMask (r : Requester) (hi : Bool) (v : W32) (s : State) : State := viaWrite r (maskOff hi) (maskWrite r hi v) s

/-- DMC_MASK (R210). -/
def execDmcMask (r : Requester) (hi : Bool) (v : W32) (s : State) : Host.Outcome State Fault Refusal :=
  .next (doDmcMask r hi v s)

end Sys2Proof.Machine
end

