-- ==== Sys2Proof/Machine/Trace.lean ====
section
/-!
DEFINITION. The trace path (R431 to R438): the rows TRACE, TRACE_FLUSH and STIM.
-/

namespace Sys2Proof.Machine

/-- Opcode of a trace packet (R271). -/
def opTrace : Byte := 0x40

/-! ### Encoders -/

/-- Whole packets of an encoder that fill flits of 32 bytes, up to `n` flits: the flits' bytes and the packets left.
`cur`: the flit being filled (R437). -/
def packFlits (g : Nat) : Nat → List Byte → List (List Byte) → List (List Byte) × List (List Byte)
  | _, cur, [] => (if cur = [] then [] else [cur ++ List.replicate (32 - cur.length) (trcHead 0 g)], [])
  | 0, _, rest => ([], rest)
  | n + 1, cur, p :: ps =>
    if cur.length + p.length ≤ 32 then packFlits g (n + 1) (cur ++ p) ps
    else
      let r := packFlits g n p ps
      ((cur ++ List.replicate (32 - cur.length) (trcHead 0 g)) :: r.1, r.2)

/-- Number of leading packets that fit in 8 flits. -/
def packsOf (g : Nat) (l : List (List Byte)) : List (List Byte) :=
  (List.range l.length).foldl (fun best k =>
    if (packFlits g 64 [] (l.take (k + 1))).1.length ≤ 8 then l.take (k + 1) else best) []

/-- The TRACE packet of a groom's encoder: to stop 4, unit 0xF1, class trace, up to 8 flits (R437). -/
def tracePkt (g : Nat) (packets : List (List Byte)) : Pkt :=
  { data := 0, addr := 0, rsv := 0, status := 0, mask := 0, sunit := BitVec.ofNat 8 (0x10 + g), dunit := 0xF1
    tick16 := 0, prio := 0, flowv := false, flow := 0, tag := 0, cls := 3, src := BitVec.ofNat 6 (groomStop g), dst := 4
    flits := (packFlits g 64 [] packets).1.map fun l => BitVec.ofNat 256 (bytesNat l) }

/-- An encoder sends one TRACE packet; room it makes ends a loss (R436, R437). -/
def flushOne (g : Nat) (s : State) : State :=
  let x := groomOf s g
  let ps := packsOf g x.enc
  if ps = [] then s
  else
    let y := { x with enc := x.enc.drop ps.length, encAt := x.encAt.drop ps.length }
    passFree (setGroom (respond opTrace (tracePkt g ps) s) g (encRecover s g y))

/-- Bytes at which an encoder sends at once (R437). -/
def sendBytes : Nat := 256

/-- Picoseconds at which an encoder sends for the age of its oldest byte: 1 µs after that entered (R437). -/
def sendAt (x : Groom) : Nat := x.encAt.headD 0 + 1000000

/-- The effect of TRACE_FLUSH: time passes up to the age that makes the encoder send, unless it holds enough bytes. -/
def doTraceFlush (g : Nat) (s : State) : State :=
  flushOne g (if sendBytes ≤ encBytes (groomOf s g) then s else passPs (sendAt (groomOf s g)) s)

/-- TRACE_FLUSH: an encoder that holds 256 bytes, or whose oldest byte is 1 µs old, sends (R437). -/
def execTraceFlush (g : GroomId) (s : State) : Host.Outcome State Fault Refusal :=
  when ((groomOf s g).enc != [] && (decide (sendBytes ≤ encBytes (groomOf s g)) || reaches s (sendAt (groomOf s g)))) s
    (doTraceFlush g s)

/-- An encoder sends everything it holds (R438). -/
def flushAll (g : Nat) : Nat → State → State
  | 0, s => s
  | n + 1, s => flushAll g n (flushOne g s)

/-! ### The trace unit -/

/-- Byte address of the trace ring (TRC_BASE). -/
def trcBase (m : SMap W32) : Nat := (rget m 0x8120).toNat + rfld m 0x8124 0 7 * 2 ^ 32

/-- Flits that the trace ring holds (TRC_LEN). -/
def trcFlits (m : SMap W32) : Nat := (rget m 0x8128).toNat * 32

/-- A flit is written to the ring at 32 × WPTR, by a MEM_WRITE in class trace (R271, R437). -/
def trcFlit (f : BitVec 256) (s : State) : State :=
  let w := (rget s.regs 0x812C).toNat
  let a := trcBase s.regs + 32 * w
  let t := portWrite 8 a (wordBytes f 32) (exchange 3 (4, 1) (19, 0) 3 1 (reachChan a s))
  let n := if trcFlits s.regs ≤ w + 1 then 0 else w + 1
  let full := (rget s.regs 0x8100).getLsbD 29 && (rget s.regs 0x8100).getLsbD 31 && decide (trcFlits s.regs - (w + 1) ≤ 512)
  let m := rput t.regs 0x812C (BitVec.ofNat 32 n)
  raiseIf full { t with regs := if full then rset (rset m 0x8100 31 1 0) 0x8104 30 1 1 else m } 0x8000 1

/-- The flits of a packet, in order. -/
def trcWrite : List (BitVec 256) → State → State
  | [], s => s
  | f :: fs, s => trcWrite fs (trcFlit f s)

/-- Offset in flits at which the `i`-th flit from now is written (R437). -/
def trcOffset (m : SMap W32) (i : Nat) : Nat :=
  let w := (rget m 0x812C).toNat
  if trcFlits m ≤ w + i then w + i - trcFlits m else w + i

/-- The DRAM controller does not take the flits of a trace packet now: the trace unit leaves it in its ejection queue, and
no packet is dropped (R436, R437, log 145). -/
def trcHeld (s : State) (op : Byte) (p : Pkt) : Bool :=
  op == opTrace && p.dst == 4 && p.dunit == 0xF1
    && (List.range p.flits.length).any fun i => portStatus s true false (trcBase s.regs + 32 * trcOffset s.regs i) != 0

/-- A trace packet at its destination stop (R275, R437). -/
def traceDeliver (p : Pkt) (s : State) : State :=
  if p.dst = 4 ∧ p.dunit = 0xF1 then
    (if trcHeld s opTrace p then waitRoom opTrace p s else reachUnit 28 opTrace p (trcWrite p.flits) s)
  else noUnit none p s

/-- The effect of TRACE. -/
def doTrace (p : Pkt) (s : State) : State :=
  if s.rls.fly.contains (opTrace, p) then flyArrive opTrace p traceDeliver s else send opTrace none p traceDeliver s

/-- TRACE: a packet on its way, or one that a unit sends now, reaches the trace unit (R437). -/
def execTrace (p : Pkt) (s : State) : Host.Outcome State Fault Refusal := when (pktFree p 8) s (doTrace p s)

/-! ### STIM -/

/-- A STIM packet (R432). -/
def stimPkt (g port : Nat) (v : W64) : List Byte := [trcHead 5 g, BitVec.ofNat 8 port] ++ wordBytes v 8

/-- A groom in state 1 or 2 of GRM_STATUS: released from reset and not halted (R421). -/
def groomRuns (s : State) (g : Nat) : Bool := (rget s.regs (pg .grm g + 0x100)).getLsbD 0 && !(groomOf s g).halted

/-- The groom executes: it runs, and is not stalled on an ordered packet (R299, R421). -/
def executes (s : State) (g : Nat) : Bool := groomRuns s g && (groomOf s g).stall.isNone

/-- The effect of STIM of a groom that executes: a packet, when trace is enabled, the groom selected and the port enabled
(R299, R435). -/
def doStim (g port : Nat) (v : W64) (s : State) : State :=
  if !executes s g then s
  else if (rget s.regs 0x8108).getLsbD port then emitTrace g (stimPkt g port v) s else s

/-- STIM, a write of custom CSR 0x7C0 + port in machine mode (R435). -/
def execStim (g : GroomId) (port : Fin 32) (v : W64) (s : State) : Host.Outcome State Fault Refusal :=
  .next (doStim g port v s)

end Sys2Proof.Machine
end

