-- ==== Sys2Proof/Machine/Yards.lean ====
section
/-!
DEFINITION. The yardmaster (R287 to R304): submissions, dependences, ready queues, dispatch, completions, ordered
flows, the timetable, the CALL intake and deposits. The rows WORK_SUBMIT, MSG, DEPOSIT, YMS_DOORBELL, CALL_INTAKE,
DISPATCH, WORK_DONE, GRM_DONE and TIMETABLE_EXPIRY.
-/

namespace Sys2Proof.Machine

/-! ### Descriptors -/

/-- A work-item descriptor (R287). -/
structure Work where
  entry : W64
  arg   : W64
  succ  : BitVec 20
  succv : Bool
  ack   : Bool
  timed : Bool
  tunit : Bool
  delay : Nat
  flow  : BitVec 6
  flowv : Bool
  prio  : BitVec 3
  deps  : Nat
  rsv   : Nat
  valid : Bool
deriving DecidableEq, Repr

/-- The fields of a descriptor. -/
def Work.of (d : BitVec 256) : Work :=
  { entry := d.extractLsb' 192 64, arg := d.extractLsb' 128 64, succ := d.extractLsb' 108 20, succv := d.getLsbD 107
    ack := d.getLsbD 106, timed := d.getLsbD 105, tunit := d.getLsbD 104, delay := fld d 72 32
    flow := d.extractLsb' 66 6, flowv := d.getLsbD 65, prio := d.extractLsb' 62 3, deps := fld d 46 16
    rsv := fld d 1 45, valid := d.getLsbD 0 }

/-- ENTRY lies in scratch or DRAM of the groom address map (R284). -/
def entryOk (e : W64) : Bool :=
  decide (e.toNat < 0x400000) || (decide (0x8000000000 ≤ e.toNat) && decide (e.toNat ≤ 0xFFFFFFFFFF))

/-- A descriptor that R287 refuses. -/
def Work.bad (w : Work) : Bool := w.rsv != 0 || w.entry.getLsbD 0 || !entryOk w.entry || (w.timed && w.deps != 0)

/-- Word k of a binding: YMS_BIND_W0 to W7. -/
def bindWord (m : SMap W32) (i k : Nat) : W32 := rget m (rkey (0x5108 + 4 * k) i)

/-- Binding `i` (R287). -/
def bindingOf (m : SMap W32) (i : Nat) : Work :=
  Work.of (bindWord m i 7 ++ bindWord m i 6 ++ bindWord m i 5 ++ bindWord m i 4 ++ bindWord m i 3 ++ bindWord m i 2
    ++ bindWord m i 1 ++ bindWord m i 0)

/-- The item of a descriptor with an argument. -/
def Work.item (w : Work) (arg : W64) (call : Option Nat) : Item :=
  { entry := w.entry, arg := arg, succ := w.succ, succv := w.succv, flow := w.flow, flowv := w.flowv, prio := w.prio
    fallback := false, id := none, seq := none, call := call }

/-! ### Queues -/

/-- Sizes of the yardmaster's stores (R290, R292, R297, R298, R303). -/
def depCap : Nat := 4096
def readyCap : Nat := 1024
def timeCap : Nat := 2048
def flowCap : Nat := 256
def depositCapacity : Nat := 1024

/-- The ready queue of a priority. -/
def readyOf (y : Yms) (l : Nat) : List Item := y.ready.get [] l
/-- The pending items of a priority. -/
def pendOf (y : Yms) (l : Nat) : List Item := y.pend.get [] l

/-- A flow item finds its reorder window open (R298). -/
def flowRoom (y : Yms) (i : Item) : Bool := !i.flowv || decide ((flowOf y i.flow.toNat).out < flowCap)

/-- The item with its flow's next sequence number (R298). -/
def seqItem (y : Yms) (i : Item) : Item := if i.flowv then { i with seq := some (flowOf y i.flow.toNat).next } else i

/-- The flows after an item takes its sequence number. -/
def seqFlow (y : Yms) (i : Item) : SMap Flow :=
  if i.flowv then
    let f := flowOf y i.flow.toNat
    y.flows.put {} i.flow.toNat { f with next := f.next + 1, out := f.out + 1 }
  else y.flows

/-- An item enters the ready queue of its priority. -/
def enter (i : Item) (y : Yms) : Yms :=
  { y with flows := seqFlow y i, ready := y.ready.put [] i.prio.toNat (readyOf y i.prio.toNat ++ [seqItem y i]) }

/-- The place an item leaves as it enters its queue: its entry of the dependence table, the head of the intake, or its
timetable entry (R290, R292). -/
def freePlace (i : Item) (y : Yms) : Yms :=
  match i.id, i.call with
  | some d, _ => { y with dep := y.dep.erase (d.toNat % 4096) }
  | none, some _ => { y with intake := y.intake.drop 1 }
  | none, none => { y with time := y.time.eraseP fun e => e.exp && e.item == i }

/-- An item that becomes ready enters its queue, or is pending in its place while its queue or its flow's window is
full (R291, R292, R298). -/
def becomeReady (i : Item) (y : Yms) : Yms :=
  let l := i.prio.toNat
  if (readyOf y l).length < readyCap && flowRoom y i && (pendOf y l).all (fun p => !flowRoom y p) then enter i (freePlace i y)
  else { y with pend := y.pend.put [] l (pendOf y l ++ [i]) }

/-- Pending items of a level enter the queue as it has room, in the order in which they became ready, save those whose
flow's window is full (R292, R298). `n`: at most so many. -/
def admitLevel (l : Nat) : Nat → Yms → Yms
  | 0, y => y
  | n + 1, y =>
    if readyCap ≤ (readyOf y l).length then y
    else match (pendOf y l).find? (flowRoom y) with
      | none => y
      | some i => admitLevel l n (enter i (freePlace i { y with pend := y.pend.put [] l ((pendOf y l).erase i) }))

/-- `admitLevel` for every priority. -/
def admitAll (y : Yms) : Yms := (List.range 8).foldl (fun y l => admitLevel l (pendOf y l).length y) y

/-- The intake hold of this chip ends when the intake has 49,152 free entries (R302). -/
def intakeEnds (s : State) : State :=
  if s.tck.intakeReq ∧ freeMin ≤ queueCap - s.yms.intake.length then
    { s with tck := { s.tck with intakeReq := false, lastArr := s.clk.gen } }
  else s

/-! ### Submissions -/

/-- A counter of YMS_CNT advances. -/
def ymsCount (k : Nat) (m : SMap W32) : SMap W32 := rbump m (rkey 0x515C k) 0 32 1

/-- An entry takes its place in the timetable: in order of due time within its unit, and of acceptance (R297). -/
def insTime (e : TimeE) : List TimeE → List TimeE
  | [] => [e]
  | h :: t => if h.ticks = e.ticks ∧ e.due < h.due then e :: h :: t else h :: insTime e t

/-- The due time of a timed item, fixed at acceptance: a tick, or a time of clock instance 0 in units of 2^-32 ns
(R297). -/
def dueOf (s : State) (w : Work) : Nat :=
  if w.tunit then s.tck.count.toNat + w.delay else s.ptp.i0.fine + w.delay * 1000 * 2 ^ 32

/-- A free entry of the dependence table; which one is open (R290, log 4). -/
def freeEntry (s : State) : Nat :=
  let l := (List.range depCap).filter fun e => (s.yms.dep.find? e).isNone
  l.getD ((Config.freeWord s.clk.free).toNat % l.length) 0

/-- What a submission answers: its result code, and its ID (R289). -/
structure Answer where
  code : Nat
  id   : Nat := 0xFFFFF
deriving DecidableEq, Repr

/-- The answer's layout in DATA and YMS_DB_RESULT, below [31:0] (R289). -/
def Answer.word (a : Answer) (low : Nat) : Nat := a.id % 2 ^ 20 * 2 ^ 12 + a.code * 2 ^ 8 + low

/-- A refused submission leaves nothing behind: REFUSED (R289). -/
def refused (code : Nat) (s : State) : State × Answer :=
  (raiseInt { s with regs := ymsCount 0 s.regs } 0x5000 0, ⟨code, 0xFFFFF⟩)

/-- An item with no dependence, or one that found the table full, enters its ready queue behind the pending items that
the queue can take, with its code; a full queue
or flow window refuses it, and for a CALL event leaves it pending (R291, R292, R298, R300). -/
def submitReady (i : Item) (code : Nat) (s : State) : State × Answer :=
  let y := admitLevel i.prio.toNat (pendOf s.yms i.prio.toNat).length s.yms
  if i.call.isSome then ({ s with yms := becomeReady i y }, ⟨code, 0xFFFFF⟩)
  else if readyCap ≤ (readyOf y i.prio.toNat).length then refused 8 s
  else if !flowRoom y i then refused 9 s
  else ({ s with yms := enter i y }, ⟨code, 0xFFFFF⟩)

/-- An item waits in the dependence table with an ID (R290). -/
def submitWait (i : Item) (deps : Nat) (s : State) : State × Answer :=
  let e := freeEntry s
  let u := s.yms.reuse.get 0 e + 1
  let id := u ++ BitVec.ofNat 12 e
  ({ s with
    yms := { s.yms with
      reuse := s.yms.reuse.put 0 e u
      dep := s.yms.dep.set e ⟨{ i with id := some id, call := none }, deps⟩ }
    clk := { s.clk with free := s.clk.free + 1 } }, ⟨1, id.toNat⟩)

/-- A descriptor that has passed R287, as an item. `arg`: its argument; `call`: it comes from a CALL event. -/
def submitItem (w : Work) (i : Item) (s : State) : State × Answer :=
  if w.timed then
    if timeCap ≤ s.yms.time.length then refused 10 s
    else
      let e : TimeE := ⟨{ i with call := none }, w.tunit, dueOf s w, false⟩
      ({ s with yms := { s.yms with time := insTime e s.yms.time } }, ⟨3, 0xFFFFF⟩)
  else if w.deps = 0 then submitReady i 0 s
  else if s.yms.dep.length < depCap then submitWait i w.deps s
  else
    let r := submitReady { i with fallback := true } 2 s
    ({ r.1 with regs := if r.2.code = 2 then ymsCount 4 r.1.regs else r.1.regs }, r.2)

/-- A submission (R287 to R292). -/
def submit (w : Work) (arg : W64) (call : Option Nat) (s : State) : State × Answer :=
  if w.bad then refused 11 s else submitItem w (w.item arg call) s

/-- A submission through a binding (R288). -/
def submitBinding (i : Nat) (arg : W64) (s : State) : State × Answer :=
  let w := bindingOf s.regs i
  if w.valid then submit w arg none s else refused 12 s

/-! ### Messages and work packets -/

/-- Opcodes (R271). -/
def opSubmit : Byte := 0x30
def opDone : Byte := 0x31
def opMsg : Byte := 0x50

/-- A message of the yardmaster to a submitter: SRC and SUNIT of the request, its TAG, DATA (R289, R303). -/
def ymsMsg (p : Pkt) (data : Nat) : Pkt :=
  { data := BitVec.ofNat 64 data, addr := 0, rsv := 0, status := 0, mask := 0, sunit := 0x05, dunit := p.sunit
    tick16 := 0, prio := 0, flowv := false, flow := 0, tag := p.tag, cls := 0, src := 20, dst := p.src, flits := [] }

/-- The acknowledgement of a submission (R289). -/
def ackTo (ack : Bool) (p : Pkt) (r : State × Answer) : State :=
  if ack then respond opMsg (ymsMsg p (r.2.word 1)) r.1 else r.1

/-- A WORK_SUBMIT packet at the yardmaster: with a data flit its descriptor, otherwise a binding, whose ACK ADDR[12]
replaces (R288). -/
def atSubmit (p : Pkt) (s : State) : State :=
  match p.flits with
  | d :: _ => ackTo (Work.of d).ack p (submit (Work.of d) (Work.of d).arg none s)
  | [] => ackTo (p.addr.getLsbD 12) p (submitBinding (fld p.addr 0 12) p.data s)

/-- A packet reached the yardmaster's unit at stop 20, or nothing that serves it (R275). -/
def atYard (op : Byte) (p : Pkt) (act : State → State) (s : State) : State :=
  if p.dst = 20 ∧ p.dunit = 0x05 then reachUnit 30 op p act s else noUnit none p s

/-- WORK_SUBMIT at its destination stop. -/
def submitDeliver (p : Pkt) (s : State) : State := atYard opSubmit p (atSubmit p) s

/-- A packet of an opcode without response: one on its way reaches its unit, another is sent now. -/
def postedCmd (op : Byte) (p : Pkt) (arrive : Pkt → State → State) (s : State) : State :=
  if s.rls.fly.contains (op, p) then flyArrive op p arrive s else send op none p arrive s

/-- The effect of WORK_SUBMIT. -/
def doWorkSubmit (p : Pkt) (s : State) : State := postedCmd opSubmit p submitDeliver s

/-- WORK_SUBMIT (R288). -/
def execWorkSubmit (p : Pkt) (s : State) : Host.Outcome State Fault Refusal := when (pktFree p 1) s (doWorkSubmit p s)

/-- The result of a deposit: 0 accepted, 8 the queue is full, 11 otherwise (R303). -/
def depositCode (s : State) (d : BitVec 256) : Nat :=
  if fld d 0 152 ≠ 0 ∨ depositCap s.regs = 0 ∨ !(rget s.regs (rkey 0xA12C (fld d 152 8))).getLsbD 31 then 11
  else if depositCapacity ≤ s.yms.deposits.length then 8
  else 0

/-- A deposit at the yardmaster (R303). -/
def atDeposit (p : Pkt) (s : State) : State :=
  let d := p.flits.headD 0
  let c := depositCode s d
  let t := if c = 0 then
      { s with yms := { s.yms with deposits := s.yms.deposits ++ [⟨fld d 152 8, fld d 160 32, d.extractLsb' 192 64⟩] } }
    else raiseInt { s with regs := ymsCount 6 s.regs } 0x5000 5
  respond opMsg (ymsMsg p ((Answer.mk c 0xFFFFF).word 2)) t

/-- A message's units, beside the yardmaster, that take messages: host DMA, the paddock, trigger and acquisition, the
power controller, the grooms, the loader, the debug bus master (R273). -/
def msgUnit (p : Pkt) : Option Nat :=
  if p.dunit = 0 ∨ p.dunit = 0x01 ∨ p.dunit = 0x04 ∨ p.dunit = 0x05 then none else unitDomain p.dst.toNat p.dunit.toNat

/-- Packets of a bridge queue (R329). -/
def bridgeCap : Nat := 32

/-- A message at its unit: the paddock's enters the bridge's response queue, every other unit takes its contents as the
sender defined them, of which the block keeps nothing (R271, R329). -/
def msgAtUnit (p : Pkt) (s : State) : State :=
  if p.dunit = 0x03 then { s with pdk := { s.pdk with brResp := s.pdk.brResp ++ [(opMsg, p)] } } else s

/-- The paddock's response queue takes no message: its 32 packets are there or reserved for responses (R276, R329). -/
def bridgeFull (s : State) (op : Byte) (p : Pkt) : Bool :=
  op == opMsg && p.dunit == 0x03 && p.dst == 43 && decide (bridgeCap ≤ s.pdk.brResp.length + s.pdk.brOut)

/-- A packet that is a deposit: to stop 20, unit 0x05, DATA[7:0] 0x02, one data flit (R303). -/
def isDeposit (p : Pkt) : Bool := p.dst == 20 && p.dunit == 0x05 && fld p.data 0 8 == 2 && p.flits.length == 1

/-- MSG at its destination stop: to the yardmaster a deposit, or nothing it acts on; to another unit its contents
(R271, R275, R303). -/
def msgDeliver (p : Pkt) (s : State) : State :=
  if p.dst = 20 ∧ p.dunit = 0x05 then
    reachUnit 30 opMsg p (fun s => if isDeposit p then atDeposit p s else s) s
  else match msgUnit p with
    | some d => reachUnit d opMsg p (fun s => if bridgeFull s opMsg p then waitRoom opMsg p s else msgAtUnit p s) s
    | none => noUnit none p s

/-- The effect of MSG. -/
def doMsg (p : Pkt) (s : State) : State := postedCmd opMsg p msgDeliver s

/-- MSG (R271). -/
def execMsg (p : Pkt) (s : State) : Host.Outcome State Fault Refusal := when (pktFree p 8) s (doMsg p s)

/-- The effect of DEPOSIT. -/
def doDeposit (p : Pkt) (s : State) : State := postedCmd opMsg p msgDeliver s

/-- DEPOSIT (R303). -/
def execDeposit (p : Pkt) (s : State) : Host.Outcome State Fault Refusal :=
  when (pktFree p 1 && isDeposit p) s (doDeposit p s)

/-- A write of YMS_DOORBELL: the binding is submitted with the doorbell argument, and YMS_DB_RESULT takes the result
(R288, R289). -/
def doorbell (v : W32) (s : State) : State :=
  let r := submitBinding (fld v 0 12) (rget s.regs 0x5130 ++ rget s.regs 0x512C) s
  { r.1 with yms := { r.1.yms with dbResult := BitVec.ofNat 32 (r.2.word 0) } }

/-- The effect of YMS_DOORBELL. -/
def doYmsDoorbell (r : Requester) (v : W32) (s : State) : State := viaWrite r 0x5134 (doorbell v) s

/-- YMS_DOORBELL (R288). -/
def execYmsDoorbell (r : Requester) (v : W32) (s : State) : Host.Outcome State Fault Refusal :=
  .next (doYmsDoorbell r v s)

/-- An event that a hardware binding submits: the link-management or the trigger engine's (R288). -/
def hwSubmit (en : Bool) (binding : Nat) (arg : W64) (s : State) : State :=
  if en then (submitBinding binding arg s).1 else s

/-! ### CALL intake -/

/-- ARG of a CALL event's item: tag, index among its tick's CALL events, tick number (R300). -/
def callArg (e : Event × Nat) : W64 :=
  BitVec.ofNat 64 (e.1.num.toNat * 2 ^ 52 + e.2 % 2 ^ 14 * 2 ^ 38 + e.1.tick % 2 ^ 38)

/-- The intake's head is already converted and waits for its queue (R292, R300). -/
def headWaits (y : Yms) : Bool := (List.range 8).any fun l => (pendOf y l).any fun i => i.call.isSome && i.id.isNone

/-- The event converted: through its binding to an item, which takes its place in a queue or a table; an event without
a usable binding is discarded (R300). -/
def convert (e : Event × Nat) (s : State) : State :=
  let w := bindingOf s.regs e.1.num.toNat
  if !w.valid then
    raiseInt { s with
      yms := { s.yms with intake := s.yms.intake.drop 1 }
      regs := ymsCount 1 s.regs } 0x5000 1
  else if w.bad || w.timed || w.deps != 0 && decide (s.yms.dep.length < depCap) then
    let r := submit w (callArg e) (some e.1.tick) s
    { r.1 with yms := { r.1.yms with intake := r.1.yms.intake.drop 1 } }
  else (submit w (callArg e) (some e.1.tick) s).1

/-- The effect of CALL_INTAKE. -/
def doCallIntake (s : State) : State :=
  match s.yms.intake with
  | [] => s
  | e :: _ => intakeEnds (convert e s)

/-- CALL_INTAKE: the intake's head is converted, unless it waits for its queue (R300). -/
def execCallIntake (s : State) : Host.Outcome State Fault Refusal :=
  when (!s.yms.intake.isEmpty && !headWaits s.yms) s (doCallIntake s)

/-! ### Dispatch -/

/-- A groom is available: TAKE = 1, no item, not halted by the debugger (R294). -/
def available (s : State) (g : Nat) : Bool :=
  (rget s.regs (pg .grm g + 0x100)).getLsbD 1 && (groomOf s g).item.isNone && !(groomOf s g).halted

/-- An item is eligible unless its flow's previous item has not been dispatched (R293). -/
def eligible (y : Yms) (i : Item) : Bool := !i.flowv || i.seq == some (flowOf y i.flow.toNat).disp

/-- The item to be dispatched: of the highest priority that holds an eligible one, the first (R293). -/
def nextItem (y : Yms) : Option Item :=
  (List.range 8).foldl (fun o l => match (readyOf y l).find? (eligible y) with
    | some i => some i
    | none => o) none

/-- The groom an item goes to (R293): its flow's last, else the lowest whose last item had the same ENTRY, else the
lowest available. -/
def groomFor (s : State) (i : Item) : Option Nat :=
  let l := (List.range 16).filter (available s)
  let byFlow := if i.flowv then l.find? (fun g => (flowOf s.yms i.flow.toNat).groom == some g) else none
  (byFlow.or (l.find? fun g => (groomOf s g).lastEntry == some i.entry)).or l.head?

/-- GRM_DISP_INFO of an item. -/
def dispInfo (i : Item) : W32 :=
  BitVec.ofNat 32 (2 ^ 31 + i.fallback.toNat * 2 ^ 30 + i.prio.toNat * 2 ^ 27 + i.flowv.toNat * 2 ^ 26
    + i.flow.toNat * 2 ^ 20 + (i.id.getD 0xFFFFF).toNat)

/-- The registers a dispatch writes: GRM_DISP_ENTRY, GRM_DISP_ARG, GRM_DISP_INFO, and DEC VALID bits cleared (R294). -/
def dispRegs (m : SMap W32) (g : Nat) (i : Item) : SMap W32 :=
  let b := pg .grm g
  let m := rput (rput m (b + 0x110) (i.entry.extractLsb' 0 32)) (b + 0x114) (i.entry.extractLsb' 32 32)
  let m := rput (rput m (b + 0x118) (i.arg.extractLsb' 0 32)) (b + 0x11C) (i.arg.extractLsb' 32 32)
  let m := rput m (b + 0x120) (dispInfo i)
  rset (rset (rset m (b + 0x128) 31 1 0) (b + 0x12C) 31 1 0) (b + 0x130) 31 1 0

/-- The yardmaster after it gives an item to a groom. -/
def ymsDispatch (y : Yms) (g : Nat) (i : Item) : Yms :=
  let l := i.prio.toNat
  let y := { y with
    ready := y.ready.put [] l ((readyOf y l).erase i)
    running := y.running.put [] g (y.running.get [] g ++ [i])
    flows := if i.flowv then
        let f := flowOf y i.flow.toNat
        y.flows.put {} i.flow.toNat { f with disp := f.disp + 1, groom := some g }
      else y.flows }
  admitAll y

/-- The delivery of a dispatch: registers, the machine external interrupt, the item held (R294). -/
def giveItem (g : Nat) (i : Item) (s : State) : State :=
  let t := { s with regs := ymsCount 7 (dispRegs s.regs g i) }
  setGroom t g { groomOf t g with
    item := some i, lastEntry := some i.entry, since := s.clk.ps, extra := 0, meip := true }

/-- The domain of a groom (R444). -/
def groomDom (g : Nat) : Nat := 20 + g / 8

/-- A dispatch to a groom whose domain is below ON wakes it first (R294). -/
def wakeFor (g : Nat) (s : State) : State :=
  let t := cancelClose (groomDom g) s
  if domOn s.pwr (groomDom g) then t else wakeNow (groomDom g) (waitWake (groomStop g) t)

/-- The effect of DISPATCH. -/
def doDispatch (s : State) : State :=
  match nextItem s.yms with
  | none => s
  | some i => match groomFor s i with
    | none => s
    | some g => giveItem g i (intakeEnds (wakeFor g { s with yms := ymsDispatch s.yms g i }))

/-- DISPATCH: a groom is available, YMS_CTRL.ENABLE = 1 and some item is eligible (R293). -/
def execDispatch (s : State) : Host.Outcome State Fault Refusal :=
  when ((rget s.regs 0x5100).getLsbD 0 && (nextItem s.yms).isSome && (List.range 16).any (available s)) s (doDispatch s)

/-! ### Completion -/

/-- One decrement (R295, R296). -/
def decrement (id : BitVec 20) (s : State) : State :=
  let e := id.toNat % 4096
  match s.yms.dep.find? e with
  | none => raiseInt { s with regs := ymsCount 2 s.regs } 0x5000 2
  | some d =>
    if fld id 12 8 ≠ (s.yms.reuse.get 0 e).toNat then raiseInt { s with regs := ymsCount 2 s.regs } 0x5000 2
    else if d.cnt = 0 then raiseInt { s with regs := ymsCount 3 s.regs } 0x5000 3
    else
      let y := { s.yms with dep := s.yms.dep.set e { d with cnt := d.cnt - 1 } }
      { s with yms := if d.cnt = 1 then becomeReady d.item y else y }

/-- Decrements in order: SUCC first, then DEC0 to DEC2 (R295). -/
def decrements : List (BitVec 20) → State → State
  | [], s => s
  | d :: ds, s => decrements ds (decrement d s)

/-- A packet of any opcode but WORK_DONE at its destination stop: responses, requests on the sheds and DRAM, submissions,
trace, messages; an opcode that no unit serves is undeliverable (R271, R275). -/
def deliverPkt (op : Byte) (p : Pkt) (s : State) : State :=
  if op = opShdResp then shedRespDeliver p s
  else if op = opMemResp then memRespDeliver p s
  else if op = opShdRead ∨ op = opShdWrite ∨ op = opShdAdd ∨ op = opShdSwap then shedDeliver op p s
  else if op = opMemRead ∨ op = opMemWrite then memDeliver op (freePasses s) p (drawFree s)
  else if op = opSubmit then submitDeliver p s
  else if op = opTrace then traceDeliver p s
  else if op = opMsg then msgDeliver p s
  else noUnit none p s

/-- An ordered packet belongs to the item of a flow with a sequence number. -/
def ofItem (f : Nat) (q : BitVec 8) (e : BitVec 8 × Byte × Pkt) : Bool := e.1 == q && e.2.2.flow.toNat == f

/-- The groom without an ordered packet: taken from its buffer, or the one on which it stalls; room in the buffer ends a
stall (R299). -/
def dropOrdered (e : BitVec 8 × Byte × Pkt) (x : Groom) : Groom :=
  if x.ordered.contains e then unstall { x with ordered := x.ordered.erase e } else { x with stall := none }

/-- The first ordered packet of a groom whose item is its flow's oldest (R299). -/
def nextOrdered (y : Yms) (x : Groom) : Option (BitVec 8 × Byte × Pkt) :=
  (x.ordered ++ x.stall.toList).find? fun e => e.1 == (flowOf y e.2.2.flow.toNat).head

/-- A groom's ordered packets of oldest items are injected in production order, as far as its endpoint has the credits;
at most `n` (R266, R299). -/
def drainOrdered (g : Nat) : Nat → State → State
  | 0, s => s
  | n + 1, s => match nextOrdered s.yms (groomOf s g) with
    | none => s
    | some e =>
      if canSend s.rls e.2.1 e.2.2 then
        drainOrdered g n (launch e.2.1 (respOf e.2.1) e.2.2 (deliverPkt e.2.1) (setGroom s g (dropOrdered e (groomOf s g))))
      else s

/-- `drainOrdered` for the grooms [g, g + n). -/
def streamAll (g : Nat) : Nat → State → State
  | 0, s => s
  | n + 1, s => streamAll (g + 1) n (drainOrdered g 65 s)

/-- Some groom still holds an ordered packet of an item of a flow (R299). -/
def holdsOrdered (s : State) (f : Nat) (q : BitVec 8) : Bool :=
  (List.range 16).any fun g => ((groomOf s g).ordered ++ (groomOf s g).stall.toList).any (ofItem f q)

/-- Releases the completed items of a flow from its oldest on, each once its ordered packets are injected: it applies its
decrements, and the next becomes the oldest (R298, R299). -/
def releaseFlow (f : Nat) : Nat → State → State
  | 0, s => s
  | n + 1, s =>
    let w := flowOf s.yms f
    match w.done.find? fun d => d.1 == w.head with
    | none => s
    | some d =>
      if holdsOrdered s f w.head then s
      else
        let w' := { w with head := w.head + 1, out := w.out - 1, done := w.done.filter fun x => x.1 != w.head }
        let t := decrements d.2 { s with yms := { s.yms with flows := s.yms.flows.put {} f w' } }
        releaseFlow f n (streamAll 0 16 t)

/-- `releaseFlow` for every flow (R298). -/
def releaseAll (s : State) : State := (List.range 64).foldl (fun s f => releaseFlow f flowCap s) s

/-- A completion of an item is applied: a flow item's decrements at its release, another's at once; with FAIL none, and
the item's waiting ordered packets are discarded (R295, R298, R299). -/
def complete (g : Nat) (fail : Bool) (decs : List (BitVec 20)) (i : Item) (s : State) : State :=
  let l := if fail then [] else (if i.succv then [i.succ] else []) ++ decs
  let s := if i.flowv then
      let x := groomOf s g
      let t := if fail then setGroom s g (unstall { x with
            ordered := x.ordered.filter fun e => !ofItem i.flow.toNat (i.seq.getD 0) e
            stall := x.stall.filter fun e => !ofItem i.flow.toNat (i.seq.getD 0) e })
        else s
      let w := flowOf t.yms i.flow.toNat
      releaseFlow i.flow.toNat flowCap { t with yms := { t.yms with
        flows := t.yms.flows.put {} i.flow.toNat { w with done := w.done ++ [(i.seq.getD 0, l)] } } }
    else decrements l s
  intakeEnds { s with yms := admitAll s.yms }

/-- The decrements that a WORK_DONE packet carries (R295). -/
def packetDecs (w : W64) : List (BitVec 20) :=
  (List.range 3).filterMap fun k => if w.getLsbD (21 * k + 20) then some (w.extractLsb' (21 * k) 20) else none

/-- WORK_DONE at the yardmaster (R295): the oldest item of the groom that is not completed yet. -/
def atDone (p : Pkt) (s : State) : State :=
  let g := fld p.addr 0 4
  match s.yms.running.get [] g with
  | [] => s
  | i :: rest =>
    complete g (p.addr.getLsbD 4) (packetDecs p.data) i
      { s with yms := { s.yms with running := s.yms.running.put [] g rest } }

/-- WORK_DONE at its destination stop. -/
def doneDeliver (p : Pkt) (s : State) : State := atYard opDone p (atDone p) s

/-- The effect of WORK_DONE. -/
def doWorkDone (p : Pkt) (s : State) : State := postedCmd opDone p doneDeliver s

/-- WORK_DONE (R295). -/
def execWorkDone (p : Pkt) (s : State) : Host.Outcome State Fault Refusal := when (pktOk p 0) s (doWorkDone p s)

/-- One of the optional decrements of GRM_DONE_DEC0 to DEC2: a valid bit above a 20-bit ID (R295). -/
def decWord (m : SMap W32) (g k : Nat) : Nat :=
  rfld m (pg .grm g + 0x128 + 4 * k) 0 20 + rfld m (pg .grm g + 0x128 + 4 * k) 31 1 * 2 ^ 20

/-- The WORK_DONE packet of a groom (R295). -/
def donePkt (m : SMap W32) (g : Nat) (fail : Bool) : Pkt :=
  { data := BitVec.ofNat 64 (decWord m g 0 + decWord m g 1 * 2 ^ 21 + decWord m g 2 * 2 ^ 42)
    addr := BitVec.ofNat 64 (g + fail.toNat * 16), rsv := 0, status := 0, mask := 0
    sunit := BitVec.ofNat 8 (0x10 + g), dunit := 0x05, tick16 := 0, prio := 0, flowv := false, flow := 0, tag := 0
    cls := 0, src := BitVec.ofNat 6 (groomStop g), dst := 20, flits := [] }

/-- A groom's item ends: the endpoint sends WORK_DONE, and the groom holds no item (R294, R295). -/
def endItem (g : Nat) (fail : Bool) (s : State) : State :=
  let x := groomOf s g
  if x.item.isNone then s
  else
    let t := respond opDone (donePkt s.regs g fail) { s with regs := rset s.regs (pg .grm g + 0x120) 31 1 0 }
    setGroom t g { x with item := none, meip := false }

/-- The effect of GRM_DONE. -/
def doGrmDone (r : Requester) (g : Nat) (v : W32) (s : State) : State :=
  viaWrite r (pg .grm g + 0x124) (fun s => if v.getLsbD 0 then endItem g (v.getLsbD 1) s else s) s

/-- GRM_DONE, written by the groom (R295). -/
def execGrmDone (g : GroomId) (v : W32) (s : State) : Host.Outcome State Fault Refusal :=
  .next (doGrmDone (.groom g) g v s)

/-! ### Timetable -/

/-- An entry's due time is reached (R297). -/
def expired (s : State) (e : TimeE) : Bool :=
  !e.exp && (if e.ticks then decide (e.due ≤ s.tck.count.toNat) else decide (e.due ≤ s.ptp.i0.fine))

/-- The timetable with the first entry of a kind marked as expired. -/
def markExp (e : TimeE) : List TimeE → List TimeE
  | [] => []
  | h :: t => if h = e then { h with exp := true } :: t else h :: markExp e t

/-- The effect of TIMETABLE_EXPIRY: the first entry that is due becomes ready (R292, R297). -/
def doTimetableExpiry (s : State) : State :=
  match s.yms.time.find? (expired s) with
  | none => s
  | some e => { s with yms := becomeReady e.item { s.yms with time := markExp e s.yms.time } }

/-- TIMETABLE_EXPIRY (R297). -/
def execTimetableExpiry (s : State) : Host.Outcome State Fault Refusal :=
  when ((s.yms.time.find? (expired s)).isSome) s (doTimetableExpiry s)

end Sys2Proof.Machine
end

