-- ==== Sys2Proof/Machine/Grooms.lean ====
section
/-!
DEFINITION. The grooms as the block's commands see them (R283 to R286, R305 to R307): the rows GROOM_WATCHDOG, INV_D,
GROOM_RUN, CHECKPOINT and RESTORE.
-/

namespace Sys2Proof.Machine

/-! ### GRM_CTRL -/

/-- A groom at its reset vector (R286, R305). -/
def atVector (m : SMap W32) (g : Nat) (x : Groom) : Groom :=
  { x with core := { ({} : Core) with pc := resetVec m g }, halted := false, cause := 0, meip := false, haltReq := none }

/-- A write of GRM_CTRL: RUN 1 releases a groom in reset at GRM_RESET_VEC, RUN 0 puts it into reset, INV_D invalidates
its L1D (R285, R286). -/
def grmCtrlWrite (r : Requester) (g : Nat) (v : W32) (s : State) : State :=
  let off := pg .grm g + 0x100
  let was := (rget s.regs off).getLsbD 0
  let t := (fieldWrite (clampSrc r) 0 off v s).1
  let now := (rget t.regs off).getLsbD 0
  let x := groomOf t g
  let y := if was != now then atVector t.regs g x else x
  setGroom t g (if v.getLsbD 2 then { y with l1d := [] } else y)

/-- The effect of GROOM_RUN. -/
def doGroomRun (r : Requester) (g : Nat) (v : W32) (s : State) : State :=
  viaWrite r (pg .grm g + 0x100) (grmCtrlWrite r g v) s

/-- GROOM_RUN, a write of GRM_CTRL (R286). -/
def execGroomRun (r : Requester) (g : GroomId) (v : W32) (s : State) : Host.Outcome State Fault Refusal :=
  .next (doGroomRun r g v s)

/-- The effect of INV_D. -/
def doInvD (r : Requester) (g : Nat) (v : W32) (s : State) : State :=
  viaWrite r (pg .grm g + 0x100) (grmCtrlWrite r g v) s

/-- INV_D, a write of GRM_CTRL (R285). -/
def execInvD (r : Requester) (g : GroomId) (v : W32) (s : State) : Host.Outcome State Fault Refusal :=
  .next (doInvD r g v s)

/-! ### The watchdog -/

/-- GRM_WDOG.LIMIT_US. -/
def wdogLimit (m : SMap W32) (g : Nat) : Nat := rfld m (pg .grm g + 0x134) 0 20

/-- Picoseconds at which a groom's watchdog expires (R305, R426). -/
def wdogAt (s : State) (g : Nat) : Nat := (groomOf s g).since + (groomOf s g).extra + wdogLimit s.regs g * 1000000

/-- The watchdog of a groom counts: an item held, a limit set, the groom not halted by the debugger, its domain ON. -/
def wdogRuns (s : State) (g : Nat) : Bool :=
  (groomOf s g).item.isSome && !(groomOf s g).halted && wdogLimit s.regs g != 0 && domOn s.pwr (groomDom g)

/-- The effect of GROOM_WATCHDOG: the groom restarts at GRM_RESET_VEC, its item completes with FAIL = 1, and
INT_STATUS.WDOG is set (R305). -/
def doGroomWatchdog (g : Nat) (s : State) : State :=
  let t := endItem g true (passPs (wdogAt s g) s)
  raiseInt (setGroom t g (atVector t.regs g (groomOf t g))) (pg .grm g) 0

/-- GROOM_WATCHDOG (R305). -/
def execGroomWatchdog (g : GroomId) (s : State) : Host.Outcome State Fault Refusal :=
  when (wdogRuns s g && reaches s (wdogAt s g)) s (doGroomWatchdog g s)

/-! ### Checkpoint and restore -/

/-- A shed byte lies in an array-used bank (R200, R306). -/
def usedByte (m : SMap W32) (a : Nat) : Bool :=
  let w := a / 8
  (rget m (pg .shd (w / 2 ^ 17) + 0x128)).getLsbD (w % 2 ^ 17 / 2 ^ 15 * 8 + w % 2 ^ 15 / 4096)

/-- A DRAM byte lies in a memory model that the image uses (R220). -/
def modelByte (m : SMap W32) (a : Nat) : Bool :=
  (List.range 256).any fun k =>
    let sz := rget m (rkey 0xA12C k)
    sz.getLsbD 31 && decide (modelBase m k ≤ a) && decide (a < modelBase m k + 8 * 2 ^ fld sz 0 6)

/-- The gateway input sample of the next tick. -/
def nextSample (s : State) : BitVec 1024 := if s.tck.redo then s.pen.inCur else s.pen.inNext.getD s.pen.inCur

/-- The link receive positions latched for the next tick. -/
def nextRecv (s : State) : SMap Bool := if s.tck.redo then s.exe.recv else s.exe.staged

/-- The items of a record of the checkpoint service, at a place of the service's choice (R306). -/
def recordItems (s : State) : Ckpt :=
  { count := s.tck.count, ringPrev := s.arr.ringPrev, stCur := s.arr.stCur
    sheds := SMap.keep s.shed.mem (usedByte s.regs), dram := SMap.keep (dramNow s.dmc) (modelByte s.regs)
    sample := nextSample s, out := s.pen.out, lanes := s.pen.lanes, recv := nextRecv s
    place := Config.ckptPlace s.clk.free, bytes := [] }

/-- The record: its items and the bytes that the service makes of them (R306, log 11). -/
def record (s : State) : Ckpt := { recordItems s with bytes := Config.ckptBytes (recordItems s) s.clk.free }

/-- The first burst of a memory model that the controller cannot deliver: its stored check fails (R157, R216). -/
def badModel (s : State) : Option Nat :=
  (List.find? (fun e => modelByte s.regs (64 * e.1)) s.dmc.crcErr).map fun e => 64 * e.1

/-- Some channel has FAILED (R218). -/
def someFailed (s : State) : Bool := (List.range 4).any fun c => chanState s.regs c == 3

/-- The controller serves the checkpoint engine at once: it starts requests, none waits, and no channel has FAILED
(R218, R225, R507). -/
def ckptServed (s : State) : Bool := dmcStarts s && s.dmc.waiting.isEmpty && !someFailed s

/-- DRAM takes a record at an address (R219). -/
def takesRecord (s : State) (a n : Nat) : Bool := (burstsOf a n).all fun b => portStatus s true false b == 0

/-- The effect of CHECKPOINT: the record is written through port 7, and stands once every burst is taken; a DRAM read that
fails is reported to the service, which writes no record (R157, R212, R219, R306). -/
def doCheckpoint (s : State) : State :=
  let c := record s
  let t := { s with clk := { s.clk with free := s.clk.free + 1 } }
  match badModel s with
  | some a => burstNote a t
  | none =>
    let u := portWrites 7 c.place c.bytes t
    if takesRecord s c.place c.bytes.length then { u with ckpt := some c } else u

/-- CHECKPOINT, while HALTED (R306). -/
def execCheckpoint (s : State) : Host.Outcome State Fault Refusal :=
  when (s.tck.run == .halted && ckptServed s) s (doCheckpoint s)

/-- A memory with the bytes of a region, which a test tells, replaced by recorded ones. -/
def replaceBytes (m : List Host.Cell) (region : Nat → Bool) (new : List Host.Cell) : List Host.Cell :=
  new.foldl (fun m c => if region c.1 then Memory.putByte m c.1 c.2 else m) (SMap.keep m fun a => !region a)

/-- The bursts of the memory models that a restore writes: those that hold a byte before it or in the record. -/
def restoredBursts (m : SMap W32) (old new : List Host.Cell) : List Nat :=
  ((SMap.keep old (modelByte m) ++ SMap.keep new (modelByte m)).foldl
    (fun (l : SMap Bool) c => l.set (c.1 / 64 * 64) true) []).map fun e => e.1

/-- A restore's burst writes enter the retry buffers with their data (R217). -/
def noteBursts (l : List Nat) (s : State) : State :=
  l.foldl (fun s a => noteCmd a (some [(a, Memory.bytes s.dmc.mem a 64)]) s) s

/-- The state that a record restores (R307). The memory models' bursts are written whole, so that their checks pass from
then on (R216). -/
def restored (c : Ckpt) (s : State) : State :=
  noteBursts (restoredBursts s.regs (dramNow s.dmc) c.dram) (drainEnds { s with
      arr := { s.arr with
        stCur := c.stCur, stRet := c.stCur, stCurSyn := [], stRetSyn := []
        ringPrev := c.ringPrev, ringRet := c.ringPrev, ringPrevSyn := [], ringRetSyn := [] }
      shed := { s.shed with
        mem := replaceBytes s.shed.mem (usedByte s.regs) c.sheds
        syn := s.shed.syn.keep fun k => !usedByte s.regs (8 * k) }
      dmc := { s.dmc with
        mem := replaceBytes (dramNow s.dmc) (modelByte s.regs) c.dram, wq := []
        crcErr := s.dmc.crcErr.keep fun k => !modelByte s.regs (64 * k) }
      integ := { s.integ with undo := [], unlogged := [] }
      pen := { s.pen with inCur := c.sample, inNext := none, out := c.out, lanes := c.lanes }
      exe := { s.exe with recv := c.recv, staged := [] }
      tck := { s.tck with redo := true } })

/-- DRAM holds the record as it was written, and delivers it (R216, R306). -/
def recordHeld (s : State) : Bool :=
  match s.ckpt with
  | none => false
  | some c => Memory.bytes (dramNow s.dmc) c.place c.bytes.length == c.bytes && dramReads s c.place c.bytes.length

/-- The effect of RESTORE: the service reads its record, and restores it when it is delivered as it was written
(R216, R307). -/
def doRestore (s : State) : State :=
  match s.ckpt with
  | none => s
  | some c =>
    let t := readsNote c.place c.bytes.length s
    if recordHeld s then restored c t else t

/-- RESTORE of the record, while HALTED (R307). -/
def execRestore (s : State) : Host.Outcome State Fault Refusal :=
  when (s.tck.run == .halted && ckptServed s && s.ckpt.isSome) s (doRestore s)

end Sys2Proof.Machine
end

