-- ==== Sys2Proof/Machine/Halts.lean ====
section
/-!
DEFINITION. How a groom halts for the debugger (R421, R422, R424, R437, R439).
-/

namespace Sys2Proof.Machine

/-- Offset of a groom's DBG page. -/
def gPage (g : Nat) : Nat := pg .dbgGroom g

/-- Lines of an L1I: 64 KiB in lines of 64 bytes (R18, R285). -/
def l1iLines : Nat := 1024

/-- A groom halts with a cause (R421, R422): its architectural state is what it had come to (log 11); the HALT packet
follows its BRANCH bits, and its encoder is emptied (R437, R439). `pc`: where it stands, when the cause tells. -/
def haltGroom (g cause cmp : Nat) (pc : Option W64) (s : State) : State :=
  let x := groomOf s g
  let c := Config.haltCore s.clk.free
  let c := { c with pc := pc.getD c.pc, lr := none, l1i := c.l1i.take l1iLines }
  let y := { x with
    core := c, halted := true, cause := BitVec.ofNat 4 cause, cmp := BitVec.ofNat 3 cmp, haltAt := s.clk.ps, haltReq := none }
  let t := emitTrace g [trcHead 9 g, BitVec.ofNat 8 cause] (drawFree (setGroom s g y))
  raiseInt (flushAll g 64 t) (gPage g) 0

/-- A groom in state 1 or 2 halts at its next instruction boundary: at once, or, while it stalls in an instruction, when
that has retired (R421). -/
def haltSoon (g cause cmp : Nat) (s : State) : State :=
  let x := groomOf s g
  if x.stall.isSome then setGroom s g { x with haltReq := some (x.haltReq.getD (cause, cmp)) } else haltGroom g cause cmp none s

/-- Members of DBG_HALT_GROUP. -/
def haltMembers (m : SMap W32) : W32 := rget m 0x91BC

/-- The other members of the halt group halt with cause GROUP when a member halts (R424). -/
def haltOthers (g : Nat) (s : State) : State :=
  if (haltMembers s.regs).getLsbD g then
    (List.range 16).foldl (fun t k =>
      if k ≠ g && (haltMembers t.regs).getLsbD k && groomRuns t k then haltSoon k 6 0 t else t) s
  else s

/-- The grooms whose instruction has retired halt as requested, and their groups with them (R421, R424). `n`: how many
grooms are looked at, from 0 on. -/
def haltDue : Nat → State → State
  | 0, s => s
  | n + 1, s =>
    let t := haltDue n s
    match (groomOf t n).haltReq with
    | some (cause, cmp) => if (groomOf t n).stall.isNone ∧ groomRuns t n then haltOthers n (haltGroom n cause cmp none t) else t
    | none => t

/-- A groom halts, and its group with it. -/
def haltWith (g cause cmp : Nat) (pc : Option W64) (s : State) : State := haltOthers g (haltGroom g cause cmp pc s)

end Sys2Proof.Machine
end

