-- ==== Sys2Proof/Machine/Network.lean ====
section
/-!
DEFINITION. The network's rail cycles (R261 to R269, R276, R277, R280): credits return, packets in ejection queues reach
their units, packets at their destination stop enter the ejection queues, and every ring output chooses the packet it
sends.
-/

namespace Sys2Proof.Machine

/-! ### Where a packet goes next -/

/-- Stop of a queue. -/
def stopOf (key : Nat) : Nat := if key < 384 then key / 8 else if key < 1344 then (key - 384) / 20 else (key - 1344) / 5

/-- The queue is a ring's input buffer; an injection queue; an ejection queue. -/
def inRing (key : Nat) : Bool := decide (key < 384)
def inInject (key : Nat) : Bool := decide (384 ≤ key) && decide (key < 1344)
def inEject (key : Nat) : Bool := decide (1344 ≤ key)

/-- The ring of an input buffer, and its virtual channel. -/
def ringOf (key : Nat) : Nat := key / 2 % 4
def vcOf (key : Nat) : Bool := key % 2 == 1

/-- Number of a ring output (R268). -/
def outKey (stop ring : Nat) : Nat := 1584 + stop * 4 + ring

/-- The neighbouring stop on a ring (R258). -/
def nextStop (stop ring : Nat) : Nat :=
  let r := stop / 8
  let c := stop % 8
  if ring = 0 then r * 8 + (c + 1) % 8 else if ring = 1 then r * 8 + (c + 7) % 8
  else if ring = 2 then (r + 1) % 6 * 8 + c else (r + 5) % 6 * 8 + c

/-- The hop from a stop on a ring crosses the ring's dateline (R264). -/
def crossesAt (stop ring : Nat) : Bool :=
  if ring = 0 then stop % 8 == 7 else if ring = 1 then stop % 8 == 0 else if ring = 2 then stop / 8 == 5 else stop / 8 == 0

/-- The packet with the ring directions that its source stop chooses now, while it waits for its injection (R262,
R282). -/
def headed (m : SMap W32) (x : NetPkt) : NetPkt :=
  if inInject x.place then
    let p := dirPolicy m x.pkt.src.toNat x.pkt.cls.toNat
    { x with
      row := (leg p 8 (x.pkt.src.toNat % 8) (x.pkt.dst.toNat % 8)).2
      pkt := { x.pkt with cdir := (leg p 6 (x.pkt.src.toNat / 8) (x.pkt.dst.toNat / 8)).2, vc := false } }
  else x

/-- The ring that a packet takes from its stop, its row before its column; none at its destination (R261). -/
def wantsRing (x : NetPkt) : Option Nat :=
  let here := stopOf x.place
  let dst := x.pkt.dst.toNat
  if here = dst then none
  else if here % 8 ≠ dst % 8 then some (if x.row then 1 else 0)
  else some (if x.pkt.cdir then 3 else 2)

/-- The packet turns at its stop, from the row rail to the column rail (R261). -/
def turns (x : NetPkt) : Bool :=
  inRing x.place && decide (ringOf x.place < 2) && (match wantsRing x with | some r => decide (2 ≤ r) | none => false)

/-- The queue of the next hop: VC0 on entry to a ring, VC1 from its dateline on (R264). -/
def nextQueue (x : NetPkt) (ring : Nat) : Nat :=
  let here := stopOf x.place
  let same := inRing x.place && ringOf x.place == ring
  ringKey (nextStop here ring) ring ((same && vcOf x.place) || crossesAt here ring)

/-! ### Moving a packet -/

/-- The packets that may leave their queue in a cycle: the first of each ring's or injection queue, arrived, and no
earlier packet's flits leaving (R265). -/
def heads (m : SMap W32) (c : Nat) (r : Rls) : List NetPkt :=
  (r.net.filter fun x => !inEject x.place && decide (x.ready ≤ c) && decide (r.busy.get 0 x.place ≤ c)
    && ((r.net.find? fun y => y.place == x.place).map fun y => y.seq) == some x.seq).map (headed m)

/-- A packet moves from its queue to another in cycle `c`: the new queue's credits are taken, its own return, each 2
cycles after its flit leaves, and the flits leave on consecutive cycles (R263, R265). -/
def moveTo (c : Nat) (x : NetPkt) (key : Nat) (r : Rls) : Rls :=
  let n := flitsOf x.pkt
  let y := { x with place := key, ready := c + 2, tail := c + 1 + n, losses := 0 }
  let y := { y with ready := if turns y then c + 5 else c + 2, pkt := { y.pkt with vc := if inRing key then vcOf key else y.pkt.vc } }
  takeRoom key n { r with
    net := (r.net.filter fun z => z.seq != x.seq) ++ [y]
    back := r.back ++ (List.range n).map fun i => (x.place, c + i + 2)
    busy := r.busy.put 0 x.place (c + n) }

/-- The regulator allows a waiting packet to start; one on a ring has started (R278). -/
def startOk (m : SMap W32) (c : Nat) (r : Rls) (x : NetPkt) : Bool :=
  !inInject x.place || allowed m r c x.pkt.src.toNat x.pkt.cls.toNat (flitsOf x.pkt)

/-- A packet that leaves its injection queue: counted, its tokens taken, TICK16 written, its port used (R270, R278). -/
def startPkt (m : SMap W32) (tick : BitVec 16) (c : Nat) (x : NetPkt) (r : Rls) : Rls × NetPkt :=
  if inInject x.place then
    (usePort c x.pkt.src.toNat (srcPort x.pkt) (started m c x.pkt.src.toNat x.pkt.cls.toNat (flitsOf x.pkt) r),
      { x with pkt := { x.pkt with tick16 := tick } })
  else (r, x)

/-! ### Ejection -/

/-- The order in which packets that arrive in one cycle enter an ejection queue: column ring before row ring, positive
before negative, VC1 before VC0, then the stop's own delivery (R269). -/
def ejectRank (key : Nat) : Nat :=
  if inRing key then (if 2 ≤ ringOf key then 0 else 4) + ringOf key % 2 * 2 + (1 - key % 2) else 8

/-- A packet fits whole into its ejection queue: a response into the room reserved for it, any other beside what is
reserved (R266, R276). -/
def ejectFits (r : Rls) (x : NetPkt) : Bool :=
  if isResp x.op then hasRoom r (goQueue x.pkt) (flitsOf x.pkt) else freeRoom r (goQueue x.pkt) (flitsOf x.pkt)

/-- A packet at its destination stop enters the ejection queue when it fits; a response's reservation ends (R266,
R276). -/
def tryEject (m : SMap W32) (tick : BitVec 16) (c : Nat) (r : Rls) (x : NetPkt) : Rls :=
  if ejectFits r x && startOk m c r x then
    let p := startPkt m tick c x r
    let q := if isResp x.op then reserve x.op x.pkt p.1 else p.1
    moveTo c p.2 (goQueue x.pkt) q
  else r

/-- Every packet that can enter an ejection queue does, responses first (R269, R276). -/
def ejectAll (m : SMap W32) (tick : BitVec 16) (c : Nat) (r : Rls) : Rls :=
  ([true, false].flatMap fun b => (List.range 9).map fun k => (b, k)).foldl (fun r e =>
    ((heads m c r).filter fun x => wantsRing x == none && isResp x.op == e.1 && ejectRank x.place == e.2).foldl
      (tryEject m tick c) r) r

/-! ### Ring outputs -/

/-- The packet turns or is injected: its losses count (R269). -/
def counted (x : NetPkt) : Bool := turns x || inInject x.place

/-- Place of a candidate in the order of R268: through traffic VC1 before VC0, turning traffic VC1 before VC0, injection
by class. -/
def outRank (x : NetPkt) : Nat :=
  if inInject x.place then 4 + x.pkt.cls.toNat else (if turns x then 2 else 0) + (if vcOf x.place then 0 else 1)

/-- Of several candidates the first in order, and of one place the first in the network (R268). -/
def firstOf (l : List NetPkt) : Option NetPkt :=
  l.foldl (fun o x => match o with
    | none => some x
    | some y => if outRank x < outRank y then some x else some y) none

/-- RLS_STARVE.LIMIT of a stop. -/
def starveLimit (m : SMap W32) (stop : Nat) : Nat := rfld m (pg .rls stop + 0x118) 0 11

/-- The packet that starts on a ring output in a cycle: of the candidates with the credits they need whose regulator
allows them, a starved one before the others (R268, R269). -/
def winner (m : SMap W32) (stop : Nat) (ok : List NetPkt) : Option NetPkt :=
  let starved := ok.filter fun x => counted x && decide (starveLimit m stop ≤ x.losses)
  firstOf (if starved = [] then ok else starved)

/-- The candidates after a cycle: a turning or injecting one that could have started and did not has lost once more, any
other begins anew (R269). -/
def addLosses (cs lost : List NetPkt) (r : Rls) : Rls :=
  { r with net := r.net.map fun x =>
      if lost.any (fun y => y.seq == x.seq) then { x with losses := x.losses + 1 }
      else if cs.any (fun y => y.seq == x.seq) then { x with losses := 0 } else x }

/-- Packets that waited only for tokens in a cycle are counted at their class (RLS_THROTTLED). -/
def addThrottled (l : List NetPkt) (r : Rls) : Rls :=
  { r with thr := l.foldl (fun m x =>
      let k := x.pkt.src.toNat * 4 + x.pkt.cls.toNat
      m.put 0 k (satAdd (2 ^ 32 - 1) (m.get 0 k) 1)) r.thr }

/-- One cycle of a ring output (R268, R269). -/
def serveOut (m : SMap W32) (tick : BitVec 16) (c stop ring : Nat) (r : Rls) : Rls :=
  let cs := (heads m c r).filter fun x => stopOf x.place == stop && wantsRing x == some ring
  let fit := cs.filter fun x => hasRoom r (nextQueue x ring) (flitsOf x.pkt)
  let ok := fit.filter (startOk m c r)
  let free := decide (r.busy.get 0 (outKey stop ring) ≤ c)
  let win := if free then winner m stop ok else none
  let lost := ok.filter fun x => counted x && (win.map fun y => y.seq) != some x.seq
  let r := addLosses cs lost r
  match win with
  | none => if free then addThrottled (fit.filter fun x => !startOk m c r x) r else r
  | some x =>
    let p := startPkt m tick c x r
    let q := moveTo c p.2 (nextQueue x ring) p.1
    { q with busy := q.busy.put 0 (outKey stop ring) (c + flitsOf x.pkt) }

/-- The outputs that a packet may start on. -/
def outputsOf (l : List NetPkt) : List (Nat × Nat) :=
  (l.filterMap fun x => (wantsRing x).map fun ring => (stopOf x.place, ring)).eraseDups

/-- One cycle of every ring output. -/
def serveAll (m : SMap W32) (tick : BitVec 16) (c : Nat) (r : Rls) : Rls :=
  (outputsOf (heads m c r)).foldl (fun r o => serveOut m tick c o.1 o.2 r) r

/-! ### Units -/

/-- The domain that a packet's unit needs ON; none where the stop itself answers or discards it (R275, R280). -/
def needsDomain (s : State) (p : Pkt) : Option Nat :=
  if p.dunit = 0 then
    (if barnStop (adBarn p.addr) = p.dst.toNat ∧ adBarn p.addr < 96 ∧ s.sec.otp.barns.getLsbD (adBarn p.addr) then
      some (adBarn p.addr / 6) else none)
  else if p.dunit = 0x04 ∧ p.dst = 19 then some (chanDomain s p)
  else unitDomain p.dst.toNat p.dunit.toNat

/-- The unit can take the packet. -/
def unitReady (s : State) (p : Pkt) : Bool :=
  match needsDomain s p with
  | some d => domOn s.pwr d
  | none => true

/-- A packet of any opcode reaches its unit. -/
def netDeliver (op : Byte) (p : Pkt) (s : State) : State := if op = opDone then doneDeliver p s else deliverPkt op p s

/-- Of the completions that reached the yardmaster in the same rail cycle as one, that of the lowest groom (R295). -/
def firstDone (l : List NetPkt) (x : NetPkt) : NetPkt :=
  (l.filter fun y => y.op == opDone && y.place == x.place && y.ready == x.ready).foldl (fun a y =>
    if fld y.pkt.addr 0 4 < fld a.pkt.addr 0 4 then y else a) x

/-- The packet that leaves its ejection queue next: responses first, then in order of arrival, completions that arrived
together in order of their groom (R276, R277, R295). -/
def nextDelivery (c : Nat) (s : State) : Option NetPkt :=
  let l := s.rls.net.filter fun x => inEject x.place && decide (x.ready ≤ c) && unitReady s x.pkt && !bridgeFull s x.op x.pkt
    && !trcHeld s x.op x.pkt
  (l.find? fun x => isResp x.op).or (l.head?.map fun x => if x.op = opDone then firstDone l x else x)

/-- A packet leaves its ejection queue for its unit. -/
def ejectOne (c : Nat) (x : NetPkt) (s : State) : State :=
  netDeliver x.op x.pkt { s with rls := usePort c x.pkt.dst.toNat (dstPort x.pkt) { s.rls with
    net := s.rls.net.filter fun y => y.seq != x.seq
    held := s.rls.held.put 0 x.place (s.rls.held.get 0 x.place - flitsOf x.pkt) } }

/-- The packets of the ejection queues whose units can take them do; at most `n`. -/
def deliverDue (c : Nat) : Nat → State → State
  | 0, s => s
  | n + 1, s => match nextDelivery c s with
    | none => s
    | some x => deliverDue c n (ejectOne c x s)

/-- The packet stands at its destination stop. -/
def atStop (c : Nat) (x : NetPkt) : Bool :=
  !inInject x.place && stopOf x.place == x.pkt.dst.toNat && decide (x.ready ≤ c)

/-- A packet that begins to wait for a wake triggers it, and is counted once (R280). -/
def noteWait (x : NetPkt) (s : State) : State :=
  match needsDomain s x.pkt with
  | none => s
  | some d =>
    let t := waitWake x.pkt.dst.toNat (cancelClose d s)
    { t with
      rls := { t.rls with net := t.rls.net.map fun y => if y.seq = x.seq then { y with noted := true } else y }
      pwr := { t.pwr with waking := t.pwr.waking ||| BitVec.ofNat 32 (2 ^ d) } }

/-- Every packet that begins to wait for a wake (R280). -/
def noteWaits (c : Nat) (s : State) : State :=
  (s.rls.net.filter fun x => atStop c x && !x.noted && !unitReady s x.pkt).foldl (fun s x => noteWait x s) s

/-! ### Units that send on their own -/

/-- A packet that a unit keeps for want of credits: a request, or one of the paddock (R266). -/
def keptByUnit (op : Byte) (p : Pkt) : Bool := !isResp op && ((respOf op).isSome || p.sunit == 0x03)

/-- Packets that a unit could not give to its endpoint for want of credits are given now (R266). -/
def retryFly (s : State) : State :=
  match s.rls.fly.find? fun e => keptByUnit e.1 e.2 && canSend s.rls e.1 e.2 with
  | some (op, p) => launch op (respOf op) p (netDeliver op) (takeFly op p s)
  | none => s

/-! ### The cycle -/

/-- Credits whose time has come return (R265). -/
def returnCredits (c : Nat) (r : Rls) : Rls :=
  { r with
    held := (r.back.filter fun e => decide (e.2 ≤ c)).foldl (fun h e => h.put 0 e.1 (h.get 0 e.1 - 1)) r.held
    back := r.back.filter fun e => decide (c < e.2) }

/-- One rail cycle of the network. -/
def netCycle (c : Nat) (s : State) : State :=
  let a := { s with rls := resetCredits c (returnCredits c s.rls) }
  let b := noteWaits c (deliverDue c a.rls.net.length a)
  { b with rls := { serveAll b.regs (tick16 b) c (ejectAll b.regs (tick16 b) c b.rls) with cycle := c } }

/-- The rail cycles since the network was last run, at most `n`. -/
def netCycles : Nat → State → State
  | 0, s => s
  | n + 1, s => if netIdle s.rls then s else netCycles n (netCycle (s.rls.cycle + 1) s)

/-- The network up to now; then units give their endpoints what waited for credits, ordered packets of oldest items among
it, and grooms that stalled no more halt as requested (R266, R299, R421). -/
def runNet (s : State) : State :=
  haltDue 16 (releaseAll (streamAll 0 16 (retryFly (netCycles (railCycle s.clk.ps - s.rls.cycle) s))))

end Sys2Proof.Machine
end

