-- ==== Sys2Proof/Machine/Paddock.lean ====
section
/-!
DEFINITION. The paddock (R308 to R331): its frames, clock trees, queue controllers and gateways as the block's commands
see them; Machine/Fabric.lean has what its cells do in an idle period. The rows GATEWAY_CAPTURE, RCLK_SWITCH,
RCLK_ABANDON, QUEUE_WRITE, QUEUE_READ, QRST and FFRESET. No command is an edge of the target's clocks (log 25).
-/

namespace Sys2Proof.Machine

/-! ### Frames -/

/-- Key of a frame: its address without FORMAT (R314). -/
def frameKey (kind region index : Nat) : Nat := kind * 2 ^ 24 + region * 2 ^ 21 + index

/-- A field of a frame's bytes; an absent frame has every bit 0 (R314). -/
def frameFld (f : List Byte) (lo len : Nat) : Nat := bytesNat f / 2 ^ lo % 2 ^ len

/-- The bytes of a configured frame. -/
def frameOf (s : State) (kind region index : Nat) : List Byte := s.pdk.frames.get [] (frameKey kind region index)

/-- RVA and RVB of the cells of a cluster frame, from cell `t` on, as flip-flop entries (R310). -/
def rvOf (f : List Byte) (base : Nat) : List (Nat × Bool) :=
  (List.range 32).map fun k => (base + k, frameFld f (1024 + 16 * (k / 2) + 8 + k % 2) 1 == 1)

/-- The flip-flops held in reset, each at its RVA or RVB value (R323). -/
def ffReset (frames : SMap (List Byte)) : SMap Bool :=
  ((frames.filter fun e => decide (e.1 < 2 ^ 24)).map fun e => (e.2, e.1 / 2 ^ 21 * 1536 + e.1 % 2 ^ 21)).foldl
    (fun m c => SMap.putAll false m (rvOf c.1 (c.2 * 32))) []

/-- The paddock as before DONE: every ball high-impedance with its pull-down, every flip-flop at its reset value
(R323). -/
def beforeDone (p : Pdk) : Pdk := { p with held := BitVec.allOnes 8, ff := ffReset p.frames }

/-- A region has left the state before DONE (R323, R330). -/
def regionFree (s : State) (region : Nat) : Bool := !s.pdk.held.getLsbD region

/-! ### Clock trees -/

/-- Source code of a global tree: bits [5:0] of its clock frame (R317). -/
def globalSrc (s : State) (k : Nat) : Nat := frameFld (frameOf s 4 0 (k + 1)) 0 6

/-- Key of PDK_RCLK of a region. -/
def rclkKey (region : Nat) : Nat := rkey 0x611C region

/-- A regional tree. -/
def rtreeOf (p : Pdk) (region : Nat) : RTree := p.rtree.get {} region

/-- The source code in use on a regional tree: in a switch the old source until it has stopped, then none (R318,
R319). -/
def regionalSrc (s : State) (region : Nat) : Nat :=
  let w := rget s.regs (rclkKey region)
  let t := rtreeOf s.pdk region
  if 2 ≤ t.stage then 0 else if (if t.stage = 1 then t.sel else w.getLsbD 29) then fld w 5 5 else fld w 0 5

/-- A clock chosen by a cluster clock code has a source: 1 to 16 a global tree, 17 the regional tree (R312, R317,
R318). -/
def clocked (s : State) (region code : Nat) : Bool :=
  if code = 0 ∨ 17 < code then false
  else if code ≤ 16 then globalSrc s (code - 1) != 0
  else
    let c := regionalSrc s region
    c != 0 && (decide (c < 5) || globalSrc s (c - 5) != 0)

/-- The fabric works: its domain is ON, so that the clock trees run (R330). -/
def fabricOn (s : State) : Bool := domOn s.pwr 26

/-! ### GATEWAY_CAPTURE -/

/-- The effect of GATEWAY_CAPTURE: the region's 128 wires enter its staging register together (R326). -/
def doGatewayCapture (region : Nat) (wires : BitVec 128) (s : State) : State :=
  { s with pen := { s.pen with
      staging := setFld s.pen.staging (128 * region) 128 wires.toNat
      capt := s.pen.capt ||| BitVec.ofNat 8 (2 ^ region) } }

/-- GATEWAY_CAPTURE (R326): an edge of the region's commit clock after DONE. -/
def execGatewayCapture (region : Fin 8) (wires : BitVec 128) (s : State) : Host.Outcome State Fault Refusal :=
  when (fabricOn s && regionFree s region && clocked s region (frameFld (frameOf s 5 region 0) 0 5)) s
    (doGatewayCapture region wires s)

/-! ### Regional clock switch -/

/-- A write of PDK_RCLK: STOPPED, SEL and DIV of the region shown. A new SEL begins a switch, and BUSY reads 1 until
the edges of both sources complete it; while one is in progress SEL names the source it ends with (R319). -/
def rclkWrite (r : Requester) (v : W32) (s : State) : State :=
  let region := (rget s.regs 0x6118).toNat
  let k := rclkKey region
  let t := (fieldWrite (clampSrc r) 0 0x611C v s).1
  let x := rtreeOf t.pdk region
  if (rget s.regs k).getLsbD 29 == (rget t.regs k).getLsbD 29 ∨ x.stage ≠ 0 then t
  else { t with
    regs := rset t.regs k 31 1 1
    pdk := { t.pdk with rtree := t.pdk.rtree.put {} region { x with stage := 1, sel := (rget s.regs k).getLsbD 29 } } }

/-- The effect of RCLK_SWITCH. -/
def doRclkSwitch (r : Requester) (v : W32) (s : State) : State := viaWrite r 0x611C (rclkWrite r v) s

/-- RCLK_SWITCH, a write of PDK_RCLK (R319). -/
def execRclkSwitch (r : Requester) (v : W32) (s : State) : Host.Outcome State Fault Refusal := .next (doRclkSwitch r v s)

/-- The effect of RCLK_ABANDON: the old source showed no edge for 1 µs; STOPPED and INT_STATUS.RCLK_STOPPED (R319). -/
def doRclkAbandon (region : Nat) (s : State) : State :=
  raiseInt { s with
    regs := rset s.regs (rclkKey region) 30 1 1
    pdk := { s.pdk with
      rtree := s.pdk.rtree.put {} region { rtreeOf s.pdk region with stage := 2, phase := 0, out := false } } } 0x6000 2

/-- RCLK_ABANDON, once for a switch in progress (R319). -/
def execRclkAbandon (region : Fin 8) (s : State) : Host.Outcome State Fault Refusal :=
  when (fabricOn s && (rget s.regs (rclkKey region)).getLsbD 31 && (rtreeOf s.pdk region).stage == 1) s
    (doRclkAbandon region s)

/-! ### Queue controllers -/

/-- A memory block's configuration frame (R320). -/
def blkFrame (s : State) (b : Nat) : List Byte := frameOf s 1 (b / 12) (b % 12)

/-- Depth of a memory block (R320). -/
def blkDepth (f : List Byte) : Nat := [4608, 2304, 1152, 576].getD (frameFld f 0 2) 0
/-- Width of a memory block (R320). -/
def blkWidth (f : List Byte) : Nat := [8, 16, 32, 64].getD (frameFld f 0 2) 0
/-- A memory block is in queue mode (R320). -/
def queueMode (f : List Byte) : Bool := frameFld f 2 1 == 1
/-- The write and read clocks are the same (R321). -/
def sameClk (f : List Byte) : Bool := frameFld f 3 5 == frameFld f 8 5

/-- A block's queue controller. -/
def queueOf (s : State) (b : Nat) : Queue := s.pdk.queues.get {} b
/-- The state with a queue controller replaced and a free value drawn. -/
def setQueue (s : State) (b : Nat) (q : Queue) : State :=
  { s with pdk := { s.pdk with queues := s.pdk.queues.put {} b q }, clk := { s.clk with free := s.clk.free + 1 } }

/-- FULL as the write side sees it: set while the condition holds, and possibly for some edges more (R321). -/
def qFull (free : W64) (f : List Byte) (q : Queue) : Bool :=
  decide (blkDepth f ≤ q.items.length) || (q.fullLag != 0 && free.getLsbD 0)
/-- EMPTY as the read side sees it (R321). -/
def qEmpty (free : W64) (q : Queue) : Bool := q.items.isEmpty || (q.emptyLag != 0 && free.getLsbD 1)

/-- Almost-full and almost-empty thresholds (R320). -/
def qAf (f : List Byte) : Nat := frameFld f 13 13
def qAe (f : List Byte) : Nat := frameFld f 26 13

/-- AF and AE as their sides see them (R321). -/
def qAlmostFull (free : W64) (f : List Byte) (q : Queue) : Bool :=
  decide (qAf f ≤ q.items.length) || (q.afLag != 0 && free.getLsbD 4)
def qAlmostEmpty (free : W64) (f : List Byte) (q : Queue) : Bool :=
  decide (q.items.length ≤ qAe f) || (q.aeLag != 0 && free.getLsbD 5)

/-- Entries as the read side sees them: those written in the last 3 edges may not be visible yet (R321). -/
def qCount (free : W64) (q : Queue) : Nat :=
  if q.emptyLag = 0 ∧ q.aeLag = 0 then q.items.length else fld free 16 16 % (q.items.length + 1)

/-- The write side still ignores accesses after QRST (R321). -/
def qHeldW (free : W64) (q : Queue) : Bool := q.rstW != 0 && free.getLsbD 2
/-- The read side still ignores accesses after QRST (R321). -/
def qHeldR (free : W64) (q : Queue) : Bool := q.rstR != 0 && free.getLsbD 3

/-- The queue controller after a write: ignored with OVF while FULL (R321). -/
def qWrite (free : W64) (f : List Byte) (w : W64) (q : Queue) : Queue :=
  if qHeldW free q then { q with rstW := q.rstW - 1 }
  else if qFull free f q then { q with ovf := true, fullLag := q.fullLag - 1, afLag := q.afLag - 1, rstW := 0 }
  else { q with
    items := q.items ++ [BitVec.ofNat 64 (w.toNat % 2 ^ blkWidth f)], fullLag := 0, afLag := q.afLag - 1, rstW := 0
    emptyLag := if q.items.isEmpty && !sameClk f then 3 else q.emptyLag
    aeLag := if q.items.length ≤ qAe f ∧ !sameClk f then 3 else q.aeLag }

/-- The queue controller after a read: the output unchanged and UNF set while EMPTY (R321). -/
def qRead (free : W64) (f : List Byte) (q : Queue) : Queue :=
  if qHeldR free q then { q with rstR := q.rstR - 1 }
  else match qEmpty free q, q.items with
    | false, w :: rest =>
      { q with
        items := rest, outp := w, emptyLag := 0, aeLag := q.aeLag - 1, rstR := 0
        fullLag := if blkDepth f ≤ q.items.length ∧ !sameClk f then 3 else q.fullLag
        afLag := if qAf f ≤ q.items.length ∧ !sameClk f then 3 else q.afLag }
    | _, _ => { q with unf := true, emptyLag := q.emptyLag - 1, aeLag := q.aeLag - 1, rstR := 0 }

/-- An access of a queue controller happens: its block is in queue mode and its clock runs (R320, R321, R330). `lo`: the
place of the clock's code in the frame. -/
def qLive (s : State) (b lo : Nat) : Bool :=
  fabricOn s && regionFree s (b / 12) && queueMode (blkFrame s b) && clocked s (b / 12) (frameFld (blkFrame s b) lo 5)

/-- The effect of QUEUE_WRITE. -/
def doQueueWrite (b : Nat) (w : W64) (s : State) : State :=
  let q := queueOf s b
  let free := Config.freeWord s.clk.free
  raiseIf (!qHeldW free q && qFull free (blkFrame s b) q) (setQueue s b (qWrite free (blkFrame s b) w q)) 0x6000 1

/-- QUEUE_WRITE (R321). -/
def execQueueWrite (b : Fin 96) (w : W64) (s : State) : Host.Outcome State Fault Refusal :=
  when (qLive s b 3) s (doQueueWrite b w s)

/-- The effect of QUEUE_READ. -/
def doQueueRead (b : Nat) (s : State) : State :=
  let q := queueOf s b
  let free := Config.freeWord s.clk.free
  raiseIf (!qHeldR free q && qEmpty free q) (setQueue s b (qRead free (blkFrame s b) q)) 0x6000 1

/-- QUEUE_READ (R321). -/
def execQueueRead (b : Fin 96) (s : State) : Host.Outcome State Fault Refusal := when (qLive s b 8) s (doQueueRead b s)

/-- The effect of QRST: both pointers are cleared; each side ignores accesses until its third edge (R321). -/
def doQrst (b : Nat) (s : State) : State :=
  let q := queueOf s b
  setQueue s b { q with items := [], fullLag := 0, emptyLag := 0, afLag := 0, aeLag := 0, rstW := 2, rstR := 2 }

/-- QRST of a block in queue mode (R321). -/
def execQrst (b : Fin 96) (s : State) : Host.Outcome State Fault Refusal :=
  when (fabricOn s && regionFree s (b / 12) && queueMode (blkFrame s b)) s (doQrst b s)

/-! ### FFRESET -/

/-- The flip-flops after PDK_CTRL.FFRESET takes a value: held at their reset values while it is 1 (R323). -/
def ffHeld (s : State) : State :=
  if (rget s.regs 0x6100).getLsbD 0 then { s with pdk := { s.pdk with ff := ffReset s.pdk.frames } } else s

/-- A write of PDK_CTRL (R323). -/
def pdkCtrlWrite (r : Requester) (v : W32) (s : State) : State := ffHeld (fieldWrite (clampSrc r) 0 0x6100 v s).1

/-- The effect of FFRESET. -/
def doFfreset (r : Requester) (v : W32) (s : State) : State := viaWrite r 0x6100 (pdkCtrlWrite r v) s

/-- FFRESET, a write of PDK_CTRL (R323). -/
def execFfreset (r : Requester) (v : W32) (s : State) : Host.Outcome State Fault Refusal := .next (doFfreset r v s)

end Sys2Proof.Machine
end

