-- ==== Sys2Proof/Machine/Image.lean ====
section
/-!
DEFINITION. Image files as the boot ROM and the loader read them: headers (R338 to R340), the contract section (R130,
R131), segments (R341 to R343), frame records (R344, R345, R508), paddock frames (R312 to R325, R331), instruction
counts (R132, R171) and placements (R121 to R123, R348). Pure functions of the bytes read.
-/

namespace Sys2Proof.Machine

/-! ### Bytes -/

/-- `n` bytes of a file from an offset on. -/
def slice (l : List Byte) (off n : Nat) : List Byte := (l.drop off).take n

/-- The little-endian number in `n` bytes at an offset (R8). -/
def num (l : List Byte) (off n : Nat) : Nat := bytesNat (slice l off n)

/-- `n` bytes at an offset are all 0. -/
def zeroAt (l : List Byte) (off n : Nat) : Bool := (slice l off n).all (· == 0)

/-- The entries of `k` bytes of a payload. -/
def entries (k : Nat) (l : List Byte) : List Nat := (List.range (l.length / k)).map fun i => num l (k * i) k

/-! ### Failures -/

/-- Why an image, a partial image or a batch is refused: its report, the fault code and detail of reports that have
one, the virtual coordinates it names, LDR_REPORT_ADDR, and PDK_LOAD_ERR_INFO's cause and offset (R350). -/
structure LoadErr where
  report : Nat
  code   : Nat := 0
  detail : Nat := 0
  at_    : Option (Nat × Nat × Nat) := none
  addr   : Nat := 0
  pdk    : Option (Nat × Nat) := none
deriving DecidableEq, Repr

/-- Reports of the table Load reports (R350). -/
def repOk : Nat := 0x00
def repState : Nat := 0x01
def repSignature : Nat := 0x02
def repDecrypt : Nat := 0x03
def repHeader : Nat := 0x04
def repCount : Nat := 0x05
def repLatency : Nat := 0x06
def repGrid : Nat := 0x07
def repPlacement : Nat := 0x08
def repBudget : Nat := 0x09
def repModel : Nat := 0x0A
def repFrame : Nat := 0x0B
def repMux : Nat := 0x0C
def repFence : Nat := 0x0D
def repCtree : Nat := 0x0E
def repModelLat : Nat := 0x0F
def repLinkBud : Nat := 0x10
def repPeer : Nat := 0x11
def repPatchState : Nat := 0x12
def repPatchRange : Nat := 0x13
def repSource : Nat := 0x14
def repAborted : Nat := 0x15

/-- SIGNATURE with its cause (R350). -/
def sigErr (cause : Nat) : LoadErr := { report := repSignature, code := 0x42, detail := cause * 2 ^ 24 }
/-- DECRYPT with its cause and segment (R350). -/
def decErr (cause i : Nat) : LoadErr := { report := repDecrypt, code := 0x43, detail := cause * 2 ^ 24 + i % 2 ^ 16 }
/-- A report without a fault code. -/
def plainErr (r : Nat) : LoadErr := { report := r }

/-- A check of a sequence: the first that fails decides (R347). -/
def guardE (ok : Bool) (e : LoadErr) : Except LoadErr Unit := if ok then .ok () else .error e

/-! ### Headers -/

/-- MODELS byte of a model (R338). -/
def modelLog (h : List Byte) (m : Nat) : Nat := num h (0x260 + m) 1

/-- The fields that a KIND does not use are 0, and those it uses lie in their ranges (R338, R339). -/
def kindFields (kind : Nat) (h : List Byte) : Bool :=
  if kind = 1 then
    decide (num h 0x40 4 ≤ 64) && zeroAt h 0x70 13 && zeroAt h 0x80 384
      && decide (num h 0x200 8 < 4194304) && num h 0x210 8 == num h 0x10 8
      && zeroAt h 0x260 256 && zeroAt h 0x360 64
  else
    num h 0x40 4 == 0 && zeroAt h 0x200 88 && (if kind = 2 then
      zeroAt h 0x70 13 && zeroAt h 0x360 64
        && (List.range 256).all fun m => modelLog h m == 0 || (decide (10 ≤ modelLog h m) && decide (modelLog h m ≤ 32))
    else zeroAt h 0x260 256)

/-- A well-formed header of the KIND its consumer requires (R339). -/
def headerFormed (kind : Nat) (h : List Byte) : Bool :=
  num h 0 4 == 0x4D49504F && num h 4 2 == 1 && num h 6 1 == kind && decide (num h 7 1 ≤ 1) && num h 8 4 != 0
    && decide (num h 0xC 4 ≤ 1) && zeroAt h 0x18 8 && zeroAt h 0x44 12 && zeroAt h 0x7D 3 && zeroAt h 0x258 8
    && zeroAt h 0x3A0 32 && kindFields kind h

/-- PUBKEY of a header. -/
def pubKey (h : List Byte) : BitVec 256 := BitVec.ofNat 256 (num h 0x50 32)

/-- SIGNATURE verifies over SHA-512 of header bytes 0x000 to 0x3BF (R340). -/
def signed (h : List Byte) : Bool :=
  Config.verify (pubKey h) (Config.sha512 (h.take 0x3C0)) (BitVec.ofNat 512 (num h 0x3C0 64))

/-- A programmed, unrevoked key-hash slot equals SHA-512 of PUBKEY (R333, R340). A slot of zeros is unprogrammed
(log 27). -/
def keyOk (slot : BitVec 512) (revoked : Bool) (h : List Byte) : Bool :=
  slot != 0 && !revoked && Config.sha512 (slice h 0x50 32) == slot

/-- The design key-hash slot that KEYSLOT names holds the signer's key. -/
def designKey (o : Otp) (h : List Byte) : Bool :=
  if num h 0xC 4 = 0 then keyOk o.dsKey0 (o.dsRev.getLsbD 0) h else keyOk o.dsKey1 (o.dsRev.getLsbD 1) h

/-! ### The contract section -/

/-- DEPTH, LATTAB, OPMODE, CHIP, CTREE, CALLS, MWRS, VUSED, MULTI and PATCH_OK (R130). -/
def hDepth (h : List Byte) : Nat := num h 0x82 2
def hLattab (h : List Byte) : Nat := num h 0x84 1
def hOpmode (h : List Byte) : Nat := num h 0x85 1
def hMulti (h : List Byte) : Bool := (num h 0x86 1).testBit 0
def hPatchOk (h : List Byte) : Bool := (num h 0x86 1).testBit 1
def hChip (h : List Byte) : Nat := num h 0x87 1
def hCtree (h : List Byte) : Nat := num h 0x88 2
def hCalls (h : List Byte) : Nat := num h 0x8A 2
def hMwrs (h : List Byte) : Nat := num h 0x8C 2
def hUsed (h : List Byte) (v : Nat) : Bool := decide (v < 96) && (num h 0x90 12).testBit v

/-- Link entry of a virtual link (R130). -/
def linkEntry (h : List Byte) (i : Nat) : BitVec 32 := BitVec.ofNat 32 (num h (0xA0 + 4 * i) 4)
/-- VALID of a link entry: the image declares the link. -/
def linkValid (h : List Byte) (i : Nat) : Bool := decide (i < 24) && (linkEntry h i).getLsbD 31
/-- Barn entry of a virtual barn (R130). -/
def barnEntry (h : List Byte) (v : Nat) : Nat := num h (0x100 + 2 * v) 2
/-- BUDGET of a virtual barn. -/
def hBudget (h : List Byte) (v : Nat) : Nat := barnEntry h v % 4096
/-- FOURSTATE of a virtual barn. -/
def hFour (h : List Byte) (v : Nat) : Bool := (barnEntry h v).testBit 15
/-- The virtual barns the image uses, ascending. -/
def usedBarns (h : List Byte) : List Nat := (List.range 96).filter (hUsed h)
/-- The virtual links the image declares, ascending. -/
def usedLinks (h : List Byte) : List Nat := (List.range 24).filter (linkValid h)

/-- Activity cap per barn and step of an operating mode (R136). -/
def modeCap (mode : Nat) : Nat := if mode = 0 then 1536 else 1152

/-- A link entry in range (R130, R131). -/
def linkOk (h : List Byte) (i : Nat) : Bool :=
  let e := linkEntry h i
  fld e 11 7 == 0 && (!e.getLsbD 31 || (fld e 0 11 != 0 && decide (fld e 0 11 ≤ 1040) && fld e 23 8 != hChip h
    && decide (fld e 18 5 ≤ 23)))

/-- A barn entry in range (R131). -/
def barnOk (h : List Byte) (v : Nat) : Bool :=
  barnEntry h v / 4096 % 8 == 0 && (if hUsed h v then decide (hBudget h v ≤ modeCap (hOpmode h)) else barnEntry h v == 0)

/-- The contract section in range (R131, R74). The range of CTREE is the one R130 gives (log 28). -/
def contractOk (h : List Byte) : Bool :=
  num h 0x80 2 == 1 && decide (64 ≤ hDepth h) && decide (hDepth h ≤ 1024) && hDepth h % 16 == 0
    && decide (hOpmode h ≤ 2) && decide (num h 0x86 1 < 4) && zeroAt h 0x8E 2 && zeroAt h 0x9C 4
    && (List.range 24).all (linkOk h) && (List.range 96).all (barnOk h)
    && (if hMulti h then decide (1 ≤ hCtree h) && decide (hCtree h ≤ 1040) && usedLinks h != []
        else hChip h == 0 && hCtree h == 0 && usedLinks h == [])
    && decide (hCalls h ≤ 16384) && decide (hMwrs h ≤ 16384)

/-- Latency table IDs a stepping accepts, bit n for ID n (R140, R144). -/
def latAccepted (stepping : Byte) : Nat := if stepping = 0xA1 then 0x02 else 0x06

/-- LATENCY_MISMATCH with its detail (R140, R144). -/
def latErr (stepping : Byte) (h : List Byte) : LoadErr :=
  { report := repLatency, code := 0x0C, detail := latAccepted stepping * 2 ^ 8 + hLattab h }

/-- The declared latency table is accepted (R140). -/
def latOk (stepping : Byte) (h : List Byte) : Bool :=
  decide (hLattab h < 3) && (latAccepted stepping).testBit (hLattab h)

/-- The largest BUDGET of a used barn (R137). -/
def maxBudget (h : List Byte) : Nat := (usedBarns h).foldl (fun n v => Nat.max n (hBudget h v)) 0

/-! ### Placement -/

/-- What the 160-byte placement descriptor must satisfy by itself (R348). -/
def descrOk (d : List Byte) : Bool :=
  decide (num d 0 1 ≤ 2) && decide (num d 1 1 ≤ 1) && zeroAt d 2 14 && zeroAt d 0x7C 4 && zeroAt d 0x98 8
    && (num d 0 1 != 1 || (slice d 0x10 96).all fun b => decide (b.toNat ≤ 95) || b == 0xFF)
    && (num d 1 1 != 1 || (slice d 0x80 24).all fun b => decide (b.toNat ≤ 23) || b == 0xFF)

/-- The enabled physical barns of a quadrant that a mask does not exclude, ascending. -/
def openBarns (barns excl : BitVec 96) (q : Nat) : List Nat :=
  (List.range 24).filterMap fun i => if barns.getLsbD (24 * q + i) && !excl.getLsbD (24 * q + i) then some (24 * q + i) else none

/-- The default placement, with a mask: in each quadrant the used virtual barns onto the enabled physical ones, both
ascending (R122, R123). -/
def placeDefault (barns excl : BitVec 96) (h : List Byte) : List (Nat × Nat) :=
  (List.range 4).flatMap fun q => ((usedBarns h).filter fun v => v / 24 == q).zip (openBarns barns excl q)

/-- The explicit placement. -/
def placeExplicit (d h : List Byte) : List (Nat × Nat) := (usedBarns h).map fun v => (v, num d (0x10 + v) 1)

/-- An explicit placement is legal: enabled barns, one to one, quadrants kept whole and apart (R123). -/
def explicitOk (barns : BitVec 96) (l : List (Nat × Nat)) : Bool :=
  l.all (fun e => decide (e.2 < 96) && barns.getLsbD e.2)
    && l.all fun a => l.all fun b => (a.1 == b.1) == (a.2 == b.2) && (a.1 / 24 == b.1 / 24) == (a.2 / 24 == b.2 / 24)

/-- Some virtual quadrant uses more barns than its physical quadrant can take (R4). -/
def gridFails (barns excl : BitVec 96) (h : List Byte) : Bool :=
  (List.range 4).any fun q => decide ((openBarns barns excl q).length < ((usedBarns h).filter fun v => v / 24 == q).length)

/-- The placement of an image under a descriptor, if any; the checks 7 and 8 of the table Check order. -/
def placement (barns : BitVec 96) (d : Option (List Byte)) (h : List Byte) : Except LoadErr (List (Nat × Nat)) :=
  match d with
  | none => if gridFails barns 0 h then .error (plainErr repGrid) else .ok (placeDefault barns 0 h)
  | some d =>
    if !descrOk d then .error (plainErr repPlacement)
    else if num d 0 1 = 1 then
      if explicitOk barns (placeExplicit d h) then .ok (placeExplicit d h) else .error (plainErr repPlacement)
    else
      let excl := if num d 0 1 = 2 then BitVec.ofNat 96 (num d 0x70 12) else 0
      if gridFails barns excl h then .error (plainErr repGrid) else .ok (placeDefault barns excl h)

/-- The physical barn of a virtual one in a placement. -/
def physIn (pl : List (Nat × Nat)) (v : Nat) : Option Nat := (pl.find? fun e => e.1 == v).map fun e => e.2

/-! ### Memory models -/

/-- The golden region: its base and its size in KiB (R174, R349). -/
def goldenStart : Nat := 0x10000000
def goldenKib : Nat := 1277952
/-- First byte after the golden region, where the models begin (R220, R349). -/
def modelStart : Nat := 0x5E000000
/-- The shadow region of a DRAM size: its top 1 GiB (R349). -/
def shadowStart (size : Nat) : Nat := size - 2 ^ 30

/-- The models of an image with their bases, ascending (R220). -/
def modelsFrom (h : List Byte) (base : Nat) : List Nat → List (Nat × Nat)
  | [] => []
  | m :: ms =>
    if modelLog h m = 0 then modelsFrom h base ms
    else (m, base) :: modelsFrom h (base + 8 * 2 ^ modelLog h m) ms

/-- `modelsFrom` for all 256 models. -/
def modelList (h : List Byte) : List (Nat × Nat) := modelsFrom h modelStart (List.range 256)

/-- The first model that does not fit below the shadow region (R220, R349). -/
def modelMisfit (size : Nat) (h : List Byte) : Option Nat :=
  ((modelList h).find? fun e => decide (shadowStart size < e.2 + 8 * 2 ^ modelLog h e.1)).map fun e => e.1

/-! ### Paddock frames -/

/-- The first failing field of a list of (offset, cause, fails). -/
def firstBad (l : List (Nat × Nat × Bool)) : Option (Nat × Nat) := (l.find? fun e => e.2.2).map fun e => (e.2.1, e.1)

/-- A wire whose place a target I/O input or a gateway signal takes: its sending multiplexer must hold code 0 (R325).
`w`: the leaving wire of the cluster at (region, row, col). -/
def replacedWire (region row col w : Nat) : Bool :=
  (col == 0 && region != 0 && w == 24 && row % 3 == 0 && decide (row / 3 < 40))
    || (col == 11 && region != 7 && (w == 1 || ((w == 2 || w == 3) && row == 0)))

/-- Field checks of a cluster frame in the order of their offsets (R310 to R313, R325). -/
def clusterBad (region row col : Nat) (f : List Byte) : Option (Nat × Nat) :=
  let n := bytesNat f
  let g (lo w : Nat) : Nat := n / 2 ^ lo % 2 ^ w
  let cell (t : Nat) : List (Nat × Nat × Bool) :=
    let o := 1024 + 16 * t
    let wide := g (o + 11) 2
    [(o, 4, g o 2 == 3), (o + 2, 4, g (o + 2) 2 == 3),
     (o + 11, 3, wide == 3 || (wide == 1 && t % 4 != 3) || (wide == 2 && t % 8 != 7) || (wide != 0 && g (o + 10) 1 == 1)),
     (o + 13, 1, g (o + 13) 3 != 0)]
  let codes (lo w k top : Nat) : List (Nat × Nat × Bool) :=
    (List.range k).map fun i => (lo + w * i, 0, decide (top < g (lo + w * i) w))
  let wires : List (Nat × Nat × Bool) := (List.range 48).map fun i =>
    let c := g (2522 + 7 * i) 7
    (2522 + 7 * i, if 64 < c then 0 else 6, decide (64 < c) || (replacedWire region row col i && c != 0))
  firstBad ((List.range 16).flatMap cell ++ codes 1280 5 2 17 ++ codes 1290 7 144 96 ++ codes 2298 7 32 64 ++ wires
    ++ codes 2858 10 2 (if col = 0 then 768 else 0) ++ [(2878, 1, decide (2 ^ 2878 ≤ n))])

/-- Field checks of the other frames (R317, R318, R320, R322, R324). -/
def smallBad (kind index : Nat) (f : List Byte) : Option (Nat × Nat) :=
  let g (lo w : Nat) : Nat := frameFld f lo w
  if kind = 1 then
    firstBad [(3, 0, decide (17 < g 3 5)), (8, 0, decide (17 < g 8 5)),
      (13, 4, g 13 13 == 0 || decide (blkDepth f < g 13 13)), (26, 4, decide (blkDepth f ≤ g 26 13)), (40, 1, g 40 88 != 0)]
  else if kind = 3 then
    firstBad [(2, 4, g 2 2 == 3), (6, 4, g 6 2 == 3), (8, 0, decide (17 < g 8 5)), (13, 1, g 13 51 != 0)]
  else if kind = 4 then
    if index = 0 then firstBad [(0, 0, decide (20 < g 0 5)), (5, 0, decide (20 < g 5 5))]
    else firstBad [(0, 0, decide (41 < g 0 6))]
  else if kind = 5 then firstBad [(0, 0, decide (17 < g 0 5)), (5, 0, decide (17 < g 5 5)), (12, 1, g 12 52 != 0)]
  else none

/-- FORMAT, KIND, REGION and INDEX of a frame address (R314). -/
def fFormat (a : Nat) : Nat := a / 2 ^ 28
def fKind (a : Nat) : Nat := a / 2 ^ 24 % 16
def fRegion (a : Nat) : Nat := a / 2 ^ 21 % 8
def fIndex (a : Nat) : Nat := a % 2 ^ 21

/-- A legal frame address (R314, R331). -/
def frameAddrOk (a : Nat) : Bool :=
  let old := fFormat a == 1
  (old || fFormat a == 2) && (match fKind a with
    | 0 => decide (fIndex a < if old then 768 else 1536)
    | 1 => decide (fIndex a < if old then 8 else 12)
    | 2 => decide (fIndex a < if old then 8 else 12)
    | 3 => decide (fIndex a < 40)
    | 4 => fIndex a == 0 || (!old && decide (fIndex a ≤ 16) && fRegion a == 0)
    | 5 => fIndex a == 0
    | _ => false)

/-- Length of a frame in bytes (R314). -/
def frameLen (kind : Nat) : Nat := [512, 16, 4608, 8, 8, 8].getD kind 0

/-- A paddock frame's first failing check: cause and bit offset (R315). `fmt`: FORMAT of the image's earlier frames. -/
def frameBad (fmt : Option Nat) (a : Nat) (f : List Byte) : Option (Nat × Nat) :=
  if !frameAddrOk a then some (2, 0)
  else if fmt.any (· != fFormat a) then some (5, 0)
  else if f.length ≠ frameLen (fKind a) then some (4, 0)
  else if fKind a = 0 then clusterBad (fRegion a) (fIndex a / 12) (fIndex a % 12) f
  else smallBad (fKind a) (fIndex a) f

/-! ### Frame records -/

/-- A frame record (R344). -/
structure Rec where
  type   : Nat
  vbarn  : Nat
  stall  : Nat
  proc   : Nat
  index  : Nat
  paddr  : Nat
  data   : List Byte
deriving DecidableEq, Repr

/-- The first record of a stream and the rest, once the stream holds it whole. -/
def takeRec (l : List Byte) : Option (Rec × List Byte) :=
  let len := num l 8 4
  let whole := 16 + (len + 7) / 8 * 8
  if l.length < 16 ∨ l.length < whole then none
  else some (⟨num l 0 1, num l 1 1, num l 2 1, num l 3 1, num l 4 4, num l 12 4, slice l 16 len⟩, l.drop whole)

/-- First 4 bytes of a record's header. -/
def Rec.head (r : Rec) : Nat := r.type + r.vbarn * 2 ^ 8 + r.stall * 2 ^ 16 + r.proc * 2 ^ 24

/-- What the records are checked against: the header whose contract is in force, the MODELS of the full image, and the
region of a partial image: RBARNS and RPDK. -/
structure Ctx where
  hdr    : List Byte
  models : List Byte
  region : Option (BitVec 96 × BitVec 8)
deriving DecidableEq, Repr

/-- A receive-track source entry that R110 admits. -/
def srcOk (h : List Byte) (e : Nat) : Bool := e / 64 % 4 == 0 && (!e.testBit 15 || hUsed h (e / 256 % 128))

/-- A link slot map entry that R113 admits. -/
def slotOk (h : List Byte) (e : Nat) : Bool :=
  let kind := e / 2 ^ 14
  e / 2 ^ 12 % 4 == 0 && (kind != 1 || (decide (e % 128 ≤ 79) && linkValid h (e / 128 % 32)))
    && (kind != 2 || e / 2 ^ 10 % 16 == 0)

/-- A receive-map position that R118 admits, of 24 bits. -/
def rmapOk (h : List Byte) (e : Nat) : Bool :=
  let kind := e / 2 ^ 22
  decide (kind < 3) && (kind != 1 || e / 2 ^ 10 % 2 ^ 12 == 0)
    && (kind != 2 || (linkValid h (e / 2 ^ 17 % 32) && decide (e / 2 ^ 7 % 2 ^ 10 < hDepth h) && decide (e % 128 ≤ 79)))

/-- A shed bank declaration that R508 admits. -/
def declOk (d : List Byte) : Bool :=
  (List.range 4).all fun n =>
    let o := num d (4 + n) 1
    if (num d 0 4).testBit (8 * n + 7) then
      decide (o ≤ 3) || (decide (0x10 ≤ o) && decide (o ≤ 0x1F))
    else o == 0

/-- A record of a type other than 0x10 in range (R345, R22, R110, R113, R118, R508). -/
def recOk (h : List Byte) (r : Rec) : Bool :=
  let n := r.data.length
  let noProc := r.stall == 0 && r.proc == 0
  let inStall := decide (r.stall < 32) && decide (r.proc < 48)
  hUsed h r.vbarn && r.paddr == 0 && (match r.type with
    | 1 => inStall && n % 8 == 0 && decide (r.index + n / 8 ≤ 1024)
        && (entries 8 r.data).zipIdx.all fun e => decide (r.index + e.2 < hDepth h) || e.1 == 0
    | 2 => noProc && n % 2 == 0 && decide (r.index + n / 2 ≤ 4096)
    | 3 => noProc && n % 16 == 0 && decide (r.index + n / 16 ≤ 1024)
    | 4 => noProc && n % 2 == 0 && decide (r.index + n / 2 ≤ 64) && (entries 2 r.data).all (srcOk h)
    | 5 => noProc && n % 2 == 0 && decide (r.index + n / 2 ≤ 4096) && (entries 2 r.data).all (slotOk h)
    | 6 => inStall && n % 4 == 0 && decide (r.index + n / 4 ≤ 64)
        && (entries 4 r.data).all fun e => decide (e < 2 ^ 24) && rmapOk h e
    | 7 => inStall && r.index == 0 && n == 32
    | 8 => r.stall == 0 && decide (r.proc < 4) && n % 8 == 0 && decide (r.index + n / 8 ≤ 32768)
    | 9 => noProc && r.index == 0 && n == 8 && declOk r.data
    | _ => false)

/-- A record lies in the region of a partial image (R354). -/
def recInside (c : Ctx) (r : Rec) : Bool :=
  match c.region with
  | none => true
  | some (b, p) =>
    if r.type = 0x10 then p.getLsbD (fRegion r.paddr) && !(fKind r.paddr == 4 && fIndex r.paddr != 0)
    else decide (r.vbarn < 96) && b.getLsbD r.vbarn

/-- The first model that a port descriptor of a record names and the image does not use (R220). -/
def recModel (c : Ctx) (r : Rec) : Option Nat :=
  if r.type = 3 then
    ((entries 16 r.data).map fun e => Desc.of (BitVec.ofNat 128 e)).findSome? fun d =>
      if d.kind = 2 ∧ modelLog c.models d.model = 0 then some d.model else none
  else none

/-- REGION_FENCE of a record (R350, R354). -/
def fenceErr (n : Nat) (r : Rec) : LoadErr :=
  { report := repFence, code := 0x40, detail := n % 2 ^ 28
    at_ := if r.type = 0x10 then none else some (r.vbarn, r.stall, r.proc)
    addr := if r.type = 0x10 then r.paddr else r.head }

/-- The failure of record `n` of the stream, if it has one (R345, R315, R354, R220). -/
def recErr (c : Ctx) (fmt : Option Nat) (n : Nat) (r : Rec) : Option LoadErr :=
  if r.type = 0x10 then
    let bad := if r.vbarn = 0 ∧ r.stall = 0 ∧ r.proc = 0 ∧ r.index = 0 then frameBad fmt r.paddr r.data else some (1, 0)
    match bad with
    | some p => some { report := repMux, code := 0x41, detail := n % 2 ^ 28, addr := r.paddr, pdk := some p }
    | none => if recInside c r then none else some (fenceErr n r)
  else if !recOk c.hdr r then some { report := repFrame, addr := r.head }
  else if !recInside c r then some (fenceErr n r)
  else (recModel c r).map fun m => { report := repModel, addr := m }

/-! ### Segments -/

/-- What has been read of an image's stream: the bytes after the last whole record, the records, the stream, the FORMAT
of its paddock frames, and the segments' tags. -/
structure Reading where
  rest   : List Byte := []
  recs   : List Rec := []
  stream : List Byte := []
  fmt    : Option Nat := none
  tags   : List (List Byte) := []
deriving DecidableEq, Repr

/-- Checks the records that a segment completes, in stream order. `k`: at most so many. -/
def readRecs (c : Ctx) : Nat → Reading → Except LoadErr Reading
  | 0, x => .ok x
  | k + 1, x =>
    match takeRec x.rest with
    | none => .ok x
    | some (r, rest) =>
      match recErr c x.fmt x.recs.length r with
      | some e => .error e
      | none => readRecs c k { x with
          rest := rest, recs := x.recs ++ [r]
          fmt := if r.type = 0x10 then x.fmt.or (some (fFormat r.paddr)) else x.fmt }

/-- A segment's plaintext body, when its tag verifies (R342). `i`: its INDEX. -/
def openBody (enc : Bool) (key : BitVec 256) (i : Nat) (head body tag : List Byte) : Option (List Byte) :=
  if enc then Config.gcmOpen key (BitVec.ofNat 96 i) head body (BitVec.ofNat 128 (bytesNat tag))
  else if bytesNat tag = (Config.sha512 (head ++ body)).toNat % 2 ^ 128 then some body else none

/-- Segment `i` of `n` at the front of a source: its payload, the next key and the rest (R341 to R343). -/
def segment (enc : Bool) (key : BitVec 256) (i n : Nat) (src : List Byte) :
    Except LoadErr (List Byte × BitVec 256 × List Byte) :=
  let len := num src 4 4
  let last := (num src 8 1).testBit 0
  if src.length < 32 then .error (plainErr repSource)
  else if num src 0 4 ≠ i ∨ last ≠ (i + 1 == n) ∨ len < 32 ∨ 4194304 < len then .error (decErr 1 i)
  else if src.length < 48 + len then .error (plainErr repSource)
  else match openBody enc key i (src.take 32) (slice src 32 len) (slice src (32 + len) 16) with
    | none => .error (decErr 0 i)
    | some b =>
      if last && !zeroAt b 0 32 then .error (decErr 3 i)
      else .ok (b.drop 32, BitVec.ofNat 256 (num b 0 32), src.drop (48 + len))

/-- The 16-byte tag of the segment at the front of a source (R341). -/
def segTag (src : List Byte) : List Byte := slice src (32 + num src 4 4) 16

/-- Reads the segments `i` to `n` − 1 of a source; the stream of a partial image is at most 1 GiB (R343, R347, R353).
`k`: how many are left. -/
def segments (c : Ctx) (enc : Bool) (n : Nat) : Nat → Nat → BitVec 256 → List Byte → Reading → Except LoadErr Reading
  | 0, _, _, _, x => .ok x
  | k + 1, i, key, src, x =>
    match segment enc key i n src with
    | .error e => .error e
    | .ok (p, key', src') =>
      match readRecs c (x.rest.length + p.length) 
          { x with rest := x.rest ++ p, stream := x.stream ++ p, tags := x.tags ++ [segTag src] } with
      | .error e => .error e
      | .ok y =>
        if c.region.isSome && decide (2 ^ 30 < y.stream.length) then .error (plainErr repFrame)
        else segments c enc n k (i + 1) key' src' y

/-- K0 of an encrypted image: the first 32 bytes of HMAC-SHA-512 under the root key over NONCE (R342). -/
def firstKey (root : BitVec 256) (h : List Byte) : BitVec 256 := (Config.hmacSha512 root (slice h 0x20 32)).setWidth 256

/-- An image may be read: an encrypted one needs the root key, a plain design image needs REQUIRE_ENC = 0 (R343). A key
of zeros is unprogrammed (log 27). -/
def encOk (o : Otp) (h : List Byte) : Bool :=
  if num h 7 1 = 1 then o.rootKey != 0 else !o.config.getLsbD 0 || num h 6 1 == 1

/-- The records of an image: every segment and record in order (check 10). A stream that ends within a record is out of
range. -/
def readImage (c : Ctx) (o : Otp) (src : List Byte) : Except LoadErr Reading :=
  let h := src.take 1024
  if !encOk o h then .error (decErr 2 0)
  else match segments c (num h 7 1 == 1) (num h 8 4) (Nat.min (num h 8 4) src.length) 0 (firstKey o.rootKey h) (src.drop 1024) {} with
    | .error e => .error e
    | .ok x => if x.rest = [] then .ok x else .error { report := repFrame, addr := num x.rest 0 4 }

/-! ### Contents and counts -/

/-- The instruction words that records write: virtual processor × 1,024 + slot. -/
def imgWords (l : List Rec) : List (Nat × W64) :=
  (l.filter fun r => r.type == 1).flatMap fun r =>
    (entries 8 r.data).zipIdx.map fun e =>
      (((r.vbarn * 1536 + r.stall * 48 + r.proc) * 1024) + r.index + e.2, BitVec.ofNat 64 e.1)

/-- The port descriptors that records write: virtual barn × 4,096 + index. -/
def imgDescs (l : List Rec) : List (Nat × W128) :=
  (l.filter fun r => r.type == 3).flatMap fun r =>
    (entries 16 r.data).zipIdx.map fun e => (r.vbarn * 4096 + r.index + e.2, BitVec.ofNat 128 e.1)

/-- The descriptor that an MWR names, with its key's barn; nothing for other words. -/
def mwrDesc (descs : SMap W128) (e : Nat × W64) : Option Desc :=
  if opClass e.2 = .mwr then some (Desc.of (descs.get 0 (e.1 / 1572864 * 4096 + fnOf e.2 % 1024))) else none

/-- A word is a CALL or a CHECK. -/
def isCall (w : W64) : Bool := opClass w == .call || opClass w == .check

/-- CALL and CHECK, and memory-model MWR, instructions of the words of virtual barn `v` (R74, R132). -/
def countsOf (words : SMap W64) (descs : SMap W128) (v : Nat) : Nat × Nat :=
  let l := words.filter fun e => e.1 / 1572864 == v
  ((l.filter fun e => isCall e.2).length, (l.filter fun e => (mwrDesc descs e).any fun d => d.kind == 2).length)

/-- `countsOf` for every virtual barn that has any. -/
def countMap (words : SMap W64) (descs : SMap W128) : SMap (Nat × Nat) :=
  (List.range 96).foldl (fun m v => m.put (0, 0) v (countsOf words descs v)) []

/-- The totals of a count map. -/
def totals (m : SMap (Nat × Nat)) : Nat × Nat := m.foldl (fun a e => (a.1 + e.2.1, a.2 + e.2.2)) (0, 0)

/-- The largest number of MWR instructions to one shed (R171). -/
def undoMax (words : SMap W64) (descs : SMap W128) : Nat :=
  let m := words.foldl (fun (m : SMap Nat) e => match mwrDesc descs e with
    | some d => if d.kind = 1 then SMap.put 0 m (e.1 / 1572864 * 4 + d.shed) (SMap.get 0 m (e.1 / 1572864 * 4 + d.shed) + 1)
        else m
    | none => m) []
  m.foldl (fun n e => Nat.max n e.2) 0

end Sys2Proof.Machine
end

