-- ==== Sys2Proof/Machine/Line.lean ====
section
/-!
DEFINITION. The line frame of the serial links (R230 to R235): header, scrambling, stuffing, CRC-32, fill, and the PRBS
patterns (R254).
-/

namespace Sys2Proof.Machine

/-- Bits of a word, highest first. -/
def bitsDown {n : Nat} (w : BitVec n) : List Bool := (List.range n).reverse.map fun i => w.getLsbD i

/-- Bits of a word, lowest first. -/
def bitsUp {n : Nat} (w : BitVec n) : List Bool := (List.range n).map fun i => w.getLsbD i

/-- The 32-bit header (R231). -/
def laneHeader (f : LaneFrame) : BitVec 32 :=
  f.marker ++ f.seq ++ BitVec.ofBool f.hold ++ f.vote ++ f.type ++ f.aux

/-- One bit of the CRC-32 register, polynomial 0x04C1_1DB7 (R234). -/
def crcBit (c : BitVec 32) (b : Bool) : BitVec 32 := if c.getLsbD 31 != b then (c <<< 1) ^^^ 0x04C11DB7 else c <<< 1

/-- The CRC field of a lane frame: over header and payload in line order, complemented (R234). -/
def laneCrc (f : LaneFrame) : BitVec 32 :=
  ~~~((bitsDown (laneHeader f) ++ bitsUp f.payload).foldl crcBit 0xFFFFFFFF)

/-- The marker of every frame (R231). -/
def lineMarker : BitVec 10 := 0b1100111010

/-- Bits of a line frame in line order, before scrambling: header, payload, CRC (R230). -/
def laneBits (f : LaneFrame) : List Bool := bitsDown (laneHeader f) ++ bitsUp f.payload ++ bitsDown f.crc

/-! ### Scrambling -/

/-- The scrambler's register at the first scrambled bit of a frame (R232). -/
def scrInit (lane : Nat) (seq : BitVec 8) : BitVec 23 := BitVec.ofNat 2 lane ++ seq ++ 0x1A5B#13

/-- The keystream added to bits, from a register on; it is its own inverse (R232). -/
def scramble : BitVec 23 → List Bool → List Bool
  | _, [] => []
  | x, d :: ds =>
    let b := x.getLsbD 22 != x.getLsbD 17
    (d != b) :: scramble (x.extractLsb' 0 22 ++ BitVec.ofBool b) ds

/-- A frame's bits as scrambled: MARKER and SEQ stay in clear (R232). -/
def scrambleFrame (lane : Nat) (f : LaneFrame) : List Bool :=
  (laneBits f).take 18 ++ scramble (scrInit lane f.seq) ((laneBits f).drop 18)

/-! ### Stuffing -/

/-- Inserts after 31 identical frame bits one of the opposite value; the count restarts with the next frame bit
(R233). `last`, `n`: the value of the run so far and its length. -/
def stuff : Bool → Nat → List Bool → List Bool
  | _, _, [] => []
  | last, n, b :: bs =>
    let m := if b = last then n + 1 else 1
    if m = 31 then b :: (!b) :: stuff b 0 bs else b :: stuff b m bs

/-- The first `k` frame bits of a line, stuff bits removed, and whether every stuff bit was inverted (R233, R235). -/
def unstuff : Nat → Bool → Nat → List Bool → List Bool × Bool
  | 0, _, _, _ => ([], true)
  | _ + 1, _, _, [] => ([], false)
  | k + 1, last, n, b :: bs =>
    let m := if b = last then n + 1 else 1
    if m = 31 then match bs with
      | [] => ([b], false)
      | c :: cs => (b :: (unstuff k b 0 cs).1, (c != b) && (unstuff k b 0 cs).2)
    else (b :: (unstuff k b m bs).1, (unstuff k b m bs).2)

/-- UI of a line frame (R229). -/
def lineUi : Nat := 1056

/-- Alternating fill, beginning with the inverse of the last bit sent (R233). -/
def fillBits : Nat → Bool → List Bool
  | 0, _ => []
  | n + 1, last => (!last) :: fillBits n (!last)

/-- The line bits of a lane frame (R230 to R233). -/
def lineBits (lane : Nat) (f : LaneFrame) : List Bool :=
  let l := stuff false 0 (scrambleFrame lane f)
  l ++ fillBits (lineUi - l.length) (l.getLastD false)

/-! ### Receiving -/

/-- The word of bits listed highest first. -/
def ofDown (n : Nat) (l : List Bool) : BitVec n := BitVec.ofNat n (l.foldl (fun x b => 2 * x + b.toNat) 0)

/-- The word of bits listed lowest first. -/
def ofUp (n : Nat) (l : List Bool) : BitVec n := ofDown n l.reverse

/-- The lane frame of unscrambled frame bits. -/
def laneOf (ok : Bool) (l : List Bool) : LaneFrame :=
  let h : BitVec 32 := ofDown 32 (l.take 32)
  { marker := h.extractLsb' 22 10, seq := h.extractLsb' 14 8, hold := h.getLsbD 13, vote := h.extractLsb' 11 2
    type := h.extractLsb' 7 4, aux := h.extractLsb' 0 7
    payload := ofUp 960 ((l.drop 32).take 960), crc := ofDown 32 ((l.drop 992).take 32), stuffOk := ok }

/-- The lane frame that a receiver reads from a lane's line bits, from the first marker bit on: stuff bits removed,
then the transmitter's scrambler applied again (R230 to R233). -/
def readLane (lane : Nat) (line : List Bool) : LaneFrame :=
  let r := unstuff 1024 false 0 line
  let seq : BitVec 8 := ofDown 8 ((r.1.drop 10).take 8)
  laneOf r.2 (r.1.take 18 ++ scramble (scrInit lane seq) (r.1.drop 18))

/-- A lane's line bits after the receiver's polarity (R228). -/
def polarity (inv : Bool) (l : List Bool) : List Bool := l.map fun b => b != inv

/-! ### PRBS patterns -/

/-- Taps of the patterns PRBS7, PRBS9, PRBS15, PRBS23 and PRBS31 (R254). -/
def prbsTaps (pattern : Nat) : Nat × Nat := [(7, 6), (9, 5), (15, 14), (23, 18), (31, 28)].getD pattern (31, 28)

/-- The next bits of a pattern, with the generator after them. -/
def prbsBits (pattern : Nat) : Nat → BitVec 31 → List Bool × BitVec 31
  | 0, x => ([], x)
  | n + 1, x =>
    let t := prbsTaps pattern
    let b := x.getLsbD (t.1 - 1) != x.getLsbD (t.2 - 1)
    let r := prbsBits pattern n (x.extractLsb' 0 30 ++ BitVec.ofBool b)
    (b :: r.1, r.2)

/-- A lane's PRBS checker: the bits that it predicts the next one from, the error-free bits in a row, 64 once it is
locked, and the errors counted (R254). -/
structure Prbs where
  next   : BitVec 31
  good   : Nat
  errors : Nat
deriving DecidableEq, Repr

/-- The bits received compared with a pattern: out of lock the checker follows the line, in lock its own prediction
(R254, log 140). -/
def prbsCheck (pattern : Nat) : Prbs → List Bool → Prbs
  | c, [] => c
  | c, b :: bs =>
    let t := prbsTaps pattern
    let p := c.next.getLsbD (t.1 - 1) != c.next.getLsbD (t.2 - 1)
    let d : Prbs := if 64 ≤ c.good then ⟨c.next.extractLsb' 0 30 ++ BitVec.ofBool p, 64, c.errors + (b != p).toNat⟩
      else ⟨c.next.extractLsb' 0 30 ++ BitVec.ofBool b, if b = p then c.good + 1 else 0, 0⟩
    prbsCheck pattern d bs

/-! ### Injection -/

/-- Line bits with every bit in a window inverted (R254). -/
def invertBits (from_ n : Nat) (l : List Bool) : List Bool :=
  l.zipIdx.map fun e => if from_ ≤ e.2 && e.2 < from_ + n then !e.1 else e.1

/-- Line bits with one in every `period` inverted, `count` having passed since the last. -/
def invertRate (period count : Nat) (l : List Bool) : List Bool :=
  l.zipIdx.map fun e => if (count + e.2 + 1) % period = 0 then !e.1 else e.1

end Sys2Proof.Machine
end

