-- ==== Sys2Proof/Machine/Links.lean ====
section
/-!
DEFINITION. The serial links (R228 to R254): the rows FRAME_TX, RUN_FRAME, RUN_HALT, CMD_FRAME, MARK, RESEND, PEER,
IDLE_FRAME, LATE_GROUP, LNK_SLIP, RECAL, RECAL_DONE, LNK_MEAS, LNK_PAD, LNK_PERIOD_ADJ, INJ_GO and PRBS_CHECK.
-/

namespace Sys2Proof.Machine

/-! ### A link's registers -/

/-- LNK_CTRL.MODE: 0 OFF, 1 FRAME, 2 PRBS. -/
def linkMode (m : SMap W32) (j : Nat) : Nat := rfld m (pg .lnk j + 0x100) 0 2

/-- LNK_STATUS of a link. -/
def lnkStat (j : Nat) : Nat := pg .lnk j + 0x104

/-- The link carries a virtual link of the loaded image. -/
def linkActive (m : SMap W32) (j : Nat) : Bool := (rget m (pg .lnk j + 0x124)).getLsbD 31

/-- Domain of a link. -/
def linkDom (j : Nat) : Nat := 16 + j / 6

/-- A LNK page's INT_STATUS takes bit `k`; an enabled bit newly set submits the link-management binding (R288). -/
def raiseLnk (j k : Nat) (s : State) : State :=
  let page := pg .lnk j
  let new := !(rget s.regs (page + 0x018)).getLsbD k && (rget s.regs (page + 0x01C)).getLsbD k
  let t := raiseInt s page k
  hwSubmit (new && (rget s.regs 0x5128).getLsbD 31) (rfld s.regs 0x5128 16 12) (BitVec.ofNat 64 (j + 2 ^ (32 + k))) t

/-- `raiseLnk` when a condition holds. -/
def raiseLnkIf (c : Bool) (j k : Nat) (s : State) : State := if c then raiseLnk j k s else s

/-- A link out of lock: LOCKED and LANE_LOCK 0, and the lanes' counts afresh. -/
def unlock (j : Nat) (s : State) : State :=
  { s with
    regs := rset (rset s.regs (lnkStat j) 31 1 0) (lnkStat j) 24 4 0
    lnk := setLink s.lnk j { linkOf s.lnk j with pass := [0, 0, 0, 0], fail := [0, 0, 0, 0] } }

/-! ### Steps and periods -/

/-- The tick and the number of its steps that the system's arrays had completed by a generator period (R237): every
chip delivers the same steps in the same periods (R88). -/
def stepsAt (s : State) (g : Nat) : Nat × Nat :=
  let d := s.tck.depth
  let before := if s.tck.tick = 0 then (0, 0) else (s.tck.tick - 1, Nat.min d (d + 16 - (s.tck.resumeGen - g)))
  if s.tck.inTick then
    if s.tck.resumeGen ≤ g then
      let n := s.tck.resumeStep + (g - s.tck.resumeGen)
      let n := match s.tck.freeze with
        | some f => Nat.min n f.step
        | none => n
      (s.tck.tick, Nat.min n d)
    else if s.tck.resumeStep ≠ 0 then (s.tck.tick, s.tck.resumeStep)
    else before
  else if s.tck.redo then (s.tck.tick, 0)
  else before

/-- Ticks, from tick 0 on, whose W8 lay at or before a generator period (R238). -/
def trailersAt (s : State) (g : Nat) : Nat :=
  if s.tck.resumeStep ≠ 0 ∨ s.tck.resumeGen ≤ g + 8 then s.tck.tick else s.tck.tick - 1

/-- Groups due between two points of the schedule of `d` steps: tick and step, in step order, at most 48 (R237). -/
def groupsDue (d : Nat) (fro dest : Nat × Nat) : List (Nat × Nat) :=
  let l := if fro.1 = dest.1 then (List.range (dest.2 - fro.2)).map fun i => (fro.1, fro.2 + i)
    else if fro.1 < dest.1 then
      ((List.range (d - fro.2)).map fun i => (fro.1, fro.2 + i)) ++ (List.range dest.2).map fun i => (dest.1, i)
    else []
  l.take 48

/-- The point after the groups listed, from a point on. -/
def afterGroups (d : Nat) (fro : Nat × Nat) (l : List (Nat × Nat)) : Nat × Nat :=
  match l.getLast? with
  | none => fro
  | some g => if g.2 + 1 = d then (g.1 + 1, 0) else (g.1, g.2 + 1)

/-! ### Frames sent -/

/-- The 80 bits of a slot across the four lanes (R237). -/
def slotBits (f : LinkFrame) (i : Nat) : BitVec 80 :=
  f.l3.payload.extractLsb' (20 * i) 20 ++ f.l2.payload.extractLsb' (20 * i) 20
    ++ f.l1.payload.extractLsb' (20 * i) 20 ++ f.l0.payload.extractLsb' (20 * i) 20

/-- Payload of lane `k` of a frame whose slots are listed from slot 0 on; the other slots are fill (R236, R237). -/
def lanePayload (slots : List (BitVec 80)) (k : Nat) : BitVec 960 :=
  BitVec.ofNat 960 (slots.foldr (fun w n => fld w (20 * k) 20 + 2 ^ 20 * n) 0)

/-- The group of a step that this chip sends on a link, of a store of drives (R237). -/
def groupOf (m : SMap Drive) (j st : Nat) : BitVec 80 :=
  (SMap.within m ((j * 1024 + st) * 80) 80).foldl (fun w e => setFld w (e.1 % 80) 1 e.2.val.toNat) 0

/-- The group of a tick and step: of the tick being executed, or of the one before it. -/
def groupAt (s : State) (j : Nat) (g : Nat × Nat) : BitVec 80 :=
  if g.1 = s.tck.tick ∨ !s.tck.inTick then groupOf s.exe.linkTx j g.2 else groupOf s.exe.linkOld j g.2

/-- Codes of the run-control commands in a CMD record (R250). -/
def cmdCode : TreeCmd → Nat
  | .start => 1 | .go => 2 | .run => 3 | .runN _ => 4 | .clearFault => 5 | .halt => 6 | .breakArm => 8 | .breakDisarm => 9

/-- N of RUN_N. -/
def cmdCount : TreeCmd → Nat
  | .runN n => n
  | .start => 0 | .go => 0 | .run => 0 | .clearFault => 0 | .halt => 0 | .breakArm => 0 | .breakDisarm => 0

/-- What a frame says: TYPE, HOLD, VOTE, CTIME and its slots. -/
structure Says where
  type  : BitVec 4
  hold  : Bool
  vote  : BitVec 2
  ctime : BitVec 28
  slots : List (BitVec 80)
deriving DecidableEq, Repr

/-- Lane `k` of a frame, with its CRC (R231, R234). -/
def laneFrame (seq : BitVec 8) (w : Says) (k : Nat) : LaneFrame :=
  let f : LaneFrame :=
    { marker := lineMarker, seq := seq, hold := w.hold, vote := w.vote, type := w.type
      aux := w.ctime.extractLsb' (7 * k) 7, payload := lanePayload w.slots k, crc := 0, stuffOk := true }
  { f with crc := laneCrc f }

/-- The link frame that says something. -/
def linkFrame (seq : BitVec 8) (w : Says) : LinkFrame :=
  ⟨laneFrame seq w 0, laneFrame seq w 1, laneFrame seq w 2, laneFrame seq w 3⟩

/-- Elapsed picoseconds of the first bit of a link's next frame: on its frame grid, which the first frame sent sets
(R237, log 131). -/
def frameAt (s : State) (k : Link) : Nat := if k.grid = 0 then s.clk.ps + cutPs else k.grid

/-- An instant lies at or before the cut-off of a link's next frame (R237, R247). -/
def inFrame (s : State) (k : Link) (ps : Nat) : Bool := decide (ps + cutPs ≤ frameAt s k)

/-- The generator period at whose start the cut-off of a link's next frame lies: the latest boundary at least 32 UI before
the first bit (R237). -/
def cutGen (s : State) (k : Link) : Nat :=
  let c := frameAt s k - cutPs
  if s.clk.ps ≤ c then s.clk.gen + (c - s.clk.ps) / stepPs s.regs
  else s.clk.gen - (s.clk.ps - c + stepPs s.regs - 1) / stepPs s.regs

/-- The trailer that a link's next RUN frame carries: that of a tick whose W8 fell before the cut-off (R237, R238). -/
def txTrailer (s : State) (k : Link) : List (BitVec 80) :=
  match k.trailer with
  | some t => if inFrame s k t.1 then [t.2] else []
  | none => []

/-- The groups that a link's next RUN frame carries. -/
def txGroups (s : State) (j : Nat) : List (Nat × Nat) :=
  let k := linkOf s.lnk j
  (groupsDue s.tck.depth (k.sentTick, k.sent) (stepsAt s (cutGen s k))).take (48 - (txTrailer s k).length)

/-- Ticks are executed or drained. -/
def imageRuns (s : State) : Bool := s.tck.run == .running || s.tck.run == .draining

/-- The restart hold is in effect (R163). -/
def restarting (s : State) : Bool :=
  match s.tck.freeze with
  | some f => f.kind == .restart
  | none => false

/-- Slots of a RESEND frame: FIRST and ACK, then 47 groups of the tick before, cycling (R253). -/
def resendSlots (s : State) (j : Nat) : List (BitVec 80) :=
  let k := linkOf s.lnk j
  let head : BitVec 80 := BitVec.ofNat 80 (k.rsNext + k.ackTx.toNat * 2 ^ 11)
  head :: (List.range 47).map fun i => groupOf s.exe.linkOld j ((k.rsNext + i) % Nat.max 1 s.tck.depth)

/-- The peer record of this chip on a link (R255). -/
def peerRecord (s : State) (j : Nat) : BitVec 80 :=
  let chip := match s.ldr.image with
    | some i => (i.header.getD 0x87 0).toNat
    | none => 0
  BitVec.ofNat 80 (chip + j * 2 ^ 8 + s.tck.declared * 2 ^ 16 + (s.tck.run != .empty).toNat * 2 ^ 27)

/-- TYPE and slots of a link's next frame, but for a command (R236). DESIGN CHOICE (log 154): the RUN and RESEND frames of an
active link go before the MARK frames of LNK_MEAS.GO (R244). -/
def frameBody (s : State) (j : Nat) : BitVec 4 × List (BitVec 80) :=
  let k := linkOf s.lnk j
  if imageRuns s && linkActive s.regs j then
    if restarting s then (5, resendSlots s j) else (1, (txGroups s j).map (groupAt s j) ++ txTrailer s k)
  else if k.marks ≠ 0 then (4, [])
  else if (rget s.regs (pg .lnk j + 0x100)).getLsbD 3 then (6, [])
  else (0, [])

/-- Lane 0's payload of a frame that carries a record there instead of slots (R236, R250, R255). -/
def recordIn (f : LinkFrame) (v : BitVec 960) : LinkFrame :=
  let l : LaneFrame := { f.l0 with payload := v }
  { f with l0 := { l with crc := laneCrc l } }

/-- A commit or abort vote, which uses no CTIME and so goes beside an event that does (R247, R248). -/
def isPlain : TreeEv → Bool
  | .vote v _ => v != .stop
  | _ => false

/-- The events of a link that its next frame can carry: those at or before its cut-off (R247). -/
def readyEvs (s : State) (k : Link) : List (Nat × TreeEv) := k.evq.filter fun e => inFrame s k e.1

/-- The first event of a queue that uses CTIME. -/
def timedEv (l : List (Nat × TreeEv)) : Option TreeEv := (l.find? fun e => !isPlain e.2).map fun e => e.2

/-- The first commit or abort vote of a queue; none beside a stop. -/
def plainVote (l : List (Nat × TreeEv)) : Vote :=
  match l.find? fun e => isPlain e.2 with
  | some (_, .vote v _) => v
  | _ => .none

/-- A queue without what the next frame carries. -/
def restEv (l : List (Nat × TreeEv)) : List (Nat × TreeEv) :=
  (l.eraseP fun e => !isPlain e.2).eraseP fun e => isPlain e.2

/-- What a queue's events put into the next header: HOLD, VOTE and CTIME. Without an event that uses it, CTIME repeats
that of the last hold request or release, so that a lost one is taken from the next frame (R247 to R251). -/
def eventHeader (lvl : Bool) (last : BitVec 28) (l : List (Nat × TreeEv)) : Bool × BitVec 2 × BitVec 28 :=
  match timedEv l with
  | some (.hold t) => (true, voteCode (plainVote l), t)
  | some (.rehold t) => (true, voteCode (plainVote l), t)
  | some (.release t) => (false, voteCode (plainVote l), t)
  | some (.vote v t) => (lvl, voteCode v, t)
  | some (.cmd t _) => (lvl, voteCode (plainVote l), t)
  | none => (lvl, voteCode (plainVote l), last)

/-- CTIME of the last hold request or release after a frame. -/
def lastTime (last : BitVec 28) (l : List (Nat × TreeEv)) : BitVec 28 :=
  match timedEv l with
  | some (.hold t) => t
  | some (.rehold t) => t
  | some (.release t) => t
  | _ => last

/-- The command that the next frame of a queue carries. -/
def eventCmd (l : List (Nat × TreeEv)) : Option TreeCmd :=
  match timedEv l with
  | some (.cmd _ c) => some c
  | _ => none

/-- The link frame to be sent: a command goes as RUN_HALT during RUNNING if it is HALT, otherwise in a CMD frame
(R250). -/
def nextFrame (s : State) (j : Nat) : LinkFrame :=
  let k := linkOf s.lnk j
  let l := readyEvs s k
  let h := eventHeader k.lvl k.ctTx l
  let b := frameBody s j
  match eventCmd l with
  | some c =>
    if c = .halt ∧ s.tck.run = .running then
      linkFrame k.txSeq ⟨2, h.1, h.2.1, h.2.2, (txGroups s j).map (groupAt s j) ++ txTrailer s k⟩
    else recordIn (linkFrame k.txSeq ⟨3, h.1, h.2.1, h.2.2, []⟩) (BitVec.ofNat 960 (cmdCode c + cmdCount c * 2 ^ 8))
  | none =>
    let f := linkFrame k.txSeq ⟨b.1, h.1, h.2.1, h.2.2, b.2⟩
    if b.1 = 4 then recordIn f ((s.clk.period + BitVec.ofInt 48 ((cutGen s k : Int) - s.clk.gen)).setWidth 960)
    else if b.1 = 6 then recordIn f ((peerRecord s j).setWidth 960)
    else f

/-- The earliest of a list of requests, by tick and step. -/
def firstAsk (l : List Ask) : Option Ask :=
  l.foldl (fun o a => match o with
    | none => some a
    | some x => if a.req.tick < x.req.tick ∨ (a.req.tick = x.req.tick ∧ a.req.step < x.req.step) then some a else some x) none

/-- The tick and step of a request. -/
def Ask.at' (a : Ask) : Nat × Nat := (a.req.tick, a.req.step)

/-- The period of this chip's last arrival, ended cause or completed part among the requests of a tick and step (R249). -/
def ownArr (s : State) (p : Nat × Nat) : Nat :=
  if restarting s then s.tck.lastPart
  else
    let reads := (s.exe.flights.filter fun f => f.late && (s.tck.tick, f.hold) == p).foldl (fun n f => Nat.max n f.arr) 0
    if s.lnk.asked.any fun a => a.at' == p && (a.req.kind == .drain || a.req.kind == .intake) then Nat.max reads s.tck.lastArr
    else reads

/-- The upward release that a link to the parent owes, and the tick and step that it ends: every cause of this chip and
of its children for its earliest request has ended (R83, R249). -/
def owedRelease (s : State) (j : Nat) : Option (Nat × (Nat × Nat)) :=
  let k := linkOf s.lnk j
  match firstAsk s.lnk.asked with
  | none => none
  | some a =>
    let arr := withChildren s a.at' (ownArr s a.at')
    if treeParent s.regs = some j ∧ k.lvl ∧ timedEv k.evq = none ∧ arr ≤ cutGen s k ∧ !childAt s a.at'
      ∧ (s.lnk.asked.all fun x => x.at' != a.at' || !causeOpen s x.req) then some (arr, a.at')
    else none

/-- The upward release is formed. A later request of this chip stands on: two frames after the release, so that a lost
release is taken from the frame between, HOLD = 1 says so (R249, R251, log 132). -/
def upRelease (j : Nat) (s : State) : State :=
  match owedRelease s j with
  | none => s
  | some r =>
    let c := frameAt s (linkOf s.lnk j) - cutPs
    let rest := s.lnk.asked.filter fun a => a.at' != r.2
    let l := pushEv c (.release (ctimeAt s r.1))
      { s.lnk with asked := rest, childArr := s.lnk.childArr.filter fun a => (a.1, a.2.1) != r.2 } j
    { s with lnk := match firstAsk rest with
      | some a => pushEv (c + framePs + 1) (.rehold a.time) l j
      | none => l }

/-- The injected errors of a frame's lane: pending bits at a place the spec leaves open, or one in 2^RATE (R254). -/
def injected (s : State) (j lane : Nat) (l : List Bool) : List Bool :=
  let k := linkOf s.lnk j
  let ctl := rget s.regs (pg .lnk j + 0x130)
  if !ctl.getLsbD lane then l
  else
    let l := if k.inject = 0 then l
      else invertBits ((Config.freeWord s.clk.free).toNat % (lineUi - Nat.min k.inject (lineUi - 1))) k.inject l
    if fld ctl 25 2 = 3 then invertRate (2 ^ fld ctl 8 5) k.rateCnt l else l

/-- A link after a frame has been sent. DESIGN CHOICE (log 155): a CMD frame takes a RUN frame's place, and the groups of
its interval go in the RUN frames after it (R237, R250). -/
def sentLink (s : State) (j : Nat) (f : LinkFrame) (k : Link) : Link :=
  let runs := f.l0.type == 1 || f.l0.type == 2
  let l := readyEvs s k
  let p := if runs then afterGroups s.tck.depth (k.sentTick, k.sent) (txGroups s j) else (k.sentTick, k.sent)
  { k with
    txSeq := k.txSeq + 1
    sentTick := p.1, sent := p.2
    trailer := if runs && txTrailer s k != [] then none else k.trailer
    grid := frameAt s k + framePs
    marks := if f.l0.type = 4 then k.marks - 1 else k.marks
    rsNext := if f.l0.type = 5 ∧ !k.ackRx then (k.rsNext + 47) % Nat.max 1 s.tck.depth else k.rsNext
    last := some f
    line := [injected s j 0 (lineBits 0 f.l0), injected s j 1 (lineBits 1 f.l1), injected s j 2 (lineBits 2 f.l2),
      injected s j 3 (lineBits 3 f.l3)]
    inject := 0
    rateCnt := (k.rateCnt + lineUi) % 2 ^ rfld s.regs (pg .lnk j + 0x130) 8 5
    evq := restEv l ++ k.evq.filter fun e => !inFrame s k e.1
    lvl := (eventHeader k.lvl k.ctTx l).1
    ctTx := lastTime k.ctTx l }

/-- A raw pattern on the four lanes for the length of a line frame (R254). -/
def sentPrbs (s : State) (j : Nat) (k : Link) : Link :=
  let pat := rfld s.regs (pg .lnk j + 0x130) 29 3
  let r := k.prbsGen.map (prbsBits pat lineUi)
  { k with
    prbsGen := r.map fun x => x.2
    line := r.zipIdx.map fun x => injected s j x.2 x.1.1
    inject := 0
    rateCnt := (k.rateCnt + lineUi) % 2 ^ rfld s.regs (pg .lnk j + 0x130) 8 5 }

/-- The command that the root accepts at a frame: the oldest that waits, at a downward frame whose CTIME is free
(R250). -/
def cmdAt (s : State) (j : Nat) : Option TreeCmd :=
  let k := linkOf s.lnk j
  if s.tck.root ∧ (treeKids s.regs).getLsbD j ∧ timedEv (readyEvs s k) = none then s.lnk.rootCmds.head? else none

/-- CTIME of a command that the root accepts at the cut-off of a link's next frame: D periods later (R88, R250). -/
def acceptTime (s : State) (j : Nat) : BitVec 28 := ctimeAt s (cutGen s (linkOf s.lnk j) + s.tck.down)

/-- The releases that are due as a frame is sent: the root's and the one upward (R249). -/
def dueReleases (j : Nat) (s : State) : State := upRelease j (if s.tck.multi then rootRelease s else s)

/-- What is to be said on the control tree as a frame is sent: the releases, and the command that the root accepts now
(R249, R250). -/
def dueEvents (j : Nat) (s : State) : State :=
  let s := dueReleases j s
  match cmdAt s j with
  | some c =>
    sendDown (frameAt s (linkOf s.lnk j) - cutPs) (acceptTime s j) c
      { s with lnk := { s.lnk with rootCmds := s.lnk.rootCmds.drop 1 } }
  | none => s

/-- The frame is formed and sent. -/
def emitFrame (j : Nat) (s : State) : State :=
  let f := nextFrame s j
  let k := linkOf s.lnk j
  { s with
    lnk := setLink s.lnk j (sentLink s j f k)
    regs := if f.l0.type = 4 ∧ k.marks = 1 then rset s.regs (lnkStat j) 29 1 0 else s.regs
    clk := { s.clk with free := s.clk.free + 1 } }

/-- The effect of a line frame that is sent. A command that the root accepts takes effect D periods after this frame's
cut-off; commands that every child has been sent act at their CTIME (R88, R250). -/
def sendFrame (j : Nat) (s : State) : State :=
  let e := emitFrame j (dueEvents j s)
  let u := dueReleases j s
  match cmdAt u j with
  | some c => settleCmds (treeCommand (acceptTime u j) c e)
  | none => settleCmds e

/-- Time passes beside no schedule: no tick is executed, or a hold freezes the array. -/
def timePasses (s : State) : Bool := s.tck.run != .running || s.tck.freeze.isSome

/-- Time as a link's next frame is formed: where no schedule runs, it passes to the cut-off. -/
def atCutoff (s : State) (j : Nat) : State :=
  if timePasses s then passPs (frameAt s (linkOf s.lnk j) - cutPs) s else s

/-- The cut-off of a link's next frame has come. -/
def cutReached (s : State) (j : Nat) : Bool :=
  timePasses s || decide (frameAt s (linkOf s.lnk j) < s.clk.ps + cutPs + stepPs s.regs)

/-- The effect of FRAME_TX. -/
def doFrameTx (j : Nat) (s : State) : State :=
  if linkMode s.regs j = 1 then sendFrame j (atCutoff s j)
  else { s with
    lnk := setLink s.lnk j (sentPrbs s j (linkOf s.lnk j))
    clk := { s.clk with free := s.clk.free + 1 } }

/-- FRAME_TX: the link's next line frame at its cut-off, in FRAME mode, or in PRBS mode with its generator on (R230, R237,
R254). -/
def execFrameTx (j : LinkId) (s : State) : Host.Outcome State Fault Refusal :=
  when (domOn s.pwr (linkDom j) && ((linkMode s.regs j == 1 && cutReached s j)
    || (linkMode s.regs j == 2 && (rget s.regs (pg .lnk j + 0x130)).getLsbD 28))) s (doFrameTx j s)

/-! ### Frames received: the checks -/

/-- The lanes of a frame. -/
def lanesOf (f : LinkFrame) : List LaneFrame := [f.l0, f.l1, f.l2, f.l3]

/-- A lane's bits from its frame boundary on: the boundary lies as many UI after the line frame before began as the lane
has been slipped (R239). -/
def slipped (n : Nat) (before now : List Bool) : List Bool := if n = 0 then now else before.drop n ++ now.take n

/-- The link frame that a receiver reads, lane k inverted where LNK_CTRL.RXPOL bit k is set, from the boundary that the
lane's slips have made (R228, R230, R239). -/
def heard (s : State) (j : Nat) (w : LinkBits) : LinkFrame :=
  let p := rget s.regs (pg .lnk j + 0x100)
  let k := linkOf s.lnk j
  ⟨readLane 0 (polarity (p.getLsbD 4) (slipped (k.slips.getD 0 0) k.rxLine.l0 w.l0)),
    readLane 1 (polarity (p.getLsbD 5) (slipped (k.slips.getD 1 0) k.rxLine.l1 w.l1)),
    readLane 2 (polarity (p.getLsbD 6) (slipped (k.slips.getD 2 0) k.rxLine.l2 w.l2)),
    readLane 3 (polarity (p.getLsbD 7) (slipped (k.slips.getD 3 0) k.rxLine.l3 w.l3))⟩

/-- The line bits of the last line frame received are kept for the lanes that have been slipped (R239). -/
def keepLine (j : Nat) (w : LinkBits) (s : State) : State :=
  { s with lnk := setLink s.lnk j { linkOf s.lnk j with rxLine := w } }

/-- CTIME of a link frame (R231). -/
def frameTime (f : LinkFrame) : BitVec 28 := f.l3.aux ++ f.l2.aux ++ f.l1.aux ++ f.l0.aux

/-- A lane frame passes its check (R235). `prev`: the lane's previous SEQ. -/
def laneOk (prev : BitVec 8) (f : LaneFrame) : Bool :=
  f.marker == lineMarker && f.seq == prev + 1 && f.stuffOk && f.crc == laneCrc f && decide (f.type.toNat < 7)

/-- The lanes' checks. -/
def lanesOk (k : Link) (f : LinkFrame) : List Bool :=
  (lanesOf f).zipIdx.map fun e => laneOk (k.rxSeq.extractLsb' (8 * e.2) 8) e.1

/-- The place on the frame grid of the next frame received: a frame takes 33 ns, four frames a whole number of periods
(R229, R237). -/
def placeOf (k : Link) : Nat := (k.place + 1) % 4

/-- The period of the cut-off of the frame received now, by the receiver's own count: that of the frame before and the
periods that MARK frames have shown to lie between the two; of a run's first frame, its Δ before now (R237, R244,
log 131). -/
def cutOff (s : State) (j : Nat) : Nat :=
  let k := linkOf s.lnk j
  let i := placeOf k
  if k.cut = 0 ∨ k.gaps.getD i 0 = 0 then s.clk.gen - (k.deltas.getD i 0).toInt.toNat else k.cut + k.gaps.getD i 0

/-- The groups that a RUN frame received now holds, by the receiver's own count (R237). -/
def rxGroups (s : State) (j : Nat) : List (Nat × Nat) :=
  let k := linkOf s.lnk j
  groupsDue s.tck.depth (k.gotTick, k.got) (stepsAt s (cutOff s j))

/-- A trailer falls in the frame (R237, R238). -/
def rxTrailer (s : State) (j : Nat) : Bool := decide ((linkOf s.lnk j).trTick < trailersAt s (cutOff s j))

/-- The trailer of a RUN frame fails its check: TICK or GROUPS differ (R238). -/
def trailerBad (s : State) (j : Nat) (f : LinkFrame) : Bool :=
  let l := rxGroups s j
  let k := linkOf s.lnk j
  let p := afterGroups s.tck.depth (k.gotTick, k.got) l
  let w := slotBits f l.length
  rxTrailer s j && (fld w 0 16 != k.trTick % 2 ^ 16
    || fld w 16 11 != (if p.1 = k.trTick then p.2 else s.tck.depth))

/-- A frame of type RUN or RUN_HALT. -/
def isRun (f : LinkFrame) : Bool := f.l0.type == 1 || f.l0.type == 2

/-- The link frame passes (R235, R238). -/
def framePass (s : State) (j : Nat) (f : LinkFrame) : Bool :=
  (lanesOk (linkOf s.lnk j) f).all id && !(isRun f && trailerBad s j f)

/-! ### Frames received: lock -/

/-- Lanes that leave lock: in lock, with sixteen failures (R239). -/
def lostLanes (m : SMap W32) (j : Nat) (fails : List Nat) : List Nat :=
  (List.range 4).filter fun i => (rget m (lnkStat j)).getLsbD (24 + i) && decide (16 ≤ fails.getD i 0)

/-- LANE_LOCK after a frame (R239). -/
def laneLock (m : SMap W32) (j : Nat) (passes fails : List Nat) : Nat :=
  (List.range 4).foldl (fun n i =>
    if 16 ≤ passes.getD i 0 ∨ ((rget m (lnkStat j)).getLsbD (24 + i) ∧ fails.getD i 0 < 16) then n + 2 ^ i else n) 0

/-- Skews of the four lanes, the earliest lane's being 0, at values that the lines give (R240). -/
def freeSkew (w : W64) : W32 :=
  let l := (List.range 4).map fun i => fld w (8 * i) 6
  let lo := l.foldl Nat.min 63
  BitVec.ofNat 32 ((l.getD 0 0 - lo) + (l.getD 1 0 - lo) * 2 ^ 8 + (l.getD 2 0 - lo) * 2 ^ 16 + (l.getD 3 0 - lo) * 2 ^ 24
    + (w.getLsbD 40).toNat * 2 ^ 31)

/-- The lanes' delays make up for their skews (R240). -/
def deskewed (m : SMap W32) (j : Nat) : Bool :=
  let sk := pg .lnk j + 0x10C
  let de := pg .lnk j + 0x110
  !(rget m sk).getLsbD 31 && (List.range 4).all fun i => rfld m sk (8 * i) 6 + rfld m de (8 * i) 6 == rfld m sk 0 6 + rfld m de 0 6

/-- Lane counters, error counters, lock and skew after a frame (R235, R239, R240). -/
def rxLock (j : Nat) (f : LinkFrame) (s : State) : State :=
  let k := linkOf s.lnk j
  let oks := lanesOk k f
  let passes := (k.pass.zip oks).map fun e => if e.2 then Nat.min 16 (e.1 + 1) else 0
  let fails := (k.fail.zip oks).map fun e => if e.2 then 0 else Nat.min 16 (e.1 + 1)
  let lost := lostLanes s.regs j fails
  let lanes := laneLock s.regs j passes fails
  let was := rfld s.regs (lnkStat j) 24 4
  let m := (List.range 4).foldl (fun m i => if oks.getD i true then m else rbump m (pg .lnk j + 0x128) (8 * i) 8 1) s.regs
  let m := rset m (lnkStat j) 24 4 lanes
  let m := if lanes = 15 ∧ was ≠ 15 then rput m (pg .lnk j + 0x10C) (freeSkew (Config.freeWord s.clk.free)) else m
  let same := (lanesOf f).all fun x => x.seq == f.l0.seq
  let m := if lanes ≠ 15 then rset m (lnkStat j) 31 1 0
    else if oks.all id && same && deskewed m j then rset m (lnkStat j) 31 1 1 else m
  let t := { s with
    regs := m
    clk := { s.clk with free := s.clk.free + 1 }
    lnk := setLink s.lnk j { k with
      pass := passes, fail := fails
      rxSeq := f.l3.seq ++ f.l2.seq ++ f.l1.seq ++ f.l0.seq } }
  raiseLnkIf (lost != []) j 0 (raiseLnkIf (!oks.all id) j 1 t)

/-! ### Frames received: groups -/

/-- A link's receive pointers after a RUN frame. -/
def gotLink (s : State) (j : Nat) (k : Link) : Link :=
  let p := afterGroups s.tck.depth (k.gotTick, k.got) (rxGroups s j)
  { k with gotTick := p.1, got := p.2, trTick := if rxTrailer s j then k.trTick + 1 else k.trTick }

/-- The staged bits of a group (R119). -/
def stageBits (key : Nat) (w : BitVec 80) (m : SMap Bool) : SMap Bool :=
  (List.range 80).foldl (fun m i => m.put false (key + i) (w.getLsbD i)) m

/-- The tick whose groups collect in the staging buffer. -/
def stagingTick (s : State) : Nat := if s.tck.inTick then s.tck.tick else s.tck.tick - 1

/-- The groups of a passing RUN frame enter the staging buffer: those of the tick in progress that are not late (R119,
R245, R246, log 131). -/
def stageGroups (j : Nat) (f : LinkFrame) (s : State) : SMap Bool :=
  (rxGroups s j).zipIdx.foldl (fun m e =>
    if e.1.1 = stagingTick s ∧ (linkOf s.lnk j).lateTo ≤ e.1.2 then stageBits ((j * 1024 + e.1.2) * 80) (slotBits f e.2) m
    else m) s.exe.staged

/-- The frame's interval ends: a RUN frame, or one that failed, whose groups are lost, while ticks are executed (R237,
R251). -/
def carriesRun (pass : Bool) (s : State) (j : Nat) (f : LinkFrame) : Bool :=
  (isRun f || !pass) && imageRuns s && linkActive s.regs j && !restarting s

/-- A RUN frame's groups and pointers. -/
def rxRun (pass : Bool) (j : Nat) (f : LinkFrame) (s : State) : State :=
  { s with
    exe := { s.exe with staged := if pass then stageGroups j f s else s.exe.staged }
    lnk := setLink s.lnk j (gotLink s j (linkOf s.lnk j)) }

/-! ### Frames received: the control tree -/

/-- A hold for the step that its freeze period names, which is still to come (R249). -/
def holdAt (t : BitVec 28) (s : State) : State :=
  let g := ctimeGen s t
  let p := stepOf s g
  if g ≤ s.clk.gen then s else { s with tck := { s.tck with holds := addHold ⟨.read, p.2, p.1⟩ s.tck.holds } }

/-- CTIME of a frame is that of a hold request or release: of no stop and no command. -/
def holdTime (f : LinkFrame) : Bool := f.l0.vote != 3 && f.l0.type != 2 && f.l0.type != 3

/-- A frame's HOLD and CTIME speak of holds: in a restart hold only those of its RESEND frames do, and the frames sent
before it are past (R163, R249, R253). -/
def saysHold (s : State) (f : LinkFrame) : Bool := holdTime f && (!restarting s || f.l0.type == 5)

/-- A frame carries a hold request or release that no frame before it carried: another level or another period (R249,
R251). -/
def newEvent (s : State) (j : Nat) (f : LinkFrame) : Bool :=
  let k := linkOf s.lnk j
  saysHold s f && (f.l0.hold != k.rxHold || frameTime f != k.ctRx)

/-- A vote by its code (R248). -/
def voteOfCode (c : BitVec 2) : Vote := if c = 1 then .commit else if c = 2 then .abort else if c = 3 then .stop else .none

/-- The decision for the last tick takes effect where ticks are drained (R97). -/
def drainNow (s : State) : State :=
  if s.tck.run = .draining ∧ s.tck.decision ≠ .none ∧ s.tck.decision ≠ .stop then drainDecision s.tck.decision s else s

/-- A child's vote, `forced` where a failed frame is read as abort: of a child for which that has been done, no vote
counts until the ticks are undone (R247, R248, R251). -/
def childVoted (forced : Bool) (j : Nat) (v : Vote) (t : BitVec 28) (s : State) : State :=
  if v = .none then s
  else if v = .stop then sendStop s.clk.ps t s
  else if s.tck.childForced.getLsbD j then s
  else drainNow (formVote s.clk.ps { s with tck := { s.tck with
    childVote := severe s.tck.childVote v, childGot := setFld s.tck.childGot j 1 1
    childForced := if forced then setFld s.tck.childForced j 1 1 else s.tck.childForced } })

/-- The requests of a child that have not been released. -/
def childAsks (s : State) (j : Nat) : List Ask := s.lnk.childHold.get [] j

/-- A child's requests replaced. -/
def setAsks (l : Lnk) (j : Nat) (a : List Ask) : Lnk :=
  { l with childHold := if a = [] then l.childHold.erase j else l.childHold.set j a }

/-- A child's request is noted, and goes on to the root, which holds and broadcasts it (R249). -/
def childAsked (j : Nat) (t : BitVec 28) (s : State) : State :=
  let p := stepOf s (ctimeGen s t)
  raiseHold s.clk.ps .read t { s with lnk := setAsks s.lnk j (childAsks s j ++ [⟨t, ⟨.read, p.2, p.1⟩⟩]) }

/-- A child's release ends its earliest request, with the period of its last arrival (R83, R249). -/
def childReleased (j : Nat) (t : BitVec 28) (s : State) : State :=
  match firstAsk (childAsks s j) with
  | none => s
  | some a => { s with lnk :=
    { setAsks s.lnk j ((childAsks s j).filter fun x => x.at' != a.at') with
      childArr := s.lnk.childArr ++ [(a.req.tick, a.req.step, t)] } }

/-- The hold bits of a child's frame: a request that names no period of a known one is new; in a restart hold no other
hold is requested (R163, R249, log 132). -/
def childHolds (j : Nat) (f : LinkFrame) (s : State) : State :=
  let t := frameTime f
  if !newEvent s j f then s
  else if !f.l0.hold then childReleased j t s
  else if restarting s ∨ ((childAsks s j).any fun a => a.time = t) then s
  else childAsked j t s

/-- A decision of the root, passed on (R92, R97, R248). -/
def decided (v : Vote) (t : BitVec 28) (s : State) : State :=
  if v = .none then s
  else
    let u := pushDown s.clk.ps (.vote v t) s
    if v = .stop then { u with tck := { u.tck with stopAt := some t, voting := false } }
    else drainNow { u with tck := { u.tck with decision := v } }

/-- The root's hold broadcast and release, passed on (R249). -/
def parentHolds (j : Nat) (f : LinkFrame) (s : State) : State :=
  let t := frameTime f
  if !newEvent s j f then s
  else if f.l0.hold then if restarting s then s else holdAt t (pushDown s.clk.ps (.hold t) s)
  else
    let u := pushDown s.clk.ps (.release t) s
    { u with tck := { u.tck with treeResume := some t } }

/-- The control-tree bits of a passing frame (R247 to R249). -/
def rxTree (j : Nat) (f : LinkFrame) (s : State) : State :=
  let t := if (treeKids s.regs).getLsbD j then childVoted false j (voteOfCode f.l0.vote) (frameTime f) (childHolds j f s)
    else if treeParent s.regs = some j then decided (voteOfCode f.l0.vote) (frameTime f) (parentHolds j f s)
    else s
  { t with lnk := setLink t.lnk j { linkOf t.lnk j with
    rxHold := if saysHold s f then f.l0.hold else (linkOf t.lnk j).rxHold
    ctRx := if saysHold s f then frameTime f else (linkOf t.lnk j).ctRx } }

/-! ### Frames received: failure -/

/-- The record of LINK_CRC (R179, R235). -/
def linkCrcRec (s : State) (j : Nat) (seq : BitVec 8) : FaultRec := recPlain dLink (j * 2 ^ 8 + seq.toNat) (tickNo s)

/-- A control-tree loss (R252): TREE_LOST is set, the event log records LINK_CRC, and while ticks are executed or
drained the array freezes and a stop goes up with CTIME now + C (log 117). -/
def treeLoss (j : Nat) (seq : BitVec 8) (s : State) : State :=
  let t := raiseLnk j 7 (logRecs [linkCrcRec s j seq]
    { s with regs := rbump (rset s.regs (lnkStat j) 30 1 1) 0xB110 0 16 1 })
  if s.tck.run = .empty then t
  else
    let u := if imageRuns s then
        writeRepairs { t with tck := { t.tck with freeze := some ⟨.stop, s.tck.step, s.clk.gen, s.clk.ps⟩ } }
      else t
    sendStop s.clk.ps (ctimeIn s s.tck.ctree) u

/-- A failing frame (R235, R251, R252): a downward one is a control-tree loss; any other raises LINK_CRC while an image
runs, and an upward one is read as an abort vote. -/
def rxFail (j : Nat) (seq : BitVec 8) (s : State) : State :=
  if treeParent s.regs = some j then treeLoss j seq s
  else
    let up := (treeKids s.regs).getLsbD j
    let u := if up then { s with regs := rbump s.regs 0xB110 16 16 1 } else s
    if !imageRuns s then u
    else if up then childVoted true j .abort 0 (detect (linkCrcRec s j seq) u)
    else detect (linkCrcRec s j seq) u

/-- What every received frame does (R235 to R252). -/
def rxFrame (j : Nat) (f : LinkFrame) (s : State) : State :=
  let pass := framePass s j f
  let t := if carriesRun pass s j f then rxRun pass j f s else s
  let t := { t with lnk := setLink t.lnk j { linkOf t.lnk j with
    cut := if imageRuns s then cutOff s j else 0
    place := if pass then f.l0.seq.toNat % 4 else placeOf (linkOf s.lnk j)
    markN := if f.l0.type = 4 then (linkOf t.lnk j).markN else 0 } }
  let t := rxLock j f t
  if pass then rxTree j f t else rxFail j f.l0.seq t

/-- The link can receive line frames: FRAME mode, its domain ON. -/
def rxReady (s : State) (j : Nat) : Bool := linkMode s.regs j == 1 && domOn s.pwr (linkDom j)

/-! ### The rows -/

/-- The effect of RUN_FRAME. -/
def doRunFrame (j : Nat) (f : LinkFrame) (s : State) : State := rxFrame j f s

/-- RUN_FRAME, a frame of TYPE RUN (R237). -/
def execRunFrame (j : LinkId) (w : LinkBits) (s : State) : Host.Outcome State Fault Refusal :=
  when (rxReady s j && (heard s j w).l0.type == 1) s (doRunFrame j (heard s j w) (keepLine j w s))

/-- A run-control command from the root: passed on to the children, and performed at its CTIME (R88, R250). -/
def fromRoot (t : BitVec 28) (c : TreeCmd) (s : State) : State := treeCommand t c (sendDown s.clk.ps t c s)

/-- The frame is a passing one from the parent. -/
def rootFrame (s : State) (j : Nat) (f : LinkFrame) : Bool := framePass s j f && treeParent s.regs == some j

/-- The effect of RUN_HALT: downward, the HALT that takes effect at CTIME (R236, R250). -/
def doRunHalt (j : Nat) (f : LinkFrame) (s : State) : State :=
  if rootFrame s j f then fromRoot (frameTime f) .halt (rxFrame j f s) else rxFrame j f s

/-- RUN_HALT, a frame of TYPE RUN_HALT (R236). -/
def execRunHalt (j : LinkId) (w : LinkBits) (s : State) : Host.Outcome State Fault Refusal :=
  when (rxReady s j && (heard s j w).l0.type == 2) s (doRunHalt j (heard s j w) (keepLine j w s))

/-- The command of a CMD record (R250). -/
def cmdOf (v : BitVec 960) : Option TreeCmd :=
  let n := fld v 8 32
  match fld v 0 8 with
  | 1 => some .start | 2 => some .go | 3 => some .run | 4 => some (.runN n) | 5 => some .clearFault | 6 => some .halt
  | 8 => some .breakArm | 9 => some .breakDisarm | _ => none

/-- The effect of CMD_FRAME. -/
def doCmdFrame (j : Nat) (f : LinkFrame) (s : State) : State :=
  match cmdOf f.l0.payload with
  | some c => if rootFrame s j f then fromRoot (frameTime f) c (rxFrame j f s) else rxFrame j f s
  | none => rxFrame j f s

/-- CMD_FRAME, a frame of TYPE CMD (R250). -/
def execCmdFrame (j : LinkId) (w : LinkBits) (s : State) : Host.Outcome State Fault Refusal :=
  when (rxReady s j && (heard s j w).l0.type == 3) s (doCmdFrame j (heard s j w) (keepLine j w s))

/-- M = Δ + W + G + 64 × P, saturated (R244). -/
def measuredM (m : SMap W32) (j : Nat) (delta : BitVec 48) : Nat :=
  let pad := pg .lnk j + 0x118
  Nat.min 4095 (delta.toInt + frameW m + rfld m pad 0 4 + 64 * rfld m pad 16 4).toNat

/-- LNK_MEAS with a result (R244). -/
def setMeas (m : SMap W32) (j : Nat) (delta : BitVec 48) : SMap W32 :=
  rset (rset m (pg .lnk j + 0x114) 30 1 1) (pg .lnk j + 0x114) 0 12 (measuredM m j delta)

/-- The periods that a MARK shows to lie between its cut-off and the one before, put at its place on the grid; the first of
a run of MARK frames shows none (R237, R244). -/
def markGap (k : Link) (c : BitVec 48) (i : Nat) : List Nat :=
  if k.markN = 0 then k.gaps else k.gaps.set i (c - k.markAt).toNat

/-- A passing MARK: Δ, the largest of a run of MARK frames kept, with the Δ and the cut-off of its place on the grid; the
eighth ends the measurement (R237, R244, R501). -/
def marked (j : Nat) (f : LinkFrame) (s : State) : State :=
  let k := linkOf s.lnk j
  let c : BitVec 48 := f.l0.payload.extractLsb' 0 48
  let d := s.clk.period - c
  let i := f.l0.seq.toNat % 4
  let best := if k.markN = 0 then d else if k.delta.toInt ≤ d.toInt then d else k.delta
  raiseLnkIf (k.markN == 7) j 2 { s with
    regs := setMeas s.regs j best
    lnk := setLink s.lnk j { k with
      delta := best, markN := (k.markN + 1) % 8, deltas := k.deltas.set i d, gaps := markGap k c i, markAt := c } }

/-- The effect of MARK. -/
def doMark (j : Nat) (f : LinkFrame) (s : State) : State :=
  if framePass s j f then marked j f (rxFrame j f s) else rxFrame j f s

/-- MARK, a frame of TYPE MARK (R244). -/
def execMark (j : LinkId) (w : LinkBits) (s : State) : Host.Outcome State Fault Refusal :=
  when (rxReady s j && (heard s j w).l0.type == 4) s (doMark j (heard s j w) (keepLine j w s))

/-- The steps whose groups a RESEND frame carries (R253). -/
def resentSteps (d : Nat) (f : LinkFrame) : List Nat :=
  (List.range (Nat.min 47 d)).map fun i => (fld (slotBits f 0) 0 11 + i) % Nat.max 1 d

/-- A passing RESEND during a restart hold: its groups replace the positions latched for the tick, and ACK is set once
every group has come (R164, R253). -/
def resent (j : Nat) (f : LinkFrame) (s : State) : State :=
  let k := linkOf s.lnk j
  let l := resentSteps s.tck.depth f
  let recv := l.zipIdx.foldl (fun m e => stageBits ((j * 1024 + e.1) * 80) (slotBits f (e.2 + 1)) m) s.exe.recv
  let got := l.foldl (fun g x => if g.contains x then g else x :: g) k.rsGot
  let all := decide (s.tck.depth ≤ got.length)
  { s with
    exe := { s.exe with recv := recv }
    tck := { s.tck with lastPart := if all && !k.ackTx then s.clk.gen else s.tck.lastPart }
    lnk := setLink s.lnk j { k with rsGot := got, ackTx := k.ackTx || all, ackRx := k.ackRx || (slotBits f 0).getLsbD 11 } }

/-- The effect of RESEND. -/
def doResend (j : Nat) (f : LinkFrame) (s : State) : State :=
  if framePass s j f && restarting s then resent j f (rxFrame j f s) else rxFrame j f s

/-- RESEND, a frame of TYPE RESEND (R253). -/
def execResend (j : LinkId) (w : LinkBits) (s : State) : Host.Outcome State Fault Refusal :=
  when (rxReady s j && (heard s j w).l0.type == 5) s (doResend j (heard s j w) (keepLine j w s))

/-- LNK_PEER of a peer record (R255). -/
def peerWord (v : BitVec 960) : W32 :=
  BitVec.ofNat 32 (fld v 0 8 * 2 ^ 24 + fld v 8 5 * 2 ^ 16 + fld v 27 1 * 2 ^ 15 + fld v 16 11)

/-- The effect of PEER: LNK_PEER takes the record (R255). -/
def doPeer (j : Nat) (f : LinkFrame) (s : State) : State :=
  let t := rxFrame j f s
  if framePass s j f then
    raiseLnk j 8 { t with regs := rset (rput t.regs (pg .lnk j + 0x120) (peerWord f.l0.payload)) (lnkStat j) 23 1 1 }
  else t

/-- PEER, a frame of TYPE PEER (R255). -/
def execPeer (j : LinkId) (w : LinkBits) (s : State) : Host.Outcome State Fault Refusal :=
  when (rxReady s j && (heard s j w).l0.type == 6) s (doPeer j (heard s j w) (keepLine j w s))

/-- The effect of IDLE_FRAME. -/
def doIdleFrame (j : Nat) (f : LinkFrame) (s : State) : State := rxFrame j f s

/-- IDLE_FRAME, a frame of TYPE IDLE, or of a reserved TYPE, which fails its check (R235, R236). -/
def execIdleFrame (j : LinkId) (w : LinkBits) (s : State) : Host.Outcome State Fault Refusal :=
  let f := heard s j w
  when (rxReady s j && (f.l0.type == 0 || decide (7 ≤ f.l0.type.toNat))) s (doIdleFrame j f (keepLine j w s))

/-- Steps of the tick whose groups collect that have passed by now: all of them and the window once it is over. -/
def stagingStep (s : State) : Nat := if s.tck.inTick then s.tck.step else s.tck.depth + 16

/-- Periods from a step to the period at which its group enters the staging buffer: LNK_MEAS.M and LNK_SIDING (R245). -/
def stagingDelay (m : SMap W32) (j : Nat) : Nat := rfld m (pg .lnk j + 0x114) 0 12 + rfld m (pg .lnk j + 0x11C) 0 8

/-- The group of a step has not arrived by its staging period s + M + SIDING (R245, R246). -/
def lateOk (s : State) (j st : Nat) : Bool :=
  let k := linkOf s.lnk j
  let tick := stagingTick s
  linkActive s.regs j && s.tck.run == .running && (s.tck.inTick || (s.tck.tick != 0 && !s.tck.redo))
    && decide (st < s.tck.depth) && decide (k.lateTo ≤ st) && decide (st + stagingDelay s.regs j ≤ stagingStep s)
    && (decide (k.gotTick < tick) || (k.gotTick == tick && decide (k.got ≤ st)))

/-- The effect of LATE_GROUP: the group is staged as 0, counted, and the frame that should have carried it counts as
having failed (R246). -/
def doLateGroup (j st : Nat) (s : State) : State :=
  let k := linkOf s.lnk j
  let t := { s with
    regs := rbump s.regs (pg .lnk j + 0x12C) 0 32 1
    lnk := setLink s.lnk j { k with lateTo := st + 1 } }
  rxFail j (k.rxSeq.extractLsb' 0 8 + 1) (raiseLnk j 6 t)

/-- LATE_GROUP (R246). -/
def execLateGroup (j : LinkId) (st : Step) (s : State) : Host.Outcome State Fault Refusal :=
  when (lateOk s j st) s (doLateGroup j st s)

/-- A write of LNK_SLIP: each lane named moves its boundary by one UI (R239). -/
def slipWrite (j : Nat) (v : W32) (s : State) : State :=
  let k := linkOf s.lnk j
  { s with lnk := setLink s.lnk j { k with
    slips := k.slips.zipIdx.map fun e => if v.getLsbD e.2 then (e.1 + 1) % lineUi else e.1 } }

/-- The effect of LNK_SLIP. -/
def doLnkSlip (r : Requester) (j : Nat) (v : W32) (s : State) : State := viaWrite r (pg .lnk j + 0x108) (slipWrite j v) s

/-- LNK_SLIP (R239). -/
def execLnkSlip (r : Requester) (j : LinkId) (v : W32) (s : State) : Host.Outcome State Fault Refusal :=
  .next (doLnkSlip r j v s)

/-- A full recalibration may run (R241). -/
def recalOk (s : State) (j : Nat) : Bool := runIn s [.empty, .loaded, .halted, .faulted] || !linkActive s.regs j

/-- A write of LNK_CTRL: a change of MODE stops and starts the lanes; RECAL starts a recalibration or is rejected
(R237, R241). -/
def linkCtrlWrite (r : Requester) (j : Nat) (v : W32) (s : State) : State :=
  let was := linkMode s.regs j
  let t := (fieldWrite (clampSrc r) 0 (pg .lnk j + 0x100) v s).1
  let t := if linkMode t.regs j = was then t
    else
      let u := unlock j t
      { u with
        lnk := setLink u.lnk j
          (let k := linkOf u.lnk j
          { ({} : Link) with slips := k.slips, delta := k.delta, deltas := k.deltas, gaps := k.gaps })
        regs := rset u.regs (lnkStat j) 29 1 0 }
  if !v.getLsbD 2 then t
  else if recalOk t j then { t with regs := rset t.regs (lnkStat j) 28 1 1 }
  else raiseLnk j 4 t

/-- The effect of RECAL. -/
def doRecal (r : Requester) (j : Nat) (v : W32) (s : State) : State :=
  viaWrite r (pg .lnk j + 0x100) (linkCtrlWrite r j v) s

/-- RECAL, a write of LNK_CTRL (R241). -/
def execRecal (r : Requester) (j : LinkId) (v : W32) (s : State) : Host.Outcome State Fault Refusal :=
  .next (doRecal r j v s)

/-- The effect of RECAL_DONE: the link is out of lock (R241). -/
def doRecalDone (j : Nat) (s : State) : State :=
  let t := unlock j s
  raiseLnk j 3 { t with regs := rset t.regs (lnkStat j) 28 1 0 }

/-- RECAL_DONE, while LNK_STATUS.RECAL_BUSY = 1 (R241). -/
def execRecalDone (j : LinkId) (s : State) : Host.Outcome State Fault Refusal :=
  when ((rget s.regs (lnkStat j)).getLsbD 28) s (doRecalDone j s)

/-- A write of LNK_MEAS.GO: MARK frames in 8 consecutive frames (R244). -/
def measGo (j : Nat) (s : State) : State :=
  { s with
    lnk := setLink s.lnk j { linkOf s.lnk j with marks := 8 }
    regs := rset s.regs (lnkStat j) 29 1 1 }

/-- The effect of LNK_MEAS. -/
def doLnkMeas (r : Requester) (j : Nat) (s : State) : State := viaWrite r (pg .lnk j + 0x114) (measGo j) s

/-- LNK_MEAS (R244). -/
def execLnkMeas (r : Requester) (j : LinkId) (s : State) : Host.Outcome State Fault Refusal := .next (doLnkMeas r j s)

/-- A write of LNK_PAD: M is computed again (R244). -/
def padWrite (r : Requester) (j : Nat) (v : W32) (s : State) : State :=
  let t := (fieldWrite (clampSrc r) 0 (pg .lnk j + 0x118) v s).1
  if (rget t.regs (pg .lnk j + 0x114)).getLsbD 30 then { t with regs := setMeas t.regs j (linkOf t.lnk j).delta } else t

/-- The effect of LNK_PAD. -/
def doLnkPad (r : Requester) (j : Nat) (v : W32) (s : State) : State := viaWrite r (pg .lnk j + 0x118) (padWrite r j v) s

/-- LNK_PAD (R244). -/
def execLnkPad (r : Requester) (j : LinkId) (v : W32) (s : State) : Host.Outcome State Fault Refusal :=
  .next (doLnkPad r j v s)

/-- A write of LNK_PERIOD_ADJ: accepted in EMPTY and LOADED (R243). -/
def adjWrite (v : W32) (s : State) : State :=
  if runIn s [.empty, .loaded] then
    { s with clk := { s.clk with period := s.clk.period + ((rget s.regs 0xB114).extractLsb' 0 16 ++ v) } }
  else raiseInt s 0xB000 0

/-- The effect of LNK_PERIOD_ADJ. -/
def doLnkPeriodAdj (r : Requester) (v : W32) (s : State) : State := viaWrite r 0xB104 (adjWrite v) s

/-- LNK_PERIOD_ADJ (R243). -/
def execLnkPeriodAdj (r : Requester) (v : W32) (s : State) : Host.Outcome State Fault Refusal :=
  .next (doLnkPeriodAdj r v s)

/-- LNK_PRBS_CTRL of a link. -/
def prbsCtl (j : Nat) : Nat := pg .lnk j + 0x130

/-- The error counters of the four lanes cleared. -/
def clearPrbs (m : SMap W32) (j : Nat) : SMap W32 :=
  (List.range 4).foldl (fun m i => rput m (pg .lnk j + 0x134 + 4 * i) 0) m

/-- A write of LNK_PRBS_CTRL: a write of CHK = 1 clears the error counters, and INJ_GO injects (R254). -/
def prbsWrite (r : Requester) (j : Nat) (v : W32) (s : State) : State :=
  let was := (rget s.regs (prbsCtl j)).getLsbD 27
  let t := (fieldWrite (clampSrc r) 0 (prbsCtl j) v s).1
  let k := linkOf t.lnk j
  let inj := rfld t.regs (prbsCtl j) 25 2
  let n := if !v.getLsbD 24 then 0 else if inj = 1 then 1 else if inj = 2 then rfld t.regs (prbsCtl j) 16 8 else 0
  let start := v.getLsbD 27 && !was
  let m := if v.getLsbD 27 then clearPrbs t.regs j else t.regs
  { t with
    regs := if start then rset m (prbsCtl j) 4 4 0 else m
    lnk := setLink t.lnk j { k with
      inject := Nat.min lineUi (k.inject + n)
      prbs := if start then [0, 0, 0, 0] else k.prbs
      prbsRx := if start then [0, 0, 0, 0] else k.prbsRx } }

/-- The effect of INJ_GO. -/
def doInjGo (r : Requester) (j : Nat) (v : W32) (s : State) : State := viaWrite r (prbsCtl j) (prbsWrite r j v) s

/-- INJ_GO, a write of LNK_PRBS_CTRL (R254). -/
def execInjGo (r : Requester) (j : LinkId) (v : W32) (s : State) : Host.Outcome State Fault Refusal :=
  .next (doInjGo r j v s)

/-- The effect of PRBS_CHECK on the bits that a lane has received, inverted by RXPOL: 64 error-free bits in a row lock
its checker, and a locked one counts every bit that differs from the pattern (R228, R254, log 140). -/
def doPrbsCheck (j lane : Nat) (bits : List Bool) (s : State) : State :=
  let k := linkOf s.lnk j
  let inv := (rget s.regs (pg .lnk j + 0x100)).getLsbD (4 + lane)
  let c := prbsCheck (rfld s.regs (prbsCtl j) 29 3) ⟨k.prbsRx.getD lane 0, k.prbs.getD lane 0, 0⟩ (polarity inv bits)
  raiseLnkIf (c.errors != 0) j 5 { s with
    regs := rbump (rset s.regs (prbsCtl j) (4 + lane) 1 (decide (64 ≤ c.good)).toNat) (pg .lnk j + 0x134 + 4 * lane) 0 32 c.errors
    lnk := setLink s.lnk j { k with prbs := k.prbs.set lane c.good, prbsRx := k.prbsRx.set lane c.next } }

/-- PRBS_CHECK of bits received on a lane, in PRBS mode with the checker on (R254). -/
def execPrbsCheck (j : LinkId) (lane : Fin 4) (bits : List Bool) (s : State) : Host.Outcome State Fault Refusal :=
  when (linkMode s.regs j == 2 && (rget s.regs (prbsCtl j)).getLsbD 27 && domOn s.pwr (linkDom j))
    s (doPrbsCheck j lane bits s)

end Sys2Proof.Machine
end

