-- ==== Sys2Proof/Machine/Loader.lean ====
section
/-!
DEFINITION. The loader (R344 to R357, R121 to R127, R151 to R154): what a load, a partial image and a patch batch write,
their reports, and DONE. The rows LOAD, PARTIAL, PARTIAL_COMMIT, PATCH, ABORT, DONE_RISE and DONE_FALL.
-/

namespace Sys2Proof.Machine

/-! ### Reports -/

/-- LDR_REPORT and LDR_REPORT_ADDR (R350). -/
def setReport (r addr : Nat) (m : SMap W32) : SMap W32 :=
  rput (rset m 0x2120 24 8 r) 0x2124 (BitVec.ofNat 32 addr)

/-- A command completes with report OK and the given bit of INT_STATUS: 0 LOAD_DONE, 2 COMMIT_DONE (R350). -/
def reportOk (bit : Nat) (s : State) : State := raiseInt { s with regs := setReport repOk 0 s.regs } 0x2000 bit

/-- The physical barn that holds a virtual barn (R126). -/
def physOf (s : State) (v : Nat) : Option Nat := (List.find? (fun e => e.2 == v + 1) s.arr.vmap).map fun e => e.1

/-- The fault record of a refused image: the physical coordinates of the failing record, or 0; step 0, tick all ones
(R149, R350). -/
def loadRec (pl : Nat → Option Nat) (e : LoadErr) : FaultRec :=
  let g := match e.at_ with
    | none => 0
    | some (v, st, p) => match pl v with
      | none => 0
      | some b => b * 1536 + st * 48 + p
  recAt e.code g 0 e.detail (2 ^ 64 - 1)

/-- A command ends with a failure's report; one with a fault code also writes the fault record and the event log; a
failing paddock frame is named in PDK_LOAD_ERR (R315, R350). INT_STATUS.LOAD_FAIL. -/
def failLoad (pl : Nat → Option Nat) (e : LoadErr) (s : State) : State :=
  let m := setReport e.report e.addr s.regs
  let m := match e.pdk with
    | some (cause, off) => rput (rput m 0x6108 (BitVec.ofNat 32 e.addr)) 0x610C (BitVec.ofNat 32 (cause * 2 ^ 28 + off))
    | none => m
  let f := loadRec pl e
  let t := { s with regs := m }
  raiseInt (if e.code = 0 then t else logRecs [f] { t with integ := { t.integ with frec := f.word } }) 0x2000 1

/-! ### Sources -/

/-- The bytes of a loader command's source: host memory or flash as they answer, or DRAM; nothing when the source
returns an error or ends early (R346, R350). -/
def sourceBytes (s : State) (src : Nat) (given : List Byte) : Option (List Byte) :=
  let n := (rget s.regs 0x2110).toNat
  let a := (rget s.regs 0x2108).toNat + (rget s.regs 0x210C).toNat * 2 ^ 32
  if src = 2 then (if dramReads s a n then some (Memory.bytes (dramNow s.dmc) a n) else none)
  else if src = 0 ∧ !s.hst.up then none
  else if given.length < n then none
  else some (given.take n)

/-- The placement descriptor at LDR_PLACE, if one is named (R348). -/
def placeDescr (s : State) : Option (List Byte) :=
  let a := (rget s.regs 0x2114).toNat + (rget s.regs 0x2118).toNat * 2 ^ 32
  if a = 0 then none else some (Memory.bytes (dramNow s.dmc) a 160)

/-- The placement descriptor can be read: none is named, or DRAM returns it (log 106). -/
def placeReadable (s : State) : Bool :=
  let a := (rget s.regs 0x2114).toNat + (rget s.regs 0x2118).toNat * 2 ^ 32
  a == 0 || dramReads s a 160

/-- The operating mode in effect: PWR_MODE.ACTIVE (R137). -/
def activeMode (m : SMap W32) : Nat := rfld m 0x4100 6 2

/-! ### The tables an image writes -/

/-- Structures in physical coordinates, keyed as in `Arr`; shed words by word key; shed declarations by barn. -/
structure Tables where
  imem  : SMap W64 := []
  dict  : SMap (BitVec 16) := []
  desc  : SMap W128 := []
  src   : SMap (BitVec 16) := []
  slots : SMap (BitVec 16) := []
  rmap  : SMap (BitVec 24) := []
  init  : SMap Bool := []
  words : List (Nat × W64) := []
  use   : SMap W32 := []
  own   : SMap W32 := []
deriving DecidableEq, Repr

/-- SRCBARN translated to the placed barn; an entry with VALID = 0 is unchanged (R110, R125). -/
def relocSrc (pl : Nat → Option Nat) (e : BitVec 16) : BitVec 16 :=
  if e.getLsbD 15 then setFld e 8 7 ((pl (fld e 8 7)).getD 0) else e

/-- LINK of a slot map entry of KIND link translated (R125). -/
def relocSlot (lk : Nat → Nat) (e : BitVec 16) : BitVec 16 := if fld e 14 2 = 1 then setFld e 7 5 (lk (fld e 7 5)) else e

/-- LINK of a receive-map position of KIND link translated (R125). -/
def relocPos (lk : Nat → Nat) (e : BitVec 24) : BitVec 24 := if fld e 22 2 = 2 then setFld e 17 5 (lk (fld e 17 5)) else e

/-- The tables with a record's entries, relocated (R125, R344). -/
def addRec (pl : Nat → Option Nat) (lk : Nat → Nat) (t : Tables) (r : Rec) : Tables :=
  match pl r.vbarn with
  | none => t
  | some b =>
    let g := b * 1536 + r.stall * 48 + r.proc
    let at_ {n : Nat} (k base : Nat) (f : BitVec n → BitVec n) : List (Nat × BitVec n) :=
      (entries k r.data).zipIdx.map fun e => (base + r.index + e.2, f (BitVec.ofNat n e.1))
    match r.type with
    | 1 => { t with imem := t.imem.putAll 0 (at_ 8 (g * 1024) id) }
    | 2 => { t with dict := t.dict.putAll 0 (at_ 2 (b * 4096) id) }
    | 3 => { t with desc := t.desc.putAll 0 (at_ 16 (b * 4096) id) }
    | 4 => { t with src := t.src.putAll 0 (at_ 2 (b * 4096) (relocSrc pl)) }
    | 5 => { t with slots := t.slots.putAll 0 (at_ 2 (b * 4096) (relocSlot lk)) }
    | 6 => { t with rmap := t.rmap.putAll 0 (at_ 4 (g * 64) (relocPos lk)) }
    | 7 => { t with init := t.init.putAll false ((List.range 256).map fun k =>
        (g * 256 + k, (r.data.getD (k / 8) 0).getLsbD (k % 8))) }
    | 8 => { t with words := t.words ++ at_ 8 (shedKey b r.proc 0) id }
    | 9 => { t with
        use := t.use.set b (BitVec.ofNat 32 (num r.data 0 4)), own := t.own.set b (BitVec.ofNat 32 (num r.data 4 4)) }
    | _ => t

/-- The tables of a list of records. -/
def tablesOf (pl : Nat → Option Nat) (lk : Nat → Nat) (l : List Rec) : Tables := l.foldl (addRec pl lk) {}

/-- A store whose entries of the given barns, `per` keys each, are replaced by new ones. -/
def refill {α : Type} [DecidableEq α] (d : α) (per : Nat) (barns : List Nat) (old new : SMap α) : SMap α :=
  (old.keep fun k => !barns.contains (k / per)).putAll d new

/-- A store without the entries of the given barns. -/
def dropBarns {α : Type} (per : Nat) (barns : List Nat) (m : SMap α) : SMap α := m.keep fun k => !barns.contains (k / per)

/-- The barn of a key of `tabSyn`. -/
def tabBarn (k : Nat) : Nat := if k / 2 ^ 24 = 4 then k % 2 ^ 24 / 98304 else k % 2 ^ 24 / 4096

/-- The array storage of the given barns replaced by an image's tables, with matching parity; slots and entries that no
record names are 0 (R347, R355, log 29). -/
def fillArr (barns : List Nat) (t : Tables) (a : Arr) : Arr :=
  { a with
    imem := refill 0 1572864 barns a.imem t.imem, imemSyn := dropBarns 1572864 barns a.imemSyn
    dict := refill 0 4096 barns a.dict t.dict, desc := refill 0 4096 barns a.desc t.desc
    src := refill 0 4096 barns a.src t.src, slots := refill 0 4096 barns a.slots t.slots
    rmap := refill 0 98304 barns a.rmap t.rmap, tabSyn := a.tabSyn.keep fun k => !barns.contains (tabBarn k)
    stInit := refill false 393216 barns a.stInit t.init }

/-- `refill` of a table of the golden image: an entry whose burst the DRAM controller refuses keeps what it held
(R218, R219, R507, log 136). -/
def refillGold {n : Nat} (s : State) (tab per : Nat) (barns : List Nat) (old new : SMap (BitVec n)) : SMap (BitVec n) :=
  let ok (k : Nat) : Bool := portStatus s true true (goldenAt goldenStart tab k) == 0
  (old.keep fun k => !(barns.contains (k / per) && ok k)).putAll 0 (new.filter fun e => ok e.1)

/-- The golden copy of the given barns, written ahead of each word through port 3 (R174, R175, R212). -/
def fillGolden (s : State) (barns : List Nat) (t : Tables) (i : Integ) : Integ :=
  { i with
    gImem := refillGold s 0 1572864 barns i.gImem t.imem, gDict := refillGold s 1 4096 barns i.gDict t.dict
    gDesc := refillGold s 2 4096 barns i.gDesc t.desc, gSrc := refillGold s 3 4096 barns i.gSrc t.src
    gSlots := refillGold s 4 4096 barns i.gSlots t.slots, gRmap := refillGold s 5 98304 barns i.gRmap t.rmap }

/-- What the controller records of a write of a burst of the golden image, whose data the golden stores hold: a refusal,
or the command (R217, R219). -/
def goldenPut (a : Nat) (s : State) : State :=
  let st := portStatus s true true a
  if st ≠ 0 then portNote st s else noteCmd a none s

/-- The bursts of the golden image that hold the words of a table. -/
def goldenBursts {n : Nat} (tab : Nat) (m : SMap (BitVec n)) (l : SMap Bool) : SMap Bool :=
  m.foldl (fun l e => l.set (goldenAt goldenStart tab e.1 / 64 * 64) true) l

/-- What the controller records of the write of an image's golden copy (R217, R219). -/
def goldenPuts (t : Tables) (s : State) : State :=
  let l := goldenBursts 0 t.imem (goldenBursts 1 t.dict (goldenBursts 2 t.desc (goldenBursts 3 t.src
    (goldenBursts 4 t.slots (goldenBursts 5 t.rmap [])))))
  l.foldl (fun s e => goldenPut e.1 s) s

/-- The instruction stores of the given barns are written: a scrubber that has partly read lines of one of them reads
them again (R175). -/
def rereadBarns (barns : List Nat) (i : Integ) : Integ :=
  let mark (q : Nat) (c : ScbCopy) : ScbCopy :=
    if c.row % 16 ≠ 0 ∧ barns.any (fun b => quadOf b == q) then { c with reread := true } else c
  let both (q : Nat) (c : Scb) : Scb := { c with a := mark q c.a, b := mark q c.b }
  { i with scb0 := both 0 i.scb0, scb1 := both 1 i.scb1, scb2 := both 2 i.scb2, scb3 := both 3 i.scb3 }

/-- The undo logs of the given barns emptied (R347, R355). -/
def dropUndo (barns : List Nat) (i : Integ) : Integ :=
  { i with
    undo := dropBarns 4 barns i.undo
    unlogged := i.unlogged.filter fun u => !barns.contains (u.shed / 4) }

/-- Shed words written with matching parity. -/
def putWords (l : List (Nat × W64)) (h : Shed) : Shed :=
  l.foldl (fun h e => { h with mem := Memory.putWord h.mem (8 * e.1) e.2, syn := h.syn.erase e.1 }) h

/-- A word key lies in a bank that the image uses through port A. -/
def inUse (use : SMap W32) (key : Nat) : Bool :=
  (use.get 0 (key / 2 ^ 17)).getLsbD (key % 2 ^ 17 / 2 ^ 15 * 8 + key % 2 ^ 15 / 4096)

/-- The used banks of the given barns set to zero with matching parity (R347). -/
def zeroBanks (use : SMap W32) (h : Shed) : Shed :=
  { h with mem := SMap.keep h.mem fun a => !inUse use (a / 8), syn := h.syn.keep fun k => !inUse use k }

/-- Owner code of a bank after a load: ARRAY for a used bank, or the declared port B owner of a used bank 7; NONE for
an unused bank (R200, R508). -/
def loadOwner (use own : W32) (shed bank : Nat) : Nat :=
  if !use.getLsbD (8 * shed + bank) then 0
  else if bank = 7 ∧ 1 < fld own (8 * shed) 8 then fld own (8 * shed) 8
  else 1

/-- SHD_ARRAY_USE and the owner map of a barn (R200). -/
def setOwners (use own : SMap W32) (b : Nat) (m : SMap W32) : SMap W32 :=
  let u := use.get 0 b
  let o := own.get 0 b
  rput ((List.range 8).foldl (fun m k => rput m (pg .shd b + 0x108 + 4 * k)
    ((List.range 4).foldl (fun w i => setFld w (8 * i) 8 (loadOwner u o (k / 2) (k % 2 * 4 + i))) 0)) m)
    (pg .shd b + 0x128) u

/-! ### Settings of a loaded image -/

/-- ARY_LITERALS, the LUTL pairs of each quadrant (R44). -/
def setLiterals (imem : SMap W64) (m : SMap W32) : SMap W32 :=
  (List.range 4).foldl (fun m q => rput m (pg .ary q + 0x114)
    (BitVec.ofNat 32 (imem.filter fun e => isSecond e.2 && e.1 / 1572864 / 24 == q).length)) m

/-- The virtual quadrant placed on a physical one: ARY_VQUAD. -/
def quadOn (m : SMap W32) (p : Nat) : Option Nat :=
  let w := rget m (pg .ary p + 0x11C)
  if w.getLsbD 31 then some (fld w 0 2) else none

/-- The physical quadrant of a virtual quadrant: the one that holds its barns; or its own where that one is free; or, for
the virtual quadrants left, in order, the physical ones left (R121, R122, log 129). -/
def quadFor (m : SMap W32) (q : Nat) : Nat :=
  let on := (List.range 4).map (quadOn m)
  match (List.range 4).find? fun p => quadOn m p == some q with
  | some p => p
  | none =>
    if (quadOn m q).isNone then q
    else
      let vs := (List.range 4).filter fun v => !on.contains (some v) && (quadOn m v).isSome
      let ps := (List.range 4).filter fun p => on.contains (some p) && (quadOn m p).isNone
      ps.getD (vs.idxOf q) q

/-- ARY_VQUAD of the physical quadrants that hold barns of an image (R121). -/
def heldQuads (pl : List (Nat × Nat)) (m : SMap W32) : SMap W32 :=
  (List.range 4).foldl (fun m q => match pl.find? fun e => e.2 / 24 == q with
    | some e => rput m (pg .ary q + 0x11C) (BitVec.ofNat 32 (2 ^ 31 + e.1 / 24))
    | none => rput m (pg .ary q + 0x11C) 0) m

/-- ARY_VQUAD of a placement, which maps every virtual quadrant onto a physical one (R121, R126). -/
def setVquads (pl : List (Nat × Nat)) (m : SMap W32) : SMap W32 :=
  let h := heldQuads pl m
  (List.range 4).foldl (fun m v => rput m (pg .ary (quadFor h v) + 0x11C) (BitVec.ofNat 32 (2 ^ 31 + v))) h

/-- ARY_VQUAD of the quadrants in which a partial image places barns (R126, R127). -/
def addVquads (pl : List (Nat × Nat)) (m : SMap W32) : SMap W32 :=
  pl.foldl (fun m e => rput m (pg .ary (e.2 / 24) + 0x11C) (BitVec.ofNat 32 (2 ^ 31 + e.1 / 24))) m

/-- The instruction words of the barns that the image places (R171). -/
def placedWords (a : Arr) : SMap W64 := a.imem.keep fun k => a.vmap.get 0 (k / 1572864) != 0

/-- TCK_UNDO_BOUND (R171). -/
def setUndoBound (multi : Bool) (a : Arr) (m : SMap W32) : SMap W32 :=
  let n := undoMax (placedWords a) a.desc
  rput m 0x316C (BitVec.ofNat 32 ((if multi && decide (2048 < n) then 2 ^ 31 else 0) + Nat.min n 4096))

/-- YMS_DEPOSIT.CAP for the image's count of memory-model writes (R304). -/
def setCap (mwrs : Nat) (m : SMap W32) : SMap W32 := rset m 0x514C 0 7 (Nat.min 64 (16384 - mwrs))

/-- DMC_MODEL of every model (R220). -/
def setModels (h : List Byte) (m : SMap W32) : SMap W32 :=
  let l := modelList h
  (List.range 256).foldl (fun m k => match l.find? fun e => e.1 == k with
    | some e => rput (rput (rput m (rkey 0xA124 k) (BitVec.ofNat 32 e.2)) (rkey 0xA128 k) (BitVec.ofNat 32 (e.2 / 2 ^ 32)))
        (rkey 0xA12C k) (BitVec.ofNat 32 (2 ^ 31 + modelLog h k))
    | none => rput (rput (rput m (rkey 0xA124 k) 0) (rkey 0xA128 k) 0) (rkey 0xA12C k) 0) m

/-- Counters that restart at a full load, as their register tables say (R500). -/
def clearCounts (m : SMap W32) : SMap W32 :=
  let m := (List.range 8).foldl (fun m k => rput m (rkey 0x515C k) 0) m
  let m := (List.range 10).foldl (fun m k => rput m (rkey 0x3178 k) 0) m
  let m := (List.range 4).foldl (fun m q => rput m (pg .scb q + 0x110) 0) m
  let m := (List.range 96).foldl (fun m b => rput m (pg .shd b + 0x140) 0) m
  rput (rput (rput m 0x3164 0) 0x3180 0) 0x2134 0

/-- The paddock frames of an image, by address without FORMAT (R314). -/
def frameMap (l : List Rec) : SMap (List Byte) :=
  (l.filter fun r => r.type == 0x10).foldl (fun m r => SMap.put [] m (r.paddr % 2 ^ 28) r.data) []

/-- Regions that hold frames, PDK_STATUS.REGIONS. -/
def frameRegions (f : SMap (List Byte)) : BitVec 8 := f.foldl (fun w e => w ||| BitVec.ofNat 8 (2 ^ (e.1 / 2 ^ 21 % 8))) 0

/-- The PDK registers that the loader writes for a region: PDK_GW_MODE and PDK_RCLK (R318, R324). -/
def setRegion (f : SMap (List Byte)) (r : Nat) (m : SMap W32) : SMap W32 :=
  let g := f.get [] (frameKey 5 r 0)
  let c := f.get [] (frameKey 4 r 0)
  let m := rset (rset m 0x6110 r 1 (frameFld g 10 1)) 0x6110 (8 + r) 1 (frameFld g 11 1)
  rput m (rclkKey r) (BitVec.ofNat 32 ((rfld m (rclkKey r) 30 1) * 2 ^ 30 + frameFld c 10 1 * 2 ^ 29
    + frameFld c 11 4 * 2 ^ 12 + frameFld c 5 5 * 2 ^ 5 + frameFld c 0 5))

/-- PDK_STATUS, PDK_GW_MODE and PDK_RCLK of the given regions (R330). -/
def setPaddock (fmt : Option Nat) (f : SMap (List Byte)) (regions : List Nat) (m : SMap W32) : SMap W32 :=
  rput (regions.foldl (fun m r => setRegion f r m) m) 0x6104
    (BitVec.ofNat 32 (fmt.getD 0 * 2 ^ 28 + (frameRegions f).toNat * 2 ^ 8))

/-- Wakes the paddock domain when it is below ON. -/
def wakePdk (s : State) : State := if domOn s.pwr 26 then cancelClose 26 s else wakeNow 26 s

/-- The loader's DRAM requests wait for the end of a frequency change in progress, behind the port's earlier ones (R212,
R225). -/
def afterChange (s : State) : State := if freqBusy s then doFreqChangeDone s else s

/-- Wakes DRAM and the array groups of the given barns below ON, and waits until the controller starts requests (R225,
R452). -/
def wakeFill (barns : List Nat) (s : State) : State :=
  afterChange (((List.range 16).filter (fun d => barns.any fun b => b / 6 == d) ++ [22, 23]).foldl
    (fun s d => if domOn s.pwr d then cancelClose d s else wakeNow d s) s)

/-- DRAM is ON before a loader command reads its source there, and its controller records the reads (R216, R219,
R280). -/
def wakeSource (src : Nat) (s : State) : State :=
  if src = 2 then
    let n := (rget s.regs 0x2110).toNat
    let a := (rget s.regs 0x2108).toNat + (rget s.regs 0x210C).toNat * 2 ^ 32
    readsNote a n (wakeFill [] s)
  else s

/-- The same before LOAD reads a placement descriptor there. -/
def wakePlace (s : State) : State :=
  if (placeDescr s).isSome then readsNote ((rget s.regs 0x2114).toNat + (rget s.regs 0x2118).toNat * 2 ^ 32) 160 (wakeFill [] s)
  else s

/-! ### LOAD -/

/-- A LOAD has read its image: what the check pass found (R347). -/
structure Checked where
  hdr : List Byte
  rd  : Reading
  pl  : List (Nat × Nat)
deriving DecidableEq, Repr

/-- The context of a full image. -/
def fullCtx (h : List Byte) : Ctx := ⟨h, h, none⟩

/-- The instruction counts of a reading agree with a header's (R132). -/
def countsAgree (h : List Byte) (x : Reading) : Bool :=
  totals (countMap (SMap.putAll 0 [] (imgWords x.recs)) (SMap.putAll 0 [] (imgDescs x.recs))) == (hCalls h, hMwrs h)

/-- DIGEST of the contract section is SHA-512 of the stream (R130, R344). -/
def digestOk (h : List Byte) (x : Reading) : Bool := (Config.sha512 x.stream).toNat == num h 0x1C0 64

/-- The check pass of a full image, in the order of the table Check order (R347). -/
def checkFull (s : State) (src : List Byte) : Except LoadErr Checked := do
  let h := src.take 1024
  let o := s.sec.otp
  guardE (1024 ≤ src.length) (plainErr repSource)
  guardE (headerFormed 2 h) (plainErr repHeader)
  guardE (designKey o h) (sigErr 1)
  guardE (signed h) (sigErr 0)
  guardE (contractOk h) (plainErr repHeader)
  guardE (latOk o.stepping h) (latErr o.stepping h)
  guardE (maxBudget h ≤ modeCap (activeMode s.regs)) (plainErr repBudget)
  guardE (placeReadable s) (plainErr repSource)
  let pl ← placement o.barns (placeDescr s) h
  guardE ((modelMisfit (dramSize s.dmc) h).isNone)
    { report := repModel, addr := (modelMisfit (dramSize s.dmc) h).getD 0 }
  let x ← readImage (fullCtx h) o src
  guardE (countsAgree h x) (plainErr repCount)
  guardE (digestOk h x) (sigErr 2)
  .ok ⟨h, x, pl⟩

/-- The second reading of the source in the write pass: every segment verified again, its tag the check pass's, counts
and DIGEST recomputed (R132, R347). -/
def readAgain (o : Otp) (c : Checked) (src : List Byte) : Except LoadErr Reading := do
  guardE (1024 ≤ src.length) (plainErr repSource)
  guardE (src.take 1024 = c.hdr) (sigErr 3)
  let x ← readImage (fullCtx c.hdr) o src
  guardE (x.tags = c.rd.tags) (sigErr 3)
  guardE (countsAgree c.hdr x) (plainErr repCount)
  guardE (digestOk c.hdr x) (sigErr 3)
  .ok x

/-- Acceptance of a LOAD: EMPTY at once, DONE driven low, the fault record and its count cleared; the paddock's pins and
flip-flops are as before DONE (R323, R347, R351). -/
def acceptLoad (s : State) : State :=
  { s with
    tck := { ({} : Tck) with count := s.tck.count, brk := s.tck.brk, resumeGen := s.clk.gen }
    exe := { ({} : Exe) with late := s.exe.late }
    pen := { s.pen with cur := {}, old := {}, deps := [], depsOld := [], inOld := none, inNext := none, due := false, asserts := [] }
    integ := { s.integ with frec := 0, repairs := [], repairsB := [] }
    pdk := beforeDone s.pdk
    ldr := { s.ldr with image := none, staged := none, busy := false, phase := 0, doneOut := false, doneIn := false }
    regs := rput s.regs 0x3150 0 }

/-- The virtual links keep their numbers until the system bring-up places them (R125, R256). -/
def keepLinks (v : Nat) : Nat := v

/-- The settings that a full load writes (R200, R171, R220, R304). -/
def fullRegs (c : Checked) (a : Arr) (t : Tables) (x : Reading) (m : SMap W32) : SMap W32 :=
  let m := (List.range 96).foldl (fun m b => setOwners t.use t.own b m) (clearCounts m)
  let m := setVquads c.pl (setLiterals (placedWords a) (setUndoBound (hMulti c.hdr) a m))
  let m := setCap (hMwrs c.hdr) (rput (setModels c.hdr m) 0xA130 (BitVec.ofNat 32 goldenKib))
  let m := setPaddock x.fmt (frameMap x.recs) (List.range 8) m
  rput ((List.range 24).foldl (fun m j => rput m (pg .lnk j + 0x124) 0) m) 0xB100 0

/-- Golden configuration of a scrubber: SCB_GOLDEN names the region's base (R174, R349). -/
def goldenCfg (c : Scb) : Scb :=
  let f (x : ScbCfg) : ScbCfg := { x with lo := BitVec.ofNat 32 goldenStart, hi := 0 }
  { c with c0 := f c.c0, c1 := f c.c1, c2 := f c.c2, a := { c.a with lines := [] }, b := { c.b with lines := [] } }

/-- The state after a successful write pass: every structure written under the placement, the run state LOADED, DONE
released when MULTI = 0 (R347, R351). -/
def installFull (c : Checked) (x : Reading) (s : State) : State :=
  let barns := c.pl.map fun e => e.2
  let s := voteCfg 3 (voteCfg 2 (voteCfg 1 (voteCfg 0 (wakeFill barns (if frameMap x.recs = [] then s else wakePdk s)))))
  let t := tablesOf (physIn c.pl) keepLinks x.recs
  let a := fillArr barns t s.arr
  let a := { a with
    vmap := SMap.putAll 0 [] (c.pl.map fun e => (e.2, e.1 + 1))
    four := SMap.putAll false [] (c.pl.map fun e => (e.2, hFour c.hdr e.1))
    budget := SMap.putAll 0 [] (c.pl.map fun e => (e.2, hBudget c.hdr e.1))
    shedLat := if hLattab c.hdr = 2 then 3 else 4, linkBud := [] }
  let i := rereadBarns barns (fillGolden s barns t (dropUndo barns s.integ))
  let d := placeDescr s
  let s := goldenPuts t s
  { s with
    arr := a
    shed := putWords t.words (zeroBanks t.use s.shed)
    integ := { i with scb0 := goldenCfg i.scb0, scb1 := goldenCfg i.scb1, scb2 := goldenCfg i.scb2, scb3 := goldenCfg i.scb3 }
    pdk := { s.pdk with
      frames := frameMap x.recs, queues := [], brReq := [], brResp := [], brOut := 0, rtree := [], io := []
      ff := ffReset (frameMap x.recs) }
    pen := { s.pen with staging := 0, capt := 0 }
    dbg := { s.dbg with force := [] }
    tck := { s.tck with
      run := .loaded, depth := hDepth c.hdr, declared := hDepth c.hdr, multi := hMulti c.hdr, budget := hCtree c.hdr }
    ldr := { s.ldr with
      image := some ⟨Config.sha512 c.hdr, c.hdr, hCalls c.hdr, hMwrs c.hdr⟩
      counts := countMap (SMap.putAll 0 [] (imgWords x.recs)) (SMap.putAll 0 [] (imgDescs x.recs))
      lmap := match d with
        | some d => if num d 1 1 = 1 then some (SMap.putAll 0 [] ((List.range 24).filterMap fun i =>
            if num d (0x80 + i) 1 = 0xFF then none else some (i, num d (0x80 + i) 1 + 1))) else none
        | none => none
      chain := 0, doneOut := !hMulti c.hdr }
    regs := fullRegs c a t x s.regs }

/-- A write pass that fails: the array's contents are undefined until the next full load (R132, R347). How many of the
shed words had been written is open. -/
def looseLoad (c : Checked) (s : State) : State :=
  let t := tablesOf (physIn c.pl) keepLinks c.rd.recs
  let k := (Config.freeWord (s.clk.free + 1)).toNat % (t.words.length + 1)
  { s with
    arr := { Config.looseArr s.clk.free with vmap := [] }
    shed := putWords (t.words.take k) s.shed
    clk := { s.clk with free := s.clk.free + 2 } }

/-- LOAD, accepted (R347). -/
def runLoad (src : Nat) (first second : List Byte) (s : State) : State :=
  let a := acceptLoad (wakePlace (wakeSource src s))
  match sourceBytes a src first with
  | none => failLoad (fun _ => none) (plainErr repSource) a
  | some b => match checkFull a b with
    | .error e => failLoad (fun _ => none) e a
    | .ok c => match sourceBytes a src second with
      | none => failLoad (physIn c.pl) (plainErr repSource) (looseLoad c a)
      | some b2 => match readAgain a.sec.otp c b2 with
        | .error e => failLoad (physIn c.pl) e (looseLoad c a)
        | .ok x => reportOk 0 (installFull c x a)

/-! ### PARTIAL -/

/-- RBARNS and RPDK of a partial image. -/
def rBarns (h : List Byte) : BitVec 96 := BitVec.ofNat 96 (num h 0x70 12)
def rPdk (h : List Byte) : BitVec 8 := BitVec.ofNat 8 (num h 0x7C 1)

/-- The fields of a partial image that must equal the loaded image's, and VUSED and BARNTAB outside its region
(R353). -/
def sameFields (old new : List Byte) : Bool :=
  slice old 0x82 8 == slice new 0x82 8 && slice old 0xA0 96 == slice new 0xA0 96
    && (List.range 96).all fun v =>
      (rBarns new).getLsbD v || (hUsed old v == hUsed new v && barnEntry old v == barnEntry new v)

/-- The loaded totals less the old region's counts plus a partial image's (R353). -/
def newTotals (s : State) (i : Image) (h : List Byte) : Nat × Nat :=
  let old := totals (s.ldr.counts.keep fun v => (rBarns h).getLsbD v)
  (i.calls - old.1 + hCalls h, i.mwrs - old.2 + hMwrs h)

/-- Placement of the used barns of a partial image: barns of the loaded image stay, a newly used one takes the lowest
enabled barn of its quadrant that holds none; nothing when none remains (R127). DESIGN CHOICE (log 138): an exclusion mask
counts at the LOAD that carries it, and a barn that this image frees still holds its virtual barn here. -/
def placeNew (s : State) : List Nat → List Nat → Option (List (Nat × Nat))
  | _, [] => some []
  | taken, v :: vs => match physOf s v with
    | some b => (placeNew s taken vs).map fun l => (v, b) :: l
    | none =>
      match ((List.range 24).map fun i => 24 * quadFor s.regs (v / 24) + i).find? fun b =>
          s.sec.otp.barns.getLsbD b && s.arr.vmap.get 0 b == 0 && !taken.contains b with
      | none => none
      | some b => (placeNew s (b :: taken) vs).map fun l => (v, b) :: l

/-- The used virtual barns of a partial image's region. -/
def regionUsed (h : List Byte) : List Nat := (usedBarns h).filter fun v => (rBarns h).getLsbD v

/-- The check pass of a partial image (R347, R353). -/
def checkPart (s : State) (i : Image) (src : List Byte) : Except LoadErr Checked := do
  let h := src.take 1024
  let o := s.sec.otp
  guardE (1024 ≤ src.length) (plainErr repSource)
  guardE (headerFormed 3 h) (plainErr repHeader)
  guardE (designKey o h) (sigErr 1)
  guardE (signed h) (sigErr 0)
  guardE (i.digest.toNat == num h 0x360 64) (sigErr 4)
  guardE (sameFields i.header h) (plainErr repHeader)
  guardE (contractOk h && decide ((newTotals s i h).1 ≤ 16384) && decide ((newTotals s i h).2 ≤ 16384)) (plainErr repHeader)
  guardE (latOk o.stepping h) (latErr o.stepping h)
  guardE (maxBudget h ≤ modeCap (activeMode s.regs)) (plainErr repBudget)
  let pl ← match placeNew s [] (regionUsed h) with
    | some l => .ok l
    | none => .error (plainErr repPlacement)
  let x ← readImage ⟨h, i.header, some (rBarns h, rPdk h)⟩ o src
  guardE (countsAgree h x) (plainErr repCount)
  guardE (digestOk h x) (sigErr 2)
  .ok ⟨h, x, pl⟩

/-- A burst of the staged stream in the shadow region, written through port 3 (R212, R217, R219, R353). -/
def stageBurst (a : Nat) (l : List Byte) (s : State) : State :=
  let st := portStatus s true true a
  if st ≠ 0 then portNote st s
  else
    let t := noteCmd a (some [(a, l)]) s
    { t with dmc := stored a l t.dmc }

/-- The verified stream in the shadow region, from its base on (R349, R353, log 44). -/
def stageStream (l : List Byte) (s : State) : State :=
  let t := wakeFill [] s
  (cutBursts (l.length + 1) (dramSize t.dmc - 2 ^ 30) l).foldl (fun s p => stageBurst p.1 p.2 s) t

/-- PARTIAL, accepted: the checked stream is staged and waits for its commit (R353). -/
def runPart (src : Nat) (given : List Byte) (s : State) : State :=
  let s := wakeSource src s
  match s.ldr.image, sourceBytes s src given with
  | some i, some b => match checkPart s i b with
    | .error e => failLoad (physOf s) e s
    | .ok c =>
      let s := stageStream c.rd.stream s
      { s with ldr := { s.ldr with
        staged := some ⟨c.hdr, Config.sha512 c.hdr, c.rd.stream, rBarns c.hdr != 0, rPdk c.hdr != 0⟩
        busy := true, phase := 4 } }
  | _, _ => failLoad (physOf s) (plainErr repSource) s

/-- The records of a staged stream. `k`: at most so many. -/
def recsOf : Nat → List Byte → List Rec
  | 0, _ => []
  | k + 1, l => match takeRec l with
    | none => []
    | some (r, rest) => r :: recsOf k rest

/-- The physical link that carries a virtual link: LNK_VMAP (R256). -/
def physLink (m : SMap W32) (v : Nat) : Nat :=
  ((List.range 24).find? fun j => let w := rget m (pg .lnk j + 0x124); w.getLsbD 31 && fld w 0 5 == v).getD v

/-- The loaded image's header with the entries of a partial image's region (R355). -/
def mergeHeader (old new : List Byte) : List Byte :=
  let used : Nat := (List.range 96).foldl (fun n v =>
    if (if (rBarns new).getLsbD v then hUsed new v else hUsed old v) then n + 2 ^ v else n) 0
  let tab : List Byte := (List.range 96).flatMap fun v =>
    slice (if (rBarns new).getLsbD v then new else old) (0x100 + 2 * v) 2
  old.take 0x90 ++ wordBytes (BitVec.ofNat 96 used) 12 ++ slice old 0x9C 0x64 ++ tab ++ old.drop 0x1C0

/-- The commit of a partial image's array part (R355): its barns placed, the golden copy and the array written, state
bits and result rings at their initial values and 0, undo logs emptied, named shed words written, owners, budgets and
modes set. -/
def commitArr (g : Staged) (i : Image) (s : State) : State :=
  let h := g.header
  let region := (List.range 96).filter fun v => (rBarns h).getLsbD v
  let pl := (placeNew s [] (regionUsed h)).getD []
  let old := region.filterMap (physOf s)
  let barns := old ++ (pl.map fun e => e.2)
  let s := wakeFill barns s
  let phys (v : Nat) : Option Nat := (physIn pl v).or (physOf s v)
  let t := tablesOf phys (physLink s.regs) (recsOf g.stream.length g.stream)
  let a := fillArr barns t s.arr
  let cut {α : Type} (per : Nat) (m : SMap α) : SMap α := dropBarns per barns m
  let bits (m : SMap Bool) : SMap Bool := refill false 393216 barns m t.init
  let a := { a with
    stCur := bits a.stCur, stRet := bits a.stRet, stNext := cut 393216 a.stNext
    stCurSyn := cut 24576 a.stCurSyn, stRetSyn := cut 24576 a.stRetSyn, stNextSyn := cut 24576 a.stNextSyn
    ringCur := cut 1572864 a.ringCur, ringPrev := cut 1572864 a.ringPrev, ringRet := cut 1572864 a.ringRet
    ringCurSyn := cut 98304 a.ringCurSyn, ringPrevSyn := cut 98304 a.ringPrevSyn, ringRetSyn := cut 98304 a.ringRetSyn
    vmap := (cut 1 a.vmap).putAll 0 (pl.map fun e => (e.2, e.1 + 1))
    four := (cut 1 a.four).putAll false (pl.map fun e => (e.2, hFour h e.1))
    budget := (cut 1 a.budget).putAll 0 (pl.map fun e => (e.2, hBudget h e.1)) }
  let n := newTotals s i h
  let i' := rereadBarns barns (fillGolden s barns t (dropUndo barns s.integ))
  let s := goldenPuts t s
  let m := barns.foldl (fun m b => setOwners t.use t.own b m) s.regs
  { s with
    arr := a
    shed := putWords t.words s.shed
    integ := i'
    dbg := { s.dbg with force := s.dbg.force.filter fun e => !barns.contains (e.2.key / 393216) }
    ldr := { s.ldr with
      image := some { i with header := mergeHeader i.header h, calls := n.1, mwrs := n.2 }
      counts := (s.ldr.counts.keep fun v => !(rBarns h).getLsbD v).putAll (0, 0)
        (countMap (SMap.putAll 0 [] (imgWords (recsOf g.stream.length g.stream)))
          (SMap.putAll 0 [] (imgDescs (recsOf g.stream.length g.stream)))) }
    regs := setCap n.2 (addVquads pl (setLiterals (placedWords a) (setUndoBound (hMulti i.header) a m))) }

/-- PDK_CTRL after a commit: a paddock that a wake from OFF cleared leaves the state before DONE, its flip-flops
released (R330, R356, log 141). -/
def freeFf (freed : Bool) (m : SMap W32) : SMap W32 := if freed then rset m 0x6100 0 1 0 else m

/-- The commit of the paddock regions: each is cleared and written, its staging register holds 0, its flip-flops start
from their reset values; after DONE, or where a wake from OFF had cleared them, its regions leave the state before DONE
(R330, R356). The whole commit is one command (log 25). -/
def commitPdk (g : Staged) (s : State) : State :=
  let s := wakePdk s
  let freed := (rget s.regs 0x6104).getLsbD 0 && (s.ldr.doneIn || runIn s [.running, .draining, .halted, .faulted])
  let regions := (List.range 8).filter fun r => (rPdk g.header).getLsbD r
  let new := frameMap (recsOf g.stream.length g.stream)
  let mine (k : Nat) : Bool := regions.contains (k / 2 ^ 21 % 8) && !(k / 2 ^ 24 == 4 && k % 2 ^ 21 != 0)
  let f := (s.pdk.frames.keep fun k => !mine k).putAll [] new
  let fmt := ((recsOf g.stream.length g.stream).find? fun r => r.type == 0x10).map fun r => fFormat r.paddr
  let shown := rfld s.regs 0x6104 28 4
  { s with
    pdk := { s.pdk with
      frames := f
      ff := (s.pdk.ff.keep fun k => !regions.contains (k / 49152)).putAll false
        ((ffReset new).filter fun e => regions.contains (e.1 / 49152))
      queues := s.pdk.queues.keep fun b => !regions.contains (b / 12)
      rtree := s.pdk.rtree.keep fun r => !regions.contains r
      io := s.pdk.io.keep fun b => !regions.contains (b / 40)
      held := if freed then regions.foldl (fun w r => w &&& ~~~(BitVec.ofNat 8 (2 ^ r))) s.pdk.held else s.pdk.held }
    pen := { s.pen with
      staging := regions.foldl (fun w r => setFld w (128 * r) 128 0) s.pen.staging
      capt := regions.foldl (fun w r => w &&& ~~~(BitVec.ofNat 8 (2 ^ r))) s.pen.capt }
    regs := freeFf freed (setPaddock (fmt.or (if shown = 0 then none else some shown)) f regions s.regs) }

/-- The load chain with a digest appended (R357). -/
def extend (chain d : BitVec 512) : BitVec 512 := Config.sha512 (wordBytes chain 64 ++ wordBytes d 64)

/-- A staged part may be committed now: the paddock's in any state but EMPTY, the array's in LOADED, HALTED or FAULTED
(R355, R356). -/
def arrNow (s : State) (g : Staged) : Bool := g.arr && runIn s [.loaded, .halted, .faulted]
def pdkNow (s : State) (g : Staged) : Bool := g.pdk && s.tck.run != .empty

/-- The effect of PARTIAL_COMMIT: the parts that may be committed are; after the last, the load chain is extended and
COMMIT_DONE is set (R355 to R357). R137 applies to the new budgets. -/
def doPartialCommit (s : State) : State :=
  match s.ldr.staged, s.ldr.image with
  | some g, some i =>
    if arrNow s g && decide (modeCap (activeMode s.regs) < maxBudget g.header) then
      failLoad (physOf s) (plainErr repBudget)
        { s with ldr := { s.ldr with staged := none, busy := false, phase := 0 } }
    else
      let t := if pdkNow s g then commitPdk g s else s
      let t := if arrNow s g then commitArr g i t else t
      let g' : Staged := { g with arr := g.arr && !arrNow s g, pdk := g.pdk && !pdkNow s g }
      if g'.arr || g'.pdk then { t with ldr := { t.ldr with staged := some g' } }
      else reportOk 2 { t with ldr := { t.ldr with
        staged := none, busy := false, phase := 0, chain := extend t.ldr.chain g.digest } }
  | _, _ => s

/-- PARTIAL_COMMIT of a staged image once the run state allows (R355, R356). -/
def execPartialCommit (s : State) : Host.Outcome State Fault Refusal :=
  when (s.ldr.image.isSome && s.ldr.staged.any fun g => arrNow s g || pdkNow s g || (!g.arr && !g.pdk)) s (doPartialCommit s)

/-! ### PATCH -/

/-- A patch record (R152). -/
structure PatchRec where
  table : Nat
  vbarn : Nat
  stall : Nat
  proc  : Nat
  index : Nat
  rsv   : Nat
  value : W64
deriving DecidableEq, Repr

/-- The fields of a patch record. -/
def PatchRec.of (w : W128) : PatchRec :=
  ⟨fld w 120 8, fld w 113 7, fld w 108 5, fld w 102 6, fld w 90 12, fld w 64 26, w.extractLsb' 0 64⟩

/-- The records of a batch. -/
def patchRecs (l : List Byte) : List PatchRec := (entries 16 l).map fun e => PatchRec.of (BitVec.ofNat 128 e)

/-- A patch record that R153 admits. -/
def patchOk (s : State) (h : List Byte) (p : PatchRec) : Bool :=
  let v := p.value.toNat
  let flat := p.stall == 0 && p.proc == 0
  p.rsv == 0 && hUsed h p.vbarn && (match p.table with
    | 1 => flat && decide (p.index < 1024) && decide (v < 2 ^ 40)
        && !(decide (2 ^ 15 ≤ v) && (Desc.of (s.arr.desc.get 0 ((physOf s p.vbarn).getD 0 * 4096 + p.index))).kind == 1)
    | 2 => flat && decide (p.index < 64) && decide (v < 2 ^ 16) && srcOk h v
    | 3 => flat && decide (v < 2 ^ 16) && slotOk h v
    | 4 => decide (p.proc < 48) && decide (p.index < 64) && decide (v < 2 ^ 24) && rmapOk h v
    | _ => false)

/-- The golden copy of one entry is written through port 3, before the entry itself, unless the controller refuses it
(R154, R175, R219, log 136). `i`: integrity with the entry written. -/
def patchGold (tab k : Nat) (i : Integ) (s : State) : State :=
  let a := goldenAt goldenStart tab k
  goldenPut a (if portStatus s true true a = 0 then { s with integ := i } else s)

/-- One record applied, relocated as an image is, to the device and to the golden copy (R154). -/
def applyPatch (s : State) (p : PatchRec) : State :=
  match physOf s p.vbarn with
  | none => s
  | some b =>
    let k := b * 4096 + p.index
    let kr := (b * 1536 + p.stall * 48 + p.proc) * 64 + p.index
    let lk := physLink s.regs
    match p.table with
    | 1 =>
      let w := setFld (s.arr.desc.get 0 k) 0 40 p.value.toNat
      patchGold 2 k { s.integ with gDesc := s.integ.gDesc.put 0 k w } { s with arr := { s.arr with desc := s.arr.desc.put 0 k w, tabSyn := s.arr.tabSyn.erase (2 ^ 24 + k) } }
    | 2 =>
      let w := relocSrc (physOf s) (p.value.setWidth 16)
      patchGold 3 k { s.integ with gSrc := s.integ.gSrc.put 0 k w } { s with arr := { s.arr with src := s.arr.src.put 0 k w, tabSyn := s.arr.tabSyn.erase (2 * 2 ^ 24 + k) } }
    | 3 =>
      let w := relocSlot lk (p.value.setWidth 16)
      patchGold 4 k { s.integ with gSlots := s.integ.gSlots.put 0 k w } { s with arr := { s.arr with slots := s.arr.slots.put 0 k w, tabSyn := s.arr.tabSyn.erase (3 * 2 ^ 24 + k) } }
    | 4 =>
      let w := relocPos lk (p.value.setWidth 24)
      patchGold 5 kr { s.integ with gRmap := s.integ.gRmap.put 0 kr w } { s with arr := { s.arr with rmap := s.arr.rmap.put 0 kr w, tabSyn := s.arr.tabSyn.erase (4 * 2 ^ 24 + kr) } }
    | _ => s

/-- The states in which a batch is accepted (R151). -/
def patchState (s : State) (h : List Byte) : Bool :=
  hPatchOk h && (s.tck.run == .halted || (s.tck.run == .loaded && !hMulti h))

/-- PATCH, accepted by the loader: every record is checked before any is applied (R153, R154). -/
def runPatch (src : Nat) (given : List Byte) (s : State) : State :=
  match s.ldr.image with
  | none => failLoad (physOf s) (plainErr repPatchState) s
  | some i =>
    if !patchState s i.header then failLoad (physOf s) (plainErr repPatchState) s
    else
      let s := wakeSource src s
      match sourceBytes s src given with
      | none => failLoad (physOf s) (plainErr repSource) s
      | some b =>
        let l := patchRecs b
        if l.length = 0 ∨ 256 < l.length then failLoad (physOf s) (plainErr repPatchRange) s
        else match l.findIdx? fun p => !patchOk s i.header p with
          | some k => failLoad (physOf s) { report := repPatchRange, addr := k } s
          | none =>
            let t := l.foldl applyPatch (wakeFill (l.filterMap fun p => physOf s p.vbarn) s)
            reportOk 0 { t with
              ldr := { t.ldr with chain := extend t.ldr.chain (Config.sha512 (b.take (16 * l.length))) }
              regs := rbump t.regs 0x2134 0 32 1 }

/-! ### LDR_CMD -/

/-- The region of a partial image holds no barn (R346). -/
def pdkOnly (b : Option (List Byte)) : Bool := b.any fun l => decide (1024 ≤ l.length) && rBarns l == 0

/-- LDR_CMD (R346): a command that its state does not accept is refused with LOAD_STATE. -/
def ldrCommand (v : W32) (first second : List Byte) (s : State) : State :=
  let src := Nat.min 2 (fld v 4 2)
  let code := fld v 0 4
  let ready := (rget s.regs 0x2100).getLsbD 0
  let idle := ready && !s.ldr.busy
  if code = 1 ∧ idle ∧ runIn s [.empty, .loaded, .halted, .faulted] then runLoad src first second s
  else if code = 2 ∧ idle ∧ (runIn s [.loaded, .halted, .faulted]
      || (s.tck.run != .empty && pdkOnly (sourceBytes s src first))) then runPart src first s
  else if code = 3 ∧ idle then runPatch src first s
  else if code = 4 ∧ ready ∧ s.ldr.busy then
    failLoad (physOf s) (plainErr repAborted) { s with ldr := { s.ldr with staged := none, busy := false, phase := 0 } }
  else failLoad (physOf s) (plainErr repState) s

/-- A write of LDR_CMD: its fields' checks, then the command. -/
def ldrCmdWrite (r : Requester) (v : W32) (first second : List Byte) (s : State) : State :=
  let t := fieldWrite (clampSrc r) 0 0x2104 v s
  ldrCommand t.2 first second t.1

/-- The effect of LOAD: LDR_CMD written with CODE 1. -/
def doLoad (r : Requester) (v : W32) (first second : List Byte) (s : State) : State :=
  viaWrite r 0x2104 (ldrCmdWrite r (setFld v 0 4 1) first second) s

/-- LOAD; `first` and `second` are the bytes that host memory or flash returns in the two passes (R347). -/
def execLoad (r : Requester) (v : W32) (first second : List Byte) (s : State) : Host.Outcome State Fault Refusal :=
  .next (doLoad r v first second s)

/-- The effect of PARTIAL: LDR_CMD written with CODE 2. -/
def doPartialImg (r : Requester) (v : W32) (src : List Byte) (s : State) : State :=
  viaWrite r 0x2104 (ldrCmdWrite r (setFld v 0 4 2) src []) s

/-- PARTIAL (R353). -/
def execPartialImg (r : Requester) (v : W32) (src : List Byte) (s : State) : Host.Outcome State Fault Refusal :=
  .next (doPartialImg r v src s)

/-- The effect of PATCH: LDR_CMD written with CODE 3. -/
def doPatch (r : Requester) (v : W32) (src : List Byte) (s : State) : State :=
  viaWrite r 0x2104 (ldrCmdWrite r (setFld v 0 4 3) src []) s

/-- PATCH (R151 to R154). -/
def execPatch (r : Requester) (v : W32) (src : List Byte) (s : State) : Host.Outcome State Fault Refusal :=
  .next (doPatch r v src s)

/-- The effect of ABORT: LDR_CMD written with CODE 4. -/
def doAbort (r : Requester) (s : State) : State := viaWrite r 0x2104 (ldrCmdWrite r 4 [] []) s

/-- ABORT (R346, R350). -/
def execAbort (r : Requester) (s : State) : Host.Outcome State Fault Refusal := .next (doAbort r s)

/-! ### DONE -/

/-- The effect of DONE_RISE: state bits take their initial values, the gateways and staging registers read 0, the loader
clears PDK_CTRL.FFRESET, and the target pins leave their reset state, except in a paddock that a wake from OFF has
cleared (R42, R111, R323, R330, R351). -/
def doDoneRise (s : State) : State :=
  let t := if runIn s [.loaded, .waiting] then
      { s with
        arr := { s.arr with
          stCur := s.arr.stInit, stRet := s.arr.stInit, stNext := [], stCurSyn := [], stRetSyn := [], stNextSyn := [] }
        pen := { s.pen with out := 0, staging := 0, capt := 0 }
        regs := rset s.regs 0x6100 0 1 0 }
    else s
  let held := if (rget t.regs 0x6104).getLsbD 0 then t.pdk.held else 0
  raiseInt { t with pdk := { t.pdk with held := held }, ldr := { t.ldr with doneIn := true } } 0x2000 3

/-- DONE_RISE: this chip and every other have released DONE (R351). -/
def execDoneRise (s : State) : Host.Outcome State Fault Refusal := when (s.ldr.doneOut && !s.ldr.doneIn) s (doDoneRise s)

/-- The effect of DONE_FALL: after tick 0 has begun nothing in the run changes and INT_STATUS.DONE_FALL is set (R352);
before, the paddock's pins and flip-flops are as before DONE again (R323, R351). -/
def doDoneFall (s : State) : State :=
  let t := { s with ldr := { s.ldr with doneIn := false } }
  if runIn s [.running, .draining, .halted, .faulted] then raiseInt t 0x2000 4
  else { t with pdk := beforeDone t.pdk }

/-- DONE_FALL of the ball while it is high (R352). -/
def execDoneFall (s : State) : Host.Outcome State Fault Refusal := when s.ldr.doneIn s (doDoneFall s)

end Sys2Proof.Machine
end

