-- ==== Sys2Proof/Machine/Security.lean ====
section
/-!
DEFINITION. Boot and the security block (R332 to R337, R358, R359): the rows BOOT, RETRY, OTP_PROG, ROLLBACK_ADVANCE,
IDENTITY and ATTEST.
-/

namespace Sys2Proof.Machine

/-! ### Firmware -/

/-- SEC_BOOT.CODE of a failing firmware slot. -/
def bootHeader : Nat := 2
def bootKey : Nat := 3
def bootSig : Nat := 4
def bootRollback : Nat := 5
def bootDigest : Nat := 6
def bootRead : Nat := 7

/-- Programmed bits of the rollback counter. -/
def rollbackBits (o : Otp) : Nat := ((List.range 64).filter fun i => o.rollback.getLsbD i).length

/-- A firmware key-hash slot is revoked; slot 0 also by FW_SLOT1_ONLY (R336). -/
def fwRevoked (o : Otp) (slot : Nat) : Bool := o.fwRev.getLsbD slot || (slot == 0 && o.config.getLsbD 1)

/-- The firmware key-hash slot that KEYSLOT names holds the signer's key (R333). -/
def fwKey (o : Otp) (h : List Byte) : Bool :=
  if num h 0xC 4 = 0 then keyOk o.fwKey0 (fwRevoked o 0) h else keyOk o.fwKey1 (fwRevoked o 1) h

/-- FW_ENTRY, FW_LOAD and FW_LEN (R338). -/
def fwEntry (h : List Byte) : Nat := num h 0x200 8
def fwLoad (h : List Byte) : Nat := num h 0x208 8
def fwLen (h : List Byte) : Nat := num h 0x210 8

/-- Bytes of groom scratch (R284). -/
def scratchSize : Nat := 4194304

/-- The payloads of a plain firmware image's segments in order (R341 to R343). `k`: how many are left. -/
def fwPayload (n : Nat) : Nat → Nat → List Byte → Except LoadErr (List Byte)
  | 0, _, _ => .ok []
  | k + 1, i, src =>
    match segment false 0 i n src with
    | .error e => .error e
    | .ok (p, _, rest) => match fwPayload n k (i + 1) rest with
      | .error e => .error e
      | .ok q => .ok (p ++ q)

/-- The first checks of a firmware slot: 0, or the code of the failing one (R333). -/
def fwHeadCode (o : Otp) (src : List Byte) : Nat :=
  let h := src.take 1024
  if src.length < 1024 then bootRead
  else if !headerFormed 1 h || num h 7 1 != 0 then bootHeader
  else if !fwKey o h then bootKey
  else if !signed h then bootSig
  else if num h 0x40 4 < rollbackBits o then bootRollback
  else if scratchSize < fwLoad h + fwLen h then bootHeader
  else 0

/-- A firmware slot: its code and, once its segments pass, the bytes that the boot ROM copies to FW_LOAD before it
checks FW_DIGEST (R333). -/
def fwVerify (o : Otp) (src : List Byte) : Nat × List Byte :=
  let h := src.take 1024
  if fwHeadCode o src ≠ 0 then (fwHeadCode o src, [])
  else match fwPayload (num h 8 4) (Nat.min (num h 8 4) src.length) 0 (src.drop 1024) with
    | .error e => (if e.report = repSource then bootRead else bootDigest, [])
    | .ok p => (if p.length = fwLen h ∧ (Config.sha512 p).toNat = num h 0x218 64 then 0 else bootDigest, p)

/-- The firmware bytes copied into groom scratch. -/
def copyFw (h p : List Byte) (s : State) : State :=
  { s with grm := { s.grm with scratch := Memory.putBytes s.grm.scratch (fwLoad h) p } }

/-- Stage 4 of the boot order: the measurement, groom 0's reset vector and control to the firmware (R332). -/
def startFw (slot : Nat) (h : List Byte) (s : State) : State :=
  let e := BitVec.ofNat 64 (fwEntry h)
  let g := pg .grm 0
  let m := rput (rput s.regs (g + 0x104) (e.extractLsb' 0 32)) (g + 0x108) (e.extractLsb' 32 32)
  let m := rset (rset (rset m (g + 0x100) 0 1 1) 0x1100 26 2 slot) 0x1100 0 8 0
  setGroom { s with
    regs := rset m 0x1118 8 7 (num h 0x40 4)
    sec := { s.sec with booted := true, waiting := false, measure := Config.sha512 h } } 0 (atVector m 0 (groomOf s 0))

/-- Verifies a slot and, when it passes, starts its firmware; otherwise `fail` goes on with the code (R333). -/
def trySlot (slot : Nat) (src : List Byte) (fail : Nat → State → State) (s : State) : State :=
  let r := fwVerify s.sec.otp src
  let t := copyFw (src.take 1024) r.2 s
  if r.1 = 0 then startFw slot (src.take 1024) t else fail r.1 t

/-- Both slots have failed: SEC_BOOT.CODE holds the last failure, and the boot ROM waits (R334). -/
def bootWaits (slot code : Nat) (s : State) : State :=
  { s with regs := rset (rset s.regs 0x1100 26 2 slot) 0x1100 0 8 code, sec := { s.sec with waiting := true } }

/-- Wakes the domains that the boot ROM uses: rails, hub infrastructure, grooms 0 to 7 (R332). -/
def bootWakes (s : State) : State := [29, 30, 20].foldl (fun s d => if domOn s.pwr d then s else wakeNow d s) s

/-- The effect of BOOT: the OTP's parity, then slot A, then slot B (R332 to R334). -/
def doBoot (slotA slotB : List Byte) (s : State) : State :=
  if s.sec.otp.parityOk then
    trySlot 0 slotA (fun _ => trySlot 1 slotB fun c => bootWaits 1 c) (bootWakes s)
  else { s with regs := rset s.regs 0x1100 0 8 1, sec := { s.sec with stopped := true } }

/-- BOOT, once after a reset; `slotA` and `slotB` are the flash from bytes 0x00_0000 and 0x80_0000 on (R332). -/
def execBoot (slotA slotB : List Byte) (s : State) : Host.Outcome State Fault Refusal :=
  when (!s.sec.booted && !s.sec.waiting && !s.sec.stopped) s (doBoot slotA slotB s)

/-- A write of SEC_BOOT.RETRY: the image in scratch is verified while the boot ROM waits; otherwise nothing (R334). -/
def retryWrite (s : State) : State :=
  if s.sec.waiting then trySlot 2 (Memory.bytes s.grm.scratch 0 scratchSize) (fun c => bootWaits 2 c) s else s

/-- The effect of RETRY. -/
def doRetry (r : Requester) (s : State) : State := viaWrite r 0x1100 retryWrite s

/-- RETRY (R334). -/
def execRetry (r : Requester) (s : State) : Host.Outcome State Fault Refusal := .next (doRetry r s)

/-! ### SEC_CMD -/

/-- DRAM address of SEC_BUF. -/
def secBuf (m : SMap W32) : Nat := (rget m 0x1108).toNat + (rget m 0x110C).toNat * 2 ^ 32

/-- A security command ends: SEC_RESULT.CODE and INT_STATUS.CMD_DONE. -/
def secDone (code : Nat) (s : State) : State := raiseInt { s with regs := rset s.regs 0x1110 0 4 code } 0x1000 0

/-- The DRAM bursts of `n` bytes at SEC_BUF take a write. -/
def bufTakes (s : State) (n : Nat) : Bool := (burstsOf (secBuf s.regs) n).all fun a => portStatus s true false a == 0

/-- The channels of `n` bytes at SEC_BUF are ON (R280). -/
def reachBuf (n : Nat) (s : State) : State :=
  let a := secBuf s.regs
  (List.range ((n + 63) / 64)).foldl (fun s i => reachChan (a + 64 * i) s) s

/-- The record of a DRAM access that is refused: the first burst that is. -/
def secRefused (s : State) (n : Nat) : Nat :=
  ((burstsOf (secBuf s.regs) n).map (portStatus s true false)).foldl (fun r st => if r = 0 then st else r) 0

/-- A record is written at SEC_BUF, or the command ends with a DRAM error (R219, log 112). -/
def secWrite (l : List Byte) (s : State) : State :=
  if bufTakes s l.length then
    secDone 0 (portWrites 12 (secBuf s.regs) l s)
  else secDone 3 (portNote (secRefused s l.length) s)

/-- The identity public key (R358). -/
def idKey (o : Otp) : BitVec 256 := Config.publicKey o.seed

/-- The identity record (R358). -/
def idRecord (o : Otp) : List Byte :=
  [1, 0, o.grade, o.stepping, 0, 0, 0, 0] ++ wordBytes o.serial 8 ++ wordBytes (idKey o) 32 ++ List.replicate 48 0
    ++ wordBytes o.cert 64

/-- Code of a run state (R95). -/
def runCode : RunState → Nat
  | .empty => 0
  | .loaded => 1
  | .waiting => 2
  | .running => 3
  | .draining => 4
  | .halted => 5
  | .faulted => 6

/-- The attestation report without its signature (R359). -/
def attestBody (s : State) (nonce : List Byte) : List Byte :=
  let o := s.sec.otp
  [1, 0, o.stepping, o.grade, BitVec.ofNat 8 (runCode s.tck.run), 0, 0, 0] ++ wordBytes o.serial 8 ++ nonce
    ++ wordBytes (idKey o) 32 ++ wordBytes s.sec.measure 64
    ++ wordBytes (match s.ldr.image with | some i => i.digest | none => 0) 64 ++ wordBytes s.ldr.chain 64
    ++ wordBytes o.rollback 8 ++ wordBytes (Config.attestWord o.config o.fwRev o.dsRev o.locks) 8

/-- The attestation report: signed under the identity key over the SHA-512 of its first 288 bytes (R359). -/
def attestReport (s : State) (nonce : List Byte) : List Byte :=
  let b := attestBody s nonce
  b ++ wordBytes (Config.sign s.sec.otp.seed (Config.sha512 b)) 64

/-- SEC_CMD ATTEST (R359). -/
def runAttest (s : State) : State :=
  let a := secBuf s.regs + 0x10
  let t := readsNote a 32 s
  if dramReads s a 32 then secWrite (attestReport s (Memory.bytes (dramNow s.dmc) a 32)) t else secDone 3 t

/-- The OTP after bits of a customer field are programmed, the field numbered in the order of the table OTP contents: 0
firmware slot 1, 1 firmware revocation, 2 and 3 design slots, 4 design revocation, 5 root key, 6 to 9 debug slots, 10
security configuration, 11 lock bits; 12 is the rollback counter (R335). -/
def program (o : Otp) (field : Nat) (v : BitVec 528) : Option Otp :=
  match field with
  | 0 => some { o with fwKey1 := o.fwKey1 ||| v.setWidth 512 }
  | 1 => some { o with fwRev := o.fwRev ||| v.setWidth 2 }
  | 2 => some { o with dsKey0 := o.dsKey0 ||| v.setWidth 512 }
  | 3 => some { o with dsKey1 := o.dsKey1 ||| v.setWidth 512 }
  | 4 => some { o with dsRev := o.dsRev ||| v.setWidth 2 }
  | 5 => some { o with rootKey := o.rootKey ||| v.setWidth 256 }
  | 6 => some { o with dbgKey0 := o.dbgKey0 ||| v }
  | 7 => some { o with dbgKey1 := o.dbgKey1 ||| v }
  | 8 => some { o with dbgKey2 := o.dbgKey2 ||| v }
  | 9 => some { o with dbgKey3 := o.dbgKey3 ||| v }
  | 10 => some { o with config := o.config ||| v.setWidth 8 }
  | 11 => some { o with locks := o.locks ||| v.setWidth 16 }
  | 12 => some { o with rollback := o.rollback ||| v.setWidth 64 }
  | _ => none

/-- A request that the device refuses: a locked or Luadoward field, the last unrevoked firmware slot revoked, a rollback
bit at or above the running firmware's ROLLBACK (R337). Lock bit i locks field i (log 30). -/
def otpRefuses (running : Nat) (o : Otp) (field : Nat) (v : BitVec 528) : Bool :=
  match program o field v with
  | none => true
  | some n =>
    (decide (field < 12) && o.locks.getLsbD field)
      || (fwRevoked n 0 && fwRevoked n 1 && !(fwRevoked o 0 && fwRevoked o 1))
      || (field == 12 && decide (2 ^ running ≤ v.toNat % 2 ^ 64))

/-- SEC_CMD OTP_PROG (R337). The request is the 128 bytes at SEC_BUF (log 30). -/
def runOtp (s : State) : State :=
  if s.tck.run ≠ .empty then secDone 1 s
  else
    let t := readsNote (secBuf s.regs) 128 s
    if !dramReads s (secBuf s.regs) 128 then secDone 3 t
    else match Config.otpRequest (Memory.bytes (dramNow s.dmc) (secBuf s.regs) 128) with
      | none => secDone 2 t
      | some (field, v) =>
        if otpRefuses (rfld s.regs 0x1118 8 7) s.sec.otp field v then secDone 1 t
        else secDone 0 { t with sec := { t.sec with otp := (program s.sec.otp field v).getD s.sec.otp } }

/-- SEC_CMD 4: the rollback counter advances to the running firmware's ROLLBACK (R335, SEC_CMD). -/
def runRollback (s : State) : State :=
  let o := s.sec.otp
  secDone 0 { s with sec := { s.sec with otp :=
    { o with rollback := o.rollback ||| BitVec.ofNat 64 (2 ^ rfld s.regs 0x1118 8 7 - 1) } } }

/-- SEC_CMD by its CODE; another code is a bad request. -/
def secCommand (code : Nat) (s : State) : State :=
  match code with
  | 1 => secWrite (idRecord s.sec.otp) (reachBuf 160 s)
  | 2 => runAttest (reachBuf 352 s)
  | 3 => runOtp (if s.tck.run = .empty then reachBuf 128 s else s)
  | 4 => runRollback s
  | _ => secDone 2 s

/-- The effect of IDENTITY. -/
def doIdentity (r : Requester) (s : State) : State := viaWrite r 0x1104 (secCommand 1) s
/-- The effect of ATTEST. -/
def doAttest (r : Requester) (s : State) : State := viaWrite r 0x1104 (secCommand 2) s
/-- The effect of OTP_PROG. -/
def doOtpProg (r : Requester) (s : State) : State := viaWrite r 0x1104 (secCommand 3) s
/-- The effect of ROLLBACK_ADVANCE. -/
def doRollbackAdvance (r : Requester) (s : State) : State := viaWrite r 0x1104 (secCommand 4) s

/-- IDENTITY (R358). -/
def execIdentity (r : Requester) (s : State) : Host.Outcome State Fault Refusal := .next (doIdentity r s)
/-- ATTEST (R359). -/
def execAttest (r : Requester) (s : State) : Host.Outcome State Fault Refusal := .next (doAttest r s)
/-- OTP_PROG (R337). -/
def execOtpProg (r : Requester) (s : State) : Host.Outcome State Fault Refusal := .next (doOtpProg r s)
/-- ROLLBACK_ADVANCE (R337). -/
def execRollbackAdvance (r : Requester) (s : State) : Host.Outcome State Fault Refusal := .next (doRollbackAdvance r s)

end Sys2Proof.Machine
end

