-- ==== Sys2Proof/Machine/BringUp.lean ====
section
/-!
DEFINITION. The system bring-up of a multi-chip system as one chip's loader performs it (R90, R91, R116, R133, R245,
R247, R255 to R257): the row SYSTEM_BRING_UP. The chips and cables of the system are the command's operand; the
placement, the tree, the alignment and the latencies follow from them.
-/

namespace Sys2Proof.Machine

/-! ### The system -/

/-- The system of a bring-up: this chip's header, depth and LMAP, and the operand. -/
structure Sys where
  h     : List Byte
  depth : Nat
  lmap  : Option (SMap Nat)
  b     : BringUp
deriving DecidableEq, Repr

/-- The nodes of the system: 0 for this chip, n + 1 for the chip n of the operand. -/
def Sys.nodes (y : Sys) : List Nat := List.range (y.b.chips.length + 1)

/-- CHIP of a node. -/
def Sys.chip (y : Sys) (n : Nat) : Nat := if n = 0 then hChip y.h else ((y.b.chips.map fun c => c.chip.toNat).getD (n - 1) 0)

/-- Declared depth of a node. -/
def Sys.depthOf (y : Sys) (n : Nat) : Nat := if n = 0 then y.depth else ((y.b.chips.map fun c => c.depth.toNat).getD (n - 1) 0)

/-- LINKTAB entry of a virtual link of a node. -/
def Sys.entry (y : Sys) (n v : Nat) : BitVec 32 :=
  if n = 0 then linkEntry y.h v else ((y.b.chips.map fun c => c.linktab.getD v 0).getD (n - 1) 0)

/-- VALID, PEER_CHIP, PEER_LINK and BUDGET of an entry (R130). -/
def eValid (e : BitVec 32) : Bool := e.getLsbD 31
def ePeer (e : BitVec 32) : Nat := fld e 23 8
def eLink (e : BitVec 32) : Nat := fld e 18 5
def budgetOf (e : BitVec 32) : Nat := fld e 0 11

/-- The explicit placement of a node's virtual links, if its load command gave one (R348). -/
def Sys.lmapOf (y : Sys) (n : Nat) : Option (List (Nat × Nat)) :=
  if n = 0 then y.lmap.map fun m => m.map fun e => (e.1, e.2 - 1)
  else ((y.b.chips.map fun c => c.lmap.map fun l =>
    (l.zipIdx.filter fun e => e.1 != 0xFF).map fun e => (e.2, e.1.toNat)).getD (n - 1) none)

/-- The far end of a link of a node, when the cable is in lock: node, link, Δ at this end and Δ at the other. -/
def Sys.far (y : Sys) (n j : Nat) : Option (Nat × Nat × BitVec 48 × BitVec 48) :=
  (y.b.cables.filter fun c => c.locked).findSome? fun c =>
    if c.a = n ∧ c.la.val = j then some (c.b, c.lb.val, c.dba, c.dab)
    else if c.b = n ∧ c.lb.val = j then some (c.a, c.la.val, c.dab, c.dba)
    else none

/-- The links of a node toward another whose cables are in lock, ascending in the node's physical link number, with
the far ends. -/
def Sys.joins (y : Sys) (n m : Nat) : List (Nat × Nat) :=
  (List.range 24).filterMap fun j => (y.far n j).bind fun f => if f.1 = m then some (j, f.2.1) else none

/-- The virtual links of a node toward another chip, ascending. -/
def Sys.virtuals (y : Sys) (n m : Nat) : List Nat :=
  (List.range 24).filter fun v => eValid (y.entry n v) && ePeer (y.entry n v) == y.chip m

/-- The default placement of a node's virtual links toward another: those of the lower CHIP take the cables in its
order, those of the other the same cables (R256). -/
def Sys.toward (y : Sys) (n m : Nat) : List (Nat × Nat) :=
  if y.chip n < y.chip m then ((y.virtuals n m).zip (y.joins n m)).map fun e => (e.1, e.2.1)
  else ((y.virtuals m n).zip (y.joins m n)).map fun e => (eLink (y.entry m e.1), e.2.2)

/-- The placement of a node's virtual links, pairs of virtual and physical link: explicit, or by chip (R256, R348). -/
def Sys.place (y : Sys) (n : Nat) : List (Nat × Nat) :=
  match y.lmapOf n with
  | some l => l.filter fun e => eValid (y.entry n e.1)
  | none => (y.nodes.filter fun m => m != n).flatMap (y.toward n)

/-! ### Confirmation -/

/-- The nodes of a CHIP. -/
def Sys.withChip (y : Sys) (c : Nat) : List Nat := y.nodes.filter fun n => y.chip n == c

/-- A virtual link of this chip, placed on a link, is confirmed: the cable is in lock, leads to the chip that its entry
names, which declares the same depth and whose entry names this chip and this link in return (R133, R255). -/
def Sys.confirmed (y : Sys) (v j : Nat) : Bool :=
  let e := y.entry 0 v
  match y.far 0 j with
  | none => false
  | some f =>
    let r := y.entry f.1 (eLink e)
    y.chip f.1 == ePeer e && y.depthOf f.1 == y.depth && eValid r && ePeer r == y.chip 0 && eLink r == v

/-- An entry of another chip that names this chip and a virtual link of it, whose entry does not name the other in
return (R133). -/
def Sys.unanswered (y : Sys) : Option Nat :=
  (y.nodes.filter fun m => m != 0).findSome? fun m =>
    ((y.virtuals m 0).find? fun w =>
      let e := y.entry 0 (eLink (y.entry m w))
      !(eValid e && ePeer e == y.chip m && eLink e == w)).map fun w => eLink (y.entry m w)

/-- The lowest valid virtual link of this chip's image (R255); 0 where it has none (log 120). -/
def Sys.lowest (y : Sys) : Nat := (usedLinks y.h).headD 0

/-- A chip in the control tree: its parent, the links at the parent and at itself, the largest sums of H up and down,
and what its period counter is adjusted by (R247, R257). -/
structure TreeNode where
  node   : Nat
  parent : Nat
  plink  : Nat
  clink  : Nat
  up     : Int
  down   : Int
  off    : Int
deriving DecidableEq, Repr

/-- G of a receiving link: this chip's LNK_PAD.GUARD; of another chip its reset value 2 (log 31). -/
def guardOf (m : SMap W32) (n j : Nat) : Int := if n = 0 then rfld m (pg .lnk j + 0x118) 0 4 else 2

/-- A child of a chip of the tree over one of its placed links: k = floor((Δ_up − Δ_down) / 2), and the control
latencies of the link after the alignment (R247, R257). -/
def Sys.child (y : Sys) (m : SMap W32) (p : TreeNode) (j : Nat) : Option TreeNode :=
  (y.far p.node j).map fun f =>
    let up := f.2.2.1.toInt + p.off
    let down := f.2.2.2.toInt - p.off
    let k := (up - down) / 2
    { node := f.1, parent := p.node, plink := j, clink := f.2.1, off := k
      up := p.up + (up - k) + frameW m + guardOf m p.node j
      down := p.down + (down + k) + frameW m + guardOf m f.1 f.2.1 }

/-- The children that a chip adds to the tree: over its placed links in ascending number, each chip once (R257). -/
def Sys.children (y : Sys) (m : SMap W32) (t : List TreeNode) (p : TreeNode) : List TreeNode :=
  (((List.range 24).filter fun j => (y.place p.node).any fun e => e.2 == j).filterMap (y.child m p)).foldl (fun l c =>
    if (t ++ l).any fun x => x.node == c.node then l else l ++ [c]) []

/-- The control tree, breadth-first (R257). `n`: at most so many chips; `q`: those whose children are still to be added. -/
def Sys.grow (y : Sys) (m : SMap W32) : Nat → List TreeNode → List TreeNode → List TreeNode
  | 0, _, t => t
  | _ + 1, [], t => t
  | n + 1, p :: q, t =>
    let c := y.children m t p
    y.grow m n (q ++ c) (t ++ c)

/-- The control tree from the root, the chip with CHIP = 0. -/
def Sys.tree (y : Sys) (m : SMap W32) : List TreeNode :=
  match y.withChip 0 with
  | [] => []
  | r :: _ => y.grow m (y.b.chips.length + 1) [⟨r, r, 0, 0, 0, 0, 0⟩] [⟨r, r, 0, 0, 0, 0, 0⟩]

/-- U and D (R247). -/
def treeUp (t : List TreeNode) : Nat := t.foldl (fun n x => Nat.max n x.up.toNat) 0
def treeDown (t : List TreeNode) : Nat := t.foldl (fun n x => Nat.max n x.down.toNat) 0

/-- The virtual link that LINK_PEER names, when the confirmation fails: the first of this chip's that is unplaced or
unconfirmed, or that another chip names in vain; otherwise the lowest valid one, for chips joined by a cable that
declare different depths, a CHIP carried twice, a link placed twice, no chip 0, or a chip that cannot be reached
(R133, R255, R257). -/
def Sys.peerFails (y : Sys) (m : SMap W32) : Option Nat :=
  let pl := y.place 0
  let bad := (usedLinks y.h).find? fun v => match pl.find? fun e => e.1 == v with
    | none => true
    | some e => !y.confirmed v e.2
  match bad, y.unanswered with
  | some v, _ => some v
  | none, some v => some (if linkValid y.h v then v else y.lowest)
  | none, none =>
    let twice := !decide ((y.nodes.map y.chip).Nodup)
    let depths := (List.range 24).any fun j => (y.far 0 j).any fun f => y.depthOf f.1 != y.depth
    let apart := decide ((y.tree m).length < y.b.chips.length + 1)
    if twice || depths || apart || !decide ((pl.map fun e => e.2).Nodup) then some y.lowest else none

/-! ### The steps -/

/-- The cable of a link of this chip, in lock or not. -/
def cabled (b : BringUp) (j : Nat) : Bool := b.cables.any fun c => (c.a == 0 && c.la.val == j) || (c.b == 0 && c.lb.val == j)

/-- Steps 1 to 4: FRAME mode with PEER_TX on every cabled link, its lock, and the PEER record it receives (R239, R255). -/
def bringLink (y : Sys) (s : State) (j : Nat) : State :=
  if !cabled y.b j then s
  else
    let t := linkCtrlWrite .loader j (setFld (rget s.regs (pg .lnk j + 0x100)) 0 4 9) (reachPage (pg .lnk j) s)
    match y.far 0 j with
    | none => t
    | some f =>
      let m := rset (rset (rset t.regs (lnkStat j) 31 1 1) (lnkStat j) 24 4 15) (lnkStat j) 23 1 1
      let rec32 := BitVec.ofNat 32 (y.chip f.1 * 2 ^ 24 + f.2.1 * 2 ^ 16 + 2 ^ 15 + y.depthOf f.1)
      raiseLnk j 8 { t with regs := rput m (pg .lnk j + 0x120) rec32 }

/-- The state after steps 1 to 4 on the 24 links. -/
def bringLinks (y : Sys) (s : State) : State := (List.range 24).foldl (bringLink y) s

/-- This chip's place in the tree. -/
def ownNode (t : List TreeNode) : Option TreeNode := t.find? fun x => x.node == 0

/-- LNK_TREE of this chip (R257). -/
def treeWord (y : Sys) (t : List TreeNode) : W32 :=
  let up := match ownNode t with
    | some x => if y.chip 0 = 0 then 0 else 2 ^ 31 + x.clink * 2 ^ 24
    | none => 0
  let kids := (List.range 24).foldl (fun n j =>
    if t.any (fun x => x.parent == 0 && x.node != 0 && x.plink == j) then n + 2 ^ j else n) 0
  BitVec.ofNat 32 (up + kids)

/-- What this chip's period counter is adjusted by: k of R257. -/
def ownAdjust (t : List TreeNode) : Int := ((ownNode t).map fun x => x.off).getD 0

/-- Steps 5 and 6: LNK_VMAP, LNK_TREE, TCK_MODE.ROOT, and the adjustment of the period counter (R256, R257). -/
def bringTree (y : Sys) (t : List TreeNode) (s : State) : State :=
  let m := (y.place 0).foldl (fun m e => rput m (pg .lnk e.2 + 0x124) (BitVec.ofNat 32 (2 ^ 31 + e.1))) s.regs
  let k : BitVec 48 := BitVec.ofInt 48 (ownAdjust t)
  { s with
    regs := rput (rput m 0xB100 (treeWord y t)) 0xB114 (BitVec.ofNat 32 (k.toNat / 2 ^ 32))
    clk := { s.clk with period := s.clk.period + k }
    tck := { s.tck with root := y.chip 0 == 0 } }

/-- Adjustment of a node's period counter. -/
def offOf (t : List TreeNode) (n : Nat) : Int := ((t.find? fun x => x.node == n).map fun x => x.off).getD 0

/-- Δ of a link of this chip after the alignment: of what it receives, and of what the peer receives of it. -/
def alignedIn (t : List TreeNode) (f : Nat × Nat × BitVec 48 × BitVec 48) : BitVec 48 :=
  BitVec.ofInt 48 (f.2.2.1.toInt + ownAdjust t - offOf t f.1)
def alignedOut (t : List TreeNode) (f : Nat × Nat × BitVec 48 × BitVec 48) : BitVec 48 :=
  BitVec.ofInt 48 (f.2.2.2.toInt + offOf t f.1 - ownAdjust t)

/-- The smallest COARSE that brings Λ − M to 255 or below; `base` is M with COARSE 0 (R245). -/
def coarseFor (lam base : Nat) : Nat := Nat.min 15 ((lam - base - 255 + 63) / 64)

/-- Budget of what the peer of a placed link sends. -/
def inBudget (y : Sys) (e : Nat × Nat) : Nat :=
  match y.far 0 e.2 with
  | some f => budgetOf (y.entry f.1 (eLink (y.entry 0 e.1)))
  | none => 0

/-- Step 7 on a placed link: the incoming direction is measured, and its COARSE and SIDING bring every group in at its
budget (R244, R245). -/
def tuneLink (y : Sys) (t : List TreeNode) (s : State) (e : Nat × Nat) : State :=
  match y.far 0 e.2 with
  | none => s
  | some f =>
    let j := e.2
    let d := alignedIn t f
    let lam := inBudget y e
    let m0 := rset s.regs (pg .lnk j + 0x118) 16 4 0
    let m1 := rset m0 (pg .lnk j + 0x118) 16 4 (coarseFor lam (measuredM m0 j d))
    raiseLnk j 2 { s with
      regs := rset (setMeas m1 j d) (pg .lnk j + 0x11C) 0 8 (lam - measuredM m1 j d)
      lnk := setLink s.lnk j { linkOf s.lnk j with delta := d } }

/-- The latency of the outgoing direction as the peer measures it, its GUARD at the reset value (R116, R244, log 31). -/
def outLatency (m : SMap W32) (d : BitVec 48) : Nat := (d.toInt + frameW m + 2).toNat

/-- The smallest multiple of 16, not below the declared depth, that accommodates the control tree (R66, R90). -/
def padded (declared c : Nat) : Nat := Nat.max declared ((c - 16 + 15) / 16 * 16)

/-- The first failing check of step 8: CTREE_BUDGET, MODEL_LATENCY with the descriptor, LINK_BUDGET with the virtual
link, of several the first in the order of the placement (R90, R91, R116, log 121). -/
def bringFails (s : State) (y : Sys) (t : List TreeNode) : Option LoadErr :=
  let c := treeUp t + treeDown t
  let depth := padded s.tck.declared c
  let slow := s.arr.desc.filter fun e => placed s (e.1 / 4096) && fld e.2 126 2 == 2 && decide (fld e.2 106 10 < 128 + c)
  let late := (y.place 0).find? fun e => match y.far 0 e.2 with
    | some f => decide (depth + 16 < budgetOf (y.entry 0 e.1)) || decide (budgetOf (y.entry 0 e.1) < outLatency s.regs (alignedOut t f))
    | none => true
  if 1024 < depth ∨ s.tck.budget < c then some (plainErr repCtree)
  else match slow, late with
    | e :: _, _ => some { report := repModelLat, addr := e.1 % 4096 }
    | [], some e => some { report := repLinkBud, addr := e.1 }
    | [], none => none

/-- The physical link of a virtual link in a placement (R256). -/
def linkIn (pl : List (Nat × Nat)) (v : Nat) : Nat := ((pl.find? fun e => e.1 == v).map fun e => e.2).getD v

/-- The end of the bring-up: the slot maps and receive maps relocated in the array and in the golden copy, the link
budgets of both directions, the effective depth, the control-tree latencies, and DONE released (R65, R87, R125,
R351). -/
def bringDone (y : Sys) (t : List TreeNode) (s : State) : State :=
  let c := treeUp t + treeDown t
  let pl := y.place 0
  let lk := linkIn pl
  { s with
    arr := { s.arr with
      slots := s.arr.slots.map fun e => (e.1, relocSlot lk e.2)
      rmap := s.arr.rmap.map fun e => (e.1, relocPos lk e.2)
      linkBud := SMap.putAll 0 [] (pl.map fun e => (e.2, budgetOf (y.entry 0 e.1)))
      linkIn := SMap.putAll 0 [] (pl.map fun e => (e.2, inBudget y e)) }
    integ := { s.integ with
      gSlots := s.integ.gSlots.map fun e => (e.1, relocSlot lk e.2)
      gRmap := s.integ.gRmap.map fun e => (e.1, relocPos lk e.2) }
    tck := { s.tck with depth := padded s.tck.declared c, ctree := c, down := treeDown t }
    ldr := { s.ldr with doneOut := true } }

/-- The system of a bring-up from the state of this chip. -/
def sysOf (i : Image) (b : BringUp) (s : State) : Sys := ⟨i.header, s.tck.declared, s.ldr.lmap, b⟩

/-- The effect of SYSTEM_BRING_UP. -/
def doSystemBringUp (b : BringUp) (s : State) : State :=
  match s.ldr.image with
  | none => s
  | some i =>
    let y := sysOf i b s
    let u := bringLinks y s
    match y.peerFails u.regs with
    | some v => failLoad (physOf u) { report := repPeer, addr := v } u
    | none =>
      let t := y.tree u.regs
      let w := (y.place 0).foldl (tuneLink y t) (bringTree y t u)
      match bringFails w y t with
      | some e => failLoad (physOf w) e w
      | none => bringDone y t w

/-- SYSTEM_BRING_UP of a loaded multi-chip image whose DONE has not been released (R255). -/
def execSystemBringUp (b : BringUp) (s : State) : Host.Outcome State Fault Refusal :=
  when (s.tck.run == .loaded && s.tck.multi && !s.ldr.doneOut && s.ldr.image.isSome) s (doSystemBringUp b s)

end Sys2Proof.Machine
end

