-- ==== Sys2Proof/Machine/Debug.lean ====
section
/-!
DEFINITION. Debug without the register paths (R410 to R430): the rows TEST_LOGIC_RESET, CHALLENGE, VERIFY, DROP,
NONCE_LAPSE, LOCKOUT_END, AQ_GO, AQ_CAPTURE, DEP_GO, FORCE_WRITE, BM_GO, GCTRL_HALT, GCTRL_RESUME, GCTRL_STEP,
RESUME_ALL, COMPARATOR_MATCH, EBREAK and EXTEST.
-/

namespace Sys2Proof.Machine

/-- Key of a path's copy of a DBG page register. -/
def dbgKey (p : DbgPath) (off : Nat) : Nat := rkey (0x9000 + off) (pathIdx p)

/-- A register of a path's copy. -/
def dbgReg (s : State) (p : DbgPath) (off : Nat) : W32 := rget s.regs (dbgKey p off)

/-! ### Authorisation -/

/-- `n` consecutive registers of a path's copy, the first least significant. -/
def dbgWords (s : State) (p : DbgPath) (off : Nat) : Nat → Nat
  | 0 => 0
  | n + 1 => dbgWords s p off n + (dbgReg s p (off + 4 * n)).toNat * 2 ^ (32 * n)

/-- A fresh nonce: four words the spec leaves open (R414, log 4). -/
def freshNonce (s : State) : BitVec 256 :=
  Config.freeWord (s.clk.free + 3) ++ Config.freeWord (s.clk.free + 2) ++ Config.freeWord (s.clk.free + 1)
    ++ Config.freeWord s.clk.free

/-- CHALLENGE: a nonce is placed (R414). -/
def challengeCmd (p : DbgPath) (s : State) : State :=
  let x := sess s p
  setSess { s with clk := { s.clk with free := s.clk.free + 4 } } p
    { x with nonce := freshNonce s, nonceOk := true, nonceAt := s.clk.ps }

/-- Debug key-hash slot `k`: 64 hash bytes and a level code (R335). -/
def debugSlot (o : Otp) (k : Nat) : BitVec 528 :=
  if k = 0 then o.dbgKey0 else if k = 1 then o.dbgKey1 else if k = 2 then o.dbgKey2 else o.dbgKey3

/-- The message a debugger signs: the nonce, the serial number, the slot, the path (R414). -/
def authMessage (s : State) (p : DbgPath) (k : Nat) : List Byte :=
  wordBytes (sess s p).nonce 32 ++ wordBytes s.sec.otp.serial 8 ++ [BitVec.ofNat 8 k, BitVec.ofNat 8 (pathIdx p)]

/-- RESULT of a VERIFY: 4 no nonce, 2 the key slot, 3 the signature, 1 granted (R414, R415). -/
def verifyResult (s : State) (p : DbgPath) (k : Nat) : Nat :=
  let key := BitVec.ofNat 256 (dbgWords s p 0x128 8)
  let hash := (debugSlot s.sec.otp k).extractLsb' 0 512
  if !(sess s p).nonceOk then 4
  else if hash = 0 ∨ Config.sha512 (wordBytes key 32) ≠ hash then 2
  else if !Config.verify key (Config.sha512 (authMessage s p k)) (BitVec.ofNat 512 (dbgWords s p 0x148 16)) then 3
  else 1

/-- VERIFY: a level is granted, or the level is NONE and VERIFY is locked out (R414, R415). -/
def verifyCmd (p : DbgPath) (k : Nat) (s : State) : State :=
  let x := sess s p
  if x.lockout then setSess s p { x with result := 5 }
  else
    let r := verifyResult s p k
    let y := { x with result := BitVec.ofNat 4 r, nonceOk := false }
    if r = 1 then
      raiseInt (setSess s p { y with level := fld (debugSlot s.sec.otp k) 512 2 + 1 }) 0x9000 1
    else raiseInt (setSess s p { y with level := 0, lockout := true, lockAt := s.clk.ps }) 0x9000 2

/-- DROP: the level is NONE (R416). -/
def dropCmd (p : DbgPath) (s : State) : State := setSess s p { sess s p with level := 0 }

/-- A write of DBG_AUTH_CMD. -/
def authWrite (p : DbgPath) (v : W32) (s : State) : State :=
  let c := fld v 0 2
  if c = 1 then challengeCmd p s else if c = 2 then verifyCmd p (fld v 8 2) s else if c = 3 then dropCmd p s else s

/-- The effect of CHALLENGE. -/
def doChallenge (p : DbgPath) (s : State) : State := viaWrite (.debug p) 0x9100 (authWrite p 1) s
/-- CHALLENGE, a write of DBG_AUTH_CMD (R414). -/
def execChallenge (p : DbgPath) (s : State) : Host.Outcome State Fault Refusal := .next (doChallenge p s)

/-- The effect of VERIFY. -/
def doVerify (p : DbgPath) (k : Nat) (s : State) : State :=
  viaWrite (.debug p) 0x9100 (authWrite p (BitVec.ofNat 32 (k * 2 ^ 8 + 2))) s
/-- VERIFY, a write of DBG_AUTH_CMD (R414, R415). -/
def execVerify (p : DbgPath) (k : Fin 4) (s : State) : Host.Outcome State Fault Refusal := .next (doVerify p k s)

/-- The effect of DROP. -/
def doDrop (p : DbgPath) (s : State) : State := viaWrite (.debug p) 0x9100 (authWrite p 3) s
/-- DROP, a write of DBG_AUTH_CMD (R416). -/
def execDrop (p : DbgPath) (s : State) : Host.Outcome State Fault Refusal := .next (doDrop p s)

/-- Picoseconds at which a nonce lapses, and a lockout ends (R414, R415). -/
def nonceEnd (s : State) (p : DbgPath) : Nat := (sess s p).nonceAt + 60000000000000
def lockEnd (s : State) (p : DbgPath) : Nat := (sess s p).lockAt + 1000000000000

/-- The effect of NONCE_LAPSE. -/
def doNonceLapse (p : DbgPath) (s : State) : State :=
  let t := passPs (nonceEnd s p) s
  setSess t p { sess t p with nonceOk := false }
/-- NONCE_LAPSE (R414). -/
def execNonceLapse (p : DbgPath) (s : State) : Host.Outcome State Fault Refusal :=
  when ((sess s p).nonceOk && reaches s (nonceEnd s p)) s (doNonceLapse p s)

/-- The effect of LOCKOUT_END. -/
def doLockoutEnd (p : DbgPath) (s : State) : State :=
  let t := passPs (lockEnd s p) s
  setSess t p { sess t p with lockout := false }
/-- LOCKOUT_END (R415). -/
def execLockoutEnd (p : DbgPath) (s : State) : Host.Outcome State Fault Refusal :=
  when ((sess s p).lockout && reaches s (lockEnd s p)) s (doLockoutEnd p s)

/-! ### The TAP -/

/-- IDCODE (R493). -/
def idcode (o : Otp) : W32 := if o.stepping = 0xA1 then 0x19600B47 else 0x29600B47

/-- The effect of TEST_LOGIC_RESET: the TAP path's session ends (R412, R416); the instruction register holds IDCODE and
the cells let go of the balls (IEEE 1149.1, log 32). -/
def doTestLogicReset (s : State) : State :=
  { s with dbg := { s.dbg with tap := { s.dbg.tap with level := 0 }, ir := 0x01, extest := false } }
/-- TEST_LOGIC_RESET (R416). -/
def execTestLogicReset (s : State) : Host.Outcome State Fault Refusal := .next (doTestLogicReset s)

/-- Cells of the boundary-scan chain (R493). -/
def chainLen : Nat := 1068

/-- The effect of EXTEST: the instruction loaded and the data register that it selects captured: SAMPLE/PRELOAD captures
every cell, EXTEST the input cells while the output and enable cells take over the balls; IDCODE its 32 bits, BYPASS one
bit of 0 (R411, R493, log 32). -/
def doExtest (ir : Byte) (balls : List Bool) (s : State) : State :=
  let cell (i : Nat) : Bool :=
    if ir = 0x02 ∨ (ir = 0x00 ∧ i % 3 = 0) then balls.getD i false else s.dbg.cells.getD i false
  { s with dbg := { s.dbg with
    ir := ir, extest := ir == 0x00
    cells := if ir = 0x00 ∨ ir = 0x02 then (List.range chainLen).map cell else s.dbg.cells
    scan := if ir = 0x00 ∨ ir = 0x02 then (List.range chainLen).map cell
      else if ir = 0x01 then (List.range 32).map fun i => (idcode s.sec.otp).getLsbD i
      else if ir = 0x20 then s.dbg.scan else [false] } }
/-- EXTEST: a TAP instruction is loaded; `balls`: what the cells of the chain capture, from cell 0 on (R411). -/
def execExtest (ir : Byte) (balls : List Bool) (s : State) : Host.Outcome State Fault Refusal :=
  .next (doExtest ir balls s)

/-! ### Reads of the array -/

/-- DBG_AQ_ADDR of a path. -/
def aqAddr (s : State) (p : DbgPath) : W32 := dbgReg s p 0x188

/-- A write of DBG_AQ_CTRL: GO requests a read (R428). -/
def aqWrite (p : DbgPath) (v : W32) (s : State) : State :=
  if v.getLsbD 31 then setSess s p { sess s p with aqBusy := true } else s

/-- The effect of AQ_GO. -/
def doAqGo (p : DbgPath) (s : State) : State := viaWrite (.debug p) 0x918C (aqWrite p 0x80000000) s
/-- AQ_GO, a write of DBG_AQ_CTRL.GO (R428). -/
def execAqGo (p : DbgPath) (s : State) : Host.Outcome State Fault Refusal := .next (doAqGo p s)

/-- Global index of the processor that fields name. -/
def procIndex (barn stall proc : Nat) : Nat := barn * 1536 + stall * 48 + proc

/-- 32 consecutive bits of a store of bits. -/
def bits32 (m : SMap Bool) (key : Nat) : W32 :=
  BitVec.ofNat 32 ((List.range 32).foldl (fun n i => if m.get false (key + i) then n + 2 ^ i else n) 0)

/-- The groups of 16 from a group on, of two, whose check fails. -/
def badGroups (m : SMap Bool) (key : Nat) : List Nat := [0, 1].filter fun k => m.get false (key + k)

/-- The captured word, and the detections of failing checks with the repair they start (R179, R428). `g`: the processor,
`kind`, `w`: KIND and WORD. -/
def aqCapture (s : State) (g kind w : Nat) : W32 × List FaultRec × List Repair :=
  if kind = 0 then
    (bits32 s.arr.ringPrev (g * 1024 + 32 * w),
      (badGroups s.arr.ringPrevSyn (g * 64 + 2 * w)).map fun k =>
        recAt dRing g s.tck.step (2 * 2 ^ 24 + 2 ^ 12 + 32 * w + 16 * k) (tickNo s), [])
  else if kind = 1 then
    (bits32 s.arr.stCur (g * 256 + 32 * w),
      (badGroups s.arr.stCurSyn (g * 16 + 2 * w)).map fun k =>
        recAt dState g s.tck.step (3 * 2 ^ 24 + 32 * w + 16 * k) (tickNo s), [])
  else
    let x := s.arr.imem.get 0 (g * 1024 + w / 2)
    let syn := s.arr.imemSyn.get 0 (g * 1024 + w / 2)
    let n := imemNote s g s.tck.step (8 * 2 ^ 24 + syn.toNat * 2 ^ 16 + w / 2) 0 (g * 1024 + w / 2)
    (BitVec.ofNat 32 (fld x (32 * (w % 2)) 32), if syn = 0 then [] else n.dets, if syn = 0 then [] else n.reps)

/-- The last tick committed, or all ones (R428). -/
def lastCommitted (s : State) : W64 := if s.tck.tick = 0 then BitVec.allOnes 64 else BitVec.ofNat 64 (s.tck.tick - 1)

/-- A read of the array wakes the barn's group (R280). -/
def reachBarn (b : Nat) (s : State) : State := if domOn s.pwr (b / 6) then s else wakeNow (b / 6) s

/-- The result of an array read in a path's copy. STATUS: 0 OK, 1 PARITY, 2 NOT_PRESENT, 3 STATE. -/
def aqEnd (p : DbgPath) (status : Nat) (w : W32) (s : State) : State :=
  raiseInt (setSess s p { sess s p with
    aqBusy := false, aqStatus := BitVec.ofNat 2 status, aqSpec := s.tck.specPend, aqData := w, aqTick := lastCommitted s })
    0x9000 4

/-- The effect of AQ_CAPTURE (R428). A capture that reads nothing leaves the data open (log 4). -/
def doAqCapture (p : DbgPath) (s : State) : State :=
  let a := aqAddr s p
  let b := fld a 25 7
  let free := BitVec.ofNat 32 (Config.freeWord s.clk.free).toNat
  if !s.sec.otp.barns.getLsbD b then aqEnd p 2 free (drawFree s)
  else if s.tck.run = .empty then aqEnd p 3 free (drawFree s)
  else
    let s := reachBarn b s
    let c := aqCapture s (procIndex b (fld a 20 5) (fld a 14 6)) (fld a 12 2) (fld a 0 12)
    if c.2.1 = [] then aqEnd p 0 c.1 s
    else
      let t := c.2.1.foldl (fun s f => detect f s) s
      aqEnd p 1 c.1 { t with integ := startRepairs c.2.2 t.integ }

/-- AQ_CAPTURE: the first period that is not W4 has come (R428). -/
def execAqCapture (p : DbgPath) (s : State) : Host.Outcome State Fault Refusal :=
  when (sess s p).aqBusy s (doAqCapture p s)

/-! ### Deposits and forces -/

/-- INT_STATUS.REFUSED of the DBG page. -/
def dbgRefused (s : State) : State := raiseInt s 0x9000 3

/-- Deposits and force entries are accepted in these run states (R429, R430). -/
def stillRun (s : State) : Bool := runIn s [.loaded, .halted, .faulted]

/-- A physical barn that is enabled and holds a placed barn (R429). -/
def barnHeld (s : State) (b : Nat) : Bool := decide (b < 96) && s.sec.otp.barns.getLsbD b && placed s b

/-- Barn, and physical state bit (key processor × 256 + bit), that DBG_DEP and DBG_FORCE name. -/
def bitBarn (v : W32) : Nat := fld v 23 7
def bitKey (v : W32) : Nat := procIndex (bitBarn v) (fld v 18 5) (fld v 12 6) * 256 + fld v 0 8

/-- A bit of the current generation is set, with correct parity (R429). -/
def pokeBit (key : Nat) (v : Bool) (s : State) : State :=
  { s with arr := { s.arr with
    stCur := s.arr.stCur.put false key v, stCurSyn := s.arr.stCurSyn.erase (key / 16) } }

/-- A write of DBG_DEP: GO deposits a bit, or is refused (R429). -/
def depWrite (p : DbgPath) (v : W32) (s : State) : State :=
  let w := fieldWrite 2 (pathIdx p) 0x919C v s
  if !v.getLsbD 31 then w.1
  else if stillRun s && barnHeld s (bitBarn w.2) then
    pokeBit (bitKey w.2) (w.2.getLsbD 30) (reachBarn (bitBarn w.2) w.1)
  else dbgRefused w.1

/-- The effect of DEP_GO. -/
def doDepGo (p : DbgPath) (v : W32) (s : State) : State := viaWrite (.debug p) 0x919C (depWrite p (setFld v 31 1 1)) s
/-- DEP_GO, a write of DBG_DEP with GO = 1 (R429). -/
def execDepGo (p : DbgPath) (v : W32) (s : State) : Host.Outcome State Fault Refusal := .next (doDepGo p v s)

/-- The value that the enabled entries give a bit: the highest-numbered decides (R430). -/
def forcedValue (f : SMap Force) (key : Nat) : Option Bool :=
  f.foldl (fun o e => if e.2.en && e.2.key == key then some e.2.val else o) none

/-- A force entry is written (R430). -/
def forceEntry (k : Nat) (v : W32) (s : State) : State :=
  let e : Force := ⟨v.getLsbD 31, v.getLsbD 30, bitKey v⟩
  let f := s.dbg.force.put ⟨false, false, 0⟩ k e
  let t := { s with dbg := { s.dbg with force := f } }
  if e.en then pokeBit e.key ((forcedValue f e.key).getD e.val) (reachBarn (bitBarn v) t) else t

/-- A write of DBG_FORCE: the entry that the path's DBG_FORCE_SEL names; the register shows the entry itself (R413,
R430). -/
def forceWrite (p : DbgPath) (v : W32) (s : State) : State :=
  let w := fieldWrite 2 (pathIdx p) 0x91A4 v s
  let t := { w.1 with regs := s.regs, pwr := s.pwr }
  if stillRun s && (!w.2.getLsbD 31 || barnHeld s (bitBarn w.2)) then
    forceEntry (fld (dbgReg s p 0x1A0) 0 6) w.2 t
  else dbgRefused t

/-- The effect of FORCE_WRITE. -/
def doForceWrite (p : DbgPath) (v : W32) (s : State) : State := viaWrite (.debug p) 0x91A4 (forceWrite p v) s
/-- FORCE_WRITE, a write of DBG_FORCE (R430). -/
def execForceWrite (p : DbgPath) (v : W32) (s : State) : Host.Outcome State Fault Refusal := .next (doForceWrite p v s)

/-! ### The debug bus master -/

/-- The least level that permits an access of the bus master (R417). -/
def bmLevel (target : Nat) (write : Bool) : Nat :=
  if target = 2 then 4 else if !write then 1 else if target = 1 then 3 else 2

/-- DBG_BM_ADDR and DBG_BM_DATA of a path. -/
def bmAddr (s : State) (p : DbgPath) : Nat := fld (dbgReg s p 0x1B0) 0 7 * 2 ^ 32 + (dbgReg s p 0x1AC).toNat
def bmData (s : State) (p : DbgPath) : W64 := dbgReg s p 0x1B8 ++ dbgReg s p 0x1B4

/-- A request of the bus master, in class memory; its tag names the path (R420). -/
def bmPkt (p : DbgPath) (addr : Nat) (data : W64) (mask : Byte) (dst : Nat) (dunit : Byte) (flits : List (BitVec 256)) : Pkt :=
  { data := data, addr := BitVec.ofNat 64 addr, rsv := 0, status := 0, mask := mask, sunit := 0xF1, dunit := dunit
    tick16 := 0, prio := 0, flowv := false, flow := 0, tag := BitVec.ofNat 10 (pathIdx p), cls := 1, src := 4
    dst := BitVec.ofNat 6 dst, flits := flits }

/-- An access to groom scratch ends at once; beyond 4 MiB it is out of range. -/
def bmScratch (p : DbgPath) (write : Bool) (mask : Byte) (s : State) : State :=
  let a := bmAddr s p
  let st := if a + 8 ≤ 4194304 then 0 else 8
  let w := Memory.word s.grm.scratch a
  let t := if st = 0 ∧ write then { s with grm := { s.grm with scratch := Memory.putMasked s.grm.scratch a (bmData s p) mask } }
    else s
  let u := setSess t p { sess t p with bmStatus := BitVec.ofNat 4 st }
  if st = 0 ∧ !write then
    { u with regs := rput (rput u.regs (dbgKey p 0x1B4) (w.extractLsb' 0 32)) (dbgKey p 0x1B8) (w.extractLsb' 32 32) }
  else u

/-- The two data flits that hold a word at its place `k` in a burst. -/
def wordFlits (k : Nat) (w : W64) : List (BitVec 256) :=
  let f := BitVec.ofNat 256 (w.toNat * 2 ^ (64 * (k % 4)))
  if k < 4 then [f, 0] else [0, f]

/-- An access to DRAM, through port 11. A write names one word of its burst, of which MASK tells the bytes
(R420). -/
def bmDram (p : DbgPath) (write : Bool) (s : State) : State :=
  let a := bmAddr s p
  let k := a / 8 % 8
  let base := a / 64 * 64
  if write then
    unitSend opMemWrite (some opMemResp) (bmPkt p base 0 (BitVec.ofNat 8 (2 ^ k)) 19 0x04 (wordFlits k (bmData s p))) (memDeliver opMemWrite 0) s
  else unitSend opMemRead (some opMemResp) (bmPkt p base 0 0 19 0x04 []) (memDeliver opMemRead (freePasses s)) (drawFree s)

/-- An access to a shed word (R272, R420). -/
def bmShed (p : DbgPath) (write : Bool) (mask : Byte) (s : State) : State :=
  let a := bmAddr s p
  let q := bmPkt p (a % 2 ^ 24) (if write then bmData s p else 0) (if write then mask else 0) (barnStop (a / 2 ^ 17 % 128)) 0 []
  if write then unitSend opShdWrite (some opShdResp) q (shedDeliver opShdWrite) s
  else unitSend opShdRead (some opShdResp) q (shedDeliver opShdRead) s

/-- A write of DBG_BM_CTRL: GO performs one access, if the path's level permits it; while an access is in progress it
is ignored (R417, R420). -/
def bmWrite (p : DbgPath) (v : W32) (s : State) : State :=
  let w := fieldWrite 2 (pathIdx p) 0x91A8 v s
  let write := w.2.getLsbD 30
  let target := fld w.2 8 2
  let mask := BitVec.ofNat 8 (fld w.2 0 8)
  if !v.getLsbD 31 then w.1
  else if (sess s p).level < bmLevel target write then denied s
  else if (sess s p).bmBusy then w.1
  else if target = 0 then bmScratch p write mask w.1
  else
    let t := setSess w.1 p { sess w.1 p with bmBusy := true, bmMask := mask }
    if target = 1 then bmDram p write t else bmShed p write mask t

/-- The effect of BM_GO. -/
def doBmGo (p : DbgPath) (v : W32) (s : State) : State := viaWrite (.debug p) 0x91A8 (bmWrite p (setFld v 31 1 1)) s
/-- BM_GO, a write of DBG_BM_CTRL with GO = 1 (R420). -/
def execBmGo (p : DbgPath) (v : W32) (s : State) : Host.Outcome State Fault Refusal := .next (doBmGo p v s)

/-! ### Grooms -/

/-- A halted groom resumes at its pc: the time it was halted does not count for its item, which gains 1,000 µs (R423,
R426, R439). -/
def resumeGroom (g : Nat) (s : State) : State :=
  let x := groomOf s g
  let gain := if x.item.isSome then s.clk.ps - Nat.max x.haltAt x.since + 1000000000 else 0
  let y := { x with halted := false, cause := 0, cmp := 0, extra := x.extra + gain }
  emitTrace g [trcHead 9 g, BitVec.ofNat 8 (x.cause.toNat + 0x80)] (setGroom s g y)

/-- First address of DRAM in a groom's address space (R284). -/
def groomDram : Nat := 0x8000000000

/-- Address of the DRAM line that holds a groom's address. -/
def fetchLine (a : Nat) : Nat := (a - groomDram) / 64 * 64

/-- A byte as a groom fetches it: of scratch, or of DRAM through its L1I (R284, R285). -/
def fetchByte (s : State) (c : Core) (a : Nat) : Byte :=
  if a < groomDram then Memory.byte s.grm.scratch a
  else match c.l1i.find? (fetchLine a) with
    | some l => l.extractLsb' (8 * (a % 64)) 8
    | none => Memory.byte (dramNow s.dmc) (a - groomDram)

/-- The instruction at the pc is FENCE.I: opcode 0x0F with funct3 1 (R285; the encoding is RISC-V's, log 11). -/
def atFenceI (s : State) (c : Core) : Bool :=
  fetchByte s c c.pc.toNat == 0x0F && fld (fetchByte s c (c.pc.toNat + 1)) 4 3 == 1

/-- The L1I after the instruction at the pc has been fetched and executed: its DRAM line is held, of a full cache in
place of one that is open, and FENCE.I empties the cache (R18, R285). -/
def l1iAfter (s : State) (c : Core) : SMap (BitVec 512) :=
  let a := c.pc.toNat
  if atFenceI s c then []
  else if a < groomDram then c.l1i
  else if (c.l1i.find? (fetchLine a)).isSome then c.l1i
  else (cacheRoom s.clk.free (fetchLine a) c.l1i).set (fetchLine a)
    (BitVec.ofNat 512 (bytesNat (Memory.bytes (dramNow s.dmc) (fetchLine a) 64)))

/-- A halted groom executes one instruction, or with STEPIE takes its interrupt, and halts again with cause STEP; what it
retired is traced (R423, R426, R431, R439). -/
def stepGroom (g : Nat) (s : State) : State :=
  let x := groomOf s g
  let gain := if x.item.isSome then s.clk.ps - Nat.max x.haltAt x.since else 0
  let ints := x.meip && (rget s.regs (gPage g + 0x100)).getLsbD 2
  let c := Config.stepCore x.core ints s.clk.free
  let y := { x with
    core := { c with lr := none, l1i := l1iAfter s x.core }, cause := 2, cmp := 0, extra := x.extra + gain, haltAt := s.clk.ps }
  let a := emitTrace g [trcHead 9 g, BitVec.ofNat 8 (x.cause.toNat + 0x80)] s
  let b := setGroom a g { groomOf a g with
    core := y.core, cause := y.cause, cmp := y.cmp, extra := y.extra, haltAt := y.haltAt }
  let d := emitTrace g [trcHead 9 g, 2] (emitRetired g (Config.stepFlow x.core ints s.clk.free) (drawFree b))
  haltOthers g (raiseInt (flushAll g 64 d) (gPage g) 0)

/-- A write of DBG_GCTRL: HALT of a groom in state 1 or 2, RESUME and STEP of a halted one (R421, R423). -/
def gctrlWrite (r : Requester) (g : Nat) (v : W32) (s : State) : State :=
  let t := (fieldWrite (clampSrc r) (pathOf r) (gPage g + 0x100) v s).1
  if v.getLsbD 31 && groomRuns t g then
    (if executes t g then haltWith g 1 0 none t else haltSoon g 1 0 t)
  else if v.getLsbD 30 && (groomOf t g).halted then resumeGroom g t
  else if v.getLsbD 29 && (groomOf t g).halted then stepGroom g t
  else t

/-- DBG_GCTRL as it stands, with one of its command bits. -/
def gctrlWord (s : State) (g bit : Nat) : W32 := rget s.regs (gPage g + 0x100) ||| BitVec.ofNat 32 (2 ^ bit)

/-- A write of DBG_GCTRL that sets one command bit. -/
def gctrlBit (p : DbgPath) (g bit : Nat) (s : State) : State :=
  viaWrite (.debug p) (gPage g + 0x100) (fun s => gctrlWrite (.debug p) g (gctrlWord s g bit) s) s

/-- The effect of GCTRL_HALT. -/
def doGctrlHalt (p : DbgPath) (g : Nat) (s : State) : State := gctrlBit p g 31 s
/-- GCTRL_HALT, a write of DBG_GCTRL.HALT (R421). -/
def execGctrlHalt (p : DbgPath) (g : GroomId) (s : State) : Host.Outcome State Fault Refusal := .next (doGctrlHalt p g s)

/-- The effect of GCTRL_RESUME. -/
def doGctrlResume (p : DbgPath) (g : Nat) (s : State) : State := gctrlBit p g 30 s
/-- GCTRL_RESUME, a write of DBG_GCTRL.RESUME (R423). -/
def execGctrlResume (p : DbgPath) (g : GroomId) (s : State) : Host.Outcome State Fault Refusal :=
  .next (doGctrlResume p g s)

/-- The effect of GCTRL_STEP. -/
def doGctrlStep (p : DbgPath) (g : Nat) (s : State) : State := gctrlBit p g 29 s
/-- GCTRL_STEP, a write of DBG_GCTRL.STEP (R423). -/
def execGctrlStep (p : DbgPath) (g : GroomId) (s : State) : Host.Outcome State Fault Refusal := .next (doGctrlStep p g s)

/-- A write of DBG_HALT_GROUP: RESUME_ALL resumes every halted member (R413, R424). -/
def groupWrite (r : Requester) (v : W32) (s : State) : State :=
  let t := (fieldWrite (clampSrc r) (pathOf r) 0x91BC v s).1
  if v.getLsbD 31 then
    (List.range 16).foldl (fun t g => if (haltMembers t.regs).getLsbD g && (groomOf t g).halted then resumeGroom g t else t) t
  else t

/-- The effect of RESUME_ALL: DBG_HALT_GROUP is written with RESUME_ALL and the members as they stand. -/
def doResumeAll (p : DbgPath) (s : State) : State :=
  viaWrite (.debug p) 0x91BC (fun s => groupWrite (.debug p) (setFld (haltMembers s.regs) 31 1 1) s) s
/-- RESUME_ALL (R424). -/
def execResumeAll (p : DbgPath) (s : State) : Host.Outcome State Fault Refusal := .next (doResumeAll p s)

/-! ### Comparators and EBREAK -/

/-- DBG_CMP_CFG and DBG_CMP_ADDR of a comparator. -/
def cmpCfg (m : SMap W32) (g k : Nat) : W32 := rget m (rkey (gPage g + 0x120) k)
def cmpAddr (m : SMap W32) (g k : Nat) : Nat :=
  rfld m (rkey (gPage g + 0x128) k) 0 8 * 2 ^ 32 + (rget m (rkey (gPage g + 0x124) k)).toNat

/-- A comparator that exists and is not off matches an address: no bit above bit MASK − 1 differs (R425). -/
def cmpHit (m : SMap W32) (g k : Nat) (a : W64) : Bool :=
  (k < 6 || g == 0) && fld (cmpCfg m g k) 0 3 != 0
    && a.toNat / 2 ^ fld (cmpCfg m g k) 8 6 == cmpAddr m g k / 2 ^ fld (cmpCfg m g k) 8 6

/-- A comparator of lower index that matches the address, of the same type or of the type that takes loads and stores
alike, is reported in its place (R425). -/
def cmpBeaten (m : SMap W32) (g k : Nat) (a : W64) : Bool :=
  let ty (i : Nat) : Nat := fld (cmpCfg m g i) 0 3
  (List.range k).any fun i => (ty i == ty k || (ty i == 4 && ty k != 1)) && cmpHit m g i a

/-- The effect of COMPARATOR_MATCH: a MARK packet, a halt, or both (R425). -/
def doComparatorMatch (g k : Nat) (a : W64) (s : State) : State :=
  let act := fld (cmpCfg s.regs g k) 4 2
  let ex := fld (cmpCfg s.regs g k) 0 3 == 1
  let t := setGroom s g { groomOf s g with ghit := a, cmp := BitVec.ofNat 3 k }
  let t := if act = 0 then t else emitTrace g ([trcHead 8 g, BitVec.ofNat 8 k] ++ wordBytes a 8) t
  if act = 1 then t
  else if !executes t g then setGroom t g { groomOf t g with haltReq := some (4, k) }
  else haltWith g (if ex then 3 else 4) k (if ex then some a else none) t

/-- A data comparator matches the instruction on which the groom stalls with a halt requested: its cause is the one
reported (R421, R425). -/
def atHalt (s : State) (g k : Nat) : Bool :=
  groomRuns s g && (groomOf s g).haltReq.isSome && fld (cmpCfg s.regs g k) 0 3 != 1

/-- COMPARATOR_MATCH: groom `g` reaches the instruction, or has accessed the data, at address `a` (R425). -/
def execComparatorMatch (g : GroomId) (k : Fin 8) (a : W64) (s : State) : Host.Outcome State Fault Refusal :=
  when ((executes s g || atHalt s g k) && cmpHit s.regs g k a && !cmpBeaten s.regs g k a) s (doComparatorMatch g k a s)

/-- The effect of EBREAK. -/
def doEbreak (g : Nat) (s : State) : State := haltWith g 5 0 none s
/-- EBREAK, with DBG_GCTRL.EBREAK = 1: the groom halts before the instruction executes (R423). -/
def execEbreak (g : GroomId) (s : State) : Host.Outcome State Fault Refusal :=
  when (executes s g && (rget s.regs (gPage g + 0x100)).getLsbD 1) s (doEbreak g s)

/-! ### A halted groom's registers -/

/-- The time CSR: microseconds of clock instance 0 (R283). -/
def timeCsr (s : State) : W64 := BitVec.ofNat 64 (s.ptp.i0.fine / 2 ^ 32 / 1000)

/-- The register that DBG_GREG_SEL names (R283, R423, R435): x0, satp and the stimulus CSRs read 0. -/
def gregRead (s : State) (g : Nat) : W64 :=
  let sel := rget s.regs (gPage g + 0x108)
  let c := (groomOf s g).core
  let n := fld sel 0 12
  let file := fld sel 12 4
  if file = 0 then (if n = 0 ∨ 32 ≤ n then 0 else c.x.get 0 n)
  else if file = 1 then (if 32 ≤ n then 0 else c.f.get 0 n)
  else if file = 2 then
    (if n = 0x180 ∨ (0x7C0 ≤ n ∧ n < 0x7E0) then 0 else if n = 0xC01 then timeCsr s else c.csr.get 0 n)
  else c.pc

/-- The register that DBG_GREG_SEL names takes a value; a stimulus CSR emits its packet (R423, R435). -/
def gregPut (g : Nat) (v : W64) (s : State) : State :=
  let sel := rget s.regs (gPage g + 0x108)
  let x := groomOf s g
  let n := fld sel 0 12
  let file := fld sel 12 4
  let set (c : Core) : State := setGroom s g { x with core := c }
  if file = 0 then (if n = 0 ∨ 32 ≤ n then s else set { x.core with x := x.core.x.put 0 n v })
  else if file = 1 then (if 32 ≤ n then s else set { x.core with f := x.core.f.put 0 n v })
  else if file = 2 then
    (if 0x7C0 ≤ n ∧ n < 0x7E0 then doStim g (n - 0x7C0) v s
     else if n = 0x180 ∨ 0xC00 ≤ n then s
     else set { x.core with csr := x.core.csr.put 0 n v })
  else set { x.core with pc := v }

/-- INT_STATUS.NOT_HALTED of a groom's DBG page. -/
def notHalted (g : Nat) (s : State) : State := raiseInt s (gPage g) 1

/-- A write of one half of a halted groom's register; one of a groom that is not halted writes nothing (R423). A
stimulus CSR takes the value with the high half. -/
def gregWrite (g : Nat) (hi : Bool) (v : W32) (s : State) : State :=
  if !(groomOf s g).halted then notHalted g s
  else
    let sel := rget s.regs (gPage g + 0x108)
    let stim := fld sel 12 4 == 2 && decide (0x7C0 ≤ fld sel 0 12) && decide (fld sel 0 12 < 0x7E0)
    let off := gPage g + 0x10C
    if stim then
      if hi then gregPut g (v ++ rget s.regs off) s else { s with regs := rput s.regs off v }
    else
      let old := gregRead s g
      gregPut g (if hi then v ++ old.extractLsb' 0 32 else old.extractLsb' 32 32 ++ v) s

end Sys2Proof.Machine
end

