-- ==== Sys2Proof/Machine/Ptp.lean ====
section
/-!
DEFINITION. Time synchronisation (R384 to R409): the rows PTP_SET, PTP_STEP, PTP_HOLDOVER, PTP_RESUME, PTP_SLEW,
PTP_INCR_LO, SERVO_WATCHDOG, SLEW_COMPLETE, ETH_FRAME_RX, TX_GO, ETH_TRANSMIT, RX_POP, TX_DONE_POP, PORT_FEC,
LINK_CHANGE, PPS_IN and PPS_OUT.
-/

namespace Sys2Proof.Machine

/-! ### Clock instances -/

/-- Clock instance `i`. -/
def instOf (p : Ptp) (i : Nat) : Inst := if i = 0 then p.i0 else if i = 1 then p.i1 else if i = 2 then p.i2 else p.i3

/-- The state with a clock instance replaced. -/
def setInst (s : State) (i : Nat) (x : Inst) : State :=
  { s with ptp := if i = 0 then { s.ptp with i0 := x } else if i = 1 then { s.ptp with i1 := x }
    else if i = 2 then { s.ptp with i2 := x } else { s.ptp with i3 := x } }

/-- A request is refused: CAUSE, INT_STATUS.REFUSED, ERR_COUNT (R394). -/
def ptpRefuse (i cause : Nat) (s : State) : State :=
  let t := setInst s i { instOf s.ptp i with cause := BitVec.ofNat 3 cause }
  raiseInt { t with regs := rerr t.regs (pg .ptp i) 1 } (pg .ptp i) 0

/-- Instance 0 enters holdover: the slew is abandoned, its rest stays (R398). -/
def enterHoldover (s : State) : State :=
  raiseInt (setInst s 0 { s.ptp.i0 with hold := true, slewing := false }) 0x10000 1

/-- PTP_SYNC_WDOG.MS of an instance. -/
def wdogMs (m : SMap W32) (i : Nat) : Nat := rfld m (pg .ptp i + 0x140) 0 16

/-- Picoseconds at which the servo watchdog of an instance expires. -/
def servoAt (s : State) (i : Nat) : Nat := (instOf s.ptp i).wdog + wdogMs s.regs i * 1000000000

/-- The servo watchdog of an instance runs: a limit is set, its domain is ON, and it has not expired. -/
def servoRuns (s : State) (i : Nat) : Bool :=
  wdogMs s.regs i != 0 && domOn s.pwr 25 && !(instOf s.ptp i).hold && !(instOf s.ptp i).lost

/-- What an expiry does: instance 0 enters holdover, the others are LOST (R397). -/
def servoExpire (i : Nat) (s : State) : State :=
  if i = 0 then enterHoldover s
  else raiseInt (setInst s i { instOf s.ptp i with lost := true }) (pg .ptp i) 2

/-- A request in the period in which the watchdog expires is judged after the expiry (R397). -/
def judged (i : Nat) (s : State) : State :=
  if servoRuns s i && decide (servoAt s i / 4000 ≤ s.clk.ps / 4000) then servoExpire i s else s

/-- The watchdog restarts, and LOST clears (R397). -/
def servoRestart (i : Nat) (s : State) : State := setInst s i { instOf s.ptp i with wdog := s.clk.ps, lost := false }

/-- The order in which requests of one period take effect: PTP_CMD, PTP_SLEW, PTP_INCR_LO (R395). -/
def PtpEv.rank : PtpEv → Nat
  | .set _ _ => 0
  | .step _ => 0
  | .slew _ => 1
  | .incr _ => 2

/-- An accepted request takes its place among those waiting. -/
def insReq (r : PtpReq) (l : List PtpReq) : List PtpReq :=
  let before (x : PtpReq) : Bool := !(x.arr == r.arr && decide (r.ev.rank < x.ev.rank))
  l.takeWhile before ++ r :: l.dropWhile before

/-- An accepted request takes effect in the next 4 ns period that is free (R395), and restarts the watchdog. -/
def ptpAccept (i : Nat) (e : PtpEv) (s : State) : State :=
  let x := instOf s.ptp i
  servoRestart i (setInst s i { x with pend := insReq ⟨e, s.clk.ps / 4000⟩ x.pend })

/-- Instance 0 is in holdover. -/
def inHoldover (i : Nat) (s : State) : Bool := i == 0 && s.ptp.i0.hold

/-- Instance 0 must not be set or moved backward: a run is waiting or running (R394). -/
def runBars (i : Nat) (s : State) : Bool := i == 0 && runIn s [.waiting, .running, .draining]

/-- PTP_STEP: the signed offset. -/
def stepOffset (m : SMap W32) (i : Nat) : Int := (rget m (pg .ptp i + 0x130) ++ rget m (pg .ptp i + 0x12C)).toInt

/-! ### 1PPS_OUT -/

/-- The instance that times 1PPS_OUT, and the signed edge offset. -/
def ppsInst (m : SMap W32) : Nat := rfld m 0x10154 26 2
def ppsOffset (m : SMap W32) : Int := (BitVec.ofNat 16 (rfld m 0x10154 0 16)).toInt

/-- A second in units of 2^-32 ns. -/
def secFine : Int := 1000000000 * 2 ^ 32

/-- Second boundaries plus offset that a time has passed (R407). -/
def ppsIndex (m : SMap W32) (fine : Int) : Int := (fine - ppsOffset m * 2 ^ 32) / secFine

/-- The boundary that the timing instance has passed: a SET puts it where it lands, a step backward may lower it
(R407). -/
def ppsPassed (s : State) : Int :=
  match (instOf s.ptp (ppsInst s.regs)).mark with
  | none => s.ptp.ppsSec
  | some (set, f) => if set then ppsIndex s.regs f else min s.ptp.ppsSec (ppsIndex s.regs f)

/-! ### PTP_CMD -/

/-- SET (R393, R394). -/
def ptpSetCmd (i : Nat) (s : State) : State :=
  if inHoldover i s then ptpRefuse i 2 s
  else if runBars i s then ptpRefuse i 3 s
  else
    let sec : BitVec 48 := (BitVec.ofNat 16 (rfld s.regs (pg .ptp i + 0x128) 0 16)) ++ rget s.regs (pg .ptp i + 0x124)
    let ns := BitVec.ofNat 30 (rget s.regs (pg .ptp i + 0x120)).toNat
    ptpAccept i (.set sec ns) s

/-- STEP (R393, R394). -/
def ptpStepCmd (i : Nat) (s : State) : State :=
  let d := stepOffset s.regs i
  if (rget s.regs (pg .ptp i + 0x13C)).toNat < d.natAbs then ptpRefuse i 1 s
  else if inHoldover i s then ptpRefuse i 2 s
  else if runBars i s && decide (d < 0) then ptpRefuse i 3 s
  else ptpAccept i (.step d) s

/-- HOLDOVER, of instance 0 only (R393, R398). -/
def ptpHoldCmd (i : Nat) (s : State) : State := if i = 0 && !s.ptp.i0.hold then enterHoldover s else s

/-- RESUME, of instance 0 only (R393, R398). -/
def ptpResumeCmd (i : Nat) (s : State) : State :=
  if i = 0 then servoRestart 0 (setInst s 0 { s.ptp.i0 with hold := false }) else s

/-- A write of PTP_CMD: one bit set performs its command, several are refused (R393, R394). -/
def ptpCmdWrite (i : Nat) (v : W32) (s : State) : State :=
  let s := judged i s
  let w := fld v 0 4
  if w = 0 then s
  else if w = 1 then ptpSetCmd i s
  else if w = 2 then ptpStepCmd i s
  else if w = 4 then ptpHoldCmd i s
  else if w = 8 then ptpResumeCmd i s
  else ptpRefuse i 4 s

/-- The effect of PTP_SET. -/
def doPtpSet (r : Requester) (i : Nat) (s : State) : State := viaWrite r (pg .ptp i + 0x100) (ptpCmdWrite i 1) s
/-- PTP_SET, a write of PTP_CMD (R393). -/
def execPtpSet (r : Requester) (i : Fin 4) (s : State) : Host.Outcome State Fault Refusal := .next (doPtpSet r i s)

/-- The effect of PTP_STEP. -/
def doPtpStep (r : Requester) (i : Nat) (s : State) : State := viaWrite r (pg .ptp i + 0x100) (ptpCmdWrite i 2) s
/-- PTP_STEP, a write of PTP_CMD (R395). -/
def execPtpStep (r : Requester) (i : Fin 4) (s : State) : Host.Outcome State Fault Refusal := .next (doPtpStep r i s)

/-- The effect of PTP_HOLDOVER. -/
def doPtpHoldover (r : Requester) (i : Nat) (s : State) : State := viaWrite r (pg .ptp i + 0x100) (ptpCmdWrite i 4) s
/-- PTP_HOLDOVER, a write of PTP_CMD (R398). -/
def execPtpHoldover (r : Requester) (i : Fin 4) (s : State) : Host.Outcome State Fault Refusal :=
  .next (doPtpHoldover r i s)

/-- The effect of PTP_RESUME. -/
def doPtpResume (r : Requester) (i : Nat) (s : State) : State := viaWrite r (pg .ptp i + 0x100) (ptpCmdWrite i 8) s
/-- PTP_RESUME, a write of PTP_CMD (R398). -/
def execPtpResume (r : Requester) (i : Fin 4) (s : State) : Host.Outcome State Fault Refusal := .next (doPtpResume r i s)

/-! ### PTP_SLEW and PTP_INCR_LO -/

/-- A write of PTP_SLEW; 0x8000_0000 is clamped to 0x8000_0001 (R393, R396). -/
def slewWrite (r : Requester) (i : Nat) (v : W32) (s : State) : State :=
  let s := judged i s
  if inHoldover i s then ptpRefuse i 2 s
  else
    let c : W32 := if v = 0x80000000 then 0x80000001 else v
    let off := pg .ptp i + 0x134
    let cl : List Clamped := if v = c then [] else [⟨0, 32, v.toNat, c.toNat⟩]
    ptpAccept i (.slew c.toInt) { s with dbg := reportClamps (clampSrc r) (off % 4096) (off / 4096) cl s.dbg }

/-- The effect of PTP_SLEW. -/
def doPtpSlew (r : Requester) (i : Nat) (v : W32) (s : State) : State :=
  viaWrite r (pg .ptp i + 0x134) (slewWrite r i v) s

/-- PTP_SLEW (R396). -/
def execPtpSlew (r : Requester) (i : Fin 4) (v : W32) (s : State) : Host.Outcome State Fault Refusal :=
  .next (doPtpSlew r i v s)

/-- INCR in its legal range (R388). -/
def incrClamp (v : Nat) : Nat := Nat.min (Nat.max v 0x03FEF9DB23) 0x04010624DD

/-- A write of PTP_INCR_LO: {PTP_INCR_HI, PTP_INCR_LO}, clamped, is loaded into INCR (R388, R393). A refused one changes
nothing (R394). -/
def incrWrite (r : Requester) (i : Nat) (v : W32) (s : State) : State :=
  let s := judged i s
  if inHoldover i s then ptpRefuse i 2 s
  else
    let off := pg .ptp i + 0x108
    let w := rfld s.regs (off + 4) 0 8 * 2 ^ 32 + v.toNat
    let c := incrClamp w
    let lo := BitVec.ofNat 32 c
    let cl : List Clamped := if w = c then [] else [⟨0, 32, v.toNat, lo.toNat⟩]
    let t := (fieldWrite (clampSrc r) 0 off lo s).1
    let u := (fieldWrite (clampSrc r) 0 (off + 4) (BitVec.ofNat 32 (c / 2 ^ 32)) t).1
    ptpAccept i (.incr (BitVec.ofNat 40 c)) { u with dbg := reportClamps (clampSrc r) (off % 4096) (off / 4096) cl u.dbg }

/-- The effect of PTP_INCR_LO. -/
def doPtpIncrLo (r : Requester) (i : Nat) (v : W32) (s : State) : State :=
  viaWrite r (pg .ptp i + 0x108) (incrWrite r i v) s

/-- PTP_INCR_LO (R388). -/
def execPtpIncrLo (r : Requester) (i : Fin 4) (v : W32) (s : State) : Host.Outcome State Fault Refusal :=
  .next (doPtpIncrLo r i v s)

/-! ### The servo watchdog and the end of a slew -/

/-- The effect of SERVO_WATCHDOG. -/
def doServoWatchdog (i : Nat) (s : State) : State := servoExpire i (passPs (servoAt s i) s)

/-- SERVO_WATCHDOG: MS milliseconds have passed without a restart (R397). -/
def execServoWatchdog (i : Fin 4) (s : State) : Host.Outcome State Fault Refusal :=
  when (servoRuns s i && reaches s (servoAt s i)) s (doServoWatchdog i s)

/-- Picoseconds of the period that applies the last remainder of a slew (R396). -/
def slewEndAt (s : State) (i : Nat) : Nat :=
  (s.clk.ps / 4000 + (instOf s.ptp i).pend.length + (instOf s.ptp i).slew.natAbs / slewStep + 1) * 4000

/-- The effect of SLEW_COMPLETE: time passes up to the period that applies the remainder. -/
def doSlewComplete (i : Nat) (s : State) : State := passPs (slewEndAt s i) s

/-- SLEW_COMPLETE (R396). -/
def execSlewComplete (i : Fin 4) (s : State) : Host.Outcome State Fault Refusal :=
  when ((instOf s.ptp i).slewing && domOn s.pwr 25 && !runIn s [.running, .draining]) s (doSlewComplete i s)

/-! ### Ports -/

/-- Port `p`. -/
def portOf (x : Ptp) (p : Nat) : Port := if p = 0 then x.p0 else x.p1

/-- The state with a port replaced. -/
def setPort (s : State) (p : Nat) (x : Port) : State :=
  { s with ptp := if p = 0 then { s.ptp with p0 := x } else { s.ptp with p1 := x } }

/-- Offset of a port's page. -/
def portPg (p : Nat) : Nat := pg .ptpPort p

/-- A counter of a port (PTP_PORT_CNT). -/
def portCount (p k : Nat) (s : State) : State := { s with regs := rbump s.regs (rkey (portPg p + 0x14C) k) 0 32 1 }

/-- A port works: enabled, its link up, its domain ON. -/
def portUp (s : State) (p : Nat) : Bool :=
  (rget s.regs (portPg p + 0x100)).getLsbD 3 && (rget s.regs (portPg p + 0x100)).getLsbD 31 && domOn s.pwr 25

/-- Byte `i` of a frame. -/
def fByte (f : List Byte) (i : Nat) : Nat := (f.getD i 0).toNat

/-- The 16-bit field at byte `i`, in network order. -/
def fHalf (f : List Byte) (i : Nat) : Nat := fByte f i * 256 + fByte f (i + 1)

/-- Offset of the EtherType after at most one tag of type 0x8100 (R386). -/
def etherAt (f : List Byte) : Nat := if fHalf f 12 = 0x8100 then 16 else 12

/-- IPv4 with IHL 5, no fragmentation, UDP, destination port 319 or 320 (R386). -/
def isUdpPtp (f : List Byte) : Bool :=
  let e := etherAt f
  fHalf f e == 0x0800 && fByte f (e + 2) == 0x45 && fHalf f (e + 8) % 0x4000 == 0 && fByte f (e + 11) == 17
    && (fHalf f (e + 24) == 319 || fHalf f (e + 24) == 320)

/-- The frame is a PTP frame of Annex E. -/
def isEthPtp (f : List Byte) : Bool := fHalf f (etherAt f) == 0x88F7

/-- A PTP frame (R386). -/
def isPtp (f : List Byte) : Bool := isEthPtp f || isUdpPtp f

/-- Offset of the PTP message in a PTP frame. -/
def ptpAt (f : List Byte) : Nat := if isEthPtp f then etherAt f + 2 else etherAt f + 30

/-- messageType. -/
def msgType (f : List Byte) : Nat := fByte f (ptpAt f) % 16

/-- An event frame (R386). -/
def isEvent (f : List Byte) : Bool :=
  isPtp f && decide (msgType f ≤ 3) && (isEthPtp f || fHalf f (etherAt f + 24) == 319)

/-- Destination address of a frame, first byte most significant. -/
def destOf (f : List Byte) : Nat := (List.range 6).foldl (fun n i => n * 256 + fByte f i) 0

/-- Addresses every port accepts (R385). -/
def groupMacs : List Nat := [0xFFFFFFFFFFFF, 0x011B19000000, 0x0180C200000E, 0x01005E000181, 0x01005E00006B]

/-- The port's own address. -/
def portMac (m : SMap W32) (p : Nat) : Nat := rfld m (portPg p + 0x108) 0 16 * 2 ^ 32 + (rget m (portPg p + 0x104)).toNat

/-- A boundary stamp as units of 2^-16 ns. -/
def Stamp.units (t : Stamp) : Nat := (t.sec.toNat * 1000000000 + t.ns.toNat) * 2 ^ 16 + t.frac.toNat

/-- The stamp of a number of units of 2^-16 ns. -/
def Stamp.ofUnits (n : Nat) : Stamp :=
  { sec := BitVec.ofNat 48 (n / 2 ^ 16 / 1000000000), ns := BitVec.ofNat 30 (n / 2 ^ 16 % 1000000000), frac := BitVec.ofNat 16 n }

/-- Time of an instance now, in units of 2^-16 ns. -/
def unitsNow (s : State) (i : Nat) : Nat :=
  let x := instOf s.ptp i
  (x.fine + s.clk.ps % 4000 * x.incr.toNat / 4000) / 2 ^ 16

/-- A boundary stamp in an instance: within 0.5 ns of the instant, at a place the spec leaves open (R399, log 4). -/
def stampIn (s : State) (i : Nat) : Stamp :=
  Stamp.ofUnits (unitsNow s i + (Config.freeWord s.clk.free).toNat % 65537 - 32768)

/-- PTP_PORT_CFG.INST. -/
def portInst (m : SMap W32) (p : Nat) : Nat := rfld m (portPg p + 0x100) 0 2

/-- The stamp of a port's frame now. -/
def portStamp (s : State) (p : Nat) : Stamp := stampIn s (portInst s.regs p)

/-- The free value of a stamp is drawn. -/
def usedFree (s : State) : State := { s with clk := { s.clk with free := s.clk.free + 1 } }

/-! ### Receive -/

/-- A frame enters the receive buffer of 32 frames, or is discarded and counted (R406). -/
def toBuffer (p : Nat) (f : RxFrame) (s : State) : State :=
  let x := portOf s.ptp p
  if x.rx.length < 32 then raiseInt (setPort s p { x with rx := x.rx ++ [f] }) (portPg p) 0
  else raiseInt (portCount p 1 s) (portPg p) 1

/-- A frame enters the forwarding queue of its direction, or meets it full (R404). -/
def toForward (p : Nat) (f : RxFrame) (s : State) : State :=
  let x := portOf s.ptp (1 - p)
  if x.fwd.length < 8 then portCount p 4 (setPort s (1 - p) { x with fwd := x.fwd ++ [f] })
  else raiseInt (portCount p 5 s) (portPg p) 4

/-- PTP_TC of a port. -/
def tcOf (m : SMap W32) (p : Nat) : W32 := rget m (portPg p + 0x114)

/-- The transparent clock forwards the frame (R402). -/
def forwards (m : SMap W32) (p : Nat) (f : List Byte) : Bool :=
  (tcOf m p).getLsbD 31 && isPtp f && fByte f (ptpAt f + 4) == fld (tcOf m p) 0 8
    && !(msgType f == 2 || msgType f == 3 || msgType f == 0xA)

/-- An accepted frame is stamped, forwarded or buffered, or both (R385, R399, R402, R406). -/
def acceptFrame (p : Nat) (f : List Byte) (s : State) : State :=
  let x : RxFrame := { bytes := f, stamp := portStamp s p, isPtp := isPtp f, event := isEvent f, copy := false }
  let t := portCount p 0 (usedFree s)
  if forwards s.regs p f then
    let u := toForward p x t
    if (tcOf s.regs p).getLsbD 30 then toBuffer p { x with copy := true } u else u
  else toBuffer p x t

/-- The effect of ETH_FRAME_RX. `f`: the frame without its FCS. -/
def doEthFrameRx (p : Nat) (f : List Byte) (fcsOk : Bool) (s : State) : State :=
  if 252 < f.length then portCount p 3 s
  else if !fcsOk then portCount p 2 s
  else if 60 ≤ f.length && (destOf f == portMac s.regs p || groupMacs.contains (destOf f)) then acceptFrame p f s
  else s

/-- ETH_FRAME_RX (R385): the frame that arrives now, without its FCS, and whether that is correct. -/
def execEthFrameRx (p : Fin 2) (f : List Byte) (fcsOk : Bool) (s : State) : Host.Outcome State Fault Refusal :=
  when (portUp s p) s (doEthFrameRx p f fcsOk s)

/-- A write of PTP_RX_POP discards the head frame (R406). -/
def popWrite (p : Nat) (v : W32) (s : State) : State :=
  let x := portOf s.ptp p
  if v.getLsbD 0 then setPort s p { x with rx := x.rx.drop 1 } else s

/-- The effect of RX_POP. -/
def doRxPop (r : Requester) (p : Nat) (s : State) : State := viaWrite r (portPg p + 0x12C) (popWrite p 1) s

/-- RX_POP (R406). -/
def execRxPop (r : Requester) (p : Fin 2) (s : State) : Host.Outcome State Fault Refusal := .next (doRxPop r p s)

/-! ### Transmit -/

/-- A write of PTP_TX_CMD: with GO the staged frame takes a free slot and the next sequence number; with none free
TX_FULL is set (R406). -/
def txWrite (r : Requester) (p : Nat) (v : W32) (s : State) : State :=
  let w := fieldWrite (clampSrc r) 0 (portPg p + 0x130) v s
  let x := portOf w.1.ptp p
  if !v.getLsbD 31 then w.1
  else if 8 ≤ x.tx.length then raiseInt w.1 (portPg p) 3
  else
    let bytes := (List.range (fld w.2 0 9)).map fun i => x.win.get 0 i
    setPort w.1 p { x with tx := x.tx ++ [⟨bytes, v.getLsbD 30, x.seq⟩], seq := x.seq + 1 }

/-- The effect of TX_GO. -/
def doTxGo (r : Requester) (p : Nat) (v : W32) (s : State) : State :=
  viaWrite r (portPg p + 0x130) (txWrite r p (setFld v 31 1 1)) s

/-- TX_GO, a write of PTP_TX_CMD with GO = 1 (R406). -/
def execTxGo (r : Requester) (p : Fin 2) (v : W32) (s : State) : Host.Outcome State Fault Refusal := .next (doTxGo r p v s)

/-- A frame with bytes replaced from an offset on. -/
def patchBytes (f : List Byte) (at' : Nat) (l : List Byte) : List Byte := f.take at' ++ l ++ f.drop (at' + l.length)

/-- A number as `n` bytes in network order. -/
def netBytes (n v : Nat) : List Byte := (wordBytes (BitVec.ofNat (8 * n) v) n).reverse

/-- The frame with an amount in 2^-16 ns added to correctionField, held at its highest value (R401, R403). -/
def addCorrection (f : List Byte) (d : Int) : List Byte :=
  let a := ptpAt f + 8
  let v := (BitVec.ofNat 64 (bytesNat ((f.drop a).take 8).reverse)).toInt + d
  let top : Int := 0x7FFFFFFFFFFFFFFF
  patchBytes f a (netBytes 8 (BitVec.ofInt 64 (if top < v then top else v)).toNat)

/-- The UDP checksum is set to 0 (R401). -/
def zeroUdp (f : List Byte) : List Byte := if isEthPtp f then f else patchBytes f (etherAt f + 28) [0, 0]

/-- TXLAT and RXLAT of a port in picoseconds. -/
def txlat (m : SMap W32) (p : Nat) : Nat := rfld m (portPg p + 0x10C) 0 20
def rxlat (m : SMap W32) (p : Nat) : Nat := rfld m (portPg p + 0x110) 0 20

/-- The FCS of a frame: the CRC-32 of Ethernet over its bytes, each least significant bit first (R401, log 144). -/
def fcsOf (f : List Byte) : List Byte :=
  let c := f.foldl (fun c x => (List.range 8).foldl (fun c i => crcBit c (x.getLsbD i)) c) (BitVec.allOnes 32)
  (List.range 4).map fun j => BitVec.ofNat 8 (((List.range 8).filter fun b => !c.getLsbD (31 - (8 * j + b))).map (2 ^ ·)).sum

/-- A frame as it leaves the port: the FCS is computed over the frame as modified (R401, R403, R406). -/
def onWire (f : List Byte) : List Byte := f ++ fcsOf f

/-- One-step insertion applies: INSERT was 1 and the frame is a Sync, Delay_Req or Pdelay_Req event frame (R401). -/
def inserts (x : TxFrame) : Bool := x.insert && isEvent x.bytes && decide (msgType x.bytes ≤ 2)

/-- One-step origin timestamp insertion (R401). The fraction left is not always a whole number of 2^-16 ns; which way it
is rounded the spec does not say (log 4). -/
def insertOrigin (m : SMap W32) (p : Nat) (st : Stamp) (up : Bool) (f : List Byte) : List Byte :=
  let n := st.units * 1000 + txlat m p * 2 ^ 16
  let unit := 1000 * 2 ^ 16
  let rest := n % unit
  let fr : Nat := rest / 1000 + (if rest % 1000 ≠ 0 && up then 1 else 0)
  let secs := n / unit / 1000000000
  let nano := n / unit % 1000000000
  zeroUdp (addCorrection (patchBytes f (ptpAt f + 34) (netBytes 6 secs ++ netBytes 4 nano)) fr)

/-- Residence in units of 2^-16 ns: the stamps' difference and the two latencies, to the nearest unit, halves up
(R403). `lat`: their sum in picoseconds. -/
def residence (ingress egress lat : Nat) : Int :=
  let d : Int := egress - ingress
  (2 * (d * 1000 + (lat * 2 ^ 16 : Nat)) + 1000) / 2000

/-- A forwarded frame as port `p` sends it (R402, R403). -/
def forwardBytes (s : State) (p : Nat) (x : RxFrame) : List Byte :=
  if msgType x.bytes ≤ 1 then
    let e := (stampIn s (portInst s.regs (1 - p))).units
    zeroUdp (addCorrection x.bytes (residence x.stamp.units e (txlat s.regs p + rxlat s.regs (1 - p))))
  else x.bytes

/-- The frame to be sent next: 0 a forwarded event frame, 1 an own one, 2 another forwarded frame, 3 another own one
(R405). -/
def txClass (x : Port) : Option Nat :=
  if x.fwd.any (fun f => f.event) then some 0
  else if x.tx.any (fun f => isEvent f.bytes) then some 1
  else if !x.fwd.isEmpty then some 2
  else if !x.tx.isEmpty then some 3
  else none

/-- A list without its first element that satisfies a test. -/
def dropFirst {α : Type} (p : α → Bool) : List α → List α
  | [] => []
  | x :: xs => if p x then xs else x :: dropFirst p xs

/-- A forwarded frame is sent. -/
def sendForward (p : Nat) (ev : Bool) (s : State) : State :=
  let x := portOf s.ptp p
  match List.find? (fun f => f.event == ev) x.fwd with
  | none => s
  | some f =>
    usedFree (setPort s p { x with fwd := dropFirst (fun f => f.event == ev) x.fwd, sent := onWire (forwardBytes s p f) })

/-- An own frame is sent; its stamp and number enter the completion queue of 16, in place of the oldest when that is
full (R406). -/
def sendOwn (p : Nat) (ev : Bool) (s : State) : State :=
  let x := portOf s.ptp p
  match List.find? (fun f => isEvent f.bytes == ev) x.tx with
  | none => s
  | some f =>
    let st := portStamp s p
    let up := (Config.freeWord (s.clk.free + 1)).getLsbD 0
    let d := x.done ++ [⟨st, f.seq, inserts f⟩]
    raiseInt (usedFree (usedFree (setPort s p { x with
      tx := dropFirst (fun f => isEvent f.bytes == ev) x.tx
      sent := onWire (if inserts f then insertOrigin s.regs p st up f.bytes else f.bytes)
      done := d.drop (d.length - 16) }))) (portPg p) 2

/-- The effect of ETH_TRANSMIT. -/
def doEthTransmit (p : Nat) (s : State) : State :=
  match txClass (portOf s.ptp p) with
  | none => s
  | some c => portCount p 6 (if c % 2 = 0 then sendForward p (c == 0) s else sendOwn p (c == 1) s)

/-- ETH_TRANSMIT: a port that is free starts the first available frame (R405). -/
def execEthTransmit (p : Fin 2) (s : State) : Host.Outcome State Fault Refusal :=
  when (portUp s p && (txClass (portOf s.ptp p)).isSome) s (doEthTransmit p s)

/-- The word PTP_TX_DONE reads. -/
def txDoneWord (x : Port) : W32 :=
  match x.done with
  | [] => 0
  | d :: _ => BitVec.ofNat 32 (2 ^ 31 + d.inserted.toNat * 2 ^ 30 + d.seq.toNat * 2 ^ 16 + d.stamp.sec.toNat / 2 ^ 32)

/-- A read of PTP_TX_DONE pops the oldest completion; the peek path does not (R406). -/
def doTxDonePop (r : Requester) (p : Nat) (s : State) : State :=
  viaRead r (portPg p + 0x144)
    (fun s => setPort (answer (txDoneWord (portOf s.ptp p)) s) p { portOf s.ptp p with done := (portOf s.ptp p).done.drop 1 })
    (fun s => answer (txDoneWord (portOf s.ptp p)) s) s

/-- TX_DONE_POP, a read of PTP_TX_DONE (R406). -/
def execTxDonePop (r : Requester) (p : Fin 2) (s : State) : Host.Outcome State Fault Refusal := .next (doTxDonePop r p s)

/-! ### Port settings -/

/-- A write of PTP_PORT_CFG: its FEC loads the mode's constants into PTP_TXLAT and PTP_RXLAT (R400). -/
def portCfgWrite (r : Requester) (p : Nat) (v : W32) (s : State) : State :=
  let t := (fieldWrite (clampSrc r) 0 (portPg p + 0x100) v s).1
  let fec := v.getLsbD 2
  let u := (fieldWrite (clampSrc r) 0 (portPg p + 0x10C) (if fec then 0xE54C else 0x6E28) t).1
  (fieldWrite (clampSrc r) 0 (portPg p + 0x110) (if fec then 0x3B0EC else 0x8E94) u).1

/-- The effect of PORT_FEC. -/
def doPortFec (r : Requester) (p : Nat) (v : W32) (s : State) : State :=
  viaWrite r (portPg p + 0x100) (portCfgWrite r p v) s

/-- PORT_FEC, a write of PTP_PORT_CFG (R400). -/
def execPortFec (r : Requester) (p : Fin 2) (v : W32) (s : State) : Host.Outcome State Fault Refusal :=
  .next (doPortFec r p v s)

/-- The effect of LINK_CHANGE. -/
def doLinkChange (p : Nat) (up : Bool) (s : State) : State :=
  raiseInt (hwSet (portPg p + 0x100) 31 1 up.toNat s) (portPg p) 5

/-- LINK_CHANGE: PCS block lock and link are gained or lost (R384). -/
def execLinkChange (p : Fin 2) (up : Bool) (s : State) : Host.Outcome State Fault Refusal :=
  when (domOn s.pwr 25 && (rget s.regs (portPg p + 0x100)).getLsbD 31 != up) s (doLinkChange p up s)

/-! ### 1PPS -/

/-- The stamp of a 1PPS_IN edge in an instance. -/
def ppsStamp (s : State) (i : Inst) : BitVec 94 :=
  let f := instAt s i (sampleEdge s.clk.ps)
  BitVec.ofNat 48 (f / 2 ^ 32 / 1000000000) ++ BitVec.ofNat 30 (f / 2 ^ 32 % 1000000000) ++ BitVec.ofNat 16 (f / 2 ^ 16)

/-- The effect of PPS_IN: the edge is stamped in all four instances at one sampling edge (R408). -/
def doPpsIn (s : State) : State :=
  let p := s.ptp
  let t := { s with ptp := { p with
    i0 := { p.i0 with pps := ppsStamp s p.i0 }, i1 := { p.i1 with pps := ppsStamp s p.i1 }
    i2 := { p.i2 with pps := ppsStamp s p.i2 }, i3 := { p.i3 with pps := ppsStamp s p.i3 } } }
  raiseInt (raiseInt (raiseInt (raiseInt t 0x10000 3) 0x11000 3) 0x12000 3) 0x13000 3

/-- PPS_IN: a rising edge on 1PPS_IN, held for at least 1.0 ns, arrives now (R408). -/
def execPpsIn (s : State) : Host.Outcome State Fault Refusal := when (domOn s.pwr 25) s (doPpsIn s)

/-- The instance that times 1PPS_OUT has reached a second boundary plus offset since the last one (R407). -/
def ppsDue (s : State) : Bool :=
  let i := instOf s.ptp (ppsInst s.regs)
  (rget s.regs 0x10154).getLsbD 31 && domOn s.pwr 25 && !i.unset && decide (ppsPassed s < ppsIndex s.regs i.fine)

/-- The effect of PPS_OUT: one pulse of WIDTH milliseconds from the sampling edge at which the boundary was reached, or
from the period of a step that passed it (R407). -/
def doPpsOut (s : State) : State :=
  let i := instOf s.ptp (ppsInst s.regs)
  let n := ppsIndex s.regs i.fine
  let excess := ((i.fine : Int) - ppsOffset s.regs * 2 ^ 32 - n * secFine).toNat
  let back := excess * 4000 / i.incr.toNat
  let x := sampleEdge (s.clk.ps / 4000 * 4000 - Nat.min back (i.since * 4000))
  let t := setInst s (ppsInst s.regs) { i with mark := none }
  { t with ptp := { t.ptp with
    ppsSec := n, ppsOut := some ⟨0, x, x + rfld s.regs 0x10154 16 10 * 1000000000⟩ } }

/-- PPS_OUT: 1PPS_OUT rises, to fall after WIDTH (R407). -/
def execPpsOut (s : State) : Host.Outcome State Fault Refusal := when (ppsDue s) s (doPpsOut s)

/-- Level of 1PPS_OUT (R407). -/
def ppsLevel (s : State) : Bool :=
  (rget s.regs 0x10154).getLsbD 31 && !(instOf s.ptp (ppsInst s.regs)).unset && match s.ptp.ppsOut with
    | some p => decide (p.start ≤ s.clk.ps) && decide (s.clk.ps < p.stop)
    | none => false

/-- A write of PTP_PPS_OUT: the seconds passed are counted anew by the settings written; EN = 0 ends the
pulse (R407). -/
def ppsWrite (r : Requester) (v : W32) (s : State) : State :=
  let t := (fieldWrite (clampSrc r) 0 0x10154 v s).1
  let i := ppsInst t.regs
  let u := setInst t i { instOf t.ptp i with mark := none }
  { u with ptp := { u.ptp with
    ppsSec := ppsIndex u.regs (instOf u.ptp i).fine
    ppsOut := if (rget u.regs 0x10154).getLsbD 31 then u.ptp.ppsOut else none } }

end Sys2Proof.Machine
end

