-- ==== Sys2Proof/Machine/Trigger.lean ====
section
/-!
DEFINITION. The trigger engine and acquisition (R360 to R383): the rows EVALUATION, TRIG_IN_EDGE, XTRG_EDGE, TRG_CAL,
CAL_DONE, XTRG_TEST, SEQ_RESET, ACQ_CTRL_START and ACQ_CTRL_STOP.
-/

namespace Sys2Proof.Machine

/-- Sampling period in picoseconds (R361). -/
def samplePs : Nat := 800

/-- Lane group `g` of the probe lanes. -/
def laneGroup (l : BitVec 4096) (g : Nat) : W64 := l.extractLsb' (64 * g) 64

/-- TRG_CTRL.ENABLE. -/
def trgEnabled (s : State) : Bool := (rget s.regs 0x7100).getLsbD 0 && domOn s.pwr 27

/-! ### Comparators and counters -/

/-- A comparator hits (R366). `l`, `p`: its lane group at the tick and at the tick before. -/
def comparatorHit (cfg : W32) (a b l p : W64) : Bool :=
  let lo := fld cfg 0 6
  let n := fld cfg 8 6 + 1 - lo
  let x := fld l lo n
  let raw :=
    if fld cfg 28 2 = 0 then ((l ^^^ a) &&& b) == 0
    else if fld cfg 28 2 = 1 then ((l ^^^ p) &&& b) != 0
    else if cfg.getLsbD 27 then
      let sx := (BitVec.ofNat n x).toInt
      decide (a.toInt ≤ sx) && decide (sx ≤ b.toInt)
    else decide (a.toNat ≤ x) && decide (x ≤ b.toNat)
  cfg.getLsbD 31 && (raw != cfg.getLsbD 30)

/-- Comparator `k` with its registers in effect. -/
def comparator (s : State) (k : Nat) : Bool :=
  let e := s.trg.eff
  let cfg := rget e (rkey 0x710C k)
  let a := rget e (rkey 0x7114 k) ++ rget e (rkey 0x7110 k)
  let b := rget e (rkey 0x711C k) ++ rget e (rkey 0x7118 k)
  let g := fld cfg 16 6
  comparatorHit cfg a b (laneGroup s.pen.lanes g) (laneGroup s.pen.lanesOld g)

/-- Transitions of the interval being closed. -/
def inInterval (s : State) : List PinTr := s.trg.trans.filter fun x => decide (x.edge < s.pen.evalAt)

/-- EDGE of a pin: 0 rising, 1 falling, 2 both, 3 high level. -/
def pinEdge (e : SMap W32) (k : Nat) : Nat := rfld e (rkey 0x7150 k) 24 2

/-- Pin `k` has a qualifying edge, or in level mode a high sample, in the interval (R364, R367). -/
def pinCond (s : State) (k : Nat) : Bool :=
  let l := (inInterval s).filter fun x => x.pin == k
  if pinEdge s.trg.eff k = 3 then s.trg.level0.getLsbD k || l.any (fun x => x.rising) else l.any fun x => x.qual == some true

/-- Line `k` is seen: a delayed edge falls in the interval (R372). -/
def lineCond (s : State) (k : Nat) : Bool := s.trg.xedges.any fun x => x.1 == k && decide (x.2 < s.pen.evalAt)

/-- COUNT of a counter. -/
def cntOf (t : Trg) (k : Nat) : Nat := t.cnt.get 0 k

/-- LIMIT of a counter. -/
def cntLimit (e : SMap W32) (k : Nat) : Nat := rfld e (rkey 0x713C k) 0 16 * 2 ^ 32 + (rget e (rkey 0x7138 k)).toNat

/-- A counter counts in the present sequencer state (R373). -/
def cntActive (t : Trg) (k : Nat) : Bool := (rget t.eff (rkey 0x7134 k)).getLsbD (16 + t.state.toNat)

/-- SRC of a counter. -/
def cntSrc (e : SMap W32) (k : Nat) : Nat := rfld e (rkey 0x7134 k) 8 2

/-- Highest value of COUNT (R373). -/
def cntTop : Nat := 2 ^ 48 - 1

/-- The instant since which the time counters have not been brought up to date: the interval's begin, or a SEQ_RESET in
it (R368, R373, R375). -/
def countsFrom (t : Trg) : Nat := t.cleared.getD t.start

/-- COUNT at an instant of clock instance 0: a time counter counts on since the last evaluation or clear (R368,
R373). -/
def cntAt (t : Trg) (k time : Nat) : Nat :=
  if cntActive t k && cntSrc t.eff k == 2 then
    Nat.min cntTop (cntOf t k + (t.frac.get 0 k + (time - countsFrom t)) / 2 ^ 32)
  else cntOf t k

/-- An edge of a kind that EDGE selects; in level mode the rising edges count (R367). -/
def edgeKind (edge : Nat) (rising : Bool) : Bool :=
  if edge = 0 then rising else if edge = 1 then !rising else if edge = 2 then true else rising

/-- A transition qualifies: by EDGE, and with WIN = 1 by its counter's COUNT at its stamp (R367, R368). -/
def qualifies (t : Trg) (x : PinTr) : Bool :=
  let r := rget t.eff (rkey 0x7150 x.pin)
  let w := fld r 28 2
  edgeKind (fld r 24 2) x.rising && (!r.getLsbD 30 || decide (cntAt t w x.time < cntLimit t.eff w))

/-- The transitions sampled before an edge are judged, with the registers and counters in effect until then (R368,
R383). -/
def judge (upTo : Nat) (t : Trg) : Trg :=
  { t with trans := t.trans.map fun x =>
      if x.qual.isNone ∧ x.edge < upTo then { x with qual := some (qualifies t x) } else x }

/-- The condition bits that comparators, pins, lines and assertions give: indices 0 to 27, 32 and 33 (R364). -/
def conds0 (s : State) : BitVec 34 :=
  BitVec.ofNat 34 ((List.range 34).foldl (fun n i =>
    let c := if i < 16 then comparator s i else if i < 24 then pinCond s (i - 16) else if i < 28 then lineCond s (i - 24)
      else if i < 32 then false else if i = 32 then s.pen.asserts != [] else true
    if c then n + 2 ^ i else n) 0)

/-- Step 2: counter `k` counts (R373). `c`: the condition bits of step 1, with the terminal bits of the evaluation
before. -/
def countOne (s : State) (c : BitVec 34) (t : Trg) (k : Nat) : Trg :=
  if cntActive s.trg k then
    let src := cntSrc s.trg.eff k
    let arg := rfld s.trg.eff (rkey 0x7134 k) 0 6
    if src = 2 then
      let f := s.trg.frac.get 0 k + (s.pen.evalTime - countsFrom s.trg)
      { t with
        cnt := t.cnt.put 0 k (satAdd cntTop (cntOf s.trg k) (f / 2 ^ 32))
        frac := t.frac.put 0 k (f % 2 ^ 32) }
    else
      let n := if src = 0 then 1 else if src = 1 then (if c.getLsbD arg then 1 else 0)
        else ((inInterval s).filter fun x => x.pin == arg % 8 && x.qual == some true).length
      { t with cnt := t.cnt.put 0 k (satAdd cntTop (cntOf s.trg k) n) }
  else t

/-- Step 3: the terminal bits (R364). -/
def terminals (t : Trg) : BitVec 4 :=
  BitVec.ofNat 4 ((List.range 4).foldl (fun n k => if cntLimit t.eff k ≤ cntOf t k then n + 2 ^ k else n) 0)

/-- Condition bits with the terminal bits in 28 to 31. -/
def withTerm (c : BitVec 34) (t : BitVec 4) : BitVec 34 := setFld c 28 4 t.toNat

/-! ### Hold-off and the sequencer -/

/-- TRG_CTRL.REARM. -/
def rearm (m : SMap W32) : BitVec 4 := BitVec.ofNat 4 (rfld m 0x7100 4 4)

/-- Step 4: the hold-off window at tick `t`: it goes on with the events seen, or ends and the sequencer enters REARM
(R375). -/
def holdStep (m : SMap W32) (t : Nat) (c : BitVec 34) (x : Trg) : Trg :=
  match x.holdoff with
  | none => x
  | some (first, seen) =>
    let r := rget x.eff 0x7148
    let n := fld r 0 24
    if r.getLsbD 31 then
      let seen := if c.getLsbD (fld r 24 6) then seen + 1 else seen
      if n ≤ seen then { x with holdoff := none, state := rearm m } else { x with holdoff := some (first, seen) }
    else if first + n ≤ t then { x with holdoff := none, state := rearm m }
    else x

/-- The condition of a transition register (R374). -/
def seqCond (r : W32) (c : BitVec 34) : Bool :=
  let a := c.getLsbD (fld r 0 6)
  let b := c.getLsbD (fld r 8 6)
  r.getLsbD 31 && (if fld r 16 2 = 0 then a else if fld r 16 2 = 1 then a && b else if fld r 16 2 = 2 then a || b else a && !b)

/-- Step 5: the state entered by the transition taken, A before B (R374); none during hold-off. -/
def taken (x : Trg) (c : BitVec 34) : Option (BitVec 4) :=
  let a := rget x.eff (rkey 0x7124 x.state.toNat)
  let b := rget x.eff (rkey 0x7128 x.state.toNat)
  if x.holdoff.isSome then none
  else if seqCond a c then some (BitVec.ofNat 4 (fld a 20 4))
  else if seqCond b c then some (BitVec.ofNat 4 (fld b 20 4))
  else none

/-! ### Acquisition records -/

/-- A record's header (R380). `time`: its stamp, in units of 2^-32 ns of clock instance 0. -/
def recHeader (stream kind groups : Nat) (trig gap : Bool) (time tick : Nat) : W128 :=
  let ns := time / 2 ^ 32
  BitVec.ofNat 128 (stream * 2 ^ 125 + kind * 2 ^ 122 + trig.toNat * 2 ^ 121 + gap.toNat * 2 ^ 120 + groups * 2 ^ 114
    + ns / 1000000000 % 2 ^ 16 * 2 ^ 96 + ns % 1000000000 * 2 ^ 66 + tick % 2 ^ 64)

/-- A record: header and payload, padded with zeros to a multiple of 16 bytes (R380). -/
def recBytes (h : W128) (payload : List Byte) : List Byte :=
  wordBytes h 16 ++ payload ++ List.replicate ((16 - payload.length % 16) % 16) 0

/-- Size of the on-chip acquisition buffer in bytes. -/
def acqCap : Nat := 16777216

/-- Bytes held by the on-chip buffer. -/
def acqHeld (t : Trg) : Nat := (t.buf.map List.length).foldl (· + ·) 0

/-- A record of a kind and stream enters the on-chip buffer, with GAP when one was dropped before it, or is dropped
(R380, R381). -/
def putRecord (stream kind groups : Nat) (trig : Bool) (time tick : Nat) (payload : List Byte) (s : State) : State :=
  let key := kind * 8 + stream
  let r := recBytes (recHeader stream kind groups trig (s.trg.gaps.get false key) time tick) payload
  if acqHeld s.trg + r.length ≤ acqCap then
    { s with trg := { s.trg with buf := s.trg.buf ++ [r], gaps := s.trg.gaps.erase key } }
  else
    raiseInt { s with
      trg := { s.trg with gaps := s.trg.gaps.set key true }
      regs := rbump s.regs 0x718C 0 32 1 } 0x7000 2

/-- Base, length in bytes, and mode of the region (TRG_ACQ_BASE, TRG_ACQ_LEN, TRG_ACQ_CTRL.MODE). -/
def acqBase (m : SMap W32) : Nat := rfld m 0x717C 0 7 * 2 ^ 32 + (rget m 0x7178).toNat
def acqLen (m : SMap W32) : Nat := (rget m 0x7180).toNat * 1024
def acqMode (m : SMap W32) : Nat := rfld m 0x7170 26 2

/-- Writes bytes to DRAM burst by burst through port 9, as MEM_WRITE packets in class trace (R212, R271, R381). `n`
bounds the bursts. -/
def spill : Nat → Nat → List Byte → State → State
  | 0, _, _, s => s
  | n + 1, a, l, s =>
    if l = [] then s
    else
      let k := 64 - a % 64
      spill n (a + k) (l.drop k) (portWrite 9 a (l.take k) (exchange 3 (44, 0) (19, 0) 3 1 (reachChan a s)))

/-- A record is written at an offset of the region, and WPTR moves past it; at the region's end it returns to 0 except
in mode STOP. -/
def placeRec (at' : Nat) (r : List Byte) (s : State) : State :=
  let t := spill (r.length / 64 + 2) (acqBase s.regs + at') r s
  let n := at' + r.length
  { t with regs := rput t.regs 0x7184 (BitVec.ofNat 32 ((if n = acqLen s.regs ∧ acqMode s.regs ≠ 0 then 0 else n) / 16)) }

/-- Acquisition has stopped: TRG_STATUS.ACQ_DONE and its interrupt (R378, R382). -/
def acqStopped (s : State) : State :=
  raiseInt { s with trg := { s.trg with streams := [], stopTick := none, startReq := false, acqDone := true } } 0x7000 1

/-- A PAD record's header: STREAM 0, KIND 7, no GAP, GROUPS 0 and the reserved bits 0; what TRIG, the stamp and TICK hold
the spec does not say (R380, log 4). -/
def padHeader (s : State) : List Byte :=
  let h := Config.freeWord s.clk.free ++ Config.freeWord (s.clk.free + 1)
  wordBytes (setFld (setFld (setFld (setFld h 122 6 7) 120 1 0) 112 8 0) 64 2 0) 16

/-- A PAD record fills the region from an offset to its end. -/
def placePad (at' : Nat) (s : State) : State :=
  if at' < acqLen s.regs then
    let t := spill 2 (acqBase s.regs + at') (padHeader s) s
    { t with clk := { t.clk with free := t.clk.free + 2 } }
  else s

/-- Bytes free ahead of RPTR (mode FLOW). The region is empty when WPTR = RPTR (R382). -/
def acqFree (m : SMap W32) : Nat :=
  let w := (rget m 0x7184).toNat * 16
  let r := (rget m 0x7188).toNat * 16
  if w = r then acqLen m else if w < r then r - w else acqLen m - (w - r)

/-- The oldest record of the on-chip buffer goes to the region; none when FLOW has no room for it (R382). -/
def drainOne (r : List Byte) (s : State) : Option State :=
  let w := (rget s.regs 0x7184).toNat * 16
  let fits := decide (w + r.length ≤ acqLen s.regs)
  if acqMode s.regs = 0 then
    if fits then some (placeRec w r s) else some (if s.trg.acqDone && s.trg.streams.isEmpty then s else acqStopped s)
  else
    let need := r.length + 16 + (if fits then 0 else acqLen s.regs - w)
    if acqMode s.regs = 2 ∧ acqFree s.regs < need then none
    else some (if fits then placeRec w r s else placeRec 0 r (placePad w s))

/-- Records pass through the on-chip buffer to the region, oldest first (R381). `n` bounds them. -/
def drainAcq : Nat → State → State
  | 0, s => s
  | n + 1, s => match s.trg.buf with
    | [] => s
    | r :: rest => match drainOne r s with
      | none => s
      | some t => drainAcq n { t with trg := { t.trg with buf := rest } }

/-- The on-chip buffer drains as far as the region takes records. -/
def drainBuf (s : State) : State := drainAcq s.trg.buf.length s

/-! ### Reductions -/

/-- A change of a lane: the offset of its tick from the window's start. -/
def changesOf (x : Stream) (lane : Nat) : List Nat :=
  (x.ticks.filter fun t => t.2.2.getLsbD lane).map fun t => t.1 - x.win

/-- Value of the lanes at the window's last tick. -/
def endLanes (x : Stream) : BitVec 4096 := match x.ticks.getLast? with
  | some t => t.2.1
  | none => 0

/-- A 16-bit number as two bytes. -/
def half (n : Nat) : List Byte := wordBytes (BitVec.ofNat 16 n) 2

/-- The value of a field of a MINMAX reduction. -/
def fieldInt (sg : Bool) (l : W64) (fw i : Nat) : Int :=
  let x := BitVec.ofNat fw (fld l (fw * i) fw)
  if sg then x.toInt else x.toNat

/-- The extreme of a list of field values. -/
def extreme (le : Int → Int → Bool) : List Int → Int
  | [] => 0
  | x :: xs => xs.foldl (fun a b => if le b a then b else a) x

/-- The packed extremes of a lane group. -/
def packExt (le : Int → Int → Bool) (sg : Bool) (fw : Nat) (ls : List W64) : W64 :=
  BitVec.ofNat 64 ((List.range (64 / fw)).foldl (fun n i =>
    n + (BitVec.ofInt fw (extreme le (ls.map fun l => fieldInt sg l fw i))).toNat * 2 ^ (fw * i)) 0)

/-- The payload of a lane group `g` (table Reductions, R379). -/
def reduce (cfg : W32) (x : Stream) (g : Nat) : List Byte :=
  let kind := fld cfg 28 3
  let last := wordBytes (laneGroup (endLanes x) g) 8
  let ls := x.ticks.map fun t => laneGroup t.2.1 g
  if kind = 0 then last
  else if kind = 1 then last ++ (List.range 64).flatMap fun i => half (changesOf x (64 * g + i)).length
  else if kind = 2 then last ++ (List.range 64).flatMap fun i =>
    let c := changesOf x (64 * g + i)
    half (c.head?.getD 0xFFFF) ++ half (c.getLast?.getD 0xFFFF)
  else if kind = 3 then wordBytes (ls.foldl (· &&& ·) (BitVec.allOnes 64)) 8 ++ wordBytes (ls.foldl (· ||| ·) 0) 8
  else
    let fw := 8 * 2 ^ fld cfg 25 2
    wordBytes (packExt (fun a b => decide (a ≤ b)) (cfg.getLsbD 27) fw ls) 8
      ++ wordBytes (packExt (fun a b => decide (b ≤ a)) (cfg.getLsbD 27) fw ls) 8

/-- TRG_STR_CFG and TRG_STR_WIN of a stream; W is 1 for RAW (R379). -/
def strCfg (m : SMap W32) (k : Nat) : W32 := rget m (rkey 0x7168 k)
def strWin (m : SMap W32) (k : Nat) : Nat := if fld (strCfg m k) 28 3 = 0 then 1 else rfld m (rkey 0x716C k) 0 16

/-- The record of a completed window. -/
def windowRecord (k : Nat) (x : Stream) (s : State) : State :=
  let cfg := strCfg s.regs k
  let lo := fld cfg 8 6
  let n := fld cfg 16 6 + 1 - lo
  putRecord k (fld cfg 28 3) (n - 1) x.trig s.pen.evalTime x.win
    ((List.range n).flatMap fun i => reduce cfg x (lo + i)) s

/-- A stream takes tick `t` (R378, R379): its window grows; at the window's last tick its record is written, and the
stream stops if that window held the stop tick. A window of which ticks were not evaluated gives no record (log 34). -/
def streamTick (t : Nat) (hit : Bool) (s : State) (k : Nat) : State :=
  match s.trg.streams.find? k with
  | none => s
  | some x =>
    let w := strWin s.regs k
    let set (y : Stream) (s : State) : State := { s with trg := { s.trg with streams := s.trg.streams.set k y } }
    if t < x.win then
      match s.trg.stopTick with
      | some z => if z < x.win then { s with trg := { s.trg with streams := s.trg.streams.erase k } } else s
      | none => s
    else if t < x.win + w then
      let y := { x with
        started := true, ticks := x.ticks ++ [(t, s.pen.lanes, s.pen.lanes ^^^ s.pen.lanesOld)], trig := x.trig || hit }
      if t + 1 = x.win + w then
        let r := windowRecord k y s
        let passed := match s.trg.stopTick with
          | some z => decide (z < x.win + w)
          | none => false
        if passed then { r with trg := { r.trg with streams := r.trg.streams.erase k } }
        else set ⟨x.win + w, true, [], false⟩ r
      else set y s
    else
      let key := fld (strCfg s.regs k) 28 3 * 8 + k
      let u := set ⟨(t / w + 1) * w, x.started, [], false⟩ s
      { u with trg := { u.trg with gaps := u.trg.gaps.set key true } }

/-- The streams take tick `t`, in ascending number (R381). -/
def streamsTick (t : Nat) (hit : Bool) (s : State) : State :=
  let u := (List.range 8).foldl (streamTick t hit) s
  if s.trg.streams.isEmpty || !u.trg.streams.isEmpty then u else acqStopped u

/-- A start takes effect at tick `t`: each enabled stream that is not running begins with its first window after `t`;
a stop tick that has passed is forgotten (R378, log 80). -/
def startStreams (t : Nat) (s : State) : State :=
  { s with trg := { s.trg with
    startReq := false, acqDone := false
    stopTick := s.trg.stopTick.filter fun z => decide (t ≤ z)
    streams := (List.range 8).foldl (fun m k =>
      let w := strWin s.regs k
      if (strCfg s.regs k).getLsbD 31 && (s.trg.streams.find? k).isNone then m.set k ⟨(t / w + 1) * w, false, [], false⟩ else m)
      s.trg.streams } }

/-- A stop with a stop tick; an earlier one stands (R378). -/
def stopStreams (z : Nat) (s : State) : State :=
  { s with trg := { s.trg with
    stopReq := false
    stopTick := some (match s.trg.stopTick with
      | some y => Nat.min y z
      | none => z) } }

/-! ### Entry actions -/

/-- A pulse on a line, restarted when one is active (R369). -/
def addPulse (l : List Pulse) (now line start stop : Nat) : List Pulse :=
  let l := l.filter fun p => decide (now < p.stop)
  if l.any (fun p => p.line == line && decide (start ≤ p.stop)) then
    l.map fun p => if p.line == line && decide (start ≤ p.stop) then { p with stop := stop } else p
  else l ++ [⟨line, start, stop⟩]

/-- Level of TRIG_OUT k: the polarity that POL gives, inactive without a pulse (R369). -/
def trigOut (s : State) (k : Nat) : Bool :=
  (s.trg.tout.any fun p => p.line == k && decide (p.start ≤ s.clk.ps) && decide (s.clk.ps < p.stop))
    != (rget s.regs 0x7158).getLsbD (8 * k + 7)

/-- TOUT k at E(t): a pulse on TRIG_OUT k, 16 sampling periods later (R369). -/
def actTout (s : State) (k : Nat) : State :=
  let e := s.pen.evalAt
  let w := rfld s.regs 0x7158 (8 * k) 7
  { s with trg := { s.trg with tout := addPulse s.trg.tout e k (e + 16 * samplePs) (e + (16 + w) * samplePs) } }

/-- Line k is pulled low, TXDLY periods after an edge, for WIDTH periods; pulses may overlap on the wire (R370). -/
def driveLine (dly from' : Nat) (s : State) (k : Nat) : State :=
  let w := rfld s.regs 0x715C 24 5
  { s with trg := { s.trg with
    xtrg := (s.trg.xtrg.filter fun p => decide (from' < p.stop))
      ++ [⟨k, from' + dly * samplePs, from' + (dly + w) * samplePs⟩] } }

/-- This chip pulls line k low: one of its pulses is active; the line falls once for pulses that overlap (R370). -/
def lineLow (s : State) (k : Nat) : Bool :=
  s.trg.xtrg.any fun p => p.line == k && decide (p.start ≤ s.clk.ps) && decide (s.clk.ps < p.stop)

/-- XTRG k at E(t) (R370). -/
def actXtrg (s : State) (k : Nat) : State := driveLine (rfld s.regs 0x715C 0 8) s.pen.evalAt s k

/-- The break of R99 for tick `t` is requested when break is armed; an earlier one stands. -/
def requestBreak (t : Nat) (s : State) : State :=
  if brkNow s && s.tck.breakAt.isNone then
    { s with tck := { s.tck with breakAt := some (if s.tck.multi then t + 2 else t + 1) } }
  else s

/-- BREAK (R376): single-chip the break of R99, otherwise line BRKLINE. -/
def actBreak (t : Nat) (s : State) : State :=
  if s.tck.multi then actXtrg s (rfld s.regs 0x715C 30 2) else requestBreak t s

/-- EVENT (R377): the trigger engine's binding is submitted; a refusal counts in ERR_COUNT and sets EVENT_LOST. -/
def actEvent (t entered left : Nat) (trig : Bool) (s : State) : State :=
  if (rget s.regs 0x5128).getLsbD 15 then
    let arg := BitVec.ofNat 64 (t % 2 ^ 48 + entered * 2 ^ 48 + left * 2 ^ 52 + trig.toNat * 2 ^ 56)
    let r := submitBinding (rfld s.regs 0x5128 0 12) arg s
    if 8 ≤ r.2.code then raiseInt { r.1 with regs := rerr r.1.regs 0x7000 1 } 0x7000 3 else r.1
  else s

/-- A TRIGMARK record (R380). -/
def markRecord (t left entered : Nat) (c : BitVec 34) (s : State) : State :=
  if (rget s.regs 0x7170).getLsbD 25 then
    putRecord 0 6 0 true s.pen.evalTime t
      (wordBytes (BitVec.ofNat 128 (c.toNat + left * 2 ^ 64 + entered * 2 ^ 68)) 16) s
  else s

/-- TRIGGER at tick `t` (R374, R375, R378). -/
def actTrigger (t left entered : Nat) (c : BitVec 34) (s : State) : State :=
  let s := raiseInt { s with
    trg := { s.trg with holdoff := some (t, 0), trigTick := BitVec.ofNat 64 t } } 0x7000 0
  let s := markRecord t left entered c s
  if (rget s.regs 0x7170).getLsbD 24 then stopStreams (t + (rget s.regs 0x7174).toNat) s else s

/-- Counters whose bit is set return to 0 (R373). -/
def clearCounters (mask : Nat) (t : Trg) : Trg :=
  (List.range 4).foldl (fun t k => if mask.testBit k then { t with cnt := t.cnt.erase k, frac := t.frac.erase k } else t) t

/-- Lines of a mask. -/
def bitsOf (mask : Nat) : List Nat := (List.range 4).filter fun k => mask.testBit k

/-- Step 6: the entry actions of the state entered (R374). -/
def entryActions (t left entered : Nat) (c : BitVec 34) (s : State) : State :=
  let a := rget s.trg.eff (rkey 0x712C entered)
  let s := if a.getLsbD 0 then actTrigger t left entered c s else s
  let s := if a.getLsbD 1 then actBreak t s else s
  let s := if a.getLsbD 2 then actEvent t entered left (a.getLsbD 0) s else s
  let s := (bitsOf (fld a 8 4)).foldl actTout s
  let s := (bitsOf (fld a 12 4)).foldl actXtrg s
  let s := { s with trg := clearCounters (fld a 16 4) s.trg }
  if fld a 20 2 = 1 then startStreams t s else if fld a 20 2 = 2 then stopStreams t s else s

/-! ### EVALUATION -/

/-- An EVENT record (R380). -/
def eventRecord (src edge num time t : Nat) (s : State) : State :=
  putRecord 0 5 0 false time t
    (wordBytes (BitVec.ofNat 128 (src + edge * 2 ^ 8 + num * 2 ^ 16 + time / 2 ^ 32 / 1000000000 % 2 ^ 48 * 2 ^ 64)) 16) s

/-- EVENT records of the interval: the qualifying edges of logged pins in stamp order, then the assertions (R381). -/
def eventRecords (t : Nat) (s : State) : State :=
  let s' := ((inInterval s).filter fun x => x.qual == some true && (rget s.trg.eff (rkey 0x7150 x.pin)).getLsbD 31).foldl
    (fun u x => eventRecord x.pin (if x.rising then 0 else 1) 0 x.time t u) s
  if (rget s.regs 0x7170).getLsbD 23 then
    s.pen.asserts.foldl (fun u e => eventRecord 0x10 0 e.num.toNat s.pen.evalTime t u) s'
  else s'

/-- Assertion events released for the tick are counted (R365). -/
def countAsserts (s : State) : State :=
  raiseIf (s.pen.asserts != []) { s with regs := rbump s.regs 0x7198 0 32 s.pen.asserts.length } 0x7000 4

/-- The next interval begins at E(t), under the pin registers as they now stand (R362, R364, R383). -/
def nextInterval (s : State) : State :=
  { s with
    pen := { s.pen with due := false }
    trg := { pinsFrom s.pen.evalAt s.trg with start := s.pen.evalTime, cleared := none, eff := trgShadow s.regs } }

/-- Number of the tick released last. -/
def releasedTick (s : State) : Nat := s.tck.count.toNat - 1

/-- Steps 2 to 6, from the conditions of step 1 (R363): the state, and whether TRIGGER is among the actions. -/
def sequence (t : Nat) (c0 : BitVec 34) (s : State) : State × Bool :=
  let x := (List.range 4).foldl (countOne s (withTerm c0 s.trg.term)) s.trg
  let c := withTerm c0 (terminals x)
  let y := holdStep s.regs t c { x with term := terminals x }
  let s := { s with trg := y }
  match taken y c with
  | none => (s, false)
  | some n =>
    (entryActions t y.state.toNat n.toNat c { s with trg := { y with state := n } },
      (rget y.eff (rkey 0x712C n.toNat)).getLsbD 0)

/-- In a multi-chip system the break line asks for the break (R376). -/
def lineBreak (t : Nat) (c0 : BitVec 34) (s : State) : State :=
  if s.tck.multi && c0.getLsbD (24 + rfld s.regs 0x715C 30 2) then requestBreak t s else s

/-- Starts and stops written to TRG_ACQ_CTRL act at the evaluation (R378). -/
def acqRequests (t : Nat) (s : State) : State :=
  let s := if s.trg.startReq then startStreams t s else s
  if s.trg.stopReq then stopStreams t s else s

/-- The effect of EVALUATION: the interval's transitions are judged, the registers written since the last one take
effect, then the steps of R363. -/
def doEvaluation (s : State) : State :=
  let t := releasedTick s
  let s := { s with trg := judge s.pen.evalAt s.trg }
  let s := { s with trg := { s.trg with eff := trgInForce s.trg.eff s.regs } }
  let c0 := conds0 s
  let s := countAsserts (eventRecords t s)
  let r := sequence t c0 s
  nextInterval (drainBuf (streamsTick t r.2 (acqRequests t (lineBreak t c0 r.1))))

/-- EVALUATION, of the tick released last (R361). -/
def execEvaluation (s : State) : Host.Outcome State Fault Refusal := when (evalDue s) s (doEvaluation s)

/-! ### External edges -/

/-- The transition as sampled (R367): the pin's delay is TAP × 8 ps. -/
def pinTrans (s : State) (k : Nat) (rising : Bool) : PinTr :=
  let x := sampleEdge (s.clk.ps + 8 * fld (rget s.trg.eff (rkey 0x7150 k)) 0 7)
  { pin := k, rising := rising, edge := x, time := fineAt s x }

/-- A transition takes its place by its sampling edge (R381); a pin that returns to its level before a sampling edge is
not seen to change (R367). -/
def addTrans (x : PinTr) (l : List PinTr) : List PinTr :=
  if l.any (fun y => y.pin == x.pin && y.edge == x.edge) then l.filter fun y => !(y.pin == x.pin && y.edge == x.edge)
  else (l.filter fun y => decide (y.edge ≤ x.edge)) ++ x :: l.filter fun y => !decide (y.edge ≤ x.edge)

/-- The pins while nothing is evaluated: what has been sampled is level, what is still delayed waits for the interval that
may begin (R362). -/
def idlePins (s : State) : Trg := if trgEnabled s then s.trg else pinsFrom (sampleEdge s.clk.ps) s.trg

/-- The effect of TRIG_IN_EDGE: the pin is sampled while its domain is ON. -/
def doTrigInEdge (k : Nat) (rising : Bool) (s : State) : State :=
  let t := idlePins s
  let level := setFld t.level k 1 rising.toNat
  { s with trg :=
      if domOn s.pwr 27 then { t with level := level, trans := addTrans (pinTrans s k rising) t.trans }
      else { t with level := level, level0 := setFld t.level0 k 1 rising.toNat } }

/-- TRIG_IN_EDGE: the level of a pin changes now (R367). An evaluation that is due comes first. -/
def execTrigInEdge (k : Fin 8) (rising : Bool) (s : State) : Host.Outcome State Fault Refusal :=
  event (s.trg.level.getLsbD k != rising && !evalDue s) s (doTrigInEdge k rising s)

/-- The effect of XTRG_EDGE: the edge is delayed by RXDLY periods, and on LINE the period counter is stamped (R370,
R372). -/
def doXtrgEdge (k : Nat) (s : State) : State :=
  let x := sampleEdge s.clk.ps
  let t := idlePins s
  { s with
    trg := { t with xedges := t.xedges ++ [(k, x + rfld s.regs 0x715C 8 8 * samplePs)] }
    regs := if rfld s.regs 0x7160 28 2 = k then rset s.regs 0x7160 0 24 (s.clk.period.toNat % 2 ^ 24) else s.regs }

/-- XTRG_EDGE: a falling edge of a line is seen now, the chip's own included (R370, R372). -/
def execXtrgEdge (k : Fin 4) (s : State) : Host.Outcome State Fault Refusal :=
  when (domOn s.pwr 27) s (doXtrgEdge k s)

/-! ### Calibration and the cross-trigger test -/

/-- A write of TRG_CAL: GO begins the calibration of PIN (R368). -/
def calWrite (r : Requester) (v : W32) (s : State) : State :=
  let t := (fieldWrite (clampSrc r) 0 0x7154 v s).1
  if v.getLsbD 31 && t.trg.cal.isNone then
    { t with
      regs := rset t.regs 0x7154 30 1 1
      trg := { t.trg with cal := some (rfld t.regs 0x7154 24 3) } }
  else t

/-- The effect of TRG_CAL. -/
def doTrgCal (r : Requester) (v : W32) (s : State) : State := viaWrite r 0x7154 (calWrite r v) s

/-- TRG_CAL (R368). -/
def execTrgCal (r : Requester) (v : W32) (s : State) : Host.Outcome State Fault Refusal := .next (doTrgCal r v s)

/-- The effect of CAL_DONE. -/
def doCalDone (trans : Nat) (s : State) : State :=
  raiseInt { s with
    regs := rset (rset s.regs 0x7154 30 1 0) 0x7154 0 7 trans
    trg := { s.trg with cal := none } } 0x7000 5

/-- CAL_DONE: the sweep has found the smallest tap at which the edge is seen one sampling edge later (R368). -/
def execCalDone (trans : BitVec 7) (s : State) : Host.Outcome State Fault Refusal :=
  when s.trg.cal.isSome s (doCalDone trans.toNat s)

/-- A write of TRG_XTRG_TEST: GO pulls LINE low from the next sampling edge; ignored while RUNNING (R372). -/
def testWrite (r : Requester) (v : W32) (s : State) : State :=
  let t := (fieldWrite (clampSrc r) 0 0x7160 v s).1
  if v.getLsbD 31 && t.tck.run != .running then
    driveLine 0 (sampleEdge (t.clk.ps + 1)) t (rfld t.regs 0x7160 28 2)
  else t

/-- The effect of XTRG_TEST. -/
def doXtrgTest (r : Requester) (v : W32) (s : State) : State := viaWrite r 0x7160 (testWrite r v) s

/-- XTRG_TEST, a write of TRG_XTRG_TEST (R372). -/
def execXtrgTest (r : Requester) (v : W32) (s : State) : Host.Outcome State Fault Refusal := .next (doXtrgTest r v s)

/-! ### Control -/

/-- SEQ_RESET: the sequencer is in REARM, every counter 0 and counting from now, no hold-off; the transitions sampled
before are judged by the counts until now (R368, R375). -/
def seqResetNow (s : State) : State :=
  let e := sampleEdge s.clk.ps
  { s with trg := { clearCounters 15 (judge e s.trg) with
      state := rearm s.regs, holdoff := none, cleared := some (fineAt s e) } }

/-- A write of TRG_CTRL (R362, R369, R375): ENABLE 1 begins an interval, ENABLE 0 leaves TRIG_OUT inactive. -/
def trgCtrlWrite (r : Requester) (v : W32) (s : State) : State :=
  let was := (rget s.regs 0x7100).getLsbD 0
  let t := (fieldWrite (clampSrc r) 0 0x7100 v s).1
  let now := (rget t.regs 0x7100).getLsbD 0
  let t := if v.getLsbD 1 then seqResetNow t else t
  if now && !was then beginInterval t
  else if now then t
  else { t with trg := { t.trg with tout := [] } }

/-- The effect of SEQ_RESET: TRG_CTRL is written with SEQ_RESET = 1 and its other fields as they stand. -/
def doSeqReset (r : Requester) (s : State) : State :=
  viaWrite r 0x7100 (fun s => trgCtrlWrite r (rget s.regs 0x7100 ||| 2) s) s

/-- SEQ_RESET (R375). -/
def execSeqReset (r : Requester) (s : State) : Host.Outcome State Fault Refusal := .next (doSeqReset r s)

/-- A write of TRG_ACQ_CTRL: START and STOP act at the next evaluation (R378). -/
def acqCtrlWrite (r : Requester) (v : W32) (s : State) : State :=
  let t := (fieldWrite (clampSrc r) 0 0x7170 v s).1
  { t with trg := { t.trg with startReq := t.trg.startReq || v.getLsbD 31, stopReq := t.trg.stopReq || v.getLsbD 30 } }

/-- The effect of ACQ_CTRL_START. -/
def doAcqCtrlStart (r : Requester) (v : W32) (s : State) : State :=
  viaWrite r 0x7170 (acqCtrlWrite r (setFld v 31 1 1)) s

/-- ACQ_CTRL_START, a write of TRG_ACQ_CTRL with START = 1 (R378). -/
def execAcqCtrlStart (r : Requester) (v : W32) (s : State) : Host.Outcome State Fault Refusal :=
  .next (doAcqCtrlStart r v s)

/-- The effect of ACQ_CTRL_STOP. -/
def doAcqCtrlStop (r : Requester) (v : W32) (s : State) : State :=
  viaWrite r 0x7170 (acqCtrlWrite r (setFld v 30 1 1)) s

/-- ACQ_CTRL_STOP, a write of TRG_ACQ_CTRL with STOP = 1 (R378). -/
def execAcqCtrlStop (r : Requester) (v : W32) (s : State) : Host.Outcome State Fault Refusal :=
  .next (doAcqCtrlStop r v s)

/-- A stream is collecting or a start is pending (TRG_STATUS.ACQ_RUN). -/
def acqRunning (s : State) : Bool := s.trg.startReq || !s.trg.streams.isEmpty

end Sys2Proof.Machine
end

