-- ==== Sys2Proof/Machine/Power.lean ====
section
/-!
DEFINITION. Power domains, Stabled, operating modes, resets and the tack room (R440 to R462): the rows PWR_DOM_CTRL,
DOMAIN_CLOSE, DOMAIN_WAKE, STABLE, WAKE_BALL, FORGET, PWR_MODE, CLOCK_RELOCK_DONE, TEMP_SAMPLE, BROWN_OUT, AON_SWITCH,
COLD_START and WARM_RESET.
-/

namespace Sys2Proof.Machine

/-! ### Requests to a domain -/

/-- The run state is WAITING, RUNNING or DRAINING. -/
def runActive (s : State) : Bool := runIn s [.waiting, .running, .draining]

/-- The array group holds a placed barn. -/
def holdsPlaced (s : State) (d : Nat) : Bool := s.arr.vmap.any fun e => e.1 / 6 == d

/-- A groom of [g, g + n) holds an item or is halted by the debugger. -/
def groomsUsed (s : State) (g n : Nat) : Bool :=
  (List.range n).any fun k => (groomOf s (g + k)).item.isSome || (groomOf s (g + k)).halted

/-- A link of a lane group carries a virtual link of the loaded image. -/
def groupLinked (s : State) (q : Nat) : Bool := (activeLinks s.regs).any fun j => j / 6 == q

/-- The reason for which a domain's close into a state is refused, 0 for none (table Domains). `stab`: as a part of the
entry into Stabled, which domains 24, 29 and 30 take part in. -/
def closeReason (stab : Bool) (d t : Nat) (s : State) : Nat :=
  if d < 16 then
    if t = 3 then (if holdsPlaced s d && s.tck.run != .empty then 2 else 0)
    else if (holdsPlaced s d && runActive s) || (s.ldr.busy && s.ldr.phase != 4) then 2 else 0
  else if d < 20 then (if groupLinked s (d - 16) && runActive s then 2 else 0)
  else if d < 22 then (if groomsUsed s ((d - 20) * 8) 8 then 2 else 0)
  else if d < 24 then (if runActive s then 1 else if s.ldr.busy then 2 else 0)
  else if d = 25 then (if runActive s then 1 else 0)
  else if d = 26 then (if t = 3 && runActive s then 1 else 0)
  else if d = 27 then
    if (rget s.regs 0x7100).getLsbD 0 || acqRunning s || !s.trg.buf.isEmpty then 2 else 0
  else if d = 28 then
    if (rget s.regs 0x8100).getLsbD 31 || s.dbg.tap.level != 0 || s.dbg.bar.level != 0 then 2 else 0
  else if stab then 0 else 3

/-- PWR_DOM_RESULT takes a result: 1 accepted, 2 refused. -/
def domResult (res reason d t : Nat) (s : State) : State :=
  { s with regs := rput s.regs 0x410C (BitVec.ofNat 32 (res * 2 ^ 30 + reason * 2 ^ 24 + d * 2 ^ 8 + t)) }

/-- A refused domain request: its reason, and INT_STATUS.REFUSED (R446). -/
def domRefuse (reason d t : Nat) (s : State) : State := raiseInt (domResult 2 reason d t s) 0x4000 1

/-- A request for the state ON: a closed domain begins to wake; a close in progress ends ABORTED (R446). -/
def domWakeRequest (d : Nat) (s : State) : State :=
  let t := abortClose d (domResult 1 0 d 0 s)
  if domOn s.pwr d then raiseInt t 0x4000 3
  else { startWake d t with pwr := { (startWake d t).pwr with asked := t.pwr.asked ||| BitVec.ofNat 32 (2 ^ d) } }

/-- The selected grooms of [g, g + n) that are to leave ON emit POWER, and their encoders send everything they hold (R438). -/
def restGrooms (t g : Nat) : Nat → State → State
  | 0, s => s
  | n + 1, s =>
    let u := emitTrace g [trcHead 7 g, BitVec.ofNat 8 t] s
    restGrooms t (g + 1) n (flushAll g (groomOf u g).enc.length u)

/-- A domain becomes CLOSING; the grooms of one that is ON have their trace sent before its close may begin (R438,
R447). -/
def beginClose (d t : Nat) (stab : Bool) (s : State) : State :=
  let u := if (d = 20 ∨ d = 21) ∧ domState s.pwr d = 0 then restGrooms t ((d - 20) * 8) 8 s else s
  { u with pwr := { u.pwr with closing := u.pwr.closing.set d ⟨t, stab⟩ } }

/-- A request for a state below ON (R446): refused with reason 6 above the present state; at it already reached;
below it accepted as the table Domains permits. -/
def domCloseRequest (d t : Nat) (s : State) : State :=
  let now := domState s.pwr d
  if t < now then domRefuse 6 d t s
  else if t = now then raiseInt (domResult 1 0 d t s) 0x4000 3
  else
    let why := closeReason false d t s
    if why ≠ 0 then domRefuse why d t s
    else
      let stab := ((s.pwr.closing.find? d).map fun c => c.stab).getD false
      beginClose d t stab (domResult 1 0 d t s)

/-- A write of PWR_DOM_CTRL (R446). -/
def domCtrlWrite (v : W32) (s : State) : State :=
  if fld v 8 2 = 0 then domWakeRequest (fld v 0 5) s else domCloseRequest (fld v 0 5) (fld v 8 2) s

/-- The effect of PWR_DOM_CTRL. -/
def doPwrDomCtrl (r : Requester) (v : W32) (s : State) : State := viaWrite r 0x4108 (domCtrlWrite v) s

/-- PWR_DOM_CTRL (R446). -/
def execPwrDomCtrl (r : Requester) (v : W32) (s : State) : Host.Outcome State Fault Refusal :=
  .next (doPwrDomCtrl r v s)

/-! ### Closing -/

/-- The PCIe link leaves L0 (R463, HST_LINK.DOWNS). -/
def linkFalls (s : State) : State :=
  { s with hst := { s.hst with
    up := false, speed := 0, width := 0
    downs := if s.hst.up then BitVec.ofNat 16 (satAdd 0xFFFF s.hst.downs.toNat 1) else s.hst.downs } }

/-- Every queued model write of the channels of a DRAM domain is written, and what waits for it (R227). `n`: at least
the bursts queued. -/
def drainDomain (d : Nat) : Nat → State → State
  | 0, s => s
  | n + 1, s =>
    match s.dmc.wq.find? fun w => 22 + channelOf s.regs w.addr / 2 == d && merges s.dmc w w with
    | none => s
    | some w =>
      let ws := s.dmc.wq.filter (merges s.dmc w)
      let t := { s with dmc := { s.dmc with wq := s.dmc.wq.filter fun x => !merges s.dmc w x } }
      drainDomain d n (startWaiting (drainBurst ws w.addr t))

/-- A DRAM domain before it closes: model writes written and, for RETAIN and OFF, every rank in self-refresh (R227). -/
def restDram (d t : Nat) (s : State) : State :=
  if t = 1 then s
  else
    let u := drainEnds (drainDomain d s.dmc.wq.length s)
    let c := (d - 22) * 2
    selfRefresh true (c + 1) (selfRefresh true c u)

/-- What a domain does as it leaves ON, or closes further, for a state: R227, R450, R465. -/
def leaveOn (d t : Nat) (s : State) : State :=
  if 16 ≤ d ∧ d < 20 then unlockLinks ((d - 16) * 6) 6 s
  else if d = 22 ∨ d = 23 then restDram d t s
  else if d = 24 then linkFalls s
  else s

/-- The order in which domains close for Stabled (R453): array groups, lane groups, paddock, trigger, debug, Ethernet,
grooms, DRAM, PCIe, hub infrastructure, rails. -/
def stableOrder : List Nat := List.range 20 ++ [26, 27, 28, 25, 20, 21, 22, 23, 24, 30, 29]

/-- The next domain of a Stabled entry begins to close, or its refusal stops the entry; with none left the device is in
Stabled (R453). -/
def stableNext (s : State) : State :=
  match stableOrder.find? fun d => decide (domState s.pwr d < 2) with
  | none => { s with pwr := { s.pwr with stabling := false, stabled := true } }
  | some d =>
    if closeReason true d 2 s ≠ 0 then
      let t := { s with pwr := { s.pwr with stabling := false } }
      domRefuse 7 d 2 t
    else beginClose d 2 true s

/-- A domain enters the target of its close; a Stabled entry goes on (R447, R453). -/
def closeNow (d : Nat) (c : Closing) (s : State) : State :=
  let t := leaveOn d c.target s
  let u := { t with pwr := { t.pwr with dom := t.pwr.dom.put 0 d c.target, closing := t.pwr.closing.erase d } }
  if c.stab then stableNext u else raiseInt u 0x4000 3

/-- The effect of DOMAIN_CLOSE. -/
def doDomainClose (d : Nat) (s : State) : State :=
  match s.pwr.closing.find? d with
  | none => s
  | some c => closeNow d c s

/-- An endpoint port's queues are empty and every endpoint credit has returned, for 64 rail cycles (R279). -/
def portQuiet (r : Rls) (now stop port : Nat) : Bool :=
  let keys := ejKey stop port :: (List.range 4).map (injKey stop port)
  keys.all (fun k => r.held.get 0 k == 0 && (r.net.all fun x => x.place != k))
    && decide (r.last.get 0 (stop * 5 + port) + 64 ≤ now)

/-- Every started command of a DRAM domain's controller is complete and no request for its channels waits: no frequency
change and no training of one of its channels is in progress (R225 to R227). -/
def dramRests (d : Nat) (s : State) : Bool :=
  !freqBusy s && chanState s.regs ((d - 22) * 2) != 2 && chanState s.regs ((d - 22) * 2 + 1) != 2
    && s.dmc.waiting.all fun r => 22 + channelOf s.regs (bodyAddr r.body) / 2 != d

/-- The ports of a domain have been empty for long enough; for the rails, every stop's buffers and queues are empty, and
no unit holds a packet; an array group's sheds have no request in their queues, and the trace encoders of a domain are
empty (R279, R281, R438). -/
def closeReady (d : Nat) (s : State) : Bool :=
  if d = 29 then netIdle s.rls && s.rls.fly.isEmpty
  else if d = 22 ∨ d = 23 then dramRests d s
  else if (d = 20 ∨ d = 21) && (List.range 8).any (fun k => (groomOf s ((d - 20) * 8 + k)).enc != []) then false
  else ((List.range 24).all fun k => decide (16 ≤ d) || portB s (d * 24 + k) == {}) && (portsOf d).all fun p => portQuiet s.rls (railCycle s.clk.ps) p.1 p.2

/-- A domain is CLOSING, and nothing that has happened since the request's acceptance bars its close (R392, R444). -/
def closeAllowed (d : Nat) (s : State) : Bool :=
  (s.pwr.closing.find? d).any fun c => closeReason c.stab d c.target s == 0

/-- DOMAIN_CLOSE of a domain that is CLOSING, once its ports have been empty for long enough (R279, R447). A wake in
progress comes first (R449). -/
def execDomainClose (d : Fin 32) (s : State) : Host.Outcome State Fault Refusal :=
  event (closeAllowed d s && !s.pwr.waking.getLsbD d && closeReady d s) s (doDomainClose d s)

/-! ### Waking -/

/-- The effect of DOMAIN_WAKE: the domain is ON; the packets that waited for it leave their ejection queues in the next
rail cycles (R280, R448). -/
def doDomainWake (d : Nat) (s : State) : State := wakeNow d (abortClose d s)

/-- DOMAIN_WAKE of a domain that is WAKING (R280, R448). -/
def execDomainWake (d : Fin 32) (s : State) : Host.Outcome State Fault Refusal :=
  when (s.pwr.waking.getLsbD d) s (doDomainWake d s)

/-! ### Stabled -/

/-- A write of PWR_CMD.STABLE: the entry begins in a run state that permits it; otherwise it is refused with reason 1
(R453). -/
def stableWrite (s : State) : State :=
  if s.pwr.stabling then s
  else if runIn s [.empty, .loaded, .halted, .faulted] then
    stableNext { s with pwr := { s.pwr with stabling := true, before := s.pwr.dom } }
  else domRefuse 1 0 2 s

/-- The effect of STABLE. -/
def doStable (r : Requester) (s : State) : State := viaWrite r 0x4124 stableWrite s

/-- STABLE, a write of PWR_CMD with STABLE = 1 (R453). -/
def execStable (r : Requester) (s : State) : Host.Outcome State Fault Refusal := .next (doStable r s)

/-- A domain returns to the state it had before the entry into Stabled (R454). -/
def returnDomain (s : State) (d : Nat) : State :=
  let b := s.pwr.before.get 0 d
  if 2 ≤ b then s
  else
    let t := wakeNow d s
    if b = 1 then { t with pwr := { t.pwr with dom := t.pwr.dom.put 0 d 1 } } else t

/-- The exit from Stabled: every domain returns in the reverse of the entry order (R454). -/
def leaveStabled (s : State) : State :=
  stableOrder.reverse.foldl returnDomain { s with pwr := { s.pwr with stabled := false } }

/-- The effect of WAKE_BALL: PWR_WAKE_SRC records the ball; in Stabled the device leaves it, otherwise INT_STATUS.WAKE is
set (R454). -/
def doWakeBall (k : Nat) (s : State) : State :=
  let t := { s with regs := rset s.regs 0x4130 k 1 1 }
  if s.pwr.stabled then leaveStabled t else raiseInt t 0x4000 5

/-- WAKE_BALL: ball `k` has been at its active level for 10 µs; only an enabled one counts (R454). -/
def execWakeBall (k : Fin 4) (s : State) : Host.Outcome State Fault Refusal :=
  event ((rget s.regs 0x412C).getLsbD k) s (doWakeBall k s)

/-! ### The tack room -/

/-- A write of PWR_CMD.FORGET: the register part of the tack room is emptied (R459, log 36). -/
def forgetWrite (s : State) : State := { s with pwr := { s.pwr with tack := [], tackBad := [] } }

/-- The effect of FORGET. -/
def doForget (r : Requester) (s : State) : State := viaWrite r 0x4124 forgetWrite s

/-- FORGET, a write of PWR_CMD with FORGET = 1 (R459). -/
def execForget (r : Requester) (s : State) : Host.Outcome State Fault Refusal := .next (doForget r s)

/-- A write of PWR_CMD: its two bits, FORGET first. -/
def pwrCmdWrite (v : W32) (s : State) : State :=
  let t := if v.getLsbD 1 then forgetWrite s else s
  if v.getLsbD 0 then stableWrite t else t

/-! ### Operating modes -/

/-- MODE and MAXCLK as their checks leave them, and the clamps (R456, R481). -/
def modeChecked (o : Otp) (v : W32) : Nat × Bool × List Clamped :=
  let mode := Nat.min (fld v 0 2) 2
  let max := v.getLsbD 4 || slowGrade o
  (mode, max, (if max = v.getLsbD 4 then [] else [⟨4, 1, 0, 1⟩]) ++ (if mode = fld v 0 2 then [] else [⟨0, 2, 3, 2⟩]))

/-- The effective step clock is 1.00 GHz (R456). -/
def slowClock (mode : Nat) (max : Bool) : Bool := mode == 2 || max

/-- Largest activity budget of the loaded image (R137). -/
def largestBudget (s : State) : Nat := s.arr.budget.foldl (fun m e => Nat.max m e.2) 0

/-- The reason for which a PWR_MODE write is refused, 0 for none, in the order 6, 1, 5, 4 (R457). -/
def modeReason (s : State) (mode : Nat) (max : Bool) : Nat :=
  let change := slowClock mode max != (rget s.regs 0x4100).getLsbD 5
  if s.pwr.relock then 6
  else if change && !runIn s [.empty, .loaded, .halted, .faulted] then 1
  else if change && s.tck.multi && s.tck.run != .empty then 5
  else if s.tck.run != .empty && decide (modeCap mode < largestBudget s) then 4
  else 0

/-- MODE and MAXCLK take their values, and the tack room the register's (R457, R458). A part of a slow grade resets
MAXCLK to 1. -/
def modeStore (mode : Nat) (max : Bool) (s : State) : State :=
  let t := (fieldWrite 0 0 0x4100 (BitVec.ofNat 32 (mode + max.toNat * 2 ^ 4)) s).1
  if slowGrade s.sec.otp && mode == 0 then { t with pwr := { t.pwr with tack := t.pwr.tack.erase 0x4100 } } else t

/-- The mode takes effect: ACTIVE, CLK, INT_STATUS.MODE_DONE. -/
def modeDone (mode : Nat) (slow : Bool) (s : State) : State :=
  raiseInt { s with
    regs := rset (rset (rset s.regs 0x4100 6 2 mode) 0x4100 5 1 slow.toNat) 0x4100 31 1 0
    pwr := { s.pwr with relock := false } } 0x4000 0

/-- A write of PWR_MODE (R455 to R457). -/
def modeWrite (r : Requester) (v : W32) (s : State) : State :=
  let (mode, max, clamps) := modeChecked s.sec.otp v
  let s := { s with dbg := reportClamps (clampSrc r) 0x100 4 clamps s.dbg }
  let why := modeReason s mode max
  let res := BitVec.ofNat 32 ((if why = 0 then 1 else 2) * 2 ^ 30 + why * 2 ^ 24 + fld v 0 2)
  let t := { s with regs := rput s.regs 0x4104 res }
  if why ≠ 0 then raiseInt t 0x4000 1
  else
    let u := modeStore mode max t
    if slowClock mode max = (rget s.regs 0x4100).getLsbD 5 then modeDone mode (slowClock mode max) u
    else { u with
      regs := rset u.regs 0x4100 31 1 1
      pwr := { u.pwr with relock := true, reqMode := BitVec.ofNat 3 (mode + max.toNat * 4) } }

/-- The effect of PWR_MODE. -/
def doPwrMode (r : Requester) (v : W32) (s : State) : State := viaWrite r 0x4100 (modeWrite r v) s

/-- PWR_MODE (R457). -/
def execPwrMode (r : Requester) (v : W32) (s : State) : Host.Outcome State Fault Refusal := .next (doPwrMode r v s)

/-- The effect of CLOCK_RELOCK_DONE: the generator runs at its new rate (R457). -/
def doClockRelockDone (s : State) : State :=
  modeDone (fld s.pwr.reqMode 0 2) (slowClock (fld s.pwr.reqMode 0 2) (s.pwr.reqMode.getLsbD 2)) s

/-- CLOCK_RELOCK_DONE, while a step-clock change is in progress (R457). -/
def execClockRelockDone (s : State) : Host.Outcome State Fault Refusal := when s.pwr.relock s (doClockRelockDone s)

/-! ### Resets -/

/-- The clock registers of a part after any reset: MAXCLK and CLK are its grade's (PWR_MODE). -/
def gradeClock (o : Otp) (m : SMap W32) : SMap W32 :=
  if slowGrade o then rset (rset m 0x4100 4 1 1) 0x4100 5 1 1 else m

/-- The chip after a power-up with its OTP and the outside world as they are: every register and store at its reset
value (R442, R459, log 33). -/
def coldState (s : State) : State :=
  { ({} : State) with
    pending := s.pending
    regs := gradeClock s.sec.otp []
    clk := { ({} : Clock) with ps := s.clk.ps, free := s.clk.free }
    sec := { ({} : Sec) with otp := s.sec.otp }
    hst := { ({} : Hst) with sent := s.hst.sent, hostOut := s.hst.hostOut }
    trg := { ({} : Trg) with level := s.trg.level, level0 := s.trg.level }
    ptp := ptpUnset s.clk.ps {} }

/-- RW fields that keep their reset values through a warm reset, by the register's offset (R460). -/
def unrestored (off : Nat) : W32 :=
  let o := off % 4096
  match pageOf (off / 4096) with
  | some (.grm, _) => if o = 0x100 then 0xFFFFFFFF else 0
  | some (.ldr, _) => if o = 0x100 then 1 else 0
  | some (.dmc, _) => if o = 0x100 then 1 else 0
  | some (.yms, _) => if o = 0x100 then 1 else 0
  | some (.trg, _) => if o = 0x100 then 1 else 0
  | some (.trc, _) => if o = 0x100 then 0x80000000 else 0
  | some (.ptpPort, _) => if o = 0x100 then 8 else 0
  | some (.lnk, _) => if o = 0x100 then 3 else 0
  | some (.pdk, _) => if o = 0x100 then 0x100 else 0
  | _ => 0

/-- The tack room's entries as a warm reset restores them (R460): a field it leaves out takes its reset value. -/
def warmEntries (l : SMap W32) : List (Nat × W32) :=
  l.map fun e => (e.1, (e.2 &&& ~~~(unrestored e.1)) ||| (regReset e.1 &&& unrestored e.1))

/-- Every scrubber's copies of SCB_CTRL.ENABLE agree with the restored register (R176). -/
def scbRestored (m : SMap W32) (i : Integ) : Integ :=
  (List.range 4).foldl (fun i q =>
    let c : ScbCfg := ⟨(rget m (pg .scb q + 0x100)).getLsbD 0, 0, 0⟩
    setScb i q { ({} : Scb) with c0 := c, c1 := c, c2 := c }) i

/-- What the restored registers stand for takes effect: the operating mode and clock, the scrubbers' ENABLE. -/
def settle (s : State) : State :=
  let w := rget s.regs 0x4100
  let slow := slowClock (fld w 0 2) (w.getLsbD 4)
  { s with
    regs := rset (rset s.regs 0x4100 6 2 (fld w 0 2)) 0x4100 5 1 slow.toNat
    integ := scbRestored s.regs s.integ }

/-- PWR_STATUS after a warm reset: COLD 0, the supply in use, and the cause. -/
def warmStatus (s : State) (brown therm : Bool) : W32 :=
  BitVec.ofNat 32 (brown.toNat * 2 ^ 27 + therm.toNat * 2 ^ 26 + s.pwr.onBak.toNat * 2 ^ 24)

/-- The chip as a warm reset leaves it before its settings are restored: what the always-on domain, the outside and the
elapsed time hold stays, the trained values of the tack room and the contents of the DIMMs with them (R227, R442, R458,
R460, R463, log 33). -/
def warmBase (brown therm : Bool) (s : State) : State :=
  let c := coldState s
  let m := rput c.regs 0x4128 (warmStatus s brown therm)
  let m := rset m 0x4138 8 8 (rfld s.regs 0x4138 8 8)
  { c with
    regs := rset m 0x4134 16 16 (rfld s.regs 0x4134 16 16)
    clk := { c.clk with gen := s.clk.gen }
    dmc := { ({} : Dmc) with mem := s.dmc.mem, crcErr := s.dmc.crcErr, trained := s.dmc.trained }
    pwr := { ({} : Pwr) with tack := s.pwr.tack, tackBad := s.pwr.tackBad, onBak := s.pwr.onBak, therm := therm }
    hst := { c.hst with downs := (linkFalls s).hst.downs, wasUp := s.hst.wasUp }
    dbg := { ({} : Dbg) with ir := s.dbg.ir, cells := s.dbg.cells, extest := s.dbg.extest } }

/-- A warm reset: reset values, then every stored register restored (R442, R460, R461). -/
def warmReset (brown therm : Bool) (s : State) : State :=
  settle (restoreAll (warmEntries s.pwr.tack) (warmBase brown therm s))

/-- The effect of WARM_RESET. -/
def doWarmReset (s : State) : State := warmReset false false s
/-- WARM_RESET: SYS_RESET_N is asserted (R442). -/
def execWarmReset (s : State) : Host.Outcome State Fault Refusal := .next (doWarmReset s)

/-- The effect of BROWN_OUT. -/
def doBrownOut (s : State) : State := warmReset true false s
/-- BROWN_OUT: a supply has been below its threshold for 1 µs (R442). -/
def execBrownOut (s : State) : Host.Outcome State Fault Refusal := .next (doBrownOut s)

/-- The effect of COLD_START: the register part of the tack room is empty, and every register takes its reset value
(R442, R459). -/
def doColdStart (s : State) : State := coldState s
/-- COLD_START: power-up after both always-on rails were low (R442). -/
def execColdStart (s : State) : Host.Outcome State Fault Refusal := .next (doColdStart s)

/-! ### Supply and temperature -/

/-- The effect of AON_SWITCH: PWR_STATUS.ON_BAK, and INT_STATUS.AON_BAK at a switch to VAON_BAK (R441). -/
def doAonSwitch (bak : Bool) (s : State) : State :=
  raiseIf bak { s with pwr := { s.pwr with onBak := bak }, regs := rset s.regs 0x4128 24 1 bak.toNat } 0x4000 4

/-- AON_SWITCH: the always-on domain changes its source (R441). -/
def execAonSwitch (bak : Bool) (s : State) : Host.Outcome State Fault Refusal :=
  event (s.pwr.onBak != bak) s (doAonSwitch bak s)

/-- The hottest of the readings. -/
def hottest (t : List Byte) : Nat := t.foldl (fun m b => Nat.max m b.toNat) 0

/-- The effect of TEMP_SAMPLE: the readings are fetched in class trace, one packet for each die (R277); NOW, PEAK,
INT_STATUS.TEMP when NOW reaches ALARM, and at 125 °C a thermal trip (R462, R490). -/
def doTempSample (t : List Byte) (s : State) : State :=
  let s := inject 28 3 5 s
  let n := hottest t
  let was := rfld s.regs 0x4138 0 8
  let alarm := rfld s.regs 0x4138 24 8
  let u := { s with
    regs := rset (rpeak s.regs 0x4138 8 8 n) 0x4138 0 8 n
    pwr := { s.pwr with therm := decide (alarm ≤ n) } }
  if 125 ≤ n then warmReset false true u else raiseIf (decide (was < alarm) && decide (alarm ≤ n)) u 0x4000 6

/-- TEMP_SAMPLE: the readings of the five dies (R462). -/
def execTempSample (t : List Byte) (s : State) : Host.Outcome State Fault Refusal :=
  when (t.length == 5) s (doTempSample t s)

end Sys2Proof.Machine
end

