-- ==== Sys2Proof/Machine/HostIf.lean ====
section
/-!
DEFINITION. The PCIe endpoint (R463 to R478): the rows PERST, PCIE_LINK_UP, PCIE_LINK_DOWN, FLR, BAR2_ACCESS,
BAD_ACCESS_TIMEOUT, DMA_DESCRIPTOR and DMA_COMPLETE.
-/

namespace Sys2Proof.Machine

/-! ### Link and resets -/

/-- Key of a host DMA register of a channel. -/
def dmaKey (off ch : Nat) : Nat := rkey off ch

/-- The endpoint without its MSI-X table and pending bits, and with every DMA channel stopped (R463). -/
def endpointReset (s : State) : State :=
  { s with
    hst := { s.hst with msix := [], pba := 0, dma := [] }
    regs := (List.range 8).foldl (fun m c => rset m (dmaKey 0x12C c) 31 1 0) s.regs }

/-- The effect of PERST: the link goes down and the endpoint is reset (R463). -/
def doPerst (s : State) : State := endpointReset (linkFalls s)
/-- PERST: PERST_N is asserted (R463). -/
def execPerst (s : State) : Host.Outcome State Fault Refusal := .next (doPerst s)

/-- Speeds and widths that the endpoint supports (R464). -/
def linkModes (speed width : Nat) : Bool := 1 ≤ speed && speed ≤ 5 && [1, 2, 4, 8, 16].contains width

/-- The effect of PCIE_LINK_UP: HST_LINK, and INT_STATUS.LINK_UP at every entry to L0 after the first. -/
def doPcieLinkUp (speed : BitVec 3) (width : BitVec 6) (s : State) : State :=
  raiseIf s.hst.wasUp { s with hst := { s.hst with up := true, wasUp := true, speed := speed, width := width } } 0 11

/-- PCIE_LINK_UP: the link reaches L0 at a speed and width (R463, R464). -/
def execPcieLinkUp (speed : BitVec 3) (width : BitVec 6) (s : State) : Host.Outcome State Fault Refusal :=
  when (linkModes speed.toNat width.toNat && !s.hst.up && domOn s.pwr 24) s (doPcieLinkUp speed width s)

/-- The effect of PCIE_LINK_DOWN. -/
def doPcieLinkDown (s : State) : State := linkFalls s
/-- PCIE_LINK_DOWN: the link leaves L0 (HST_LINK.DOWNS). -/
def execPcieLinkDown (s : State) : Host.Outcome State Fault Refusal := when s.hst.up s (doPcieLinkDown s)

/-- The effect of FLR: as PERST for the MSI-X table and the DMA channels, and INT_STATUS.FLR (R466). -/
def doFlr (s : State) : State := raiseInt (endpointReset s) 0 10
/-- FLR: a Function Level Reset (R466). -/
def execFlr (s : State) : Host.Outcome State Fault Refusal := when (domOn s.pwr 24) s (doFlr s)

/-! ### BAR2 -/

/-- The bytes of the first transfer of an access of `n` bytes: an aligned group of 8, or up to the end of an aligned word
(R468, R472). -/
def bar2Piece (off n : Nat) : Nat := if off % 8 = 0 ∧ 8 ≤ n then 8 else Nat.min n (4 - off % 4)

/-- The scratch page of an offset lies in the window of HST_SCR_WIN, which is open. -/
def inWindow (s : State) (off : Nat) : Bool :=
  let w := rget s.regs 0x10C
  w.getLsbD 31 && decide (fld w 0 10 ≤ off / 4096) && decide (off / 4096 ≤ fld w 16 10)

/-- One transfer of a BAR2 write: short ones and those outside the window are bad accesses, except that while the boot ROM waits every
write is performed (R470, R472). -/
def bar2Write (off : Nat) (l : List Byte) (s : State) : State :=
  if l.length < 4 then badAccess 0xA 1 off s
  else if s.sec.waiting || inWindow s off then { s with grm := { s.grm with scratch := Memory.putBytes s.grm.scratch off l } }
  else badAccess 0xD 1 off s

/-- A BAR2 write: its transfers, the lower address first (R468, R472). `n`: at most so many. -/
def bar2Writes : Nat → Nat → List Byte → State → State
  | 0, _, _, s => s
  | n + 1, off, l, s =>
    let k := bar2Piece off l.length
    if l.isEmpty then s else bar2Writes n ((off + k) % 2 ^ 22) (l.drop k) (bar2Write off (l.take k) s)

/-- The effect of BAR2_ACCESS: a read returns its bytes (R472). -/
def doBar2Access (write : Bool) (off : Nat) (l : List Byte) (s : State) : State :=
  if write then bar2Writes l.length off l s else { s with hst := { s.hst with outB := Memory.bytes s.grm.scratch off l.length } }

/-- BAR2_ACCESS: `bytes` is the written data, or has the length of the read (R472). -/
def execBar2Access (write : Bool) (off : BitVec 22) (l : List Byte) (s : State) : Host.Outcome State Fault Refusal :=
  when (domOn s.pwr 24) s (doBar2Access write off.toNat l s)

/-! ### BAD_ACCESS_TIMEOUT -/

/-- The effect of BAD_ACCESS_TIMEOUT: cause 0xB, and a read returns all ones (R470). -/
def doBadAccessTimeout (off : Nat) (s : State) : State := answer 0xFFFFFFFF (badAccess 0xB 0 off s)

/-- BAD_ACCESS_TIMEOUT: an access of BAR0 to an existing page has had no response for 1 ms (R470). -/
def execBadAccessTimeout (off : BitVec 26) (s : State) : Host.Outcome State Fault Refusal :=
  when (domOn s.pwr 24 && (pageOf (off.toNat % 2 ^ 25 / 4096)).isSome) s (doBadAccessTimeout off.toNat s)

/-! ### Host DMA -/

/-- A descriptor (table DMA descriptor). -/
structure DmaDesc where
  haddr  : Nat
  daddr  : Nat
  len    : Nat
  toHost : Bool
  target : Nat
  irq    : Bool
  fence  : Bool
  /-- A reserved value, or a length or address outside the format (R478). -/
  bad    : Bool
deriving DecidableEq, Repr

/-- The descriptor in 32 bytes. -/
def dmaDesc (l : List Byte) : DmaDesc :=
  let n (o k : Nat) : Nat := bytesNat ((l.drop o).take k)
  let op := n 20 1
  { haddr := n 0 8, daddr := n 8 8, len := n 16 4, toHost := op % 4 == 1, target := op / 4 % 4
    irq := op / 16 % 2 == 1, fence := op / 32 % 2 == 1
    bad := decide (2 ≤ op % 4) || op / 4 % 4 == 3 || op / 64 != 0 || n 22 10 != 0 || n 16 4 % 8 != 0
      || decide (n 16 4 < 8) || decide (16777216 < n 16 4) || n 0 8 % 8 != 0 || n 8 8 % 8 != 0 }

/-- HST_DMA_CTRL of a channel: EN, entries of the ring, LOC. -/
def dmaEn (m : SMap W32) (ch : Nat) : Bool := (rget m (dmaKey 0x12C ch)).getLsbD 31
def dmaSize (m : SMap W32) (ch : Nat) : Nat := 2 ^ rfld m (dmaKey 0x12C ch) 4 4
def dmaLoc (m : SMap W32) (ch : Nat) : Nat := rfld m (dmaKey 0x12C ch) 0 2

/-- The descriptors in progress on a channel. -/
def dmaRuns (s : State) (ch : Nat) : List DmaRun := s.hst.dma.get [] ch

/-- Index of the next descriptor to be processed. -/
def dmaNext (s : State) (ch : Nat) : Nat :=
  (rfld s.regs (dmaKey 0x140 ch) 0 16 + (dmaRuns s ch).length) % dmaSize s.regs ch

/-- Address of a ring's descriptor. -/
def dmaSlot (m : SMap W32) (ch idx : Nat) : Nat :=
  (rget m (dmaKey 0x130 ch)).toNat + (rget m (dmaKey 0x134 ch)).toNat * 2 ^ 32 + 32 * idx

/-- A request of port 6 waits at the controller, behind which the port's later requests wait (R212). -/
def dmaWaits (s : State) : Bool := s.dmc.waiting.any fun r => r.port == 6

/-- A DRAM burst read through port 6, in class bulk, and its response: the state and the status (R212, R216, R278). -/
def dmaBurstRead (a : Nat) (s : State) : State × Nat :=
  let s := exchange 2 (3, 0) (19, 0) 1 3 (reachChan a s)
  let st := portStatus s false false a
  if st ≠ 0 then (portNote st s, st)
  else
    let r := readBurst a (freePasses s) (drawFree (noteCmd a none s))
    if r.2 then (r.1, 0) else (raiseInt r.1 0xA000 3, 7)

/-- A write of bytes of one DRAM burst through port 6. -/
def dmaBurstWrite (a : Nat) (l : List Byte) (s : State) : State × Nat :=
  let s := exchange 2 (3, 0) (19, 0) 3 1 (reachChan a s)
  (portWrite 6 a l s, portStatus s true false a)

/-- A request of the DMA engine to a shed, under owner code 0x02 in class memory (R476). -/
def dmaPkt (word : Nat) (data : W64) (mask : Byte) : Pkt :=
  { data := data, addr := BitVec.ofNat 64 word, rsv := 0, status := 0, mask := mask, sunit := 0x02, dunit := 0
    tick16 := 0, prio := 0, flowv := false, flow := 0, tag := 0, cls := 1, src := 3
    dst := BitVec.ofNat 6 (barnStop (word / 2 ^ 17 % 128)), flits := [] }

/-- A response on its way answers a shed request with these fields (R270, R271). -/
def answers (p : Pkt) (e : Byte × Pkt) : Bool :=
  e.1 == opShdResp && e.2.src == p.dst && e.2.dst == p.src && e.2.dunit == p.sunit && e.2.addr == p.addr && e.2.tag == p.tag

/-- The responses on their way that answer such a request, oldest first. -/
def answersTo (p : Pkt) (s : State) : List (Byte × Pkt) := s.rls.fly.filter (answers p)

/-- Requests with the same fields that the shed has still to answer before this one (R186, R274). -/
def aheadOf (p : Pkt) (s : State) : Nat :=
  let x := portB s (shedNo p.addr)
  let same (q : Pkt) : Bool := q.src == p.src && q.sunit == p.sunit && q.addr == p.addr && q.tag == p.tag
  (x.queue.filter fun r => match r with
    | .op _ q => same q
    | _ => false).length + (match x.wr with
    | some w => (same w.pkt).toNat
    | none => 0)

/-- Bank cycles pass until more than `len` responses answer a request; at most `n`. -/
def awaitFly (p : Pkt) (len : Nat) : Nat → State → State
  | 0, s => s
  | n + 1, s => if len < (answersTo p s).length then s else awaitFly p len n (pass 1 s)

/-- One shed access and its own response: the state, the status and the word. The accesses of a transfer follow one
another as their regulator and the bank allow (R187, R191, R278). -/
def dmaShed (op : Byte) (word : Nat) (data : W64) (mask : Byte) (s : State) : State × Nat × W64 :=
  let b := word / 2 ^ 17 % 128
  let q := dmaPkt word data mask
  let n := (answersTo q s).length + aheadOf q s
  let t := carryNow q (shedDeliver op) (if b < 96 then reachBarn b s else s)
  let t := awaitFly q n (3 * ((portB t (shedNo q.addr)).queue.length + 3)) t
  match (answersTo q t).drop n with
  | (o, p) :: _ => (inject p.src.toNat 1 1 (takeFly o p t), p.status.toNat, p.data)
  | [] => (t, 7, 0)

/-- Bytes that the device writes to host memory. -/
def toHost (a : Nat) (l : List Byte) (s : State) : State :=
  { s with hst := { s.hst with hostOut := (l.zipIdx).foldl (fun m e => SMap.set m (a + e.2) e.1) s.hst.hostOut } }

/-- One access of a transfer, `k` bytes from `off` on: the state and the rails status (R477). -/
def dmaStep (d : DmaDesc) (host : List Byte) (off k : Nat) (s : State) : State × Nat :=
  let a := d.daddr + off
  let l := (host.drop off).take k
  if d.target = 0 then
    if d.toHost then
      let r := dmaBurstRead a s
      (if r.2 = 0 then toHost (d.haddr + off) (Memory.bytes (dramNow r.1.dmc) a k) r.1 else r.1, r.2)
    else dmaBurstWrite a l s
  else if d.target = 1 then
    if d.toHost then
      let r := dmaShed opShdRead (a / 8) 0 0 s
      (if r.2.1 = 0 then toHost (d.haddr + off) (wordBytes r.2.2 8) r.1 else r.1, r.2.1)
    else
      let r := dmaShed opShdWrite (a / 8) (BitVec.ofNat 64 (bytesNat l)) 0xFF s
      (r.1, r.2.1)
  else if scratchSize < a + 8 then (s, 8)
  else if d.toHost then (toHost (d.haddr + off) (Memory.bytes s.grm.scratch a 8) s, 0)
  else ({ s with grm := { s.grm with scratch := Memory.putBytes s.grm.scratch a l } }, 0)

/-- Bytes of the access at an offset: to the end of its burst in DRAM, 8 elsewhere. -/
def dmaChunk (d : DmaDesc) (off : Nat) : Nat :=
  if d.target = 0 then Nat.min (64 - (d.daddr + off) % 64) (d.len - off) else 8

/-- The accesses of a transfer in order, until one fails (R478). -/
def dmaMove (d : DmaDesc) (host : List Byte) : Nat → Nat → State → State × Nat
  | 0, _, s => (s, 0)
  | n + 1, off, s =>
    if d.len ≤ off then (s, 0)
    else
      let r := dmaStep d host off (dmaChunk d off) s
      if r.2 ≠ 0 then r else dmaMove d host n (off + dmaChunk d off) r.1

/-- The descriptor at an index of the ring, where HST_DMA_CTRL.LOC puts it: the state, the status of its read, the
bytes. `given`: those that host memory holds. -/
def dmaFetch (ch idx : Nat) (given : List Byte) (s : State) : State × Nat × List Byte :=
  let a := dmaSlot s.regs ch idx
  if dmaLoc s.regs ch = 0 then (s, 0, given)
  else if dmaLoc s.regs ch = 1 then
    let r := dmaBurstRead a s
    (r.1, r.2, Memory.bytes (dramNow r.1.dmc) a 32)
  else if scratchSize < a + 32 then (s, 8, [])
  else (s, 0, Memory.bytes s.grm.scratch a 32)

/-- A descriptor is in progress. -/
def addRun (ch : Nat) (r : DmaRun) (s : State) : State :=
  { s with hst := { s.hst with dma := s.hst.dma.put [] ch (dmaRuns s ch ++ [r]) } }

/-- The effect of DMA_DESCRIPTOR on the descriptor read: its transfer, as far as its accesses succeed; none with a
reserved value (R477, R478). -/
def dmaPerform (ch idx : Nat) (d : DmaDesc) (host : List Byte) (s : State) : State :=
  if d.bad then addRun ch ⟨idx, 6, d.irq, false⟩ s
  else
    let r := dmaMove d host (d.len / 8) 0 s
    addRun ch ⟨idx, r.2, d.irq, r.2 != 0⟩ r.1

/-- A descriptor may start (R477): a FENCE descriptor after every earlier one has completed; host data for the whole
transfer; and not while the DRAM controller that it needs changes frequency, or keeps an earlier request of port 6
waiting, or while the sheds that it needs have no bank cycles (R182, R212, R457). -/
def dmaReady (s : State) (ch : Nat) (d : DmaDesc) (host : List Byte) : Bool :=
  (!d.fence || (dmaRuns s ch).isEmpty) && (d.bad || d.toHost || host.length == d.len)
    && (d.target != 0 || !(dmcOn s && freqBusy s || d.toHost && dmaWaits s))
    && (dmaLoc s.regs ch != 1 || !dmaWaits s) && (d.target != 1 || !s.pwr.relock)

/-- The effect of DMA_DESCRIPTOR. -/
def doDmaDescriptor (ch : Nat) (given host : List Byte) (s : State) : State :=
  let idx := dmaNext s ch
  let f := dmaFetch ch idx given s
  if f.2.1 ≠ 0 then addRun ch ⟨idx, f.2.1, false, true⟩ f.1
  else if dmaReady s ch (dmaDesc f.2.2) host then dmaPerform ch idx (dmaDesc f.2.2) host f.1
  else s

/-- A channel has a descriptor to process; one in DRAM is not read while the controller changes frequency (R225,
R477). -/
def dmaPending (s : State) (ch : Nat) : Bool :=
  domOn s.pwr 24 && dmaEn s.regs ch && dmaNext s ch != rfld s.regs (dmaKey 0x13C ch) 0 16
    && decide ((dmaRuns s ch).length < dmaSize s.regs ch) && ((dmaRuns s ch).all fun r => !r.failed)
    && !(dmaLoc s.regs ch == 1 && dmcOn s && freqBusy s)

/-- DMA_DESCRIPTOR: a channel processes the next descriptor of its ring; `desc`: the 32 bytes of a ring in host memory,
`host`: the host memory it copies to the device. Its packets find the network empty (R477, log 126). -/
def execDmaDescriptor (ch : Fin 8) (desc host : List Byte) (s : State) : Host.Outcome State Fault Refusal :=
  when (desc.length == 32 && dmaPending s ch && netIdle s.rls) s (doDmaDescriptor ch desc host s)

/-- STATUS is written back into byte 21 of a descriptor (R477). -/
def dmaBack (ch idx : Nat) (st : Byte) (s : State) : State :=
  let a := dmaSlot s.regs ch idx + 21
  if dmaLoc s.regs ch = 0 then toHost a [st] s
  else if dmaLoc s.regs ch = 1 then (dmaBurstWrite a [st] s).1
  else if scratchSize ≤ a then s
  else { s with grm := { s.grm with scratch := Memory.putByte s.grm.scratch a st } }

/-- A channel's oldest descriptor completes (R477, R478): STATUS, HEAD, and DMA_DONE, or after a failure EN cleared,
STOPPED and DMA_ERR; descriptors begun after a failing one are given up with it (log 37). -/
def dmaFinish (ch : Nat) (r : DmaRun) (rest : List DmaRun) (s : State) : State :=
  let t := dmaBack ch r.idx (BitVec.ofNat 8 (0x80 + r.status)) s
  let u := { t with
    regs := rset t.regs (dmaKey 0x140 ch) 0 16 ((r.idx + 1) % dmaSize t.regs ch)
    hst := { t.hst with dma := t.hst.dma.put [] ch (if r.failed then [] else rest) } }
  let m := if r.status = 0 then u.regs else rset u.regs (dmaKey 0x140 ch) 24 4 r.status
  if r.failed then raiseInt { u with regs := rset (rset m (dmaKey 0x12C ch) 31 1 0) (dmaKey 0x140 ch) 31 1 1 } 0 8
  else raiseIf r.irq { u with regs := m } 0 ch

/-- The effect of DMA_COMPLETE. -/
def doDmaComplete (ch : Nat) (s : State) : State :=
  match dmaRuns s ch with
  | [] => s
  | r :: rest => dmaFinish ch r rest s

/-- DMA_COMPLETE: the oldest descriptor in progress on a channel completes, its writes performed (R477). -/
def execDmaComplete (ch : Fin 8) (s : State) : Host.Outcome State Fault Refusal :=
  when (!(dmaRuns s ch).isEmpty && domOn s.pwr 24 && !dmaWaits s && netIdle s.rls) s (doDmaComplete ch s)

end Sys2Proof.Machine
end

