-- ==== Sys2Proof/Machine/RegRead.lean ====
section
/-!
DEFINITION. Reads of registers (R9, R10, R417, R418, R471, R480, R482): what each register that stands for other state
shows, what an ordinary read changes, and the peek path. The rows TCK_COUNT_LO, PTP_TIME_NS, TCK_LOG_W3, CLAMP_REPORT,
PEEK_READ and TELEMETRY_READ.
-/

namespace Sys2Proof.Machine

/-- The number whose bit `i`, below `n`, says whether `p i` holds. -/
def bitsWhere (n : Nat) (p : Nat → Bool) : Nat := (List.range n).foldl (fun a i => a + if p i then 2 ^ i else 0) 0

/-- A word of 32 bits from a number. -/
def word32 (n : Nat) : W32 := BitVec.ofNat 32 n

/-- Bits [32k + 31 : 32k] of a wider value. -/
def part32 {n : Nat} (w : BitVec n) (k : Nat) : W32 := w.extractLsb' (32 * k) 32

/-! ### Blocks -/

/-- Registers of an ARY page that stand for other state; `o`: the offset in the page. -/
def readAry (s : State) (q o : Nat) : Option W32 :=
  let p := pg .ary q
  if o = 0x100 then some (word32 (bitsWhere 24 fun i => s.arr.four.get false (24 * q + i)))
  else if o = 0x104 then
    some (word32 (bitsWhere 24 fun i => rget s.regs (rkey (p + 0x10C) i) != 0 || rget s.regs (rkey (p + 0x110) i) != 0))
  else if o = 0x118 then some (word32 (fld s.sec.otp.barns (24 * q) 24))
  else if o = 0x124 then
    let v := s.arr.vmap.get 0 (24 * q + (rget s.regs (p + 0x120)).toNat)
    some (if v = 0 then 0 else word32 (2 ^ 31 + (v - 1)))
  else none

/-- A hold is in effect: the array is frozen, or a read's hold is requested for a step that lies at most 64 periods
ahead (R80). -/
def holdNow (s : State) : Bool :=
  match s.tck.freeze with
  | some f => f.kind != HoldKind.stop
  | none => s.tck.run == .running && s.tck.inTick
      && s.tck.holds.any fun h => h.tick == s.tck.tick && decide (0 < h.step) && decide (h.step ≤ s.tck.step + 64)

/-- TCK_STATE: run state, hold, window, rollback, break, steps. -/
def tckState (s : State) : W32 :=
  let t := s.tck
  word32 (runCode t.run * 2 ^ 29 + (holdNow s).toNat * 2 ^ 28 + t.inWin.toNat * 2 ^ 27 + t.rollback.toNat * 2 ^ 26
    + (brkNow s).toNat * 2 ^ 25 + (if t.inWin then t.wstep else 0) * 2 ^ 10 + t.step)

/-- The oldest entry of the event log; 0 when it is empty. -/
def logHead (s : State) : W128 := s.integ.log.headD 0

/-- Registers of the TCK page that stand for other state. -/
def readTck (s : State) (o : Nat) : Option W32 :=
  if o = 0x100 then some (word32 (s.tck.depth * 2 ^ 16 + s.tck.declared))
  else if o = 0x104 then some (word32 (s.tck.root.toNat * 2 + s.tck.multi.toNat))
  else if o = 0x110 then some (part32 s.tck.count 0)
  else if o = 0x118 then some (tckState s)
  else if o = 0x120 then some (word32 (s.tck.down * 2 ^ 16 + s.tck.ctree))
  else if o = 0x124 then some (word32 s.tck.budget)
  else if 0x140 ≤ o ∧ o ≤ 0x14C then some (part32 s.integ.frec ((o - 0x140) / 4))
  else if o = 0x17C then some (word32 s.integ.log.length)
  else if 0x184 ≤ o ∧ o ≤ 0x190 then some (part32 (logHead s) ((o - 0x184) / 4))
  else none

/-- Registers of a SCB page that stand for other state: the configuration as its three copies vote (R176). -/
def readScb (s : State) (q o : Nat) : Option W32 :=
  let c := scbOf s q
  if o = 0x100 then some (word32 (scbCfg c).enable.toNat)
  else if o = 0x104 then some (word32 (c.stopped.toNat * 2 ^ 31 + (!c.a.lines.isEmpty).toNat * 2 ^ 30 + c.a.row))
  else if o = 0x108 then some ((scbCfg c).lo)
  else if o = 0x10C then some ((scbCfg c).hi)
  else none

/-- Registers of a SHD page that stand for other state; the page of a barn that is not enabled reads 0. -/
def readShd (s : State) (b o : Nat) : Option W32 :=
  if !s.sec.otp.barns.getLsbD b then some 0
  else if o = 0x12C then some (setFld (rget s.regs (pg .shd b + o)) 30 1 (fillBusy s b).toNat)
  else none

/-- Registers of the DMC page that stand for other state. -/
def readDmc (s : State) (o : Nat) : Option W32 :=
  if o = 0x104 then
    some (word32 (s.tck.drainReq.toNat * 2 ^ 6 + (!popOk s.dmc).toNat * 2 ^ 5 + (s.dmc.trained == 0xF).toNat * 2 ^ 4
      + bitsWhere 4 fun c => chanState s.regs c == 3))
  else if o = 0x138 then some (word32 s.dmc.wq.length)
  else none

/-- Registers of a LNK page that stand for other state. -/
def readLnk (s : State) (j o : Nat) : Option W32 :=
  let k := linkOf s.lnk j
  if o = 0x130 then some (setFld (rget s.regs (pg .lnk j + o)) 4 4 (bitsWhere 4 fun i => k.prbs.getD i 0 == 64))
  else if o = 0x144 then some (part32 k.delta 0)
  else none

/-- Registers of the LNK tree page that stand for other state. -/
def readTree (s : State) (o : Nat) : Option W32 := if o = 0x108 then some (part32 s.clk.period 0) else none

/-- FUNC of a stop (R258, R259). -/
def stopFunc (n : Nat) : Nat :=
  if [10, 13, 34, 37].contains n then 0x02
  else if [3, 4, 11, 12, 19, 20, 27, 28, 35, 36, 43, 44].contains n then 0x10 else 0x01

/-- Ports of a stop for which a packet waits for a wake (R280). -/
def waitingPorts (s : State) (n : Nat) : Nat :=
  bitsWhere 4 fun k => s.rls.net.any fun x => x.noted && x.pkt.dst.toNat == n && dstPort x.pkt == k

/-- Flits of the class that RLS_STAT_SEL shows. -/
def injShown (s : State) (n : Nat) : Nat := s.rls.inj.get 0 (n * 4 + rfld s.regs (pg .rls n + 0x124) 0 2)

/-- Registers of a RLS page that stand for other state. -/
def readRls (s : State) (n o : Nat) : Option W32 :=
  if o = 0x100 then some (word32 (stopFunc n * 2 ^ 24 + n * 2 ^ 16 + n / 8 * 2 ^ 8 + n % 8))
  else if o = 0x11C then some (setFld (rget s.regs (pg .rls n + o)) 0 4 (waitingPorts s n))
  else if o = 0x128 then some (word32 (injShown s n))
  else if o = 0x130 then some (word32 (s.rls.thr.get 0 (n * 4 + rfld s.regs (pg .rls n + 0x124) 0 2)))
  else none

/-- Registers of the YMS page that stand for other state. -/
def readYms (s : State) (o : Nat) : Option W32 :=
  let y := s.yms
  let l := (rget s.regs 0x513C).toNat
  let f := flowOf y (rget s.regs 0x5150).toNat
  if o = 0x138 then some y.dbResult
  else if o = 0x140 then some (word32 (Nat.min 2047 (pendOf y l).length * 2 ^ 16 + (readyOf y l).length))
  else if o = 0x144 then some (word32 (y.time.length * 2 ^ 16 + y.dep.length))
  else if o = 0x148 then some (word32 y.intake.length)
  else if o = 0x14C then some (setFld (rget s.regs 0x514C) 16 11 y.deposits.length)
  else if o = 0x154 then some (word32 (f.out * 2 ^ 16 + f.head.toNat * 2 ^ 8 + f.next.toNat))
  else none

/-- Registers of a GRM page that stand for other state: GRM_STATUS, 0 reset, 1 available, 2 holding an item, 3 halted. -/
def readGrm (s : State) (g o : Nat) : Option W32 :=
  let x := groomOf s g
  if o = 0x10C then
    some (word32 ((if x.halted then 3 else if !(rget s.regs (pg .grm g + 0x100)).getLsbD 0 then 0
      else if x.item.isSome then 2 else 1) * 2 ^ 30))
  else none

/-- PDK_QC of the block selected (R321). -/
def qcWord (s : State) (b : Nat) : W32 :=
  let q := queueOf s b
  let f := blkFrame s b
  let free := Config.freeWord s.clk.free
  if queueMode f then
    word32 (q.ovf.toNat * 2 ^ 31 + q.unf.toNat * 2 ^ 30 + (qFull free f q).toNat * 2 ^ 29 + (qEmpty free q).toNat * 2 ^ 28
      + (qAlmostFull free f q).toNat * 2 ^ 27 + (qAlmostEmpty free f q).toNat * 2 ^ 26 + 2 ^ 25 + qCount free q)
  else word32 (q.ovf.toNat * 2 ^ 31 + q.unf.toNat * 2 ^ 30 + 2 ^ 28 + 2 ^ 26)

/-- Registers of the PDK page that stand for other state. -/
def readPdk (s : State) (o : Nat) : Option W32 :=
  if o = 0x124 then some (qcWord s (rget s.regs 0x6120).toNat)
  else if o = 0x128 then some (word32 (s.pdk.brReq.length * 2 ^ 16 + s.pdk.brResp.length))
  else none

/-- Registers of the LDR page that stand for other state. -/
def readLdr (s : State) (o : Nat) : Option W32 :=
  if o = 0x11C then
    some (word32 (s.ldr.busy.toNat * 2 ^ 31 + s.ldr.phase.toNat * 2 ^ 28 + s.ldr.doneOut.toNat * 2 ^ 27
      + s.ldr.doneIn.toNat * 2 ^ 26))
  else none

/-- Registers of the SEC page that stand for other state. -/
def readSec (s : State) (o : Nat) : Option W32 :=
  let t := s.sec.otp
  if o = 0x114 then
    some (word32 (t.locks.toNat * 2 ^ 16 + t.config.toNat * 2 ^ 8 + t.dsRev.toNat * 2 ^ 6 + t.fwRev.toNat * 2 ^ 4
      + (if t.rootKey = 0 then 0 else 1) * 2 ^ 2))
  else if o = 0x118 then some (setFld (rget s.regs 0x1118) 0 7 (rollbackBits t))
  else none

/-- The trigger counter that TRG_CNT_SEL shows. -/
def cntShown (s : State) : BitVec 48 := BitVec.ofNat 48 (cntOf s.trg (rget s.regs 0x7130).toNat)

/-- Registers of the TRG page that stand for other state. -/
def readTrg (s : State) (o : Nat) : Option W32 :=
  if o = 0x104 then
    some (word32 (s.trg.holdoff.isSome.toNat * 2 ^ 31 + (acqRunning s).toNat * 2 ^ 30 + s.trg.acqDone.toNat * 2 ^ 29
      + s.trg.state.toNat))
  else if o = 0x140 then some (part32 (cntShown s) 0)
  else if o = 0x190 then some (part32 s.trg.trigTick 0)
  else none

/-- PTP_SLEW_LEFT: the remainder in nanoseconds, rounded toward 0 (R396). -/
def slewLeft (i : Inst) : W32 := BitVec.ofInt 32 (i.slew.tdiv (2 ^ 32))

/-- Registers of a PTP instance page that stand for other state. -/
def readPtp (s : State) (i o : Nat) : Option W32 :=
  let x := instOf s.ptp i
  if o = 0x104 then
    some (word32 (x.unset.toNat * 2 ^ 31 + x.hold.toNat * 2 ^ 30 + x.lost.toNat * 2 ^ 29 + x.slewing.toNat * 2 ^ 28
      + x.cause.toNat * 2 ^ 24))
  else if o = 0x110 then some (word32 x.ns.toNat)
  else if o = 0x138 then some (slewLeft x)
  else if o = 0x144 then some (word32 (fld x.pps 16 30))
  else if o = 0x154 ∧ i ≠ 0 then some 0
  else none

/-- A boundary stamp's register `k`: fraction, NS, SEC low, SEC high. -/
def stampWord (t : Stamp) (k : Nat) : W32 :=
  if k = 0 then word32 (t.frac.toNat * 2 ^ 16)
  else if k = 1 then word32 t.ns.toNat
  else if k = 2 then part32 t.sec 0 else part32 (t.sec.setWidth 64) 1

/-- Four bytes of a list as a word. -/
def bytesWord (l : List Byte) (o : Nat) : W32 := word32 (bytesNat ((l.drop o).take 4))

/-- Registers of a PTP port page that stand for other state: the head of the receive buffer, the transmit queue, the
oldest completion (R406). -/
def readPort (s : State) (p o : Nat) : Option W32 :=
  let x := portOf s.ptp p
  if o = 0x118 then
    some (match x.rx with
      | [] => 0
      | f :: _ => word32 (2 ^ 31 + f.isPtp.toNat * 2 ^ 30 + f.event.toNat * 2 ^ 29 + f.copy.toNat * 2 ^ 28 + f.bytes.length))
  else if 0x11C ≤ o ∧ o ≤ 0x128 then
    some (match x.rx with
      | [] => 0
      | f :: _ => stampWord f.stamp ((o - 0x11C) / 4))
  else if o = 0x134 then some (word32 (x.seq.toNat * 2 ^ 8 + (8 - x.tx.length)))
  else if 0x138 ≤ o ∧ o ≤ 0x140 then
    some (match x.done with
      | [] => 0
      | d :: _ => stampWord d.stamp ((o - 0x138) / 4))
  else if o = 0x144 then some (txDoneWord x)
  else if 0x800 ≤ o ∧ o < 0x900 then
    some (match x.rx with
      | [] => 0
      | f :: _ => bytesWord f.bytes (o - 0x800))
  else if 0x900 ≤ o ∧ o < 0xA00 then some 0
  else none

/-- Registers of a path's copy of the DBG page that stand for other state (R413). -/
def readDbg (s : State) (p : DbgPath) (o : Nat) : Option W32 :=
  let x := sess s p
  if o = 0x104 then
    some (word32 (x.lockout.toNat * 2 ^ 30 + x.nonceOk.toNat * 2 ^ 29 + x.result.toNat * 2 ^ 4 + x.level))
  else if 0x108 ≤ o ∧ o ≤ 0x124 then some (part32 x.nonce ((o - 0x108) / 4))
  else if o = 0x18C then some (word32 (x.aqBusy.toNat * 2 ^ 30 + x.aqStatus.toNat * 2 ^ 28 + x.aqSpec.toNat * 2 ^ 27))
  else if o = 0x190 then some x.aqData
  else if o = 0x194 then some (part32 x.aqTick 0)
  else if o = 0x198 then some (part32 x.aqTick 1)
  else if o = 0x1A4 then
    let f := s.dbg.force.get ⟨false, false, 0⟩ (fld (dbgReg s p 0x1A0) 0 6)
    let g := f.key / 256
    some (word32 (f.en.toNat * 2 ^ 31 + f.val.toNat * 2 ^ 30 + g / 1536 * 2 ^ 23 + g % 1536 / 48 * 2 ^ 18 + g % 48 * 2 ^ 12
      + f.key % 256))
  else if o = 0x1A8 then
    some (setFld (setFld (dbgReg s p 0x1A8) 29 1 x.bmBusy.toNat) 24 4 x.bmStatus.toNat)
  else none

/-- Registers of a DBG groom page that stand for other state (R421 to R425). -/
def readDbgGroom (s : State) (g o : Nat) : Option W32 :=
  let x := groomOf s g
  if o = 0x104 then some (word32 (x.halted.toNat * 2 ^ 31 + x.cause.toNat * 2 ^ 24 + x.cmp.toNat * 2 ^ 16))
  else if o = 0x10C then some (if x.halted then part32 (gregRead s g) 0 else 0)
  else if o = 0x110 then some (if x.halted then part32 (gregRead s g) 1 else 0)
  else if o = 0x114 then some (part32 x.ghit 0)
  else if o = 0x118 then some (part32 x.ghit 1)
  else none

/-- Packets are in the trace path (TRC_STATUS.ACTIVE). -/
def traceActive (s : State) : Bool := s.grm.g.any (fun e => e.2.enc != []) || s.rls.fly.any fun e => e.1 == opTrace

/-- Registers of the TRC page that stand for other state. -/
def readTrc (s : State) (o : Nat) : Option W32 :=
  if o = 0x104 then
    let c := rget s.regs 0x8100
    let many := decide (4 < ((List.range 16).filter fun g => c.getLsbD g).length)
    some (word32 ((traceActive s).toNat * 2 ^ 31 + rfld s.regs 0x8104 30 1 * 2 ^ 30 + (c.getLsbD 30 && many).toNat * 2 ^ 29))
  else none

/-- Registers of the PWR page that stand for other state. -/
def readPwr (s : State) (o : Nat) : Option W32 :=
  let states (b : Nat) : Nat := (List.range 16).foldl (fun n k => n + domState s.pwr (b + k) * 4 ^ k) 0
  if o = 0x110 then some (word32 (states 0))
  else if o = 0x114 then some (word32 (states 16))
  else if o = 0x118 then some (word32 (bitsWhere 32 fun d => (s.pwr.closing.find? d).isSome))
  else if o = 0x11C then some s.pwr.waking
  else if o = 0x128 then
    some (setFld (setFld (rget s.regs 0x4128) 31 1 s.pwr.stabling.toNat) 30 1 s.pwr.stabled.toNat)
  else if o = 0x134 then some (setFld (rget s.regs 0x4134) 0 10 s.pwr.tack.length)
  else none

/-- Instances of the block type that HST_PEND_SEL selects which are pending, from instance `32k` on (R474). -/
def pendWord (s : State) (k : Nat) : W32 :=
  match Blk.all.find? fun b => b.code == (rget s.regs 0x118).toNat with
  | some b => word32 (bitsWhere 32 fun i => decide (32 * k + i < b.pages.2) && pagePending s.regs (pg b (32 * k + i)))
  | none => 0

/-- Registers of the HST page that stand for other state, with the MSI-X table and the pending-bit array (R480). -/
def readHst (s : State) (o : Nat) : Option W32 :=
  if o = 0x100 then
    some (word32 (s.hst.up.toNat * 2 ^ 31 + s.hst.speed.toNat * 2 ^ 28 + s.hst.width.toNat * 2 ^ 22 + s.hst.downs.toNat))
  else if 0x11C ≤ o ∧ o ≤ 0x124 then some (pendWord s ((o - 0x11C) / 4))
  else if o = 0x140 then
    let c := (rget s.regs 0x128).toNat
    some (setFld (rget s.regs (dmaKey 0x140 c)) 30 1 (!(dmaRuns s c).isEmpty).toNat)
  else if 0x800 ≤ o ∧ o < 0xC00 then some (s.hst.msix.get 0 o)
  else if 0xC00 ≤ o ∧ o < 0xC08 then some (part32 s.hst.pba ((o - 0xC00) / 4))
  else none

/-! ### The common layout -/

/-- The record of a page that CLAMP_REPORT shows. -/
def clampRec (d : Dbg) (page : Nat) : Option (List W32 × Nat) := d.clamp.find? page

/-- Highest implemented block-specific offset of a block's pages (CAPS.TOP). -/
def blkTop (b : Blk) : Nat :=
  match b with
  | .hst => 0xC04
  | .ptpPort => 0x9FC
  | _ => b.regs.foldl (fun n r => Nat.max n r.off) 0

/-- ID, VERSION, CAPS and STATUS of a page (R480). -/
def readCommon (s : State) (b : Blk) (i o : Nat) : Option W32 :=
  let p := pg b i
  if o = 0x000 then some (word32 (b.code * 2 ^ 24 + i * 2 ^ 16 + p / 4096))
  else if o = 0x004 then some (word32 (s.sec.otp.stepping.toNat * 2 ^ 24 + s.sec.otp.grade.toNat * 2 ^ 16 + 0x100))
  else if o = 0x008 then some (word32 (b.pages.2 * 2 ^ 16 + blkTop b))
  else if o = 0x014 then
    some (word32 ((rget s.regs (p + 0x024) != 0).toNat * 4 + (clampRec s.dbg (p / 4096)).isSome.toNat * 2
      + (pagePending s.regs p).toNat))
  else none

/-- A block's registers that stand for other state. -/
def readBlk (s : State) (path : DbgPath) (b : Blk) (i o : Nat) : Option W32 :=
  match b with
  | .hst => readHst s o
  | .sec => readSec s o
  | .ldr => readLdr s o
  | .tck => readTck s o
  | .pwr => readPwr s o
  | .yms => readYms s o
  | .pdk => readPdk s o
  | .trg => readTrg s o
  | .trc => readTrc s o
  | .dbg => readDbg s path o
  | .dmc => readDmc s o
  | .lnkTree => readTree s o
  | .dmcCh => none
  | .ptp => readPtp s i o
  | .ptpPort => readPort s i o
  | .grm => readGrm s i o
  | .dbgGroom => readDbgGroom s i o
  | .ary => readAry s i o
  | .scb => readScb s i o
  | .lnk => readLnk s i o
  | .rls => readRls s i o
  | .shd => readShd s i o

/-! ### Latched high halves -/

/-- What a read of an offset latches: the registers that then show it, and the values. -/
def latches (s : State) (b : Blk) (i o : Nat) : List (Nat × W32) :=
  let p := pg b i
  match b with
  | .tck => if o = 0x110 then [(0x3114, part32 s.tck.count 1)] else []
  | .lnk => if o = 0x144 then [(p + 0x148, word32 (fld (linkOf s.lnk i).delta 32 16))] else []
  | .lnkTree => if o = 0x108 then [(0xB10C, word32 (fld s.clk.period 32 16))] else []
  | .rls => if o = 0x128 then [(p + 0x12C, word32 (injShown s i / 2 ^ 32))] else []
  | .trg =>
    if o = 0x140 then [(0x7144, word32 (fld (cntShown s) 32 16))]
    else if o = 0x190 then [(0x7194, part32 s.trg.trigTick 1)] else []
  | .ptp =>
    let x := instOf s.ptp i
    if o = 0x110 then
      [(p + 0x114, x.frac), (p + 0x118, part32 x.sec 0), (p + 0x11C, word32 (fld x.sec 32 16))]
    else if o = 0x144 then
      [(p + 0x148, word32 (fld x.pps 0 16 * 2 ^ 16)), (p + 0x14C, word32 (fld x.pps 46 32)),
       (p + 0x150, word32 (fld x.pps 78 16))]
    else []
  | _ => []

/-- Offsets of registers that show a latched value. -/
def latched (b : Blk) (o : Nat) : Bool :=
  match b with
  | .tck => o == 0x114
  | .lnk => o == 0x148
  | .lnkTree => o == 0x10C
  | .rls => o == 0x12C
  | .trg => o == 0x144 || o == 0x194
  | .ptp => o == 0x114 || o == 0x118 || o == 0x11C || o == 0x148 || o == 0x14C || o == 0x150
  | _ => false

/-! ### The value of a register -/

/-- The stored value of a register whose write-only fields read as 0 (R9, R10). -/
def storedValue (s : State) (path off : Nat) : W32 :=
  match regAt off with
  | none => 0
  | some r => rget s.regs (keyOf s.regs path off r)

/-- The value that a register of a page shows, CLAMP_REPORT apart. A latched register shows the latch. -/
def regValue (s : State) (path : DbgPath) (off : Nat) : W32 :=
  match pageOf (off / 4096) with
  | none => 0xFFFFFFFF
  | some (b, i) =>
    match (readCommon s b i (off % 4096)).or (readBlk s path b i (off % 4096)) with
    | some v => v
    | none => if latched b (off % 4096) then rget s.regs off else storedValue s (pathIdx path) off

/-! ### CLAMP_REPORT -/

/-- Key of a page's read buffer. -/
def clampBuf (page : Nat) : Nat := page + 2 ^ 14

/-- An ordinary read of CLAMP_REPORT (R482): the words of the read buffer not yet read; otherwise word 0 of the record,
which moves to the read buffer; otherwise 0. -/
def clampRead (page : Nat) (d : Dbg) : W32 × Dbg :=
  match d.clamp.find? (clampBuf page), d.clamp.find? page with
  | some (ws, 2), _ => (ws.getD 1 0, { d with clamp := d.clamp.set (clampBuf page) (ws, 1) })
  | some (ws, _), _ => (ws.getD 2 0, { d with clamp := d.clamp.erase (clampBuf page) })
  | none, some (ws, _) =>
    (ws.getD 0 0, peekHome { d with clamp := (d.clamp.erase page).set (clampBuf page) (ws, 2) } page)
  | none, none => (0, d)

/-- Who peeks: a debug path, or the telemetry alias (R471, R482). -/
inductive Peeker where
  | path (p : DbgPath)
  | telemetry
deriving DecidableEq, Repr

/-- A peeker's position in a page's CLAMP_REPORT. -/
def peekPos (d : Dbg) (k : Peeker) (page : Nat) : Nat :=
  match k with
  | .path .tap => d.tap.peekPos.get 0 page
  | .path .bar => d.bar.peekPos.get 0 page
  | .telemetry => d.aliasPos.get 0 page

/-- The debug state with a peeker's position moved. -/
def movePeek (d : Dbg) (k : Peeker) (page n : Nat) : Dbg :=
  match k with
  | .path .tap => { d with tap := { d.tap with peekPos := d.tap.peekPos.put 0 page n } }
  | .path .bar => { d with bar := { d.bar with peekPos := d.bar.peekPos.put 0 page n } }
  | .telemetry => { d with aliasPos := d.aliasPos.put 0 page n }

/-- A peek read of CLAMP_REPORT: the record, or while it is empty the read buffer, word by word (R482). -/
def clampPeek (k : Peeker) (page : Nat) (d : Dbg) : W32 × Dbg :=
  match (d.clamp.find? page).or (d.clamp.find? (clampBuf page)) with
  | some (ws, _) => (ws.getD (peekPos d k page) 0, movePeek d k page ((peekPos d k page + 1) % 3))
  | none => (0, d)

/-- CLR_CLAMP, and the report emptied (R482). -/
def clampClear (page : Nat) (d : Dbg) : Dbg :=
  peekHome { d with clamp := (d.clamp.erase page).erase (clampBuf page) } page

/-! ### Ordinary reads -/

/-- A read of a page of the debugger's by another requester: ID, VERSION and CAPS, otherwise 0 (R473). -/
def hiddenRead (s : State) (off : Nat) : W32 := if off % 4096 < 0x00C then regValue s .tap off else 0

/-- What an ordinary read changes: the values it latches, and a read-to-clear field (R9). -/
def readEffect (b : Blk) (i o : Nat) (s : State) : State :=
  let s := { s with regs := (latches s b i o).foldl (fun m e => rput m e.1 e.2) s.regs }
  match b with
  | .tck => if o = 0x190 then { s with integ := { s.integ with log := s.integ.log.drop 1 } } else s
  | .shd => if o = 0x13C then { s with regs := rput s.regs (pg .shd i + o) 0 } else s
  | .ptpPort => if o = 0x144 then setPort s i { portOf s.ptp i with done := (portOf s.ptp i).done.drop 1 } else s
  | .pwr => if o = 0x130 then { s with regs := rput s.regs 0x4130 0 } else s
  | _ => s

/-- The free values that a read of PDK_QC takes are used. -/
def passQc (off : Nat) (s : State) : State := if off = 0x6124 then drawFree s else s

/-- An access to DBG_GREG_LO or DBG_GREG_HI of a groom that is not halted sets NOT_HALTED (R423). -/
def noteGreg (off : Nat) (s : State) : State :=
  match pageOf (off / 4096) with
  | some (.dbgGroom, g) =>
    if (off % 4096 = 0x10C ∨ off % 4096 = 0x110) ∧ !(groomOf s g).halted then notHalted g s else s
  | _ => s

/-- An ordinary read at an offset of an existing page (R9, R10, R473, R482). -/
def readPlain (off : Nat) (s : State) : State :=
  match pageOf (off / 4096) with
  | none => answer 0xFFFFFFFF s
  | some (b, i) =>
    if dbgOnly off then answer (hiddenRead s off) s
    else if off % 4096 = 0x020 ∧ !deadPage s off then
      let c := clampRead (off / 4096) s.dbg
      answer c.1 { s with dbg := c.2 }
    else answer (regValue s .tap off) (passQc off (readEffect b i (off % 4096) s))

/-! ### The peek path -/

/-- A read through the peek path (R418, R471): nothing is cleared or popped, high halves are latched into the debug
copies, which the high registers then show. -/
def readPeek (k : Peeker) (off : Nat) (s : State) : State :=
  match pageOf (off / 4096) with
  | none => answer 0xFFFFFFFF s
  | some (b, i) =>
    let o := off % 4096
    if o = 0x020 ∧ !deadPage s off then
      let c := clampPeek k (off / 4096) s.dbg
      answer c.1 { s with dbg := c.2 }
    else
      let v := match k with
        | .path p => if latched b o then s.dbg.peek.get 0 off else regValue s p off
        | .telemetry => if latched b o then s.dbg.peek.get 0 off else if dbgOnly off then hiddenRead s off else regValue s .tap off
      answer v (passQc off { s with dbg := { s.dbg with
        peek := (latches s b i o).foldl (fun m e => m.put 0 e.1 e.2) s.dbg.peek } })

/-- A debug read at an offset: refused beyond the path's level, a bad debug access outside every page (R410, R417,
R418). -/
def debugRead (p : DbgPath) (off : Nat) (s : State) : State :=
  if (pageOf (off / 4096)).isNone then answer 0xFFFFFFFF (badDebug s)
  else viaRead (.debug p) off id (fun s => noteGreg off (readPeek (.path p) off s)) s

/-! ### The rows -/

/-- A read of BAR0: outside every page it is a bad access (R470). -/
def hostRead (off : Nat) (s : State) : State :=
  if (pageOf (off / 4096)).isSome then readPlain off s else answer 0xFFFFFFFF (badAccess 8 0 off s)

/-- A read of a register by any requester. -/
def readBy (r : Requester) (off : Nat) (s : State) : State :=
  match r with
  | .debug p => debugRead p off s
  | .host => viaRead r off (hostRead off) id s
  | _ => viaRead r off (readPlain off) id s

/-- The effect of TCK_COUNT_LO: the read latches the high half (R418). -/
def doTckCountLo (r : Requester) (s : State) : State := readBy r 0x3110 s
/-- TCK_COUNT_LO, a read of the register (R100). -/
def execTckCountLo (r : Requester) (s : State) : Host.Outcome State Fault Refusal := .next (doTckCountLo r s)

/-- The effect of PTP_TIME_NS: the read latches seconds and fraction (R389). -/
def doPtpTimeNs (r : Requester) (i : Nat) (s : State) : State := readBy r (pg .ptp i + 0x110) s
/-- PTP_TIME_NS, a read of the register (R389). -/
def execPtpTimeNs (r : Requester) (i : Fin 4) (s : State) : Host.Outcome State Fault Refusal := .next (doPtpTimeNs r i s)

/-- The effect of TCK_LOG_W3: the read pops the oldest entry of the event log (R181). -/
def doTckLogW3 (r : Requester) (s : State) : State := readBy r 0x3190 s
/-- TCK_LOG_W3, a read of the register (R181). -/
def execTckLogW3 (r : Requester) (s : State) : Host.Outcome State Fault Refusal := .next (doTckLogW3 r s)

/-- The effect of CLAMP_REPORT. -/
def doClampReport (r : Requester) (page : Nat) (s : State) : State := readBy r (page * 4096 + 0x020) s
/-- CLAMP_REPORT, a read of a page's register (R482). -/
def execClampReport (r : Requester) (page : BitVec 13) (s : State) : Host.Outcome State Fault Refusal :=
  .next (doClampReport r page.toNat s)

/-- The effect of PEEK_READ. -/
def doPeekRead (p : DbgPath) (off : Nat) (s : State) : State := debugRead p off s
/-- PEEK_READ: a debug read of a register (R418). -/
def execPeekRead (p : DbgPath) (off : BitVec 26) (s : State) : Host.Outcome State Fault Refusal :=
  .next (doPeekRead p off.toNat s)

/-- The effect of TELEMETRY_READ: a read of the alias of an offset, in class trace, through the peek path; outside every page a bad
access with cause 8 (R470, R471, R479). -/
def doTelemetryRead (off : Nat) (s : State) : State :=
  if (pageOf (off / 4096)).isSome then readPeek .telemetry off (reachPage off (accessPackets .host 3 off s))
  else answer 0xFFFFFFFF (badAccess 8 0 (2 ^ 25 + off) s)

/-- TELEMETRY_READ (R471). -/
def execTelemetryRead (off : BitVec 25) (s : State) : Host.Outcome State Fault Refusal :=
  when (domOn s.pwr 24) s (doTelemetryRead off.toNat s)

end Sys2Proof.Machine
end

