-- ==== Sys2Proof/Machine/RegWrite.lean ====
section
/-!
DEFINITION. Writes of registers (R9, R468 to R475, R481): what a write of each register brings about beside its fields,
and DBGACC. The rows CLR_ERR, CLR_CLAMP, CLR_COUNTS, SCB_RESTART, REGISTER_WRITE and DBGACC.
-/

namespace Sys2Proof.Machine

/-- The fields of a register are written. -/
def plainWrite (r : Requester) (off : Nat) (v : W32) (s : State) : State := (fieldWrite (clampSrc r) (pathOf r) off v s).1

/-! ### The common layout -/

/-- A write of INT_STATUS or INT_ENABLE of a page, with the message of R475. -/
def intWrite (r : Requester) (off : Nat) (v : W32) (s : State) : State :=
  let t := plainWrite r off v s
  { t with hst := msgAfter s.regs t.regs (off - off % 4096) true t.hst }

/-- CLR_ERR: ERR_COUNT of a page is 0 (R480). -/
def errClear (page : Nat) (s : State) : State := { s with regs := rput s.regs (page * 4096 + 0x024) 0 }

/-- A write of CTRL of a page (R480, R482). -/
def ctrlWrite (page : Nat) (v : W32) (s : State) : State :=
  let t := if v.getLsbD 1 then errClear page s else s
  if v.getLsbD 0 then { t with dbg := clampClear page t.dbg } else t

/-- The effect of CLR_ERR. -/
def doClrErr (r : Requester) (page : Nat) (s : State) : State :=
  viaWrite r (page * 4096 + 0x010) (ctrlWrite page 2) s
/-- CLR_ERR, a write of CTRL with CLR_ERR = 1 (R480). -/
def execClrErr (r : Requester) (page : BitVec 13) (s : State) : Host.Outcome State Fault Refusal :=
  .next (doClrErr r page.toNat s)

/-- The effect of CLR_CLAMP. -/
def doClrClamp (r : Requester) (page : Nat) (s : State) : State :=
  viaWrite r (page * 4096 + 0x010) (ctrlWrite page 1) s
/-- CLR_CLAMP, a write of CTRL with CLR_CLAMP = 1 (R482). -/
def execClrClamp (r : Requester) (page : BitVec 13) (s : State) : Host.Outcome State Fault Refusal :=
  .next (doClrClamp r page.toNat s)

/-! ### TCK -/

/-- The command that the only bit set of a TCK_CMD write gives. -/
def tckBit (s : State) (w : Nat) : Option TreeCmd :=
  if w = 1 then some .start
  else if w = 2 then some .run
  else if w = 4 then some (.runN (rget s.regs 0x310C).toNat)
  else if w = 8 then some .halt
  else if w = 16 then some .breakArm
  else if w = 32 then some .breakDisarm
  else if w = 64 then some .clearFault
  else none

/-- A write of TCK_CMD: several command bits perform none and set CMD_REJECT (R96). -/
def tckCmdWrite (v : W32) (s : State) : State :=
  let w := fld v 0 7
  if w = 0 then s
  else match tckBit s w with
    | some c => tckCommand c s
    | none => cmdReject s

/-- CLR_COUNTS: the integrity counters and TCK_RESTART_MAX are 0. -/
def countsClear (m : SMap W32) : SMap W32 :=
  rput ((List.range 10).foldl (fun m k => rput m (rkey 0x3178 k) 0) m) 0x3170 0

/-- A write of TCK_REPLAY_CFG. -/
def replayCfgWrite (r : Requester) (v : W32) (s : State) : State :=
  let t := plainWrite r 0x3160 v s
  if v.getLsbD 31 then { t with regs := countsClear t.regs } else t

/-- The effect of CLR_COUNTS. -/
def doClrCounts (r : Requester) (v : W32) (s : State) : State :=
  viaWrite r 0x3160 (replayCfgWrite r (setFld v 31 1 1)) s
/-- CLR_COUNTS, a write of TCK_REPLAY_CFG with CLR_COUNTS = 1 (R166, TCK_REPLAY_CFG). -/
def execClrCounts (r : Requester) (v : W32) (s : State) : Host.Outcome State Fault Refusal := .next (doClrCounts r v s)

/-! ### SCB -/

/-- RESTART: both copies of the state machine begin again at row 0; in another run state it is ignored and rejected
(R178). -/
def scbRestart (q : Nat) (s : State) : State :=
  if runIn s [.empty, .loaded, .halted, .faulted] then
    { s with integ := setScb s.integ q { scbOf s q with a := {}, b := {}, stopped := false } }
  else raiseInt s (pg .scb q) 3

/-- A write of SCB_CTRL: the vote of the three copies before it, ENABLE in all of them, and RESTART (R176, R178). -/
def scbWrite (r : Requester) (q : Nat) (v : W32) (s : State) : State :=
  let s := voteCfg q s
  let t := plainWrite r (pg .scb q + 0x100) v s
  let c := scbOf t q
  let e := v.getLsbD 0
  let u := { t with integ := setScb t.integ q { c with
    c0 := { c.c0 with enable := e }, c1 := { c.c1 with enable := e }, c2 := { c.c2 with enable := e } } }
  if v.getLsbD 1 then scbRestart q u else u

/-- The effect of SCB_RESTART. -/
def doScbRestart (r : Requester) (q : Nat) (v : W32) (s : State) : State :=
  viaWrite r (pg .scb q + 0x100) (scbWrite r q (setFld v 1 1 1)) s
/-- SCB_RESTART, a write of SCB_CTRL with RESTART = 1 (R178). -/
def execScbRestart (r : Requester) (q : QuadId) (v : W32) (s : State) : Host.Outcome State Fault Refusal :=
  .next (doScbRestart r q v s)

/-! ### DMC, LDR, PDK, TRG, TRC -/

/-- A write of DMC_CTRL: with ENABLE = 1 the waiting requests are started (R507). -/
def dmcCtrlWrite (r : Requester) (v : W32) (s : State) : State :=
  let t := plainWrite r 0xA100 v s
  if v.getLsbD 0 then startWaiting t else t

/-- Bytes that the outside returns and no operand gives, from free value `k` on (log 38). -/
def freeBytes (k n : Nat) : List Byte := (List.range n).map fun i => BitVec.ofNat 8 (Config.freeWord (k + i)).toNat

/-- A write of LDR_CMD outside the loader's own rows: host memory and flash return bytes that nothing gives (log 38). -/
def ldrCmdBare (r : Requester) (v : W32) (s : State) : State :=
  let n := (rget s.regs 0x2110).toNat
  ldrCmdWrite r v (freeBytes s.clk.free n) (freeBytes (s.clk.free + n) n) { s with clk := { s.clk with free := s.clk.free + 2 * n } }

/-- A write of PDK_QC: OVF and UNF of the block selected (R321). -/
def qcWrite (v : W32) (s : State) : State :=
  let b := (rget s.regs 0x6120).toNat
  let q := queueOf s b
  setQueue s b { q with ovf := q.ovf && !v.getLsbD 31, unf := q.unf && !v.getLsbD 30 }

/-- A write of TRG_ACQ_RPTR: the records that waited for room are written as far as they fit (R382). -/
def rptrWrite (r : Requester) (v : W32) (s : State) : State := drainBuf (plainWrite r 0x7188 v s)

/-- A groom's trace begins anew: SEQ 0, and a SYNC first (R434). -/
def traceAnew (x : Groom) : Groom :=
  { x with seq := 0, lostN := 0, since0 := 0, brN := 0, brBits := 0, traced := false }

/-- A write of TRC_CTRL: EN becoming 1 restarts TRC_WPTR at 0, clears FULL, and begins every stream anew (R434, R437). -/
def trcCtrlWrite (r : Requester) (v : W32) (s : State) : State :=
  let was := (rget s.regs 0x8100).getLsbD 31
  let t := plainWrite r 0x8100 v s
  if v.getLsbD 31 && !was then
    let u := (List.range 16).foldl (fun u g => setGroom u g (traceAnew (groomOf u g))) t
    { u with regs := rset (rput u.regs 0x812C 0) 0x8104 30 1 0 }
  else t

/-! ### PTP -/

/-- A write of four bytes of a port's transmit window (R406). -/
def winWrite (p o : Nat) (v : W32) (s : State) : State :=
  let x := portOf s.ptp p
  setPort s p { x with win := (List.range 4).foldl (fun m i => m.put 0 (o + i) (v.extractLsb' (8 * i) 8)) x.win }

/-! ### HST -/

/-- A write of HST_DMA_CTRL: EN written 1 clears STOPPED, and the channel resumes at HEAD (R478). -/
def dmaCtrlWrite (r : Requester) (v : W32) (s : State) : State :=
  let t := plainWrite r 0x12C v s
  if v.getLsbD 31 then { t with regs := rset t.regs (dmaKey 0x140 (rget t.regs 0x128).toNat) 31 1 0 } else t

/-- A write of HST_VEC_MAP: a vector that becomes active by it sends its message (R474, R475). -/
def vecMapWrite (r : Requester) (v : W32) (s : State) : State :=
  let t := plainWrite r 0x114 v s
  let k := fld v 0 6
  if vectorActive t.regs k && !vectorActive s.regs k then { t with hst := sendVector t.hst k } else t

/-- A write of a word of the MSI-X table; a vector that it unmasks sends the message pending for it (R475, R480). Only
the mask bit of Vector Control is kept (PCIe 5.0, log 13). -/
def msixWrite (o : Nat) (v : W32) (s : State) : State :=
  let k := (o - 0x800) / 16
  let w := if o % 16 = 12 then v &&& 1 else if o % 16 = 0 then v &&& 0xFFFFFFFC else v
  let h := { s.hst with msix := s.hst.msix.put 0 o w }
  if h.pba.getLsbD k && !vectorMasked h.msix k then
    { s with hst := { h with pba := h.pba &&& ~~~(BitVec.ofNat 64 (2 ^ k)), sent := k :: h.sent } }
  else { s with hst := h }

/-! ### A register of any page -/

/-- Registers of a path's copy of the DBG page whose write does more than set fields. -/
def dbgPageWrite (p : DbgPath) (o : Nat) (v : W32) (s : State) : State :=
  if o = 0x100 then authWrite p v s
  else if o = 0x18C then aqWrite p v s
  else if o = 0x19C then depWrite p v s
  else if o = 0x1A4 then forceWrite p v s
  else if o = 0x1A8 then bmWrite p v s
  else if o = 0x1BC then groupWrite (.debug p) v s
  else plainWrite (.debug p) (0x9000 + o) v s

/-- A write of a LNK page. -/
def lnkWrite (r : Requester) (j o : Nat) (v : W32) (s : State) : State :=
  if o = 0x100 then linkCtrlWrite r j v s
  else if o = 0x108 then slipWrite j v s
  else if o = 0x114 then (if v.getLsbD 31 then measGo j s else s)
  else if o = 0x118 then padWrite r j v s
  else if o = 0x130 then prbsWrite r j v s
  else plainWrite r (pg .lnk j + o) v s

/-- A write of the TRG page; the stream registers are left alone while acquisition runs (R383). -/
def trgWrite (r : Requester) (o : Nat) (v : W32) (s : State) : State :=
  if o = 0x100 then trgCtrlWrite r v s
  else if o = 0x154 then calWrite r v s
  else if o = 0x160 then testWrite r v s
  else if o = 0x168 ∨ o = 0x16C then (if acqRunning s then s else plainWrite r (0x7000 + o) v s)
  else if o = 0x170 then acqCtrlWrite r v s
  else if o = 0x188 then rptrWrite r v s
  else plainWrite r (0x7000 + o) v s

/-- A write of a PTP instance page; PTP_PPS_OUT lies on instance 0's. -/
def ptpWrite (r : Requester) (i o : Nat) (v : W32) (s : State) : State :=
  if o = 0x100 then ptpCmdWrite i v s
  else if o = 0x108 then incrWrite r i v s
  else if o = 0x134 then slewWrite r i v s
  else if o = 0x154 then (if i = 0 then ppsWrite r v s else s)
  else plainWrite r (pg .ptp i + o) v s

/-- A write of a PTP port page. -/
def portPageWrite (r : Requester) (p o : Nat) (v : W32) (s : State) : State :=
  if o = 0x100 then portCfgWrite r p v s
  else if o = 0x12C then popWrite p v s
  else if o = 0x130 then txWrite r p v s
  else if 0x900 ≤ o ∧ o < 0xA00 then winWrite p (o - 0x900) v s
  else plainWrite r (portPg p + o) v s

/-- A write of the HST page. -/
def hstWrite (r : Requester) (o : Nat) (v : W32) (s : State) : State :=
  if o = 0x114 then vecMapWrite r v s
  else if o = 0x12C then dmaCtrlWrite r v s
  else if 0x800 ≤ o ∧ o < 0xC00 then msixWrite o v s
  else plainWrite r o v s

/-- A write of RLS_STARVE restarts every loss count at the stop (R282). -/
def clearLosses (stop : Nat) (s : State) : State :=
  { s with rls := { s.rls with net := s.rls.net.map fun x => if stopOf x.place = stop then { x with losses := 0 } else x } }

/-- A write of an RLS page: one of RLS_TB0 to RLS_TB3 settles its bucket, RLS_STARVE restarts the loss counts (R282). -/
def rlsWrite (r : Requester) (i o : Nat) (v : W32) (s : State) : State :=
  let t := plainWrite r (pg .rls i + o) v s
  if o = 0x118 then clearLosses i t
  else if 0x108 ≤ o ∧ o < 0x118 ∧ o % 4 = 0 then tbSettle i ((o - 0x108) / 4) s.regs t else t

/-- A write of a page's block-specific register. -/
def blkWrite (r : Requester) (b : Blk) (i o : Nat) (v : W32) (s : State) : State :=
  let off := pg b i + o
  match b with
  | .hst => hstWrite r o v s
  | .sec =>
    if o = 0x100 then (if v.getLsbD 31 then retryWrite s else s)
    else if o = 0x104 then secCommand (fld v 0 4) s
    else plainWrite r off v s
  | .ldr => if o = 0x104 then ldrCmdBare r v s else plainWrite r off v s
  | .tck =>
    if o = 0x108 then tckCmdWrite v s else if o = 0x160 then replayCfgWrite r v s else plainWrite r off v s
  | .pwr =>
    if o = 0x100 then modeWrite r v s
    else if o = 0x108 then domCtrlWrite v s
    else if o = 0x124 then pwrCmdWrite v s
    else plainWrite r off v s
  | .yms => if o = 0x134 then doorbell v s else plainWrite r off v s
  | .pdk =>
    if o = 0x100 then pdkCtrlWrite r v s
    else if o = 0x11C then rclkWrite r v s
    else if o = 0x124 then qcWrite v s
    else plainWrite r off v s
  | .trg => trgWrite r o v s
  | .trc => if o = 0x100 then trcCtrlWrite r v s else plainWrite r off v s
  | .dbg => match r with
    | .debug p => dbgPageWrite p o v s
    | _ => s
  | .dmc =>
    if o = 0x100 then dmcCtrlWrite r v s
    else if o = 0x108 then freqWrite r v s
    else if o = 0x110 then maskWrite r false v s
    else if o = 0x114 then maskWrite r true v s
    else plainWrite r off v s
  | .dmcCh => if o = 0x100 then (if v.getLsbD 0 then trainWrite i s else s) else plainWrite r off v s
  | .lnkTree => if o = 0x104 then adjWrite v s else plainWrite r off v s
  | .ptp => ptpWrite r i o v s
  | .ptpPort => portPageWrite r i o v s
  | .grm =>
    if o = 0x100 then grmCtrlWrite r i v s
    else if o = 0x124 then (if v.getLsbD 0 then endItem i (v.getLsbD 1) s else s)
    else plainWrite r off v s
  | .dbgGroom =>
    if o = 0x100 then gctrlWrite r i v s
    else if o = 0x10C then gregWrite i false v s
    else if o = 0x110 then gregWrite i true v s
    else plainWrite r off v s
  | .ary => plainWrite r off v s
  | .scb => if o = 0x100 then scbWrite r i v s else plainWrite r off v s
  | .lnk => lnkWrite r i o v s
  | .rls => rlsWrite r i o v s
  | .shd =>
    if o = 0x100 then shedArrive (i * 4 + fld v 3 2) (.owner (unitOf r) v) s
    else if o = 0x12C then fillWrite r i v s
    else plainWrite r off v s

/-- A write of the register at an offset of an existing page. -/
def regWrite (r : Requester) (off : Nat) (v : W32) (s : State) : State :=
  match pageOf (off / 4096) with
  | none => s
  | some (b, i) =>
    let o := off % 4096
    if o = 0x010 then ctrlWrite (off / 4096) v s
    else if o = 0x018 ∨ o = 0x01C then intWrite r off v s
    else if o < 0x100 then s
    else blkWrite r b i o v s

/-! ### REGISTER_WRITE -/

/-- The host writes the telemetry alias of an existing page (R470, R471). -/
def aliasWrite (r : Requester) (off : Nat) : Bool :=
  decide (r = .host) && decide (2 ^ 25 ≤ off) && (pageOf ((off - 2 ^ 25) / 4096)).isSome

/-- Four bytes at an offset that is not a multiple of 4 are two short writes: a bad access of the host's, a bad debug
access of the debugger's; a groom's address is misaligned and no packet is sent (R283, R410, R468, R470). -/
def shortWrite (r : Requester) (off : Nat) (s : State) : State :=
  match r with
  | .host => badAccess 0xA 0 off s
  | .debug _ => badDebug s
  | _ => s

/-- The effect of REGISTER_WRITE. -/
def doRegisterWrite (r : Requester) (off : Nat) (v : W32) (s : State) : State :=
  if s.pwr.stabled then s
  else if off % 4 ≠ 0 then shortWrite r off s
  else if aliasWrite r off then badAccess 0xC 0 off s
  else viaWrite r off (regWrite r off v) s

/-- REGISTER_WRITE of four bytes at a BAR0 offset (R9, R10, R468, R481). -/
def execRegisterWrite (r : Requester) (off : BitVec 26) (v : W32) (s : State) : Host.Outcome State Fault Refusal :=
  .next (doRegisterWrite r off.toNat v s)

/-! ### DBGACC -/

/-- DBGACC's next capture: status, read data and offset of the access (R412). -/
def accEnd (st : Nat) (data off : W32) (s : State) : State :=
  { s with dbg := { s.dbg with tap := { s.dbg.tap with accSt := BitVec.ofNat 2 st, accData := data, accOff := off } } }

/-- The TAP path's level permits the access (R417). -/
def accLevel (s : State) (write : Bool) (off : Nat) : Bool :=
  if write then decide (writeLevel off ≤ s.dbg.tap.level) else mayPeek off s.dbg.tap.level

/-- A read of DBGACC: 0 OK or 2 DENIED, with the data that the access returned. -/
def accRead (off : W32) (s : State) : State :=
  let t := debugRead .tap off.toNat s
  accEnd (if accLevel s false off.toNat then 0 else 2) t.hst.out off t

/-- A write of DBG_BM_CTRL with GO asks for an access that the TAP path's level permits; any other write asks for none
(R417, R420). -/
def bmPermits (s : State) (off v : W32) : Bool :=
  off != 0x91A8 || !v.getLsbD 31 || decide (bmLevel (Nat.min 2 (fld v 8 2)) (v.getLsbD 30) ≤ s.dbg.tap.level)

/-- A write of DBGACC; the spec states no read data for it (log 4). -/
def accWrite (off v : W32) (s : State) : State :=
  let t := viaWrite (.debug .tap) off.toNat (regWrite (.debug .tap) off.toNat v) s
  accEnd (if accLevel s true off.toNat && bmPermits s off v then 0 else 2) (BitVec.ofNat 32 (Config.freeWord t.clk.free).toNat) off (drawFree t)

/-- The effect of DBGACC: an access through the TAP path; in no page, or at an offset the format excludes, ERROR
(R410, R412). -/
def doDbgacc (dr : BitVec 66) (s : State) : State :=
  let off : W32 := dr.extractLsb' 0 32
  let op := fld dr 64 2
  let t := { s with dbg := { s.dbg with ir := 0x20, extest := false } }
  if op = 0 ∨ op = 3 then t
  else if off.toNat % 4 ≠ 0 ∨ (pageOf (off.toNat / 4096)).isNone then accEnd 3 0xFFFFFFFF off (badDebug t)
  else if op = 1 then accRead off t
  else accWrite off (dr.extractLsb' 32 32) t

/-- DBGACC: Update-DR with the 66 bits of the access register (R412). -/
def execDbgacc (dr : BitVec 66) (s : State) : Host.Outcome State Fault Refusal := when true s (doDbgacc dr s)

end Sys2Proof.Machine
end

