-- ==== Sys2Proof/Machine/Bridge.lean ====
section
/-!
DEFINITION. The rails bridge of the paddock (R329): the row BRIDGE_PACKET.
-/

namespace Sys2Proof.Machine

/-- Opcodes of the register packets (R271). -/
def opRegRead : Byte := 0x10
def opRegWrite : Byte := 0x11
def opRegResp : Byte := 0x18

/-- What the bridge does with an accepted packet: a request with its response's opcode, a posted packet, or a register
access; a packet that is not of the format of an accepted opcode is none (R271, R329). -/
inductive BridgeKind where
  | request (resp : Byte)
  | posted
  | register
  | none
deriving DecidableEq, Repr

/-- The offset lies in the PDK, YMS or TRG page (R329). -/
def bridgePage (off : Nat) : Bool := decide (0x5 ≤ off / 4096) && decide (off / 4096 ≤ 0x7)

/-- The kind of a packet by its opcode, its data flits and, for a register access, its page. -/
def bridgeKind (op : Byte) (p : Pkt) : BridgeKind :=
  let n := p.flits.length
  if op = opShdRead ∨ op = opShdWrite ∨ op = opShdAdd ∨ op = opShdSwap then (if n = 0 then .request opShdResp else .none)
  else if op = opMemRead then (if n = 0 then .request opMemResp else .none)
  else if op = opMemWrite then (if n = 2 then .request opMemResp else .none)
  else if op = opSubmit then (if n ≤ 1 then .posted else .none)
  else if op = opMsg then (if n ≤ 8 then .posted else .none)
  else if op = opRegRead ∨ op = opRegWrite then
    (if n = 0 ∧ bridgePage (fld p.addr 0 26) then .register else .none)
  else .none

/-- SRC and SUNIT as the bridge writes them (R329). -/
def fromBridge (p : Pkt) : Pkt := { p with src := 43, sunit := 0x03 }

/-- A packet enters the bridge's response queue. -/
def toResp (op : Byte) (p : Pkt) (s : State) : State := { s with pdk := { s.pdk with brResp := s.pdk.brResp ++ [(op, p)] } }

/-- The response opcode of a packet that the bridge answers itself; for one that is no request the spec gives none
(log 38). -/
def answerOp (k : Nat) (op : Byte) : Byte :=
  if op = opShdRead ∨ op = opShdWrite ∨ op = opShdAdd ∨ op = opShdSwap then opShdResp
  else if op = opMemRead ∨ op = opMemWrite then opMemResp
  else if op = opRegRead ∨ op = opRegWrite then opRegResp
  else BitVec.ofNat 8 (Config.freeWord k).toNat

/-- A packet that the bridge does not accept: NO_UNIT, and INT_STATUS.BRIDGE_REFUSED (R329). -/
def bridgeRefuse (op : Byte) (p : Pkt) (s : State) : State :=
  raiseInt (drawFree (toResp (answerOp s.clk.free op) (respPkt p 6 0 0 []) s)) 0x6000 3

/-- The stop and register of a page: a register packet for another stop's page is out of range, one for another unit has
no unit (R273 to R275). -/
def regStatus (p : Pkt) : Nat :=
  let off := fld p.addr 0 26
  if p.dunit ≠ 0x01 then 6
  else if p.dst.toNat ≠ (if off / 4096 = 0x5 then 20 else if off / 4096 = 0x6 then 43 else 44) then 8
  else 0

/-- A register access at its endpoint, and its response (R329); the paddock's writes act as hardware's. -/
def bridgeReg (op : Byte) (p : Pkt) (s : State) : State :=
  let off := fld p.addr 0 26 / 4 * 4
  let st := regStatus p
  if st ≠ 0 then toResp opRegResp (respPkt p st 0 0 []) s
  else if op = opRegRead then
    let t := viaRead .loader off (readPlain off) id s
    toResp opRegResp (respPkt p 0 (t.hst.out.setWidth 64) 0 []) { t with hst := { t.hst with out := s.hst.out } }
  else toResp opRegResp (respPkt p 0 0 0 []) (viaWrite .loader off (regWrite .loader off (p.data.setWidth 32)) s)

/-- An injected request reaches its unit. -/
def bridgeRequest (op resp : Byte) (p : Pkt) (s : State) : State :=
  let t := { s with pdk := { s.pdk with brOut := s.pdk.brOut + 1 } }
  if op = opMemRead ∨ op = opMemWrite then unitSend op (some resp) p (memDeliver op (freePasses t)) (drawFree t)
  else unitSend op (some resp) p (shedDeliver op) t

/-- A register packet for a stop above 47 is answered NO_ROUTE at the source stop (R275). -/
def bridgeRegister (op : Byte) (p : Pkt) (s : State) : State :=
  if 47 < p.dst.toNat then toResp opRegResp (respPkt p 5 0 0 []) (raiseInt s (pg .rls 43) 2)
  else bridgeReg op (carried s.regs { p with tick16 := tick16 s }) (exchange p.cls.toNat (43, 0) (p.dst.toNat, 4) 1 1 s)

/-- A packet that the bridge takes from its request queue. -/
def bridgeTake (op : Byte) (p : Pkt) (s : State) : State :=
  let q := fromBridge p
  match bridgeKind op q with
  | .request resp => bridgeRequest op resp q s
  | .posted => if op = opMsg then unitSend op none q msgDeliver s else unitSend op none q submitDeliver s
  | .register => bridgeRegister op q s
  | .none => bridgeRefuse op q s

/-- The response queue has room for the response of a packet; a posted packet needs none (R276, R329). -/
def bridgeRoom (op : Byte) (p : Pkt) (s : State) : Bool :=
  bridgeKind op p == .posted || decide (s.pdk.brResp.length + s.pdk.brOut < bridgeCap)

/-- The request queue is worked off, oldest first, as far as the response queue has room. `n`: at most so many. -/
def bridgeRun : Nat → State → State
  | 0, s => s
  | n + 1, s =>
    match s.pdk.brReq with
    | [] => s
    | (op, p) :: rest =>
      if bridgeRoom op p s then bridgeRun n (bridgeTake op p { s with pdk := { s.pdk with brReq := rest } }) else s

/-- The fabric reads responses from the response queue at a pace of its own: how many is open (log 25). -/
def bridgeDrain (s : State) : State :=
  let n := (Config.freeWord s.clk.free).toNat % (s.pdk.brResp.length + 1)
  drawFree { s with pdk := { s.pdk with brResp := s.pdk.brResp.drop n } }

/-- The bridge works: BREN, the fabric after DONE, and a source on the global tree that clocks the port (R329). -/
def bridgeOn (s : State) : Bool :=
  let w := rget s.regs 0x6100
  w.getLsbD 8 && fabricOn s && regionFree s 0 && globalSrc s (fld w 4 4) != 0

/-- The effect of BRIDGE_PACKET: the packet enters the request queue, unless that is full, and the queue is worked off. -/
def doBridgePacket (op : Byte) (p : Pkt) (s : State) : State :=
  let t := bridgeDrain s
  let u := if t.pdk.brReq.length < bridgeCap then { t with pdk := { t.pdk with brReq := t.pdk.brReq ++ [(op, p)] } } else t
  bridgeRun bridgeCap u

/-- BRIDGE_PACKET: the fabric writes a packet to the bridge (R329). -/
def execBridgePacket (op : Byte) (p : Pkt) (s : State) : Host.Outcome State Fault Refusal :=
  when (decide (p.flits.length ≤ 8) && bridgeOn s) s (doBridgePacket op p s)

end Sys2Proof.Machine
end

