-- ==== Sys2Proof/WellFormed.lean ====
section
/-!
DEFINITION. Which commands are well formed: their operands name something the spec gives. Unit numbers are bounded by
their types; what is left are the lengths of lists, the format of packets and the modes of the PCIe link. A command that
is not well formed stands for no event and leaves the state as it is (log 2).
-/

namespace Sys2Proof

open Machine

/-- The checks on a command's operands. -/
def Instr.wellFormed : Instr → Bool
  | .shdRead p => pktOk p 0
  | .shdWrite p => pktOk p 0
  | .shdAdd p => pktOk p 0
  | .shdSwap p => pktOk p 0
  | .memRead p _ => pktOk p 0
  | .memWrite p => pktOk p 2
  | .workSubmit p => pktFree p 1
  | .workDone p => pktOk p 0
  | .trace p => pktFree p 8
  | .msg p => pktFree p 8
  | .deposit p => pktFree p 1 && isDeposit p
  | .bridgePacket _ p => decide (p.flits.length ≤ 8)
  | .tempPoll l => l.length == 8
  | .tempSample l => l.length == 5
  | .prbsCheck _ _ bits => decide (bits.length ≤ 1056)
  | .pcieLinkUp speed width => linkModes speed.toNat width.toNat
  | .dmaDescriptor _ desc _ => desc.length == 32
  | _ => true

end Sys2Proof
end

