-- ==== Sys2Proof/Decode.lean ====
section
/-!
DEFINITION. The command that a word spells. Every row of spec/opcode_table.json gives its command no bits, so no word
spells one.
-/

namespace Sys2Proof

/-- The command that a word of `nbits` bits spells by the table's bits: none, since the table gives no row any. -/
def decodeTableWord (_nbits _w : Nat) : Option Instr := none

end Sys2Proof
end

