-- ==== Sys2Proof/Machine/Dispatch.lean ====
section
/-!
DEFINITION. The meaning of each command: one direct call per row of spec/opcode_table.json.
-/

namespace Sys2Proof.Machine

def exec (i : Instr) (s : State) : Host.Outcome State Fault Refusal :=
  match i with
  | .idle a b => Sys2Proof.Machine.execIdle a b s
  | .lutd a b => Sys2Proof.Machine.execLutd a b s
  | .lutl a b => Sys2Proof.Machine.execLutl a b s
  | .stw a b => Sys2Proof.Machine.execStw a b s
  | .mrd a b => Sys2Proof.Machine.execMrd a b s
  | .mwr a b => Sys2Proof.Machine.execMwr a b s
  | .xmt a b => Sys2Proof.Machine.execXmt a b s
  | .lnk a b => Sys2Proof.Machine.execLnk a b s
  | .call a b => Sys2Proof.Machine.execCall a b s
  | .probe a b => Sys2Proof.Machine.execProbe a b s
  | .check a b => Sys2Proof.Machine.execCheck a b s
  | .readLanding a b c => Sys2Proof.Machine.execReadLanding a b c s
  | .holdDecision a b c => Sys2Proof.Machine.execHoldDecision a b c s
  | .holdFreeze => Sys2Proof.Machine.execHoldFreeze s
  | .modelReadArrival a b c d => Sys2Proof.Machine.execModelReadArrival a b c d s
  | .holdResume => Sys2Proof.Machine.execHoldResume s
  | .tickStretchTimeout => Sys2Proof.Machine.execTickStretchTimeout s
  | .commitWindow a => Sys2Proof.Machine.execCommitWindow a s
  | .tickBoundary => Sys2Proof.Machine.execTickBoundary s
  | .restartHoldEnd => Sys2Proof.Machine.execRestartHoldEnd s
  | .goldenRepair a => Sys2Proof.Machine.execGoldenRepair a s
  | .start a => Sys2Proof.Machine.execStart a s
  | .run a => Sys2Proof.Machine.execRun a s
  | .runN a => Sys2Proof.Machine.execRunN a s
  | .halt a => Sys2Proof.Machine.execHalt a s
  | .breakArm a => Sys2Proof.Machine.execBreakArm a s
  | .breakDisarm a => Sys2Proof.Machine.execBreakDisarm a s
  | .clearFault a => Sys2Proof.Machine.execClearFault a s
  | .go => Sys2Proof.Machine.execGo s
  | .tickStart => Sys2Proof.Machine.execTickStart s
  | .frameTx a => Sys2Proof.Machine.execFrameTx a s
  | .runFrame a b => Sys2Proof.Machine.execRunFrame a b s
  | .runHalt a b => Sys2Proof.Machine.execRunHalt a b s
  | .cmdFrame a b => Sys2Proof.Machine.execCmdFrame a b s
  | .mark a b => Sys2Proof.Machine.execMark a b s
  | .resend a b => Sys2Proof.Machine.execResend a b s
  | .peer a b => Sys2Proof.Machine.execPeer a b s
  | .idleFrame a b => Sys2Proof.Machine.execIdleFrame a b s
  | .lateGroup a b => Sys2Proof.Machine.execLateGroup a b s
  | .lnkSlip a b c => Sys2Proof.Machine.execLnkSlip a b c s
  | .recal a b c => Sys2Proof.Machine.execRecal a b c s
  | .recalDone a => Sys2Proof.Machine.execRecalDone a s
  | .lnkMeas a b => Sys2Proof.Machine.execLnkMeas a b s
  | .lnkPad a b c => Sys2Proof.Machine.execLnkPad a b c s
  | .lnkPeriodAdj a b => Sys2Proof.Machine.execLnkPeriodAdj a b s
  | .injGo a b c => Sys2Proof.Machine.execInjGo a b c s
  | .systemBringUp a => Sys2Proof.Machine.execSystemBringUp a s
  | .shdRead a => Sys2Proof.Machine.execShdRead a s
  | .shdWrite a => Sys2Proof.Machine.execShdWrite a s
  | .shdAdd a => Sys2Proof.Machine.execShdAdd a s
  | .shdSwap a => Sys2Proof.Machine.execShdSwap a s
  | .shdResp a => Sys2Proof.Machine.execShdResp a s
  | .memRead a b => Sys2Proof.Machine.execMemRead a b s
  | .memWrite a => Sys2Proof.Machine.execMemWrite a s
  | .memResp a => Sys2Proof.Machine.execMemResp a s
  | .workSubmit a => Sys2Proof.Machine.execWorkSubmit a s
  | .workDone a => Sys2Proof.Machine.execWorkDone a s
  | .trace a => Sys2Proof.Machine.execTrace a s
  | .msg a => Sys2Proof.Machine.execMsg a s
  | .deposit a => Sys2Proof.Machine.execDeposit a s
  | .creditAudit a => Sys2Proof.Machine.execCreditAudit a s
  | .shdOwner a b c => Sys2Proof.Machine.execShdOwner a b c s
  | .fillStart a b c => Sys2Proof.Machine.execFillStart a b c s
  | .fillWord a => Sys2Proof.Machine.execFillWord a s
  | .patrolRead a => Sys2Proof.Machine.execPatrolRead a s
  | .refresh a b => Sys2Proof.Machine.execRefresh a b s
  | .tempPoll a => Sys2Proof.Machine.execTempPoll a s
  | .freqChange a b => Sys2Proof.Machine.execFreqChange a b s
  | .freqChangeDone => Sys2Proof.Machine.execFreqChangeDone s
  | .train a b => Sys2Proof.Machine.execTrain a b s
  | .trainingDone a b c d e f => Sys2Proof.Machine.execTrainingDone a b c d e f s
  | .alert a b => Sys2Proof.Machine.execAlert a b s
  | .modelWriteDrain a => Sys2Proof.Machine.execModelWriteDrain a s
  | .dmcMask a b c => Sys2Proof.Machine.execDmcMask a b c s
  | .ymsDoorbell a b => Sys2Proof.Machine.execYmsDoorbell a b s
  | .callIntake => Sys2Proof.Machine.execCallIntake s
  | .dispatch => Sys2Proof.Machine.execDispatch s
  | .grmDone a b => Sys2Proof.Machine.execGrmDone a b s
  | .timetableExpiry => Sys2Proof.Machine.execTimetableExpiry s
  | .groomWatchdog a => Sys2Proof.Machine.execGroomWatchdog a s
  | .invD a b c => Sys2Proof.Machine.execInvD a b c s
  | .groomRun a b c => Sys2Proof.Machine.execGroomRun a b c s
  | .checkpoint => Sys2Proof.Machine.execCheckpoint s
  | .restore => Sys2Proof.Machine.execRestore s
  | .gatewayCapture a b => Sys2Proof.Machine.execGatewayCapture a b s
  | .rclkSwitch a b => Sys2Proof.Machine.execRclkSwitch a b s
  | .rclkAbandon a => Sys2Proof.Machine.execRclkAbandon a s
  | .queueWrite a b => Sys2Proof.Machine.execQueueWrite a b s
  | .queueRead a => Sys2Proof.Machine.execQueueRead a s
  | .qrst a => Sys2Proof.Machine.execQrst a s
  | .ffreset a b => Sys2Proof.Machine.execFfreset a b s
  | .bridgePacket a b => Sys2Proof.Machine.execBridgePacket a b s
  | .boot a b => Sys2Proof.Machine.execBoot a b s
  | .retry a => Sys2Proof.Machine.execRetry a s
  | .otpProg a => Sys2Proof.Machine.execOtpProg a s
  | .rollbackAdvance a => Sys2Proof.Machine.execRollbackAdvance a s
  | .identity a => Sys2Proof.Machine.execIdentity a s
  | .attest a => Sys2Proof.Machine.execAttest a s
  | .load a b c d => Sys2Proof.Machine.execLoad a b c d s
  | .partialImg a b c => Sys2Proof.Machine.execPartialImg a b c s
  | .partialCommit => Sys2Proof.Machine.execPartialCommit s
  | .patch a b c => Sys2Proof.Machine.execPatch a b c s
  | .abort a => Sys2Proof.Machine.execAbort a s
  | .doneRise => Sys2Proof.Machine.execDoneRise s
  | .doneFall => Sys2Proof.Machine.execDoneFall s
  | .evaluation => Sys2Proof.Machine.execEvaluation s
  | .trigInEdge a b => Sys2Proof.Machine.execTrigInEdge a b s
  | .xtrgEdge a => Sys2Proof.Machine.execXtrgEdge a s
  | .trgCal a b => Sys2Proof.Machine.execTrgCal a b s
  | .calDone a => Sys2Proof.Machine.execCalDone a s
  | .xtrgTest a b => Sys2Proof.Machine.execXtrgTest a b s
  | .seqReset a => Sys2Proof.Machine.execSeqReset a s
  | .acqCtrlStart a b => Sys2Proof.Machine.execAcqCtrlStart a b s
  | .acqCtrlStop a b => Sys2Proof.Machine.execAcqCtrlStop a b s
  | .ptpSet a b => Sys2Proof.Machine.execPtpSet a b s
  | .ptpStep a b => Sys2Proof.Machine.execPtpStep a b s
  | .ptpHoldover a b => Sys2Proof.Machine.execPtpHoldover a b s
  | .ptpResume a b => Sys2Proof.Machine.execPtpResume a b s
  | .ptpSlew a b c => Sys2Proof.Machine.execPtpSlew a b c s
  | .ptpIncrLo a b c => Sys2Proof.Machine.execPtpIncrLo a b c s
  | .servoWatchdog a => Sys2Proof.Machine.execServoWatchdog a s
  | .ethFrameRx a b c => Sys2Proof.Machine.execEthFrameRx a b c s
  | .txGo a b c => Sys2Proof.Machine.execTxGo a b c s
  | .ethTransmit a => Sys2Proof.Machine.execEthTransmit a s
  | .rxPop a b => Sys2Proof.Machine.execRxPop a b s
  | .txDonePop a b => Sys2Proof.Machine.execTxDonePop a b s
  | .portFec a b c => Sys2Proof.Machine.execPortFec a b c s
  | .ppsIn => Sys2Proof.Machine.execPpsIn s
  | .ppsOut => Sys2Proof.Machine.execPpsOut s
  | .dbgacc a => Sys2Proof.Machine.execDbgacc a s
  | .testLogicReset => Sys2Proof.Machine.execTestLogicReset s
  | .challenge a => Sys2Proof.Machine.execChallenge a s
  | .verify a b => Sys2Proof.Machine.execVerify a b s
  | .drop a => Sys2Proof.Machine.execDrop a s
  | .nonceLapse a => Sys2Proof.Machine.execNonceLapse a s
  | .lockoutEnd a => Sys2Proof.Machine.execLockoutEnd a s
  | .peekRead a b => Sys2Proof.Machine.execPeekRead a b s
  | .aqGo a => Sys2Proof.Machine.execAqGo a s
  | .aqCapture a => Sys2Proof.Machine.execAqCapture a s
  | .depGo a b => Sys2Proof.Machine.execDepGo a b s
  | .forceWrite a b => Sys2Proof.Machine.execForceWrite a b s
  | .bmGo a b => Sys2Proof.Machine.execBmGo a b s
  | .gctrlHalt a b => Sys2Proof.Machine.execGctrlHalt a b s
  | .gctrlResume a b => Sys2Proof.Machine.execGctrlResume a b s
  | .gctrlStep a b => Sys2Proof.Machine.execGctrlStep a b s
  | .resumeAll a => Sys2Proof.Machine.execResumeAll a s
  | .comparatorMatch a b c => Sys2Proof.Machine.execComparatorMatch a b c s
  | .ebreak a => Sys2Proof.Machine.execEbreak a s
  | .stim a b c => Sys2Proof.Machine.execStim a b c s
  | .traceFlush a => Sys2Proof.Machine.execTraceFlush a s
  | .pwrDomCtrl a b => Sys2Proof.Machine.execPwrDomCtrl a b s
  | .domainClose a => Sys2Proof.Machine.execDomainClose a s
  | .domainWake a => Sys2Proof.Machine.execDomainWake a s
  | .stable a => Sys2Proof.Machine.execStable a s
  | .wakeBall a => Sys2Proof.Machine.execWakeBall a s
  | .forget a => Sys2Proof.Machine.execForget a s
  | .pwrMode a b => Sys2Proof.Machine.execPwrMode a b s
  | .clockRelockDone => Sys2Proof.Machine.execClockRelockDone s
  | .tempSample a => Sys2Proof.Machine.execTempSample a s
  | .brownOut => Sys2Proof.Machine.execBrownOut s
  | .aonSwitch a => Sys2Proof.Machine.execAonSwitch a s
  | .coldStart => Sys2Proof.Machine.execColdStart s
  | .warmReset => Sys2Proof.Machine.execWarmReset s
  | .perst => Sys2Proof.Machine.execPerst s
  | .pcieLinkUp a b => Sys2Proof.Machine.execPcieLinkUp a b s
  | .flr => Sys2Proof.Machine.execFlr s
  | .bar2Access a b c => Sys2Proof.Machine.execBar2Access a b c s
  | .telemetryRead a => Sys2Proof.Machine.execTelemetryRead a s
  | .badAccessTimeout a => Sys2Proof.Machine.execBadAccessTimeout a s
  | .dmaDescriptor a b c => Sys2Proof.Machine.execDmaDescriptor a b c s
  | .dmaComplete a => Sys2Proof.Machine.execDmaComplete a s
  | .tckCountLo a => Sys2Proof.Machine.execTckCountLo a s
  | .ptpTimeNs a b => Sys2Proof.Machine.execPtpTimeNs a b s
  | .tckLogW3 a => Sys2Proof.Machine.execTckLogW3 a s
  | .shdPatrolErr a b => Sys2Proof.Machine.execShdPatrolErr a b s
  | .clampReport a b => Sys2Proof.Machine.execClampReport a b s
  | .clrErr a b => Sys2Proof.Machine.execClrErr a b s
  | .clrClamp a b => Sys2Proof.Machine.execClrClamp a b s
  | .clrCounts a b => Sys2Proof.Machine.execClrCounts a b s
  | .scbRestart a b c => Sys2Proof.Machine.execScbRestart a b c s
  | .registerWrite a b c => Sys2Proof.Machine.execRegisterWrite a b c s
  | .scrubReadStep a => Sys2Proof.Machine.execScrubReadStep a s
  | .controlTreeStop => Sys2Proof.Machine.execControlTreeStop s
  | .linkChange a b => Sys2Proof.Machine.execLinkChange a b s
  | .pcieLinkDown => Sys2Proof.Machine.execPcieLinkDown s
  | .prbsCheck a b c => Sys2Proof.Machine.execPrbsCheck a b c s
  | .slewComplete a => Sys2Proof.Machine.execSlewComplete a s
  | .extest a b => Sys2Proof.Machine.execExtest a b s

end Sys2Proof.Machine
end

