-- ==== Sys2Proof/Machine/Fabric.lean ====
section
/-!
DEFINITION. The paddock's fabric at work (R309 to R312, R317 to R319, R322 to R325): cells, combiners, routing
multiplexers, clock trees and target I/O. No row is an edge of a clock, so an idle period of the step clock takes the
fabric one period on (log 25).
-/

namespace Sys2Proof.Machine

/-! ### Routing -/

/-- A wire of the fabric: an output of a cluster, an input of a cell, an input of a cluster, a leaving neighbour wire, a
global line of a row (R312). `x`: the column of the whole fabric, 12 to a region. -/
inductive Wire where
  | out (x y o : Nat)
  | cell (x y t j : Nat)
  | inp (x y i : Nat)
  | leave (x y w : Nat)
  | line (y g : Nat)
deriving DecidableEq, Repr

/-- The frame of the cluster at column `x` and row `y`. -/
def clusterAt (s : State) (x y : Nat) : List Byte := frameOf s 0 (x / 12) (12 * y + x % 12)

/-- Configuration word of cell `t` (R310, R313). -/
def cellCfg (f : List Byte) (t : Nat) : Nat := frameFld f (1024 + 16 * t) 16

/-- Key of flip-flop FFA of a cell; FFB's is the next. -/
def ffKey (x y t : Nat) : Nat := ((x / 12 * 1536 + 12 * y + x % 12) * 16 + t) * 2

/-- The cluster from which a neighbour wire arrives, if it lies in the fabric (R312). North is the way of rising rows
(log 146). -/
def sender (x y w : Nat) : Option (Nat × Nat) :=
  let k := if w % 12 < 8 then 1 else 4
  if w / 12 = 0 then (if k ≤ x then some (x - k, y) else none)
  else if w / 12 = 1 then (if k ≤ y then some (x, y - k) else none)
  else if w / 12 = 2 then (if x + k < 96 then some (x + k, y) else none)
  else (if y + k < 128 then some (x, y + k) else none)

/-- What a target ball gives the fabric: its level, or what its I/O register has taken (R322). -/
def ballIn (s : State) (b : Nat) : Bool :=
  if frameFld (frameOf s 3 (b / 40) (b % 40)) 6 2 = 0 then s.pdk.balls.getLsbD b else (s.pdk.io.get {} b).inp

/-- The signal that enters a cluster in the place of an arriving neighbour wire: a target I/O input, a gateway bit of the
design's outputs, GW_ITOG or GW_OTOG (R322, R324, R325, log 146). -/
def signalAt (s : State) (x y w : Nat) : Option Bool :=
  let r := x / 12
  if x % 12 = 11 ∧ w = 24 ∧ y % 3 = 0 ∧ y / 3 < 40 then some (ballIn s (40 * r + y / 3))
  else if x % 12 = 0 ∧ w = 1 then some (s.pen.out.getLsbD (128 * r + y))
  else if x % 12 = 0 ∧ y = 0 ∧ w = 2 then some (s.pen.itog.getLsbD r)
  else if x % 12 = 0 ∧ y = 0 ∧ w = 3 then some (s.pen.otog.getLsbD r)
  else none

/-- The table's index that inputs of a cell make, the first listed the least significant (R309). `v`: the levels of the
fabric's other wires. -/
def tableIndex (v : Wire → Bool) (x y t : Nat) (js : List Nat) : Nat :=
  js.foldr (fun j n => 2 * n + (v (.cell x y t j)).toNat) 0

/-- Output F of a cell: its six-input table, or in a pair the lower half of it (R309). -/
def cellF (f : List Byte) (v : Wire → Bool) (x y t : Nat) : Bool :=
  frameFld f (64 * t + tableIndex v x y t (if cellCfg f t / 2 ^ 10 % 2 = 1 then [0, 1, 2, 3, 4] else [0, 1, 2, 3, 4, 5])) 1 == 1

/-- Combiner K of four cells: X of the first two selects an F of the four (R311). -/
def combK (v : Wire → Bool) (x y j : Nat) : Bool :=
  v (.out x y (4 * (4 * j + ((v (.cell x y (4 * j) 6)).toNat + 2 * (v (.cell x y (4 * j + 1) 6)).toNat))))

/-- Combiner M of eight cells: X of the third selects one of two combiners K (R311). -/
def combM (v : Wire → Bool) (x y j : Nat) : Bool := combK v x y (2 * j + (v (.cell x y (8 * j + 2) 6)).toNat)

/-- Output G of a cell: the upper half of its table in a pair, a combiner where WIDE says so, otherwise 0 (R309, R311). -/
def cellG (f : List Byte) (v : Wire → Bool) (x y t : Nat) : Bool :=
  if cellCfg f t / 2 ^ 10 % 2 = 1 then frameFld f (64 * t + 32 + tableIndex v x y t [0, 1, 2, 3, 5]) 1 == 1
  else if cellCfg f t / 2 ^ 11 % 4 = 1 then combK v x y (t / 4)
  else if cellCfg f t / 2 ^ 11 % 4 = 2 then combM v x y (t / 8)
  else false

/-- The level of an output of a cell: F, G, QA or QB (R309). -/
def cellOut (s : State) (v : Wire → Bool) (x y t k : Nat) : Bool :=
  if k = 0 then cellF (clusterAt s x y) v x y t
  else if k = 1 then cellG (clusterAt s x y) v x y t
  else s.pdk.ff.get false (ffKey x y t + (k - 2))

/-- The level of a wire, from those of its inputs: code 0 drives 0 (R312, R325). -/
def wireOf (s : State) (v : Wire → Bool) : Wire → Bool
  | .out x y o => cellOut s v x y (o / 4) (o % 4)
  | .cell x y t j =>
    let c := frameFld (clusterAt s x y) (1290 + 7 * (9 * t + j)) 7
    if c = 0 then false else if c ≤ 32 then v (.inp x y (c - 1)) else v (.out x y (c - 33))
  | .inp x y i =>
    let c := frameFld (clusterAt s x y) (2298 + 7 * i) 7
    if c = 0 then false
    else if c ≤ 48 then
      match signalAt s x y (c - 1), sender x y (c - 1) with
      | some b, _ => b
      | none, some p => v (.leave p.1 p.2 (c - 1))
      | none, none => false
    else v (.line y (c - 49))
  | .leave x y w =>
    let c := frameFld (clusterAt s x y) (2522 + 7 * w) 7
    if c = 0 then false else v (.out x y (c - 1))
  | .line y g =>
    let x := 12 * (g / 2)
    let c := frameFld (clusterAt s x y) (2858 + 10 * (g % 2)) 10
    if c = 0 then false else v (.out (x + (c - 1) / 64) y ((c - 1) % 64))

/-- The level of a wire through at most `n` others; that of a combinational loop is open (R316). -/
def wireLevel (s : State) : Nat → Wire → Bool
  | 0, _ => Config.loopLevel s.clk.ps
  | n + 1, w => wireOf s (wireLevel s n) w

/-- More wires than the fabric has. -/
def wireCount : Nat := 2 ^ 22

/-- The level of a wire (R309 to R312). -/
def level (s : State) (w : Wire) : Bool := wireLevel s wireCount w

/-! ### Clock trees -/

/-- Level of the 125 MHz reference at an elapsed time: a period of 8 ns (R317, log 146). -/
def refLevel (ps : Nat) : Bool := decide (ps % 8000 < 4000)

/-- Level of a global tree's source (R317). `balls`: the levels of the balls. -/
def globalLevel (s : State) (balls : BitVec 320) (k : Nat) : Bool :=
  let c := globalSrc s k
  if c = 0 then false
  else if c ≤ 32 then balls.getLsbD (40 * ((c - 1) / 4) + (c - 1) % 4)
  else if c = 33 then refLevel s.clk.ps
  else level s (.out (12 * (c - 34)) 0 0)

/-- Level of a source of a regional tree: none, a ball of the region, or a global tree (R318). -/
def sourceLevel (balls : BitVec 320) (g : BitVec 16) (region code : Nat) : Bool :=
  if code = 0 then false else if code ≤ 4 then balls.getLsbD (40 * region + (code - 1)) else g.getLsbD (code - 5)

/-- A regional tree's output on an edge, or none, of the source in use: divided by DIV + 1, high for half the period or
the longer part of an odd one; a new DIV takes effect at the end of the output period (R318, R319). -/
def rtreeRun (div : Nat) (lv rose : Bool) (t : RTree) : RTree :=
  let n := t.div.getD div + 1
  let wrap := decide (n ≤ t.phase)
  let k := if wrap then 1 else t.phase + 1
  let m := if wrap then div + 1 else n
  if rose then { t with phase := k, div := some (m - 1), out := decide (k ≤ (m + 1) / 2) }
  else if n = 1 then { t with out := lv }
  else t

/-- A regional tree in a period, with the levels of its sources: it runs, or its switch goes on (R319). `w`: PDK_RCLK. -/
def rtreeNext (w : W32) (l0 l1 : Bool) (t : RTree) : RTree :=
  let new := w.getLsbD 29
  let lv (b : Bool) : Bool := if b then l1 else l0
  let last (b : Bool) : Bool := if b then t.last1 else t.last0
  let rose (b : Bool) : Bool := lv b && !last b
  let fell (b : Bool) : Bool := !lv b && last b
  let div := fld w 12 4
  let run (b : Bool) (t : RTree) : RTree := rtreeRun div (lv b) (rose b) t
  let u :=
    if t.stage = 0 then run new t
    else if t.stage = 1 then
      (if fell t.sel then { t with stage := 2, phase := 0, out := false } else run t.sel t)
    else if t.stage = 2 then (if fell new then { t with stage := 3 } else t)
    else if rose new then { t with stage := 0, phase := 1, div := some div, out := true } else t
  { u with last0 := l0, last1 := l1 }

/-- The regional trees in a period; BUSY ends with a switch (R319). -/
def rtreesNext (balls : BitVec 320) (g : BitVec 16) (s : State) : State :=
  (List.range 8).foldl (fun s r =>
    let w := rget s.regs (rclkKey r)
    let u := rtreeNext w (sourceLevel balls g r (fld w 0 5)) (sourceLevel balls g r (fld w 5 5)) (rtreeOf s.pdk r)
    { s with
      pdk := { s.pdk with rtree := s.pdk.rtree.put {} r u }
      regs := if u.stage = 0 then rset s.regs (rclkKey r) 31 1 0 else s.regs }) s

/-- Level of a clock that a cluster clock code names in a region (R312). -/
def clockLevel (p : Pdk) (region code : Nat) : Bool :=
  if code = 0 ∨ 17 < code then false else if code ≤ 16 then p.gtree.getLsbD (code - 1) else (rtreeOf p region).out

/-- A clock has a rising edge, or a falling one, between two states of the trees. -/
def rises (p q : Pdk) (region code : Nat) : Bool := clockLevel q region code && !clockLevel p region code
def falls (p q : Pdk) (region code : Nat) : Bool := clockLevel p region code && !clockLevel q region code

/-! ### Flip-flops -/

/-- A flip-flop after the period (R309, R310): SR asynchronous or on the edge sets its reset value; otherwise it takes its
data on the edge, when CE or CEU lets it. `b`: 0 FFA, 1 FFB. `s`: the fabric before the edge; `q`: the trees after it. -/
def ffNext (s : State) (q : Pdk) (x y t b : Nat) : Bool :=
  let f := clusterAt s x y
  let c := cellCfg f t
  let code := frameFld f (1280 + 5 * (c / 2 ^ (4 + b) % 2)) 5
  let edge := rises s.pdk q (x / 12) code
  let sr := level s (.cell x y t 8)
  let rv := c / 2 ^ (8 + b) % 2 == 1
  let d := c / 2 ^ (2 * b) % 4
  if sr ∧ (c / 2 ^ 7 % 2 = 1 ∨ edge) then rv
  else if edge ∧ (c / 2 ^ 6 % 2 = 0 ∨ level s (.cell x y t 7)) then
    (if d = 0 then level s (.out x y (4 * t)) else if d = 1 then level s (.out x y (4 * t + 1)) else level s (.cell x y t 6))
  else s.pdk.ff.get false (ffKey x y t + b)

/-- The clusters that frames configure, of regions whose flip-flops run: column and row. -/
def liveClusters (s : State) : List (Nat × Nat) :=
  if (rget s.regs 0x6100).getLsbD 0 then []
  else ((s.pdk.frames.filter fun e => decide (e.1 < 2 ^ 24) && regionFree s (e.1 / 2 ^ 21)).map fun e =>
    (12 * (e.1 / 2 ^ 21) + e.1 % 2 ^ 21 % 12, e.1 % 2 ^ 21 / 12))

/-- The flip-flops after the period; in reset they keep their reset values (R309, R323). -/
def ffsNext (s : State) (q : Pdk) : SMap Bool :=
  SMap.putAll false s.pdk.ff ((liveClusters s).flatMap fun e => (List.range 32).map fun i =>
    (ffKey e.1 e.2 (i / 2) + i % 2, ffNext s q e.1 e.2 (i / 2) (i % 2)))

/-! ### Target I/O -/

/-- A ball's frame. -/
def ballFrame (s : State) (b : Nat) : List Byte := frameOf s 3 (b / 40) (b % 40)

/-- A ball is high-impedance with its pull-down: before DONE, unconfigured, or with the domain in RETAIN or OFF (R323,
R330). -/
def ballHiz (s : State) (b : Nat) : Bool :=
  !regionFree s (b / 40) || frameFld (ballFrame s b) 0 1 == 0 || decide (2 ≤ domState s.pwr 26)

/-- What the fabric gives a ball, data and enable: outputs 0 and 1 of its cluster (R322). -/
def ballWires (s : State) (b : Nat) : Bool × Bool :=
  let x := 12 * (b / 40) + 11
  (level s (.out x (3 * (b % 40)) 0), level s (.out x (3 * (b % 40)) 1))

/-- What a ball drives, nothing when it is not enabled (R322, R323). -/
def ballDrives (s : State) (b : Nat) : Option Bool :=
  if ballHiz s b then none
  else
    let r := s.pdk.io.get {} b
    let w := if frameFld (ballFrame s b) 6 2 = 0 then ballWires s b else (r.data, r.oe)
    if w.2 then some w.1 else none

/-- The levels of the balls: what the paddock drives, otherwise what the target system gives them (R322). -/
def ballLevels (s : State) : BitVec 320 :=
  (s.pdk.frames.filter fun e => e.1 / 2 ^ 24 == 3).foldl (fun w e =>
    let b := 40 * (e.1 / 2 ^ 21 % 8) + e.1 % 2 ^ 21
    match ballDrives s b with
    | some v => setFld w b 1 v.toNat
    | none => w) (Config.tioLevels s.clk.ps)

/-- The I/O registers after the period: SDR on the clock's rising edge, DDR on both edges (R322, log 146). -/
def iosNext (s : State) (q : Pdk) : SMap IoReg :=
  (s.pdk.frames.filter fun e => e.1 / 2 ^ 24 == 3).foldl (fun m e =>
    let r := e.1 / 2 ^ 21 % 8
    let b := 40 * r + e.1 % 2 ^ 21
    let code := frameFld e.2 8 5
    let reg := frameFld e.2 6 2
    if (reg = 1 ∨ reg = 2) ∧ (rises s.pdk q r code ∨ (reg = 2 ∧ falls s.pdk q r code)) then
      m.put {} b ⟨s.pdk.balls.getLsbD b, (ballWires s b).1, (ballWires s b).2⟩
    else m) s.pdk.io

/-! ### Gateways -/

/-- The wires of a region that its design input bits take: output 2 of the clusters of column 0 (R324, log 146). -/
def gatewayWires (s : State) (region : Nat) : BitVec 128 :=
  BitVec.ofNat 128 ((List.range 128).foldl (fun n k => if level s (.out (12 * region) k 2) then n + 2 ^ k else n) 0)

/-- GW_ICOMMIT of a region (R324). -/
def commitWire (s : State) (region : Nat) : Bool := level s (.out (12 * region) 0 3)

/-- GW_OACK of a region (R324). -/
def oackWire (s : State) (region : Nat) : Bool := level s (.out (12 * region) 0 7)

/-- A region captures its wires on a rising edge of its commit clock with GW_ICOMMIT = 1 (R326). `old`: the fabric before
the edge. -/
def commitEdge (old : State) (s : State) (r : Nat) : State :=
  if regionFree old r ∧ rises old.pdk s.pdk r (frameFld (frameOf old 5 r 0) 0 5) ∧ commitWire old r then
    doGatewayCapture r (gatewayWires old r) s
  else s

/-! ### The period -/

/-- One period of the fabric: the balls' levels, the clock trees, then what their edges do to the flip-flops, the I/O
registers and the staging registers, each from the wires as they stood before the edges (R309 to R326). Without a frame,
or with the domain not ON, nothing runs (R330). -/
def fabricPeriod (s : State) : State :=
  if !fabricOn s ∨ s.pdk.frames = [] then s
  else
    let balls := ballLevels s
    let g : BitVec 16 := BitVec.ofNat 16 ((List.range 16).foldl (fun n k => if globalLevel s balls k then n + 2 ^ k else n) 0)
    let t := rtreesNext balls g s
    let q := { t.pdk with gtree := g }
    let u := { t with pdk := { q with ff := ffsNext s q, io := iosNext s q, balls := balls } }
    (List.range 8).foldl (commitEdge s) u

/-- The fabric reads responses from its bridge and the bridge works off its requests (R329). -/
def bridgePeriod (s : State) : State :=
  if bridgeOn s && (s.pdk.brReq != [] || s.pdk.brResp != []) then bridgeRun bridgeCap (bridgeDrain s) else s

/-- One period of the step clock passes with no command waiting, with its rail cycles and a period of the paddock's fabric
(log 1, log 25, log 126). -/
def idlePeriod (s : State) : State := bridgePeriod (fabricPeriod (runNet (pass 1 s)))

end Sys2Proof.Machine
end

