-- ==== Sys2Proof/Certificates/Slice0/Obligations.lean ====
section
/-!
DEFINITION. The statements for the provers, with the words they are written in (`Sys2Proof.Claims`): what a command
leaves alone, and what a register access needs in order to be performed.
-/

namespace Sys2Proof.Claims

open Sys2Proof.Machine

/-- The parts of the state. Of the rails, `flow` is what every injection changes: the class buckets, the counts of flits
injected and throttled, and the cycle of each port's last use; `rls` is the rest. -/
inductive Part where
  | pending | regs | clk | tck | arr | exe | pen | integ | shed | dmc | lnk | rls | flow | yms | grm | pdk | ldr | sec | trg
  | ptp | dbg | pwr | hst | ckpt
deriving DecidableEq, Repr

/-- A part is the same in two states. -/
def Part.same (s t : State) : Part → Prop
  | .pending => t.pending = s.pending
  | .regs => t.regs = s.regs
  | .clk => t.clk = s.clk
  | .tck => t.tck = s.tck
  | .arr => t.arr = s.arr
  | .exe => t.exe = s.exe
  | .pen => t.pen = s.pen
  | .integ => t.integ = s.integ
  | .shed => t.shed = s.shed
  | .dmc => t.dmc = s.dmc
  | .lnk => t.lnk = s.lnk
  | .rls => t.rls = { s.rls with
      tokens := t.rls.tokens, refill := t.rls.refill, inj := t.rls.inj, thr := t.rls.thr, last := t.rls.last }
  | .flow => t.rls.tokens = s.rls.tokens ∧ t.rls.refill = s.rls.refill ∧ t.rls.inj = s.rls.inj ∧ t.rls.thr = s.rls.thr ∧
      t.rls.last = s.rls.last
  | .yms => t.yms = s.yms
  | .grm => t.grm = s.grm
  | .pdk => t.pdk = s.pdk
  | .ldr => t.ldr = s.ldr
  | .sec => t.sec = s.sec
  | .trg => t.trg = s.trg
  | .ptp => t.ptp = s.ptp
  | .dbg => t.dbg = s.dbg
  | .pwr => t.pwr = s.pwr
  | .hst => t.hst = s.hst
  | .ckpt => t.ckpt = s.ckpt

/-- Every part of the state but those listed is the same in `t` as in `s`. -/
def Keeps (but : List Part) (s t : State) : Prop := ∀ p : Part, p ∉ but → p.same s t

/-- Every register but those whose keys are listed reads the same in `t` as in `s`. -/
def RegsBut (but : List Nat) (s t : State) : Prop := ∀ k, k ∉ but → rget t.regs k = rget s.regs k

/-- The bit in a slot of a processor's current-tick bank. -/
def ring (s : State) (g st : Nat) : Bool := s.arr.ringCur.get false (g * 1024 + st)

/-- The chip is not Stabled, and no port B of a shed has anything to do, so that time passes as the clock alone. -/
abbrev Quiet (s : State) : Prop := s.pwr.stabled = false ∧ portsIdle s = true

/-- Processor `g` executes slot `st`, of class `cls`, at its schedule step (R21), while no port B has anything to do. -/
abbrev Executes (s : State) (g st : Nat) (cls : OpClass) : Prop := Quiet s ∧ stepOk s g st cls = true

/-- What every executed word leaves: `x` in slot `st` of its processor's current-tick bank, every other slot of the
array's rings as it was, but for the slot of the odd processor of a four-state pair; the other stores of the array, but
for the next-state bits, as they were; the processor ready for its next slot; and every part of the state but those a
word may change as it was. -/
def Executed (g st : Nat) (x : Bool) (but : List Part) (s t : State) : Prop :=
  ring t g st = x ∧ t.exe.ran.get 0 g = st + 1 ∧ t.tck = { s.tck with step := st } ∧
  (∀ k, k ≠ g * 1024 + st → (isFour s (barnOf g) = true → k ≠ (g + 1) * 1024 + st) →
    t.arr.ringCur.get false k = s.arr.ringCur.get false k) ∧
  t.arr = { s.arr with ringCur := t.arr.ringCur, ringCurSyn := t.arr.ringCurSyn, stNext := t.arr.stNext } ∧
  t.integ = { s.integ with
    repairs := t.integ.repairs, repairsB := t.integ.repairsB, undo := t.integ.undo, unlogged := t.integ.unlogged } ∧
  Keeps ([.clk, .ptp, .tck, .arr, .exe, .integ] ++ but) s t

/-- The register at a BAR0 offset can be written by a requester now: the chip is not Stabled, the requester is no stalled
groom and may write there, the page is not that of a barn that is not enabled, and its power domain is ON with no close in progress
(R417, R448, R453, R473). -/
abbrev Writable (r : Requester) (off : Nat) (s : State) : Prop :=
  runs r s = true ∧ mayWrite r off s = true ∧ deadPage s off = false ∧ s.pwr.closing = [] ∧
    (pageOf (off / 4096)).all (fun x => domOn s.pwr (pageDomain x.1 x.2)) = true

/-- The register at a BAR0 offset can be read by a requester other than a debug path now. -/
abbrev Readable (r : Requester) (off : Nat) (s : State) : Prop :=
  runs r s = true ∧ r ≠ .debug .tap ∧ r ≠ .debug .bar ∧ s.pwr.closing = [] ∧
    (pageOf (off / 4096)).all (fun x => domOn s.pwr (pageDomain x.1 x.2)) = true

/-- Bit `k` of the INT_STATUS of a page. -/
def intBit (s : State) (page k : Nat) : Bool := (rget s.regs (page + 0x018)).getLsbD k

/-- A packet of the format that goes at once: the chip is not Stabled, both stops exist, its sender is not stalled, no
older item of its flow holds it back and its unit has room for the response, nothing is in the network, and its regulator
allows it to start (R261, R266, R276, R278, R281, R299). That it then reaches its unit within its command is the model's
choice (log 126). -/
abbrev Goes (op : Byte) (p : Pkt) (flits : Nat) (s : State) : Prop :=
  s.pwr.stabled = false ∧ pktOk p flits = true ∧ p.dst.toNat < 48 ∧ stalledFrom s p = false ∧ waitsInOrder s p = none ∧
    respRoom s.rls op p = true ∧ netClear s.rls = true ∧
    allowed s.regs s.rls (railCycle s.clk.ps) p.src.toNat p.cls.toNat (flitsOf p) = true

/-- One response to a request is on its way besides those that were, with a status and data, to the requester's stop and
unit under the request's tag (R271). -/
def Answered (op : Byte) (p : Pkt) (status : BitVec 4) (data : W64) (s t : State) : Prop :=
  ∃ q : Pkt, t.rls.fly = s.rls.fly ++ [(op, q)] ∧ q.status = status ∧ q.data = data ∧ q.dst = p.src ∧
    q.dunit = p.sunit ∧ q.tag = p.tag

/-- Port B of a shed is free to start something in this bank cycle: no port B has anything to do, no schedule step can
still use the cycle, the clock runs, and this port B has started nothing in the cycle (R184 to R186). -/
abbrev PortIdle (k : Nat) (s : State) : Prop :=
  portsIdle s = true ∧ stepsNow s = false ∧ s.pwr.relock = false ∧ s.shed.started.get 0 k ≠ s.clk.gen + 1

/-- Port B of a shed can start a foreground request: it is free, and no credit is due (R187, R188). -/
abbrev PortOpen (k : Nat) (s : State) : Prop := PortIdle k s ∧ s.shed.loss.get 0 k < 1024

/-- Port B of the shed of a word can start a foreground request for it: its bank is free as well (R187). -/
abbrev PortFree (key : Nat) (s : State) : Prop := PortOpen (key / 2 ^ 15) s ∧ bankFree s key = true

/-- A shed request names an enabled barn by its stop and number, in a domain that is ON (R189, R196, R275). -/
abbrev FindsShed (p : Pkt) (s : State) : Prop :=
  p.dunit = 0 ∧ adBarn p.addr < 96 ∧ barnStop (adBarn p.addr) = p.dst.toNat ∧
    s.sec.otp.barns.getLsbD (adBarn p.addr) = true ∧ domOn s.pwr (adBarn p.addr / 6) = true ∧ s.pwr.closing = [] ∧
    PortFree (adKey p.addr) s

/-- The requester of a packet may use the bank that it names (R196). -/
abbrev MayUse (p : Pkt) (s : State) : Prop :=
  mayUse s (requesterOf p) (adBarn p.addr) (adShed p.addr) (adWord p.addr / 4096) = true

/-- A memory is as it was outside `n` bytes from an address on. -/
def MemBut (a n : Nat) (m m' : List Host.Cell) : Prop :=
  ∀ x, x < a ∨ a + n ≤ x → Memory.byte m' x = Memory.byte m x

/-- The servo watchdog of a clock instance does not expire in this period (R397). -/
abbrev OnTime (i : Nat) (s : State) : Prop :=
  (servoRuns s i && decide (servoAt s i / 4000 ≤ s.clk.ps / 4000)) = false

/-- A clock instance with one more accepted request waiting for its period, and its servo watchdog restarted (R395,
R397). -/
def Accepts (i : Fin 4) (e : PtpEv) (s t : State) : Prop :=
  instOf t.ptp i = { instOf s.ptp i with
    pend := insReq ⟨e, s.clk.ps / 4000⟩ (instOf s.ptp i).pend, wdog := s.clk.ps, lost := false } ∧
  (∀ j : Fin 4, j ≠ i → instOf t.ptp j = instOf s.ptp j)

/-- The memories of bytes are in canonical form: the sheds, DRAM, groom scratch, and the sheds of a checkpoint. -/
abbrev Canonical (s : State) : Prop :=
  Memory.wf s.shed.mem ∧ Memory.wf s.dmc.mem ∧ Memory.wf s.grm.scratch ∧ ∀ c ∈ s.ckpt, Memory.wf c.sheds

end Sys2Proof.Claims

open Sys2Proof Sys2Proof.Machine Sys2Proof.Claims

/-! ### Boolean processors (02_boolean_processors.md) -/

/-- IDLE and LUTD complete and write their results (R25): IDLE writes 0, LUTD the function value. -/
def Obligations.IdleAndLutdWriteTheirResults : Prop :=
  ∀ (g : Gp) (st : Step) (s : State),
    (Executes s g st .idle → ∃ t, exec (.idle g st) s = .next t ∧ Executed g st false [] s t
      ∧ t.arr.stNext = s.arr.stNext) ∧
    (Executes s g st .lutd → ∃ t, exec (.lutd g st) s = .next t ∧ Executed g st (lutdVal s g st).v [] s t
      ∧ t.arr.stNext = s.arr.stNext)

/-- The operands of a four-input function index its 16-bit truth table T as i = 8·D + 4·C + 2·B + A, and the function
value is bit i of T (R26): for LUTD, whose table its dictionary entry gives, and for LUTL, whose first word keeps the
index and whose second word holds the table. Where an operand of a four-state barn is unknown, R59 takes the rule's
place. -/
def Obligations.FunctionsIndexTheirTruthTables : Prop :=
  ∀ (g : Gp) (st : Step) (s : State),
    let w := imemWord s g st
    let x := fun k => (operand s g st k).val
    let i := 8 * (x 3).v.toNat + 4 * (x 2).v.toNat + 2 * (x 1).v.toNat + (x 0).v.toNat
    (Executes s g st .lutd → (isFour s (barnOf g) = false ∨ ∀ k < 4, (x k).u = false) →
      ∃ t, exec (.lutd g st) s = .next t ∧ ring t g st = (dictOf s g (fnOf w)).getLsbD i) ∧
    (Executes s g st .lutl → isSecond w = false →
      ∃ t p, exec (.lutl g st) s = .next t ∧ t.exe.lit.find? g = some p ∧ p.val.toNat = i) ∧
    (∀ p, Executes s g st .lutl → isSecond w = true → s.exe.lit.find? g = some p → p.step + 1 = st.val → p.unk = 0 →
      ∃ t, exec (.lutl g st) s = .next t ∧ ring t g st = w.getLsbD p.val.toNat)

/-- LUTL completes (R30): a first word writes 0 and keeps its four operands; a second word that follows it writes the
function value of those operands under the table in its low 16 bits. -/
def Obligations.LutlPairEvaluatesKeptOperands : Prop :=
  ∀ (g : Gp) (st : Step) (s : State), Executes s g st .lutl →
    (isSecond (imemWord s g st) = false → ∃ t, exec (.lutl g st) s = .next t ∧ Executed g st false [] s t
      ∧ t.exe.lit.find? g = some (litOf s g st)) ∧
    (∀ p, isSecond (imemWord s g st) = true → s.exe.lit.find? g = some p → p.step + 1 = st.val → p.unk = 0 →
      ∃ t, exec (.lutl g st) s = .next t ∧
        Executed g st ((imemWord s g st).getLsbD p.val.toNat) [] s t ∧ t.exe.lit.find? g = none)

/-- STW completes in a two-state barn (R41): its result is A; with B = 1 the first write of a next-state bit in the tick
enters it, a later one is suppressed and raises STATE_DOUBLE_WRITE at its step, and with B = 0 nothing is written. No
current-state bit changes (R39). -/
def Obligations.StwWritesNextStateOnce : Prop :=
  ∀ (g : Gp) (st : Step) (s : State), Executes s g st .stw → isFour s (barnOf g) = false →
    let bit := fnOf (imemWord s g st) % 256
    ∃ t, exec (.stw g st) s = .next t ∧ Executed g st (operand s g st 0).val.v [] s t ∧
      ((operand s g st 1).val.v = true → s.arr.stNext.find? (g * 256 + bit) = none →
        t.arr.stNext.find? (g * 256 + bit) = some ⟨(operand s g st 0).val.v, st⟩) ∧
      ((operand s g st 1).val.v = true → ∀ n, s.arr.stNext.find? (g * 256 + bit) = some n →
        t.arr.stNext.find? (g * 256 + bit) = some n ∧ ∃ f ∈ t.exe.faults, f.code = 0x07 ∧ f.step.toNat = st.val) ∧
      ((operand s g st 1).val.v = false → t.arr.stNext = s.arr.stNext) ∧
      (∀ k, k ≠ g * 256 + bit → t.arr.stNext.find? k = s.arr.stNext.find? k)

/-- MRD and READ_LANDING complete (R52). An MRD with a well-formed descriptor that lands inside the tick puts one read in
flight, to land L steps later on the processor's port, enabled when A is known 1; a shed read takes the word as it
stands. A landing that is alone on its port puts the word in the port's latch if its A was 1, with the bits from
DWM1 + 1 up 0 (R49), and otherwise keeps the latch; every other latch is as it was. -/
def Obligations.MrdIssuesAndLands : Prop :=
  (∀ (g : Gp) (st : Step) (s : State), Executes s g st .mrd → (descOf s g st).bad = false →
    st.val + descLat s (descOf s g st) < s.tck.depth →
    ∃ t f, exec (.mrd g st) s = .next t ∧ Executed g st (operand s g st 0).val.v [] s t ∧
      t.exe.flights = s.exe.flights ++ [f] ∧ f.barn = barnOf g ∧ f.port = portKey g % 4 ∧ f.issue = st.val ∧
      f.land = st.val + descLat s (descOf s g st) ∧ f.en = (operand s g st 0).val.isOne ∧ f.dwm1 = (descOf s g st).dwm1 ∧
      ((descOf s g st).kind = 1 → s.exe.banks = [] → s.exe.aWrites = [] →
        f.arrived = true ∧ f.word = Memory.word s.shed.mem (8 * shedKey (barnOf g) (descOf s g st).shed
          (wordAddr s g st (fnOf (imemWord s g st) % 1024) (descOf s g st)).1))) ∧
  (∀ (b : BarnId) (m : PortId) (st : Step) (s : State) (f : Flight), Quiet s →
    landingOk s b m st = true → landing s b m st = [f] →
    ∃ t, exec (.readLanding b m st) s = .next t ∧
      t.exe.latches.find? (b.val * 4 + m.val) = some ⟨if f.en then f.word &&& BitVec.ofNat 64 (2 ^ (f.dwm1 + 1) - 1)
        else ((s.exe.latches.find? (b.val * 4 + m.val)).map Latch.val).getD 0, true⟩ ∧
      (∀ k, k ≠ b.val * 4 + m.val → t.exe.latches.find? k = s.exe.latches.find? k) ∧
      (∀ x ∈ t.exe.flights, x ∈ s.exe.flights ∧ x ≠ f) ∧ t.exe.ran = s.exe.ran ∧
      Keeps [.clk, .ptp, .tck, .exe] s t)

/-- MWR completes (R54, R55). An enabled write to a shed, alone in its bank, writes the gathered word at its address, and
every byte outside that word is as it was. An enabled write to a memory model joins the tick's held writes and reaches
neither a shed nor DRAM. With A not known 1 nothing is written or held. -/
def Obligations.MwrWritesShedOrHolds : Prop :=
  ∀ (g : Gp) (st : Step) (s : State), Executes s g st .mwr → (descOf s g st).bad = false →
    let d := descOf s g st
    let fn := fnOf (imemWord s g st) % 1024
    let a := 8 * shedKey (barnOf g) d.shed (wordAddr s g st fn d).1
    ∃ t, exec (.mwr g st) s = .next t ∧
      Executed g st (operand s g st 0).val.v [.pen, .regs, .shed] s t ∧
      ((operand s g st 0).val.isOne = true → d.kind = 1 →
        (bankConflict s g st d.shed (wordAddr s g st fn d).1 = false →
          Memory.word t.shed.mem a = (wordData s g st fn d).1) ∧
        (∀ x, x < a ∨ a + 8 ≤ x → Memory.byte t.shed.mem x = Memory.byte s.shed.mem x) ∧ t.pen = s.pen) ∧
      ((operand s g st 0).val.isOne = true → d.kind = 2 → t.shed = s.shed ∧
        t.pen.cur.writes = insWrite ⟨st, g, d.model, modelAddr s.regs d.model (wordAddr s g st fn d).1,
          (wordData s g st fn d).1, false, 0⟩ s.pen.cur.writes) ∧
      ((operand s g st 0).val.isOne = false → t.shed = s.shed ∧ t.pen = s.pen ∧ t.regs = s.regs)

/-- XMT completes in a two-state barn (R25, R105): a send track that nothing has driven in the step carries A; no other
track of any barn and step changes, and of the registers only ARY_XMT_PEAK of the barn's quadrant may.
LNK completes in a two-state barn (R25, R113, R114): through a slot-map entry of KIND 0b10 the operand A becomes the
tick's value of the gateway bit, and through one of KIND 0b01 that arrives in time it is driven into the link bit-slot,
where nothing has driven it in the tick; the held effects of other kinds are as they were. -/
def Obligations.XmtAndLnkDriveTracksAndLinks : Prop :=
  (∀ (g : Gp) (st : Step) (s : State), Executes s g st .xmt → isFour s (barnOf g) = false →
     let k := (barnOf g * 1024 + st.val) * 64 + fnOf (imemWord s g st) % 64
     ∃ t, exec (.xmt g st) s = .next t ∧ Executed g st (operand s g st 0).val.v [.regs] s t ∧
       (s.exe.tracks.find? k = none → t.exe.tracks.find? k = some ⟨(operand s g st 0).val.v, false, g⟩) ∧
       (∀ j, j ≠ k → t.exe.tracks.find? j = s.exe.tracks.find? j) ∧
       RegsBut [pg .ary (quadOf (barnOf g)) + 0x128] s t) ∧
  (∀ (g : Gp) (st : Step) (s : State), Executes s g st .lnk → isFour s (barnOf g) = false →
     let e := slotEntry s g (fnOf (imemWord s g st))
     let a := (operand s g st 0).val.v
     ∃ t, exec (.lnk g st) s = .next t ∧ Executed g st a [.pen] s t ∧
       (fld e 14 2 = 2 → s.pen.cur.gw.find? (fld e 0 10) = none →
         t.pen.cur.gw.find? (fld e 0 10) = some ⟨a, st, g⟩ ∧
         (∀ k, k ≠ fld e 0 10 → t.pen.cur.gw.find? k = s.pen.cur.gw.find? k)) ∧
       (fld e 14 2 = 1 → st.val + s.arr.linkBud.get 0 (fld e 7 5) ≤ s.tck.depth + 16 →
         let k := (fld e 7 5 * 1024 + st.val) * 80 + fld e 0 7
         s.exe.linkTx.find? k = none → t.exe.linkTx.find? k = some ⟨a, false, g⟩ ∧ t.pen = s.pen) ∧
       t.pen.cur.events = s.pen.cur.events ∧ t.pen.cur.probes = s.pen.cur.probes ∧ t.pen.cur.writes = s.pen.cur.writes)

/-- CALL, CHECK and PROBE complete in a two-state barn (R25, R27): a CALL with A = 1 and a CHECK with A not 1 place their
event in the holding pen, the other two place none; a PROBE gives its lane the value A where no later or higher write
stands. -/
def Obligations.CallCheckProbeFillThePen : Prop :=
  ∀ (g : Gp) (st : Step) (s : State), isFour s (barnOf g) = false →
    let a := (operand s g st 0).val.v
    (Executes s g st .call → ∃ t, exec (.call g st) s = .next t ∧ Executed g st a [.pen, .regs] s t ∧
      t.pen.cur.events = (if a then insEvent (eventOf s g st false) s.pen.cur.events else s.pen.cur.events) ∧
      RegsBut [0x3130] s t) ∧
    (Executes s g st .check → ∃ t, exec (.check g st) s = .next t ∧ Executed g st a [.pen, .regs] s t ∧
      t.pen.cur.events = (if a then s.pen.cur.events else insEvent (eventOf s g st true) s.pen.cur.events) ∧
      RegsBut [0x3130] s t) ∧
    (Executes s g st .probe → ∃ t, exec (.probe g st) s = .next t ∧ Executed g st a [.pen] s t ∧
      (∀ o, s.pen.cur.probes.find? (fnOf (imemWord s g st)) = some o → (o.step < st.val ∨ o.proc ≤ g.val) →
        t.pen.cur.probes.find? (fnOf (imemWord s g st)) = some ⟨a, st, g⟩) ∧
      (s.pen.cur.probes.find? (fnOf (imemWord s g st)) = none →
        t.pen.cur.probes.find? (fnOf (imemWord s g st)) = some ⟨a, st, g⟩) ∧
      (∀ k, k ≠ fnOf (imemWord s g st) → t.pen.cur.probes.find? k = s.pen.cur.probes.find? k) ∧
      t.pen.cur.events = s.pen.cur.events)

/-! ### Holds, the commit window and run control (03_tick.md, 06_integrity_replay.md) -/

/-- HOLD_DECISION and HOLD_FREEZE complete in a single-chip system (R79, R80, R165): at its decision step a read whose
data has arrived requests nothing, and one whose data has not requests a hold for the step at which it lands; the freeze
holds the earliest requested step not executed, writes the repairs whose data waits, and counts in TCK_HOLD_COUNT.
MODEL_READ_ARRIVAL completes (R82, R172, R214, R216): the word of DRAM at the read's address, with every write that
arrived before the read, arrives for the read, marked bad exactly when no read of its burst passed; DRAM is as it was.
HOLD_RESUME completes in a single-chip system whose clock runs (R82): the freeze ends C + 2 periods after the last
arrival or ended cause that it waits for and at least 2 after it began, and the held step is next; a tick held at step 0
begins. -/
def Obligations.HoldsFreezeAndResume : Prop :=
  (∀ (b : BarnId) (m : PortId) (st : Step) (s : State) (f : Flight), Quiet s → s.tck.multi = false →
    decisionOk s b m st = true → flightOf s b m st = some f →
    ∃ t, exec (.holdDecision b m st) s = .next t ∧ t.tck.step = f.land - 64 - s.tck.ctree ∧ t.tck.run = s.tck.run ∧
      (f.arrived = true → t.tck.holds = s.tck.holds ∧ t.exe = s.exe) ∧
      (f.arrived = false → ⟨.read, f.land, s.tck.tick⟩ ∈ t.tck.holds ∧ ∀ h ∈ s.tck.holds, h ∈ t.tck.holds) ∧
      Keeps [.clk, .ptp, .tck, .exe] s t) ∧
  (∀ (s : State) (h : HoldReq), Quiet s → freezeOk s = true → nextHold s = some h →
    ∃ t f, exec .holdFreeze s = .next t ∧ t.tck.step = h.step ∧ t.tck.freeze = some f ∧ f.step = h.step ∧
      f.kind = h.kind ∧ (∀ r ∈ t.integ.repairs, r.data = false) ∧
      ((∀ r ∈ s.integ.repairs ++ s.integ.repairsB, r.data = false) → (∀ q < 4, copiesDiffer s q = false) →
        t.tck = { s.tck with step := h.step, freeze := some f } ∧
        rfld t.regs 0x3128 0 32 = Nat.min (2 ^ 32 - 1) (rfld s.regs 0x3128 0 32 + 1) ∧
        RegsBut [0x3128] s t ∧ Keeps [.clk, .ptp, .tck, .regs] s t) ∧
      Keeps [.clk, .ptp, .tck, .regs, .arr, .integ, .hst] s t) ∧
  (∀ (b : BarnId) (m : PortId) (st : Step) (passes : Fin 4) (s : State) (f : Flight), s.pwr.stabled = false →
     arrivalOk s b m st = true → flightOf s b m st = some f →
     ∃ t g, exec (.modelReadArrival b m st passes) s = .next t ∧ g ∈ t.exe.flights ∧ g.proc = f.proc ∧ g.land = f.land ∧
       g.arrived = true ∧ g.arr = s.clk.gen ∧ g.word = Memory.word (dramBefore f.seq s.dmc) f.addr ∧
       (g.bad = true ↔ passes = 3 ∨ s.dmc.crcErr.get 0 (f.addr / 64) ≠ 0) ∧
       t.exe.flights.length = s.exe.flights.length ∧ t.dmc.mem = s.dmc.mem ∧ t.dmc.wq = s.dmc.wq ∧
       RegsBut [pg .dmcCh (channelOf s.regs f.addr) + 0x108] s t ∧ Keeps [.exe, .dmc, .regs] s t) ∧
  (∀ (s : State) (f : Freeze), Quiet s → s.pwr.relock = false → s.tck.multi = false →
     s.tck.treeResume = none → s.lnk.childArr = [] → resumeOk s = true → s.tck.freeze = some f →
     let g := Nat.max (causeArr s f.step + s.tck.ctree + 2) (f.since + 2)
     s.clk.gen ≤ g →
     ∃ t, exec .holdResume s = .next t ∧ t.tck.freeze = none ∧ t.clk.gen = g ∧
       (∀ h ∈ t.tck.holds, h ∈ s.tck.holds ∧ ¬(h.tick = s.tck.tick ∧ h.step = f.step)) ∧ t.tck.run = s.tck.run ∧
       RegsBut [0x312C] s t ∧
       (s.tck.inTick = true → t.tck.resumeStep = f.step ∧ t.tck.step = s.tck.step ∧ Keeps [.clk, .ptp, .tck, .regs] s t) ∧
       (s.tck.inTick = false → t.tck.inTick = true ∧ t.tck.step = 0 ∧ t.tck.tick = s.tck.tick ∧ t.exe.ran = [] ∧
         (s.tck.redo = false → t.pen.inCur = s.pen.inNext.getD s.pen.inCur) ∧
         Keeps [.clk, .ptp, .tck, .regs, .exe, .pen, .lnk, .arr] s t))

/-- TICK_STRETCH_TIMEOUT, CONTROL_TREE_STOP and RESTART_HOLD_END complete (R85, R86, R95, R147, R159, R163, R248, R252).
A hold that times out records its fault; in a single-chip system the tick is undone and the run is FAULTED, and in a
multi-chip system the stop goes on the control tree with CTIME now + C, up from a chip below the root and down from it.
A stop on the control tree leaves the run FAULTED with INT_STATUS.FAULTED set, no freeze, no hold and no confirmed tick
taken back, and no fault record where the stop was not this chip's; a run-control command that waits for its CTIME acts
on the stopped run.
A restart hold that is over begins the undone tick again at step 0 with the inputs it had latched, with nothing of the
aborted execution in its pipelines; the root broadcasts its end to every child. -/
def Obligations.AbortedTicksEndOrBeginAgain : Prop :=
  (∀ (s : State) (f : Freeze) (r : FaultRec), s.pwr.stabled = false → timeoutOk s = true → s.tck.freeze = some f →
    timeoutRec s f = some r →
    (s.tck.multi = false → ∃ t, exec .tickStretchTimeout s = .next t ∧ t.tck.run = .faulted ∧ intBit t 0x3000 1 = true ∧
      t.integ.frec = r.word ∧ t.tck.freeze = none ∧ t.tck.inTick = false ∧ t.tck.redo = begun s ∧
      t.tck.count = s.tck.count ∧ t.arr.stNext = [] ∧
      Keeps [.clk, .ptp, .rls, .flow, .shed, .tck, .pen, .integ, .arr, .hst, .yms, .regs, .exe] s t) ∧
    (s.tck.multi = true → ∃ t, exec .tickStretchTimeout s = .next t ∧ t.integ.frec = r.word ∧
      t.tck = { s.tck with localVote := .stop, voting := false, stopAt := some (ctimeIn t s.tck.ctree) } ∧
      (∀ j, (s.tck.root = true ∧ j ∈ kidList s.regs ∨ s.tck.root = false ∧ treeParent s.regs = some j) →
        ∃ a, (a, TreeEv.vote .stop (ctimeIn t s.tck.ctree)) ∈ (linkOf t.lnk j).evq) ∧
      Keeps [.clk, .ptp, .rls, .flow, .shed, .tck, .integ, .hst, .regs, .lnk] s t)) ∧
  (∀ s : State, s.pwr.stabled = false → s.tck.multi = true → s.tck.stopAt.isSome = true → s.tck.run ≠ .empty →
    ∃ t u, exec .controlTreeStop s = .next t ∧ t = settleCmds u ∧ (s.tck.cmds = [] → t = u) ∧
      u.tck.run = .faulted ∧ intBit u 0x3000 1 = true ∧ u.tck.freeze = none ∧ u.tck.inTick = false ∧
      u.tck.stopAt = none ∧ u.tck.goAt = none ∧ u.tck.holds = [] ∧ u.tck.cmds = s.tck.cmds ∧
      u.tck.count = s.tck.count ∧ u.arr.stNext = [] ∧ u.lnk.asked = [] ∧ u.lnk.childHold = [] ∧
      (s.tck.localVote ≠ .stop → u.integ.frec = 0) ∧ (s.tck.localVote = .stop → u.integ.frec = s.integ.frec) ∧
      Keeps [.clk, .ptp, .rls, .flow, .shed, .tck, .pen, .integ, .arr, .hst, .yms, .regs, .exe, .lnk] s u) ∧
  (∀ s : State, s.pwr.stabled = false → restartOk s = true →
     ∃ t, exec .restartHoldEnd s = .next t ∧ t.tck.freeze = none ∧ t.tck.inTick = true ∧ t.tck.step = 0 ∧
       t.tck.tick = s.tck.tick ∧ t.tck.run = s.tck.run ∧ t.tck.treeResume = none ∧ t.exe.ran = [] ∧
       t.exe.flights = [] ∧ t.exe.latches = [] ∧ t.exe.faults = [] ∧
       (s.tck.redo = true → t.pen.inCur = s.pen.inCur ∧ t.exe.recv = s.exe.recv) ∧
       t.arr = { s.arr with ringCur := t.arr.ringCur, ringCurSyn := t.arr.ringCurSyn } ∧
       (s.tck.multi = true → s.tck.treeResume = none →
         ∀ j ∈ kidList s.regs, ∃ a g, (a, TreeEv.release g) ∈ (linkOf t.lnk j).evq) ∧
       Keeps [.clk, .ptp, .rls, .flow, .shed, .hst, .tck, .exe, .pen, .lnk, .arr, .regs] s t ∧
       (portsIdle s = true → RegsBut [0x3170] s t ∧ Keeps [.clk, .ptp, .tck, .exe, .pen, .lnk, .arr, .regs] s t))

/-- GOLDEN_REPAIR completes where its read can be started (R165, R172, R177): while the array fetches nothing and the
copies of every scrubber agree, a good golden read of an instruction word writes the golden word back with matching
parity, and the repair is done; a read that fails leaves the array as it is, and the word unrepaired. No other slot of any
instruction store changes. SCRUB_READ_STEP completes (R173, R177): a quadrant's scrubber that is stopped, with agreeing
configuration copies, reads nothing; one whose two copies differ, in its state or in a repair, stops and repairs nothing;
one that works with no line to repair moves its sweep on by one row, and from row 3,071 to row 0, in both lockstep copies,
in EMPTY not at all. No instruction word changes in any of these cases. That a scrub step reads one row, or repairs one
line, is the model's choice (log 17). -/
def Obligations.GoldenRepairAndScrub : Prop :=
  (∀ (ok : Bool) (s : State) (r : Repair), s.pwr.stabled = false → nextRepair s = some r → repairOk s = true →
     (∀ q < 4, copiesDiffer s q = false) →
     let a := goldenAddr s r.quad r.tab r.key
     ∃ t, exec (.goldenRepair ok) s = .next t ∧
       (goldenOk s ok a = true → delivering s = false → r.tab = 0 →
         t.arr.imem.get 0 r.key = s.integ.gImem.get 0 r.key ∧ t.arr.imemSyn.get 0 r.key = 0 ∧
         (∀ k, k ≠ r.key → t.arr.imem.get 0 k = s.arr.imem.get 0 k) ∧
         t.integ.repairs = s.integ.repairs.filter (fun x => !(x.tab == r.tab && x.key == r.key))) ∧
       (goldenOk s ok a = false → t.arr = s.arr ∧
         t.integ.repairs = s.integ.repairs.filter (fun x => !(x.tab == r.tab && x.key == r.key))) ∧
       t.dmc.mem = s.dmc.mem ∧ Keeps [.arr, .integ, .tck, .exe, .regs, .hst, .dmc] s t) ∧
  (∀ (q : QuadId) (s : State), Quiet s → runIn s [.empty, .loaded, .waiting, .halted, .faulted, .draining] = true →
     (scbOf s q).c0 = (scbOf s q).c1 → (scbOf s q).c1 = (scbOf s q).c2 → (scbOf s q).a.lines = [] →
     (scbOf s q).a.reread = false →
     ∃ t, exec (.scrubReadStep q) s = .next t ∧ t.arr = s.arr ∧ t.tck = s.tck ∧
       ((scbOf s q).stopped = true → scbOf t q = scbOf s q ∧ t.integ = { s.integ with scbAt := t.integ.scbAt }) ∧
       ((scbOf s q).stopped = false → copiesDiffer s q = true → (scbOf t q).stopped = true ∧
         (∀ r ∈ t.integ.repairs, r.quad ≠ q.val) ∧ intBit t (pg .scb q) 1 = true) ∧
       ((scbOf s q).stopped = false → copiesDiffer s q = false → s.tck.run = .empty → scbOf t q = scbOf s q) ∧
       ((scbOf s q).stopped = false → copiesDiffer s q = false → s.tck.run ≠ .empty → (scbOf s q).c0.enable = true →
         (scbOf t q).a.row = (if (scbOf s q).a.row = 3071 then 0 else (scbOf s q).a.row + 1) ∧
         (scbOf t q).b = (scbOf t q).a))

/-- COMMIT_WINDOW completes in a single-chip system (R36, R40, R68, R100). An execution without a report commits: the
tick counter and the tick number advance by one, the bank just written becomes the previous-tick bank, the current
generation takes every written next-state bit (no force entry stands) and is retained as it was, the gateway outputs
take the held values, and nothing stays held. One with a detection and no GATEWAY_OVERRUN does not commit: the tick
counter, the tick number, the current generation and the gateway outputs stay; where that ends the run, a run-control
command that waits for its CTIME acts on it afterwards. The window W0 to W15 is one command, a row of
95_what_each_step_holds.md. -/
def Obligations.CommitWindowCommitsOrUndoes : Prop :=
  ∀ (oack : BitVec 8) (s : State), Quiet s → scheduleDone s = true → s.tck.multi = false →
    s.tck.specPend = false → outOverrun s oack = 0 → inOverrun s = 0 →
    (votedDets s = [] → s.exe.faults = [] → s.dbg.force = [] →
      ∃ t, exec (.commitWindow oack) s = .next t ∧ t.tck.run = s.tck.run ∧ t.tck.inTick = false ∧
        t.tck.count = s.tck.count + 1 ∧ t.tck.tick = s.tck.tick + 1 ∧ t.arr.ringPrev = s.arr.ringCur ∧
        t.arr.stCur = s.arr.stCur.putAll false (s.arr.stNext.map fun e => (e.1, e.2.val)) ∧ t.arr.stRet = s.arr.stCur ∧
        t.arr.stNext = [] ∧ t.pen.out = gwAfter s.pen.out s.pen.cur.gw ∧ t.pen.cur = {}) ∧
    (votedDets s ≠ [] →
      ∃ t u, exec (.commitWindow oack) s = .next t ∧ t = settleCmds u ∧ (s.tck.cmds = [] → t = u) ∧
        u.tck.count = s.tck.count ∧ u.tck.tick = s.tck.tick ∧ u.tck.inTick = false ∧ u.arr.stCur = s.arr.stCur ∧
        u.arr.stNext = [] ∧ u.pen.out = s.pen.out ∧ u.pen.cur = {} ∧ (u.tck.run = s.tck.run ∨ u.tck.run = .halted))

/-- TICK_BOUNDARY, TICK_START and GO complete (R34, R78, R97, R250): at a boundary where nothing stops the run, the next
tick begins at step 0; where the run stops and no decision is awaited it is HALTED with INT_STATUS.HALTED; a run starts
RUNNING at step 0 with the inputs that the regions staged and with previous-tick slots 0; GO at the root names the
start instant D periods ahead where it has no children, and with children waits for its next downward frame. -/
def Obligations.TicksBeginAndStopAtBoundaries : Prop :=
  (∀ s : State, s.pwr.stabled = false → s.tck.cmds = [] → atBoundary s = true →
    ∃ t, exec .tickBoundary s = .next t ∧
      (stopsHere s = false → t.tck.run = .running ∧ t.tck.inTick = true ∧ t.tck.step = 0 ∧ t.exe.ran = [] ∧
        t.tck.tick = s.tck.tick ∧ t.tck.count = s.tck.count ∧ t.arr.stCur = s.arr.stCur ∧
        Keeps [.exe, .pen, .lnk, .arr, .tck] s t) ∧
      (stopsHere s = true → s.tck.specPend = false → t.tck.run = .halted ∧ intBit t 0x3000 0 = true ∧
        t.tck.inTick = false ∧ t.tck.tick = s.tck.tick ∧ t.tck.count = s.tck.count ∧ RegsBut [0x3018] s t ∧
        Keeps [.tck, .regs, .hst] s t)) ∧
  (∀ s : State, Quiet s → s.tck.multi = false → s.tck.goAt = none → s.tck.redo = false →
    mayStart s = true →
    ∃ t, exec .tickStart s = .next t ∧ t.tck.run = .running ∧ t.tck.inTick = true ∧ t.tck.step = 0 ∧
      t.pen.inCur = s.pen.staging ∧ t.arr.ringPrev = [] ∧ t.arr.stCur = s.arr.stCur ∧ t.exe.ran = [] ∧
      Keeps [.clk, .ptp, .tck, .exe, .pen, .lnk, .arr] s t) ∧
  (∀ s : State, s.pwr.stabled = false → mayStart s = true → s.tck.multi = true → s.tck.root = true →
    s.tck.goAt = none → TreeCmd.go ∉ s.lnk.rootCmds →
    (kidList s.regs = [] → ∃ t, exec .go s = .next t ∧
      t.tck = { s.tck with goAt := some (ctimeIn s s.tck.down) } ∧ Keeps [.tck, .lnk] s t) ∧
    (kidList s.regs ≠ [] → ∃ t, exec .go s = .next t ∧
      t.lnk = { s.lnk with rootCmds := s.lnk.rootCmds ++ [.go] } ∧ Keeps [.lnk] s t))

/-- The run-control commands complete in a single-chip system in the states that the table Commands lists (R95, R96,
R99). Each is a write of TCK_CMD by a requester that may write it.
A run-control command in a run state that does not accept it is not performed and sets INT_STATUS.CMD_REJECT
(R96). -/
def Obligations.RunControlCommandsActOrAreRejected : Prop :=
  (∀ (r : Requester) (s : State), Writable r 0x3108 s → s.tck.multi = false →
     (s.tck.run = .loaded → barred s = false → ∃ t, exec (.start r) s = .next t ∧ t.tck.run = .waiting ∧
       t.tck.count = 0 ∧ t.tck.tick = 0 ∧ t.pen.lanes = 0) ∧
     (s.tck.run = .halted → barred s = false → tainted s = false → ∃ t, exec (.run r) s = .next t ∧
       t.tck = { s.tck with run := .running, runLeft := none, haltReq := false }) ∧
     (s.tck.run = .halted → barred s = false → tainted s = false → ∃ t, exec (.runN r) s = .next t ∧
       t.tck = { s.tck with run := .running, runLeft := some (rget s.regs 0x310C).toNat, haltReq := false }) ∧
     (s.tck.run = .waiting → ∃ t, exec (.halt r) s = .next t ∧ t.tck = { s.tck with run := .loaded, goAt := none } ∧
       Keeps [.tck, .flow] s t) ∧
     (s.tck.run = .running → ∃ t, exec (.halt r) s = .next t ∧ t.tck = { s.tck with haltReq := true } ∧
       Keeps [.tck, .flow] s t) ∧
     (∃ t, exec (.breakArm r) s = .next t ∧ t.tck = { s.tck with brk := true } ∧ Keeps [.tck, .flow] s t) ∧
     (∃ t, exec (.breakDisarm r) s = .next t ∧ t.tck = { s.tck with brk := false, breakAt := none } ∧ Keeps [.tck, .flow] s t) ∧
     (s.tck.run = .faulted → ∃ t, exec (.clearFault r) s = .next t ∧ t.tck.run = .halted ∧
       t.tck.count = BitVec.ofNat 64 s.tck.tick ∧ intBit t 0x3000 0 = true ∧ RegsBut [0x3018] s t ∧
       Keeps [.tck, .regs, .hst, .flow] s t)) ∧
  (∀ (r : Requester) (s : State), Writable r 0x3108 s → s.tck.multi = false →
     ∀ c, ((c = .start r ∧ s.tck.run ≠ .loaded) ∨ ((c = .run r ∨ c = .runN r) ∧ s.tck.run ≠ .halted) ∨
         (c = .halt r ∧ s.tck.run ≠ .waiting ∧ s.tck.run ≠ .running) ∨ (c = .clearFault r ∧ s.tck.run ≠ .faulted)) →
       ∃ t, exec c s = .next t ∧ intBit t 0x3000 3 = true ∧ RegsBut [0x3018] s t ∧ Keeps [.regs, .hst, .flow] s t)

/-! ### Serial links (09_serial_links.md) -/

/-- FRAME_TX completes (R230 to R235, R249, R250, R254). In FRAME mode, at the cut-off of the link's next frame, the frame
it sends carries the link's next SEQ on its four lanes, each lane passes the check of a receiver that last saw the SEQ
before, and a receiver reads from the line of every lane without injected errors exactly the lane frame sent, stuffing and
scrambling undone; SEQ advances by one modulo 256, and what the frame carries is gone from the queue of control-tree
events. Below the root tick control is as it was. A chip whose earliest hold request has no open cause any more sends its
release with the frame: HOLD = 0, CTIME the period of the last arrival.
At the root, a downward frame whose CTIME is free carries the oldest command that waits, with the CTIME D periods after
the frame's cut-off, as RUN_HALT for a HALT while the run is RUNNING and otherwise in a CMD frame; the command acts here at
that CTIME too (R88).
In PRBS mode with the generator on the lanes carry the pattern, and their generators go on. -/
def Obligations.FrameTxSendsACheckedFrame : Prop :=
  (∀ (j : LinkId) (s : State), Quiet s → domOn s.pwr (linkDom j) = true → linkMode s.regs j = 1 → cutReached s j = true →
    ((linkOf s.lnk j).grid = 0 ∨ 1000 ≤ (linkOf s.lnk j).grid) →
    let u := atCutoff s j
    (s.tck.root = false → (busyRun s = true ∨ s.tck.cmds = []) →
      (owedRelease u j = none →
        ∃ t f, exec (.frameTx j) s = .next t ∧ (linkOf t.lnk j).last = some f ∧
          (∀ l ∈ lanesOf f, laneOk ((linkOf s.lnk j).txSeq - 1) l = true) ∧
          (∀ k < 4, (rget s.regs (pg .lnk j + 0x130)).getLsbD k = false →
            some (readLane k ((linkOf t.lnk j).line.getD k [])) = (lanesOf f)[k]?) ∧
          (linkOf t.lnk j).txSeq = (linkOf s.lnk j).txSeq + 1 ∧
          (linkOf t.lnk j).evq = restEv (readyEvs u (linkOf s.lnk j)) ++
            (linkOf s.lnk j).evq.filter (fun e => !inFrame u (linkOf s.lnk j) e.1) ∧
          (linkOf t.lnk j).line.length = 4 ∧ (∀ k, k ≠ j.val → linkOf t.lnk k = linkOf s.lnk k) ∧
          RegsBut [lnkStat j] s t ∧ Keeps [.lnk, .regs, .clk, .ptp] s t) ∧
      (∀ r, owedRelease u j = some r →
        ∃ t f, exec (.frameTx j) s = .next t ∧ (linkOf t.lnk j).last = some f ∧ f.l0.hold = false ∧
          frameTime f = ctimeAt u r.1 ∧ (∀ a ∈ t.lnk.asked, a ∈ s.lnk.asked ∧ a.at' ≠ r.2) ∧
          Keeps [.lnk, .regs, .clk, .ptp] s t)) ∧
    (∀ c, s.tck.root = true → heldAt s = none → owedRelease u j = none → cmdAt u j = some c →
      ∃ t e f, exec (.frameTx j) s = .next t ∧ (linkOf e.lnk j).last = some f ∧
        f.l0.type = (if c = .halt ∧ s.tck.run = .running then 2 else 3) ∧
        frameTime f = ctimeAt u (cutGen u (linkOf s.lnk j) + s.tck.down) ∧
        e.lnk.rootCmds = s.lnk.rootCmds.drop 1 ∧ Keeps [.lnk, .regs, .clk, .ptp] s e ∧
        t = settleCmds (treeCommand (frameTime f) c e) ∧
        (c ≠ .go → busyRun s = true → t.tck = { s.tck with cmds := s.tck.cmds ++ [(frameTime f, c)] }))) ∧
  (∀ (j : LinkId) (s : State), s.pwr.stabled = false → domOn s.pwr (linkDom j) = true → linkMode s.regs j = 2 →
    (rget s.regs (pg .lnk j + 0x130)).getLsbD 28 = true →
    let pat := rfld s.regs (pg .lnk j + 0x130) 29 3
    ∃ t, exec (.frameTx j) s = .next t ∧
      (linkOf t.lnk j).prbsGen = (linkOf s.lnk j).prbsGen.map (fun x => (prbsBits pat 1056 x).2) ∧
      (∀ k x, (linkOf s.lnk j).prbsGen[k]? = some x → (rget s.regs (pg .lnk j + 0x130)).getLsbD k = false →
        (linkOf t.lnk j).line[k]? = some (prbsBits pat 1056 x).1) ∧
      (∀ k, k ≠ j.val → linkOf t.lnk k = linkOf s.lnk k) ∧ Keeps [.lnk, .clk] s t)

/-- Every frame row completes on a link in FRAME mode outside the control tree while no tick is executed (R228, R235,
R239): read from the lines under RXPOL, each lane takes the SEQ received, each failing lane counts once in LNK_ERR and
each passing one not at all, and neither tick control nor the array nor a held effect changes. -/
def Obligations.FramesReceivedAreChecked : Prop :=
  ∀ (j : LinkId) (w : LinkBits) (s : State), s.pwr.stabled = false → rxReady s j = true → imageRuns s = false →
    restarting s = false → (treeKids s.regs).getLsbD j = false → treeParent s.regs ≠ some j.val →
    let f := heard s j w
    ∀ c, (c = .runFrame j w ∧ f.l0.type = 1 ∨ c = .runHalt j w ∧ f.l0.type = 2 ∨ c = .cmdFrame j w ∧ f.l0.type = 3 ∨
        c = .mark j w ∧ f.l0.type = 4 ∨ c = .resend j w ∧ f.l0.type = 5 ∨ c = .peer j w ∧ f.l0.type = 6 ∨
        c = .idleFrame j w ∧ (f.l0.type = 0 ∨ 7 ≤ f.l0.type.toNat)) →
      ∃ t, exec c s = .next t ∧ (linkOf t.lnk j).rxSeq = f.l3.seq ++ f.l2.seq ++ f.l1.seq ++ f.l0.seq ∧
        (∀ i < 4, rfld t.regs (pg .lnk j + 0x128) (8 * i) 8 =
          if (lanesOk (linkOf s.lnk j) f).getD i true then rfld s.regs (pg .lnk j + 0x128) (8 * i) 8
          else Nat.min 255 (rfld s.regs (pg .lnk j + 0x128) (8 * i) 8 + 1)) ∧
        t.tck = s.tck ∧ t.exe = s.exe ∧ t.arr = s.arr ∧ t.pen = s.pen

/-- What particular frames bring on such a link when they pass (R244, R255): a PEER frame fills LNK_PEER and sets
INT_STATUS.PEER_RX; a MARK frame that is the first of its run gives the difference between the period counter and the
mark, and sets LNK_MEAS.VALID.
Frames from the parent carry the root's run-control commands (R250): a passing RUN_HALT makes HALT wait for its CTIME
while ticks are executed, and outside a run a passing CMD frame with BREAK_ARM arms the break at its CTIME, or on a chip
with children waits until they have been sent it. -/
def Obligations.ParentAndPeerFramesAreTaken : Prop :=
  (∀ (j : LinkId) (w : LinkBits) (s : State), s.pwr.stabled = false → rxReady s j = true → imageRuns s = false →
     (treeKids s.regs).getLsbD j = false → treeParent s.regs ≠ some j.val →
     let f := heard s j w
     framePass s j f = true →
     (f.l0.type = 6 → ∃ t, exec (.peer j w) s = .next t ∧
       rget t.regs (pg .lnk j + 0x120) = peerWord f.l0.payload ∧ intBit t (pg .lnk j) 8 = true) ∧
     (f.l0.type = 4 → (linkOf s.lnk j).markN = 0 → ∃ t, exec (.mark j w) s = .next t ∧
       (linkOf t.lnk j).delta = s.clk.period - f.l0.payload.extractLsb' 0 48 ∧ (linkOf t.lnk j).markN = 1 ∧
       rfld t.regs (pg .lnk j + 0x114) 30 1 = 1)) ∧
  (∀ (j : LinkId) (w : LinkBits) (s : State), Quiet s → rxReady s j = true →
     (treeKids s.regs).getLsbD j = false → treeParent s.regs = some j.val →
     let f := heard s j w
     framePass s j f = true → f.l0.vote = 0 →
     (f.l0.type = 2 → s.tck.run = .running → ∃ t, exec (.runHalt j w) s = .next t ∧
       t.tck.cmds = s.tck.cmds ++ [(frameTime f, .halt)] ∧ t.tck.run = .running) ∧
     (f.l0.type = 3 → busyRun s = false → s.tck.cmds = [] → cmdOf f.l0.payload = some .breakArm →
       ∃ t, exec (.cmdFrame j w) s = .next t ∧ t.tck = (if kidList s.regs = [] then { s.tck with brk := true }
         else { s.tck with cmds := [(frameTime f, .breakArm)] })))

/-- While ticks are executed a passing RUN frame on a link that carries a virtual link, outside the control tree, brings
its groups into the staging buffer at their positions (R119, R237), and during a restart hold the groups of a passing
RESEND frame, from its step FIRST on and around the depth, stand in the positions latched for the tick; a depth of at
most 47 steps is complete with it, and ACK is set (R164, R253). -/
def Obligations.GroupsAreStagedAndResent : Prop :=
  ∀ (j : LinkId) (w : LinkBits) (s : State), s.pwr.stabled = false → rxReady s j = true → s.tck.run = .running →
    linkActive s.regs j = true → (treeKids s.regs).getLsbD j = false → treeParent s.regs ≠ some j.val →
    let f := heard s j w
    framePass s j f = true →
    (f.l0.type = 1 → restarting s = false → ∃ t, exec (.runFrame j w) s = .next t ∧ t.exe.staged = stageGroups j f s ∧
      (linkOf t.lnk j).got = (gotLink s j (linkOf s.lnk j)).got ∧ t.tck = s.tck) ∧
    (f.l0.type = 5 → restarting s = true → ∃ t, exec (.resend j w) s = .next t ∧
      (s.tck.depth ≤ 47 → (linkOf t.lnk j).ackTx = true) ∧
      ∀ i < Nat.min 47 s.tck.depth, ∀ b < 80,
        t.exe.recv.get false ((j.val * 1024 + (fld (slotBits f 0) 0 11 + i) % s.tck.depth) * 80 + b) =
          (slotBits f (i + 1)).getLsbD b)

/-- LATE_GROUP, RECAL_DONE and PRBS_CHECK complete (R241, R246, R254): a late group counts in LNK_LATE, sets
INT_STATUS.LATE and, away from the parent, raises LINK_CRC for the tick in progress; a recalibration ends out of lock
with INT_STATUS.RECAL_DONE; a locked PRBS checker counts every bit that differs from its pattern's next and stays in lock,
and one out of lock locks on 64 bits or more that all follow the pattern. That a checker out of lock follows the line, by
which the pattern's next bit is known, is the model's choice (log 140). -/
def Obligations.LinkEventsAreRecorded : Prop :=
  (∀ (j : LinkId) (st : Step) (s : State), s.pwr.stabled = false → lateOk s j st = true →
    treeParent s.regs ≠ some j.val → (treeKids s.regs).getLsbD j = false →
    ∃ t, exec (.lateGroup j st) s = .next t ∧ intBit t (pg .lnk j) 6 = true ∧ (linkOf t.lnk j).lateTo = st.val + 1 ∧
      rfld t.regs (pg .lnk j + 0x12C) 0 32 = Nat.min (2 ^ 32 - 1) (rfld s.regs (pg .lnk j + 0x12C) 0 32 + 1) ∧
      (s.tck.inTick = true → ∃ d ∈ t.exe.dets, d.code = 0x24)) ∧
  (∀ (j : LinkId) (s : State), s.pwr.stabled = false → (rget s.regs (lnkStat j)).getLsbD 28 = true →
    ∃ t, exec (.recalDone j) s = .next t ∧ (rget t.regs (lnkStat j)).getLsbD 28 = false ∧
      (rget t.regs (lnkStat j)).getLsbD 31 = false ∧ intBit t (pg .lnk j) 3 = true ∧
      Keeps [.regs, .lnk, .hst, .yms, .clk] s t) ∧
  (∀ (j : LinkId) (lane : Fin 4) (bits : List Bool) (s : State), s.pwr.stabled = false →
    linkMode s.regs j = 2 → (rget s.regs (prbsCtl j)).getLsbD 27 = true → domOn s.pwr (linkDom j) = true →
    (linkOf s.lnk j).prbs.length = 4 →
    let line := polarity ((rget s.regs (pg .lnk j + 0x100)).getLsbD (4 + lane)) bits
    let due := (prbsBits (rfld s.regs (prbsCtl j) 29 3) bits.length ((linkOf s.lnk j).prbsRx.getD lane 0)).1
    let errors := ((line.zip due).filter fun e => e.1 != e.2).length
    ∃ t, exec (.prbsCheck j lane bits) s = .next t ∧
      (64 ≤ (linkOf s.lnk j).prbs.getD lane 0 → (rget t.regs (prbsCtl j)).getLsbD (4 + lane.val) = true ∧
        64 ≤ (linkOf t.lnk j).prbs.getD lane 0 ∧
        rfld t.regs (pg .lnk j + 0x134 + 4 * lane.val) 0 32 =
          Nat.min (2 ^ 32 - 1) (rfld s.regs (pg .lnk j + 0x134 + 4 * lane.val) 0 32 + errors)) ∧
      ((linkOf s.lnk j).prbs.getD lane 0 < 64 → errors = 0 → 64 ≤ bits.length →
        (rget t.regs (prbsCtl j)).getLsbD (4 + lane.val) = true ∧ 64 ≤ (linkOf t.lnk j).prbs.getD lane 0 ∧
        rfld t.regs (pg .lnk j + 0x134 + 4 * lane.val) 0 32 = rfld s.regs (pg .lnk j + 0x134 + 4 * lane.val) 0 32) ∧
      Keeps [.regs, .lnk, .hst, .yms, .clk] s t)

/-- The writes of the link registers complete (R239, R241, R243, R244, R254): LNK_SLIP moves the boundary of each lane
named by one UI modulo 1,056 and of no other; LNK_MEAS.GO sends eight MARK frames; a write of LNK_PAD computes M anew from a
valid measurement; LNK_PERIOD_ADJ adds to the period counter in EMPTY and LOADED; INJ_GO for a single error adds one
bit to be inverted; RECAL starts a recalibration where one may run. -/
def Obligations.LinkRegisterWritesAct : Prop :=
  ∀ (r : Requester) (j : LinkId) (v : W32) (s : State),
    (Writable r (pg .lnk j + 0x108) s → ∃ t, exec (.lnkSlip r j v) s = .next t ∧
      (linkOf t.lnk j).slips = (linkOf s.lnk j).slips.zipIdx.map (fun e => if v.getLsbD e.2 then (e.1 + 1) % 1056 else e.1) ∧
      (∀ k, k ≠ j.val → linkOf t.lnk k = linkOf s.lnk k) ∧ Keeps [.lnk, .flow] s t) ∧
    (Writable r (pg .lnk j + 0x114) s → ∃ t, exec (.lnkMeas r j) s = .next t ∧ (linkOf t.lnk j).marks = 8 ∧
      rfld t.regs (lnkStat j) 29 1 = 1 ∧ RegsBut [lnkStat j] s t ∧ Keeps [.lnk, .regs, .flow] s t) ∧
    (Writable r (pg .lnk j + 0x118) s → ∃ t, exec (.lnkPad r j v) s = .next t ∧
      (rfld s.regs (pg .lnk j + 0x114) 30 1 = 1 →
        rfld t.regs (pg .lnk j + 0x114) 0 12 = measuredM t.regs j (linkOf s.lnk j).delta) ∧
      (rfld s.regs (pg .lnk j + 0x114) 30 1 = 0 → rget t.regs (pg .lnk j + 0x114) = rget s.regs (pg .lnk j + 0x114)) ∧
      Keeps [.regs, .dbg, .pwr, .flow] s t) ∧
    (Writable r 0xB104 s → runIn s [.empty, .loaded] = true → ∃ t, exec (.lnkPeriodAdj r v) s = .next t ∧
      t.clk = { s.clk with period := s.clk.period + ((rget s.regs 0xB114).extractLsb' 0 16 ++ v) } ∧
      Keeps [.clk, .flow] s t) ∧
    (Writable r (prbsCtl j) s → v.getLsbD 24 = true → fld v 25 2 = 1 → ∃ t, exec (.injGo r j v) s = .next t ∧
      (linkOf t.lnk j).inject = Nat.min 1056 ((linkOf s.lnk j).inject + 1) ∧
      Keeps [.lnk, .regs, .dbg, .pwr, .flow] s t) ∧
    (Writable r (pg .lnk j + 0x100) s → v.getLsbD 2 = true → fld v 0 2 = linkMode s.regs j → fld v 0 2 ≠ 3 →
      recalOk s j = true → ∃ t, exec (.recal r j v) s = .next t ∧ rfld t.regs (lnkStat j) 28 1 = 1 ∧
      Keeps [.regs, .dbg, .pwr, .flow] s t)

/-- SYSTEM_BRING_UP completes (R87, R90, R133, R247, R255, R257, R351). Where the confirmation of steps 1 to 6 fails it
leaves DONE low and the report LINK_PEER with the virtual link. Where it holds and step 8 finds nothing, LNK_TREE, the
placement and the alignment of step 7 stand, the effective depth accommodates the control tree, TCK_CTREE takes the
largest sums up and down of its latencies, CHIP 0 is the root, and DONE is released. -/
def Obligations.BringUpReleasesDone : Prop :=
  ∀ (b : BringUp) (s : State) (i : Image), s.pwr.stabled = false → s.tck.run = .loaded → s.tck.multi = true →
    s.ldr.doneOut = false → s.ldr.image = some i →
    let y := sysOf i b s
    let u := bringLinks y s
    let tr := y.tree u.regs
    let w := (y.place 0).foldl (tuneLink y tr) (bringTree y tr u)
    let c := treeUp tr + treeDown tr
    (∀ v, y.peerFails u.regs = some v → ∃ t, exec (.systemBringUp b) s = .next t ∧ t.ldr.doneOut = false ∧
      rfld t.regs 0x2120 24 8 = 0x11 ∧ rget t.regs 0x2124 = BitVec.ofNat 32 v ∧ intBit t 0x2000 1 = true ∧
      t.tck.run = .loaded ∧ t.tck.depth = s.tck.depth) ∧
    (y.peerFails u.regs = none → bringFails w y tr = none →
      ∃ t, exec (.systemBringUp b) s = .next t ∧ t.ldr.doneOut = true ∧ t.tck.ctree = c ∧
        t.tck.down = treeDown tr ∧ t.tck.depth = padded s.tck.declared c ∧
        t.tck.root = (hChip i.header == 0) ∧ t.tck.run = .loaded ∧ t.regs = w.regs ∧ t.tck.count = s.tck.count)

/-! ### Rails, sheds and DRAM (07_sheds.md, 08_dram.md, 10_rails.md) -/

/-- The four shed requests complete for a requester that may use the bank, whose port B and bank are free (R183, R186 to
R191, R193, R194): SHD_READ answers the word as it stood before the bank cycle; SHD_WRITE writes the masked bytes;
SHD_ADD and SHD_SWAP read in this cycle, and two bank cycles on they have answered the old word and written the sum
modulo 2^64, or the new word, where port A neither occupies the bank nor writes the word in the cycle between; every
other byte of the sheds is as it was.
Shed requests that are turned away change no shed (R191, R193, R194, R196): a requester that may not use the bank is
answered OWNERSHIP with INT_STATUS.OWN_ERR, and a write that port A writes in its cycle is answered WRITE_LOST and
counted. -/
def Obligations.ShedRequestsActOrAreTurnedAway : Prop :=
  (∀ (p : Pkt) (s : State), Goes opShdRead p 0 s → FindsShed p s → MayUse p s →
     let key := adKey p.addr
     let a := 8 * key
     let k := key / 2 ^ 15
     let w := preCycle s s.clk.gen key
     let clear := s.exe.aUse.contains (key / 4096, s.clk.gen + 1) = false ∧
       ∀ x ∈ s.exe.aWrites, x.word = key → x.gen ≠ s.clk.gen + 1
     (w.2 = 0 → ∃ t, exec (.shdRead p) s = .next t ∧ Answered opShdResp p 0 w.1 s t ∧ t.shed.mem = s.shed.mem ∧
       Keeps [.rls, .flow, .shed] s t) ∧
     (aWritesNow s key = false → ∃ t, exec (.shdWrite p) s = .next t ∧ Answered opShdResp p 0 0 s t ∧
       (∀ i < 8, Memory.byte t.shed.mem (a + i) =
         if p.mask.getLsbD i then wordByte p.data i else Memory.byte s.shed.mem (a + i)) ∧
       MemBut a 8 s.shed.mem t.shed.mem ∧ Keeps [.rls, .flow, .shed] s t) ∧
     (w.2 = 0 → ∀ c v, (c = .shdAdd p ∧ v = w.1 + p.data ∨ c = .shdSwap p ∧ v = p.data) →
       ∃ t x, exec c s = .next t ∧ t.shed.mem = s.shed.mem ∧ (portB t k).wr = some x ∧ x.key = key ∧ x.word = v ∧
         x.old = w.1 ∧ x.lost = aWritesNow s key ∧ Keeps [.rls, .flow, .shed] s t ∧
         (clear → aWritesNow s key = false → Answered opShdResp p 0 w.1 s (pass 2 t) ∧
           Memory.word (pass 2 t).shed.mem a = v ∧ MemBut a 8 s.shed.mem (pass 2 t).shed.mem))) ∧
  (∀ (p : Pkt) (s : State), Goes opShdRead p 0 s → FindsShed p s →
     let key := adKey p.addr
     let w := preCycle s s.clk.gen key
     let lost := pg .shd (adBarn p.addr) + 0x140
     (¬ MayUse p s → ∀ c, c = .shdRead p ∨ c = .shdWrite p ∨ c = .shdAdd p ∨ c = .shdSwap p →
       ∃ t, exec c s = .next t ∧ Answered opShdResp p 2 0 s t ∧ intBit t (pg .shd (adBarn p.addr)) 0 = true ∧
         t.shed.mem = s.shed.mem ∧ Keeps [.rls, .flow, .shed, .regs, .hst] s t) ∧
     (MayUse p s → aWritesNow s key = true →
       (∃ t, exec (.shdWrite p) s = .next t ∧ Answered opShdResp p 1 0 s t ∧
         rfld t.regs lost 0 32 = Nat.min (2 ^ 32 - 1) (rfld s.regs lost 0 32 + 1) ∧
         t.shed.mem = s.shed.mem ∧ Keeps [.rls, .flow, .shed, .regs] s t) ∧
       (w.2 = 0 → s.exe.aUse.contains (key / 4096, s.clk.gen + 1) = false →
         ∀ c, c = .shdAdd p ∨ c = .shdSwap p →
         ∃ t, exec c s = .next t ∧ Answered opShdResp p 1 w.1 s (pass 2 t) ∧
           rfld (pass 2 t).regs lost 0 32 = Nat.min (2 ^ 32 - 1) (rfld s.regs lost 0 32 + 1) ∧
           (pass 2 t).shed.mem = s.shed.mem)))

/-- MEM_READ and MEM_WRITE complete at a controller that can start them (R212, R214, R216, R271, R420): a passing read answers
the burst's 64 bytes, lowest address first, with every write that arrived before it, and changes no byte of DRAM; a
write stores the words that MASK selects, of the debug bus master only the bytes that DBG_BM_CTRL.MASK selects (R420), and
leaves every byte outside its burst, and the queued model writes. A request that cannot be started waits with the number of
its arrival, and nothing is answered.
MODEL_WRITE_DRAIN completes where port 1 can be served (R169, R216, R218, R223, R224): the queue's oldest burst leaves
it; its last write stands in DRAM, and DRAM is as it was outside the words of the burst's writes; in a FAILED channel
the writes fail, DRAM is as it was and TAINT is set. -/
def Obligations.DramRequestsAndModelWrites : Prop :=
  (∀ (p : Pkt) (s : State) (k : Nat), Goes opMemWrite p k s → p.dunit = 0x04 → p.dst = 19 → domOn s.pwr (chanDomain s p) = true →
     s.pwr.closing = [] →
     let a := burstAddr p
     (∀ passes : Fin 4, k = 0 → portStatus s false (fromLoader p) a = 0 → respRoom s.rls opMemRead p = true →
       (passes.val < 3 → s.dmc.crcErr.get 0 (a / 64) = 0 →
         mustWait s (reqNow s (dramPort p) (.pkt opMemRead p)) = false →
         ∃ t q, exec (.memRead p passes) s = .next t ∧ t.rls.fly = s.rls.fly ++ [(opMemResp, q)] ∧ q.status = 0 ∧
           q.flits = burstFlits (Memory.bytes (dramBefore s.dmc.seq s.dmc) a 64) ∧ q.dst = p.src ∧ q.dunit = p.sunit ∧
           q.tag = p.tag ∧ t.dmc.mem = s.dmc.mem ∧ t.dmc.wq = s.dmc.wq ∧ Keeps [.rls, .flow, .regs, .dmc] s t) ∧
       (mustWait s (reqNow s (dramPort p) (.pkt opMemRead p)) = true →
         ∃ t x, exec (.memRead p passes) s = .next t ∧ t.dmc = { s.dmc with
             waiting := s.dmc.waiting ++ [x], seq := s.dmc.seq + 1 } ∧
           x.seq = s.dmc.seq ∧ x.came = s.clk.ps ∧ t.rls.fly = s.rls.fly ∧ Keeps [.rls, .flow, .dmc] s t)) ∧
     (k = 2 → portStatus s true (fromLoader p) a = 0 →
       mustWait s (reqNow s (dramPort p) (bodyOf opMemWrite p s)) = false →
       let bytes : Byte := if p.sunit = 0xF1 then (if p.tag = 0 then s.dbg.tap.bmMask else s.dbg.bar.bmMask) else 0xFF
       ∃ t, exec (.memWrite p) s = .next t ∧ Answered opMemResp p 0 0 s t ∧
         (∀ i < 8, ∀ b < 8, Memory.byte t.dmc.mem (a + 8 * i + b) =
           if p.mask.getLsbD i && bytes.getLsbD b then wordByte (flitWord p.flits i) b
           else Memory.byte s.dmc.mem (a + 8 * i + b)) ∧
         MemBut a 64 s.dmc.mem t.dmc.mem ∧ t.dmc.wq = s.dmc.wq ∧ Keeps [.rls, .flow, .dmc, .grm] s t)) ∧
  (∀ s : State, s.pwr.stabled = false → drainOk s = true → s.dmc.waiting = [] →
     let a := headAddr s.dmc.wq
     (chanState s.regs (channelOf s.regs a) ≠ 3 → s.dmc.crcErr.get 0 (a / 64) = 0 →
       ∃ t, exec (.modelWriteDrain true) s = .next t ∧ t.dmc.wq = restWrites s.dmc ∧
         (∀ w, (mergedWrites s.dmc).getLast? = some w → Memory.word t.dmc.mem w.addr = w.word) ∧
         (∀ x, (∀ w ∈ mergedWrites s.dmc, x < w.addr ∨ w.addr + 8 ≤ x) →
           Memory.byte t.dmc.mem x = Memory.byte s.dmc.mem x) ∧
         (t.tck = s.tck ∨ t.tck = { s.tck with drainReq := false, lastArr := s.clk.gen }) ∧
         RegsBut [pg .dmcCh (channelOf s.regs a) + 0x108] s t ∧ Keeps [.dmc, .tck, .regs] s t) ∧
     (chanState s.regs (channelOf s.regs a) = 3 →
       ∃ t, exec (.modelWriteDrain true) s = .next t ∧ t.dmc = { s.dmc with wq := restWrites s.dmc } ∧
         rfld t.regs 0x3168 0 1 = 1 ∧ t.tck.run = s.tck.run))

/-- SHD_RESP and MEM_RESP complete (R271, R274, R275, R285, R286, R420): a response that its unit has made leaves it, and
in a network that holds nothing, with the regulator's leave, reaches the unit that requested it: for the debug bus
master it ends the access of the path that its tag names with its status and the data it carries; a failing shed
response to a groom sets INT_STATUS.BUS_ERR of its page, and a DRAM line read fills the groom's L1D; a response for a
unit that the stop does not serve is discarded with BAD_DEST. That responses on their way wait for a command of their
own is the model's choice (log 2). -/
def Obligations.ResponsesReachTheirRequester : Prop :=
  ∀ (p : Pkt) (s : State) (op : Byte) (c : Instr), s.pwr.stabled = false → (op, p) ∈ s.rls.fly →
    (op = opShdResp ∧ c = .shdResp p ∨ op = opMemResp ∧ c = .memResp p) → netClear s.rls = true → s.pwr.closing = [] →
    p.src.toNat < 48 → p.dst.toNat < 48 → p.flits.length ≤ 8 →
    allowed s.regs s.rls (railCycle s.clk.ps) p.src.toNat p.cls.toNat (flitsOf p) = true →
    (unitDomain p.dst.toNat p.dunit.toNat = none → ∃ t, exec c s = .next t ∧ t.rls.fly = s.rls.fly.erase (op, p) ∧
      intBit t (pg .rls p.dst.toNat) 2 = true ∧ RegsBut [pg .rls p.dst.toNat + 0x018] s t ∧
      Keeps [.rls, .flow, .regs, .hst] s t) ∧
    (∀ d, unitDomain p.dst.toNat p.dunit.toNat = some d → domOn s.pwr d = true →
      ∃ t, exec c s = .next t ∧ t.rls.fly = s.rls.fly.erase (op, p) ∧ t.shed = s.shed ∧ t.dmc = s.dmc ∧ t.yms = s.yms ∧
        (p.dunit = 0xF1 →
          let q := if p.tag = 0 then DbgPath.tap else DbgPath.bar
          (sess t q).bmBusy = false ∧ (sess t q).bmStatus = p.status ∧ (op = opShdResp → p.status = 0 →
            rget t.regs (rkey 0x91B4 (pathIdx q)) = p.data.extractLsb' 0 32 ∧
            rget t.regs (rkey 0x91B8 (pathIdx q)) = p.data.extractLsb' 32 32)) ∧
        (∀ g < 16, p.dunit = BitVec.ofNat 8 (0x10 + g) →
          (op = opShdResp → p.status ≠ 0 → intBit t (pg .grm g) 1 = true) ∧
          (op = opMemResp → p.status = 0 → ∀ f0 f1, p.flits = [f0, f1] →
            (groomOf t g).l1d.find? (burstAddr p) = some (f1 ++ f0))))

/-- WORK_SUBMIT, WORK_DONE and DEPOSIT complete at the yardmaster (R288 to R292, R295, R303): a descriptor without
dependences enters the ready queue of its priority, one with dependences a free entry of the dependence table with its
count; a completion takes the groom's oldest item and decrements its successor once; an accepted deposit enters the
deposit queue. -/
def Obligations.WorkPacketsReachTheYardmaster : Prop :=
  ∀ (p : Pkt) (s : State) (k : Nat), Goes opSubmit p k s → p.dst = 20 → p.dunit = 0x05 → domOn s.pwr 30 = true →
    s.pwr.closing = [] → (∀ op, (op, p) ∉ s.rls.fly) →
    (∀ d, p.flits = [d] → (Work.of d).bad = false → (Work.of d).timed = false →
      let w := Work.of d
      (w.deps = 0 → w.flowv = false → pendOf s.yms w.prio.toNat = [] → (readyOf s.yms w.prio.toNat).length < 1024 →
        ∃ t, exec (.workSubmit p) s = .next t ∧
          readyOf t.yms w.prio.toNat = readyOf s.yms w.prio.toNat ++ [w.item w.arg none] ∧
          (∀ l, l ≠ w.prio.toNat → readyOf t.yms l = readyOf s.yms l) ∧ t.yms.dep = s.yms.dep ∧
          (w.ack = true → Answered opMsg p 0 (0xFFFFF001) s t) ∧ Keeps [.rls, .flow, .yms] s t) ∧
      (w.deps ≠ 0 → s.yms.dep.length < 4096 →
        ∃ t e i, exec (.workSubmit p) s = .next t ∧ e < 4096 ∧ s.yms.dep.find? e = none ∧
          t.yms.dep.find? e = some ⟨i, w.deps⟩ ∧ i.entry = w.entry ∧ i.arg = w.arg ∧
          (∀ e', e' ≠ e → t.yms.dep.find? e' = s.yms.dep.find? e') ∧ t.yms.ready = s.yms.ready ∧
          Keeps [.rls, .flow, .yms, .clk] s t)) ∧
    (∀ i rest d, k = 0 → s.yms.running.get [] (fld p.addr 0 4) = i :: rest → i.flowv = false → i.succv = true →
      packetDecs p.data = [] → p.addr.getLsbD 4 = false → s.yms.pend = [] →
      s.yms.dep.find? (i.succ.toNat % 4096) = some d → fld i.succ 12 8 = (s.yms.reuse.get 0 (i.succ.toNat % 4096)).toNat →
      2 ≤ d.cnt →
      ∃ t, exec (.workDone p) s = .next t ∧ t.yms.running.get [] (fld p.addr 0 4) = rest ∧
        t.yms.dep.find? (i.succ.toNat % 4096) = some { d with cnt := d.cnt - 1 } ∧ t.regs = s.regs) ∧
    (∀ d, p.flits = [d] → fld p.data 0 8 = 2 → depositCode s d = 0 →
      ∃ t, exec (.deposit p) s = .next t ∧
        t.yms.deposits = s.yms.deposits ++ [⟨fld d 152 8, fld d 160 32, d.extractLsb' 192 64⟩] ∧
        Keeps [.rls, .flow, .yms] s t)

/-- A packet that cannot start at once enters its injection queue with its credits, behind those already there, 2 rail
cycles before it can leave on a ring, and reserves room for its response (R263, R266, R276, R278); where the endpoint
lacks the credits for the whole packet, or the room for the response, the unit does not send, and nothing changes. A packet
for a stop above 47 needs no queue (R275).
TRACE, MSG and CREDIT_AUDIT complete (R267, R271, R329, R437): a trace flit is written to DRAM at 32 times WPTR,
which advances, and waits in its ejection queue while DRAM does not take it (a reading of R436 and R437, log 145); a
message to the paddock joins the bridge's response queue, or waits while that is full; a queue whose credits do not add up
is counted once and reported, and its credit count follows its occupancy once nothing is on its wire. BRIDGE_PACKET
completes (R329): with room in its queues the bridge injects a shed read of the paddock, with itself as the source,
which the shed answers to it; a packet of an opcode that it does not accept is refused with INT_STATUS.BRIDGE_REFUSED,
and nothing is injected. The event-log record of an audit is a free value (log 23). -/
def Obligations.MessagesTraceAuditsAndBridge : Prop :=
  (∀ (p : Pkt) (s : State), s.pwr.stabled = false → pktOk p 0 = true → p.dst.toNat < 48 → stalledFrom s p = false →
    waitsInOrder s p = none →
    let now := railCycle s.clk.ps
    (netClear s.rls = false ∨ allowed s.regs s.rls now p.src.toNat p.cls.toNat 1 = false) →
    (hasRoom s.rls (injQueue p) 1 = true → respRoom s.rls opShdRead p = true → ∃ t, exec (.shdRead p) s = .next t ∧
      t.rls.net = s.rls.net ++ [⟨s.rls.seq, opShdRead, p, injQueue p, now + 2, now + 2, false, 0, false⟩] ∧
      t.rls.held.get 0 (injQueue p) = s.rls.held.get 0 (injQueue p) + 1 ∧ t.rls.fly = s.rls.fly ∧
      t.rls.resv.get 0 (askQueue p) = s.rls.resv.get 0 (askQueue p) + 1 ∧
      Keeps [.rls, .flow] s t) ∧
    (hasRoom s.rls (injQueue p) 1 = false ∨ respRoom s.rls opShdRead p = false → exec (.shdRead p) s = .next s)) ∧
  (∀ (p : Pkt) (s : State) (f : BitVec 256), Goes opTrace p 1 s → p.flits = [f] → p.dst = 4 → p.dunit = 0xF1 →
    domOn s.pwr 28 = true → s.pwr.closing = [] → (opTrace, p) ∉ s.rls.fly →
    (trcHeld s opTrace p = true →
      ∃ t, exec (.trace p) s = .next t ∧ t.rls.net.length = 1 ∧ Keeps [.rls, .flow] s t) ∧
    (trcHeld s opTrace p = false →
    let w := (rget s.regs 0x812C).toNat
    let a := trcBase s.regs + 32 * w
    portStatus s true false a = 0 → domOn s.pwr (22 + channelOf s.regs a / 2) = true →
    mustWait s (reqNow s 8 (.put a (wordBytes f 32))) = false →
    ∃ t, exec (.trace p) s = .next t ∧ Memory.bytes t.dmc.mem a 32 = wordBytes f 32 ∧
      MemBut a 32 s.dmc.mem t.dmc.mem ∧
      rget t.regs 0x812C = BitVec.ofNat 32 (if trcFlits s.regs ≤ w + 1 then 0 else w + 1) ∧
      RegsBut [0x812C, 0x8100, 0x8104, 0x8018] s t ∧ Keeps [.rls, .flow, .regs, .dmc, .hst] s t)) ∧
  (∀ (p : Pkt) (s : State) (k : Nat), k ≤ 8 → Goes opMsg p k s → p.dst = 43 → p.dunit = 0x03 → domOn s.pwr 26 = true →
    s.pwr.closing = [] → (opMsg, p) ∉ s.rls.fly →
    (s.pdk.brResp.length + s.pdk.brOut < 32 →
      ∃ t q, exec (.msg p) s = .next t ∧ t.pdk = { s.pdk with brResp := s.pdk.brResp ++ [(opMsg, q)] } ∧
        q = { p with tick16 := q.tick16, cdir := q.cdir, vc := q.vc } ∧ q.tick16 = tick16 s ∧
        Keeps [.rls, .flow, .pdk] s t) ∧
    (32 ≤ s.pdk.brResp.length + s.pdk.brOut →
      ∃ t, exec (.msg p) s = .next t ∧ t.rls.net.length = 1 ∧ Keeps [.rls, .flow] s t)) ∧
  (∀ (h : RailQueue) (s : State), s.pwr.stabled = false → creditBad s.rls (queueKey h) = true →
    s.rls.fix.contains (queueKey h) = false →
    let page := pg .rls (queueStop h)
    ∃ t, exec (.creditAudit h) s = .next t ∧
      rfld t.regs (page + 0x120) 0 32 = Nat.min (2 ^ 32 - 1) (rfld s.regs (page + 0x120) 0 32 + 1) ∧
      rfld t.regs (page + 0x024) 0 16 = Nat.min 0xFFFF (rfld s.regs (page + 0x024) 0 16 + 1) ∧
      intBit t page 0 = true ∧
      (wireIdle (railCycle s.clk.ps) s.rls (queueKey h) = true →
        t.rls.held.get 0 (queueKey h) = queueFlits s.rls (queueKey h)) ∧
      t.rls.net = s.rls.net ∧ Keeps [.rls, .regs, .integ, .hst] s t) ∧
  (∀ (op : Byte) (p : Pkt) (s : State), s.pwr.stabled = false → bridgeOn s = true → s.pdk.brReq = [] →
     s.pdk.brResp.length + s.pdk.brOut < 32 → p.flits.length ≤ 8 →
     (op = opShdRead → Goes opShdRead (fromBridge p) 0 s → FindsShed p s → MayUse (fromBridge p) s →
       (preCycle s s.clk.gen (adKey p.addr)).2 = 0 →
       ∃ t, exec (.bridgePacket op p) s = .next t ∧
         Answered opShdResp (fromBridge p) 0 (preCycle s s.clk.gen (adKey p.addr)).1 s t ∧
         t.pdk.brOut = s.pdk.brOut + 1 ∧
         t.pdk.brReq = [] ∧ t.shed.mem = s.shed.mem ∧ Keeps [.rls, .flow, .shed, .pdk, .clk] s t) ∧
     (bridgeKind op p = .none → ∃ t, exec (.bridgePacket op p) s = .next t ∧ intBit t 0x6000 3 = true ∧
       t.rls = s.rls ∧ t.pdk.brReq = [] ∧ RegsBut [0x6018] s t ∧ Keeps [.regs, .pdk, .clk, .hst] s t))

/-- The registers of port B complete where no port B has anything to do (R195, R198, R199, R203): SHD_OWNER hands a bank
over, or is refused with its reason and INT_STATUS.OWN_REFUSED; a GO in SHD_FILL_CTRL starts a fill with its fields, for
a requester that may use the bank and while none is in progress.
FILL_WORD, PATROL_READ and SHD_PATROL_ERR complete (R187, R188, R203, R204): the background head whose bank is free is
started, and the losses return to 0; the pattern is written to the fill's next word, and the last word ends the fill
with INT_STATUS.FILL_DONE; the patrol goes on to the next of the barn's 2^17 words, and its next read is due SPACING
bank cycles on; a failing word sets INT_STATUS.PATROL_ERR while none is recorded; a read of SHD_PATROL_ERR returns and
clears it. -/
def Obligations.ShedOwnersFillsAndPatrol : Prop :=
  (∀ (r : Requester) (b : BarnId) (v : W32) (s : State),
     (Writable r (pg .shd b + 0x100) s → PortOpen (b * 4 + fld v 3 2) s →
       let new := fld v 8 8
       let why := ownReason s (unitOf r) b (fld v 3 2) (fld v 0 3) new
       let res := pg .shd b + 0x104
       ∃ t, exec (.shdOwner r b v) s = .next t ∧ t.shed.mem = s.shed.mem ∧ t.shed.fills = s.shed.fills ∧
         (why = 0 → ownerOf t.regs b (fld v 3 2) (fld v 0 3) = new ∧ rfld t.regs res 30 2 = 1 ∧
           RegsBut [res, ownKey b (fld v 3 2) (fld v 0 3)] s t ∧ Keeps [.regs, .flow, .shed] s t) ∧
         (why ≠ 0 → rfld t.regs res 30 2 = 2 ∧ rfld t.regs res 28 2 = why ∧ intBit t (pg .shd b) 1 = true ∧
           RegsBut [res, pg .shd b + 0x018] s t ∧ Keeps [.regs, .hst, .flow, .shed] s t)) ∧
     (Writable r (pg .shd b + 0x12C) s → PortOpen (b * 4 + fld v 27 2) s → s.shed.fills.find? b = none →
       v.getLsbD 31 = true → mayUse s (unitOf r) b (fld v 27 2) (fld v 24 3) = true → fld v 12 12 ≤ fld v 0 12 →
       ∃ t, exec (.fillStart r b v) s = .next t ∧
         t.shed.fills.find? b = some ⟨fld v 27 2, fld v 24 3, fld v 12 12, fld v 0 12,
           rget s.regs (pg .shd b + 0x134) ++ rget s.regs (pg .shd b + 0x130), s.clk.gen + 1⟩ ∧
         t.shed.mem = s.shed.mem ∧ Keeps [.regs, .shed, .dbg, .pwr, .flow] s t)) ∧
  (∀ (b : BarnId) (s : State) (f : Fill), s.pwr.stabled = false → s.shed.fills.find? b = some f →
    bgIs s (fillShed s b) false = true → PortIdle (fillShed s b) s → bankFree s (fillKey b f) = true →
    domOn s.pwr (b / 6) = true → f.bank < 7 →
    ∃ t, exec (.fillWord b) s = .next t ∧ Memory.word t.shed.mem (8 * fillKey b f) = f.pat ∧
      MemBut (8 * fillKey b f) 8 s.shed.mem t.shed.mem ∧ t.shed.loss.get 0 (fillShed s b) = 0 ∧
      (f.next ≠ f.last → t.shed.fills.find? b = some { f with next := f.next + 1, came := s.clk.gen + 1 } ∧
        t.regs = s.regs) ∧
      (f.next = f.last → t.shed.fills.find? b = none ∧ intBit t (pg .shd b) 3 = true) ∧
      Keeps [.shed, .regs, .hst] s t) ∧
  (∀ (b : BarnId) (s : State), s.pwr.stabled = false → bgIs s (patrolShed s b) true = true →
    PortIdle (patrolShed s b) s → bankFree s (patrolKey s b) = true →
    domOn s.pwr (b / 6) = true → s.sec.otp.barns.getLsbD b = true →
    let syn := (preCycle s s.clk.gen (patrolKey s b)).2
    ∃ t, exec (.patrolRead b) s = .next t ∧ t.shed.patrol.get 0 b = (s.shed.patrol.get 0 b + 1) % 2 ^ 17 ∧
      t.shed.patNext.get 0 b = s.clk.gen + rfld s.regs (pg .shd b + 0x138) 0 16 ∧
      t.shed.mem = s.shed.mem ∧ (syn = 0 → t.regs = s.regs) ∧
      (syn ≠ 0 → (rget s.regs (pg .shd b + 0x13C)).getLsbD 31 = false →
        intBit t (pg .shd b) 4 = true ∧ rfld t.regs (pg .shd b + 0x13C) 0 17 = patrolKey s b % 2 ^ 17) ∧
      RegsBut [pg .shd b + 0x13C, pg .shd b + 0x018] s t ∧ Keeps [.shed, .regs, .hst] s t) ∧
  (∀ (r : Requester) (b : BarnId) (s : State), Readable r (pg .shd b + 0x13C) s →
    ∃ t, exec (.shdPatrolErr r b) s = .next t ∧ t.hst.out = rget s.regs (pg .shd b + 0x13C) ∧
      rget t.regs (pg .shd b + 0x13C) = 0 ∧ RegsBut [pg .shd b + 0x13C] s t ∧ Keeps [.regs, .hst, .flow] s t)

/-- Every mask of DMC_MASK holds its own home bit and no home bit of another hashed bit (R210). -/
def LegalMasks (m : SMap W32) : Prop :=
  ∀ k < 7, ∀ j < 7, (rget m (rkey 0xA110 k)).getLsbD ([6, 7, 9, 10, 11, 12, 13].getD j 0) = decide (j = k)

/-- REFRESH, TEMP_POLL, FREQ_CHANGE and FREQ_CHANGE_DONE complete (R215, R225): a ready rank's refresh is counted and
its interval restarts; 16 ms after the last poll each ready rank's mode register 4 is kept with its HOT bit; a change
accepted is BUSY, puts every rank into self-refresh and names its timing set, which ACTIVE takes at its end, when the
ranks of no domain in RETAIN or OFF leave self-refresh, with INT_STATUS.FREQ_DONE. No byte of DRAM changes. TRAIN,
TRAINING_DONE, DMC_MASK and ALERT complete (R208, R210, R217, R218, R226): training is started and masks are written
only while the controller is disabled; after a change between legal masks every byte stands at the address that now
names its location; training ends READY with a DIMM of one or two ranks that trains, and otherwise
FAILED; an alert is counted, its window's newest write leaves its data once more, and the third failing reissue in a row
fails the channel and every write queued for it.
Which codes of mode register 4 mean HOT is presumed (log 24). -/
def Obligations.DramUpkeepAndTraining : Prop :=
  (∀ (c : ChanId) (rank : Fin 2) (s : State), Quiet s → rankReady s c rank = true →
    reaches s (refreshDue s c rank) = true →
    ∃ t, exec (.refresh c rank) s = .next t ∧ t.dmc.refr.get 0 (rankKey c rank) = s.dmc.refr.get 0 (rankKey c rank) + 1 ∧
      t.dmc.refrAt.get 0 (rankKey c rank) = t.clk.ps ∧ refreshDue s c rank ≤ t.clk.ps ∧ t.dmc.mem = s.dmc.mem ∧
      Keeps [.clk, .ptp, .dmc] s t) ∧
  (∀ (l : List Byte) (s : State), Quiet s → l.length = 8 → reaches s (pollDue s) = true →
    (rget s.regs 0xA108).getLsbD 30 = false →
    ∃ t, exec (.tempPoll l) s = .next t ∧
      t.dmc = { s.dmc with dqsAdj := s.dmc.dqsAdj + 1, pollAt := t.clk.ps } ∧ pollDue s ≤ t.clk.ps ∧
      (∀ (c : ChanId) (rank : Fin 2), rankReady s c rank = true →
        rfld t.regs (pg .dmcCh c + 0x10C) (8 * rank) 8 = (l.getD (2 * c + rank) 0).toNat ∧
        rfld t.regs (chStat c) (10 + rank) 1 = (mr4Hot (l.getD (2 * c + rank) 0)).toNat) ∧
      Keeps [.regs, .dmc, .hst, .clk, .ptp] s t) ∧
  (∀ (r : Requester) (v : W32) (s : State), Writable r 0xA108 s → v.getLsbD 31 = true → freqOk s = true →
    ∃ t, exec (.freqChange r v) s = .next t ∧ rfld t.regs 0xA108 30 1 = 1 ∧ t.dmc = { s.dmc with newSet := v.getLsbD 0 } ∧
      (∀ c : ChanId, rfld t.regs (chStat c) 9 1 = 1) ∧
      Keeps [.regs, .dmc, .dbg, .pwr, .flow] s t) ∧
  (∀ s : State, s.pwr.stabled = false → rfld s.regs 0xA108 30 1 = 1 → s.dmc.waiting = [] →
    ∃ t, exec .freqChangeDone s = .next t ∧ rfld t.regs 0xA108 30 1 = 0 ∧ rfld t.regs 0xA108 1 1 = s.dmc.newSet.toNat ∧
      (∀ c : ChanId, rfld t.regs (chStat c) 9 1 =
        if domState s.pwr (22 + c / 2) < 2 then 0 else rfld s.regs (chStat c) 9 1) ∧
      intBit t 0xA000 0 = true ∧ t.dmc.mem = s.dmc.mem ∧
      RegsBut [0xA108, 0xA018, chStat 0, chStat 1, chStat 2, chStat 3] s t ∧ Keeps [.regs, .dmc, .hst] s t) ∧
  (∀ (r : Requester) (c : ChanId) (s : State),
     (Writable r (pg .dmcCh c + 0x100) s → (rget s.regs 0xA100).getLsbD 0 = false →
       ∃ t, exec (.train r c) s = .next t ∧ chanState t.regs c = 2 ∧ RegsBut [chStat c] s t ∧ Keeps [.regs, .flow] s t) ∧
     (s.pwr.stabled = false → chanState s.regs c = 2 → s.dmc.waiting = [] →
       ∀ (ok present density speed : Bool) (ranks : BitVec 2),
         ∃ t, exec (.trainingDone c ok present density ranks speed) s = .next t ∧
           (ok = true → present = true → (ranks = 1 ∨ ranks = 2) → chanState t.regs c = 1 ∧ t.dmc.trained.getLsbD c = true) ∧
           ((ok = false ∨ present = false ∨ ranks = 0 ∨ ranks = 3) →
             chanState t.regs c = 3 ∧ t.dmc.trained.getLsbD c = false) ∧
           dimmOf t.dmc c = some (present, density, ranks.toNat, speed) ∧ t.dmc.mem = s.dmc.mem ∧
           RegsBut [chStat c] s t ∧ Keeps [.regs, .dmc] s t) ∧
     (∀ (hi : Bool) (v : W32), Writable r (maskOff hi) s →
       ((rget s.regs 0xA100).getLsbD 0 = false → ∃ t, exec (.dmcMask r hi v) s = .next t ∧
         rget t.regs (rkey (maskOff hi) (rget s.regs 0xA10C).toNat) = BitVec.ofNat 32
           (if hi then v.toNat % 128 else maskClamp (rget s.regs 0xA10C).toNat v.toNat) ∧
         t.dmc = moveDram s.regs t.regs s.dmc ∧
         (LegalMasks s.regs → LegalMasks t.regs → Memory.wf s.dmc.mem →
           ∀ a, Memory.byte t.dmc.mem (moved s.regs t.regs a) = Memory.byte s.dmc.mem a) ∧
         Keeps [.regs, .dbg, .pwr, .dmc, .flow] s t) ∧
       ((rget s.regs 0xA100).getLsbD 0 = true → ∃ t, exec (.dmcMask r hi v) s = .next t ∧ intBit t 0xA000 6 = true ∧
         RegsBut [0xA018] s t ∧ Keeps [.regs, .hst, .flow] s t)) ∧
     (s.pwr.stabled = false → chanState s.regs c = 1 →
       (∃ t, exec (.alert c false) s = .next t ∧ t.dmc.alerts.get 0 c = 0 ∧
         rfld t.regs (pg .dmcCh c + 0x108) 0 12 = Nat.min 4095 (rfld s.regs (pg .dmcCh c + 0x108) 0 12 + 1) ∧
         (s.dmc.retry.get [] c = [] → t.dmc.mem = s.dmc.mem) ∧
         (∀ a x l rest, s.dmc.retry.get [] c = ⟨a, some [(x, l)]⟩ :: rest → Memory.bytes t.dmc.mem x l.length = l) ∧
         RegsBut [pg .dmcCh c + 0x108] s t ∧ Keeps [.regs, .dmc] s t) ∧
       (s.dmc.alerts.get 0 c = 2 → s.dmc.waiting = [] → ∃ t, exec (.alert c true) s = .next t ∧ chanState t.regs c = 3 ∧
         intBit t 0xA000 2 = true ∧ (∀ w ∈ t.dmc.wq, channelOf s.regs w.addr ≠ c) ∧ t.dmc.mem = s.dmc.mem)))

/-! ### Yardmaster and grooms (11_yardmaster_grooms.md) -/

/-- YMS_DOORBELL, CALL_INTAKE, DISPATCH and TIMETABLE_EXPIRY complete (R288 to R294, R297, R300): a binding without
dependences enters the ready queue of its priority, the event of the intake's head as its item; a binding that is not
valid is refused, and leaves an event unbound; a dispatch gives the eligible item of highest priority to its groom; the
first entry that is due becomes ready. -/
def Obligations.WorkIsSubmittedAndDispatched : Prop :=
  (∀ (r : Requester) (v : W32) (s : State), Writable r 0x5134 s →
    let w := bindingOf s.regs (fld v 0 12)
    let arg := rget s.regs 0x5130 ++ rget s.regs 0x512C
    (w.valid = false → ∃ t, exec (.ymsDoorbell r v) s = .next t ∧ t.yms = { s.yms with dbResult := 0xFFFFFC00 } ∧
      intBit t 0x5000 0 = true ∧ Keeps [.yms, .regs, .hst, .flow] s t) ∧
    (w.valid = true → w.bad = false → w.timed = false → w.deps = 0 → w.flowv = false →
      (readyOf s.yms w.prio.toNat).length < 1024 → pendOf s.yms w.prio.toNat = [] →
      ∃ t, exec (.ymsDoorbell r v) s = .next t ∧
        t.yms.dbResult = 0xFFFFF000 ∧ readyOf t.yms w.prio.toNat = readyOf s.yms w.prio.toNat ++ [w.item arg none] ∧
        (∀ l, l ≠ w.prio.toNat → readyOf t.yms l = readyOf s.yms l) ∧ Keeps [.yms, .flow] s t)) ∧
  (∀ (s : State) (e : Event × Nat) (rest : List (Event × Nat)), s.pwr.stabled = false → s.yms.intake = e :: rest →
    s.yms.pend = [] →
    let w := bindingOf s.regs e.1.num.toNat
    (w.valid = false → ∃ t, exec .callIntake s = .next t ∧ t.yms = { s.yms with intake := rest } ∧
      intBit t 0x5000 1 = true) ∧
    (w.valid = true → w.bad = false → w.timed = false → w.deps = 0 → w.flowv = false →
      (readyOf s.yms w.prio.toNat).length < 1024 → ∃ t, exec .callIntake s = .next t ∧ t.yms.intake = rest ∧
        readyOf t.yms w.prio.toNat = readyOf s.yms w.prio.toNat ++ [w.item (callArg e) (some e.1.tick)] ∧
        t.regs = s.regs)) ∧
  (∀ (s : State) (i : Item) (g : Nat), s.pwr.stabled = false → (rget s.regs 0x5100).getLsbD 0 = true →
    nextItem s.yms = some i → groomFor s i = some g → domOn s.pwr (groomDom g) = true → s.pwr.closing = [] →
    s.yms.pend = [] →
    ∃ t, exec .dispatch s = .next t ∧ (groomOf t g).item = some i ∧ (groomOf t g).meip = true ∧
      readyOf t.yms i.prio.toNat = (readyOf s.yms i.prio.toNat).erase i ∧
      t.yms.running.get [] g = s.yms.running.get [] g ++ [i] ∧
      rget t.regs (pg .grm g + 0x114) ++ rget t.regs (pg .grm g + 0x110) = i.entry ∧
      rget t.regs (pg .grm g + 0x11C) ++ rget t.regs (pg .grm g + 0x118) = i.arg ∧
      rget t.regs (pg .grm g + 0x120) = dispInfo i ∧ (∀ g', g' ≠ g → groomOf t g' = groomOf s g') ∧
      Keeps [.regs, .yms, .grm, .tck] s t) ∧
  (∀ (s : State) (e : TimeE), s.pwr.stabled = false → s.yms.time.find? (expired s) = some e → e.item.flowv = false →
    (readyOf s.yms e.item.prio.toNat).length < 1024 → s.yms.pend = [] →
    ∃ t, exec .timetableExpiry s = .next t ∧
      readyOf t.yms e.item.prio.toNat = readyOf s.yms e.item.prio.toNat ++ [e.item] ∧ Keeps [.yms] s t)

/-- GRM_DONE, GROOM_WATCHDOG, GROOM_RUN and INV_D complete (R285, R286, R294, R295, R305): GO ends the groom's item with
one WORK_DONE packet that carries FAIL; the watchdog ends it with FAIL, restarts the groom at its reset vector and sets
INT_STATUS.WDOG; RUN = 1 releases a groom in reset at its reset vector; INV_D empties its L1D. -/
def Obligations.GroomsEndItemsAndRun : Prop :=
  ∀ (g : GroomId) (s : State),
    (∀ v : W32, Writable (.groom g) (pg .grm g + 0x124) s → v.getLsbD 0 = true → (groomOf s g).item ≠ none →
      ∃ t q, exec (.grmDone g v) s = .next t ∧ t.rls.fly = s.rls.fly ++ [(opDone, q)] ∧ fld q.addr 0 4 = g.val ∧
        q.addr.getLsbD 4 = v.getLsbD 1 ∧ q.dunit = 0x05 ∧ q.dst = 20 ∧
        groomOf t g = { groomOf s g with item := none, meip := false } ∧
        (∀ g', g' ≠ g.val → groomOf t g' = groomOf s g') ∧ RegsBut [pg .grm g + 0x120] s t ∧
        Keeps [.regs, .grm, .rls, .flow] s t) ∧
    (Quiet s → wdogRuns s g = true → reaches s (wdogAt s g) = true →
      ∃ t q, exec (.groomWatchdog g) s = .next t ∧ t.rls.fly = s.rls.fly ++ [(opDone, q)] ∧ q.addr.getLsbD 4 = true ∧
        (groomOf t g).item = none ∧ (groomOf t g).core.pc = resetVec s.regs g ∧ (groomOf t g).halted = false ∧
        intBit t (pg .grm g) 0 = true ∧ Keeps [.regs, .grm, .rls, .clk, .ptp, .hst] s t) ∧
    (∀ (r : Requester) (v : W32), Writable r (pg .grm g + 0x100) s →
      (rget s.regs (pg .grm g + 0x100)).getLsbD 0 = false → v.getLsbD 0 = true →
      ∃ t, exec (.groomRun r g v) s = .next t ∧ (rget t.regs (pg .grm g + 0x100)).getLsbD 0 = true ∧
        (rget t.regs (pg .grm g + 0x100)).getLsbD 1 = v.getLsbD 1 ∧ (groomOf t g).core.pc = resetVec s.regs g ∧
        (groomOf t g).halted = false ∧ (groomOf t g).item = (groomOf s g).item ∧ Keeps [.regs, .grm, .dbg, .pwr, .flow] s t) ∧
    (∀ (r : Requester) (v : W32), Writable r (pg .grm g + 0x100) s → v.getLsbD 2 = true →
      v.getLsbD 0 = (rget s.regs (pg .grm g + 0x100)).getLsbD 0 →
      ∃ t, exec (.invD r g v) s = .next t ∧ groomOf t g = { groomOf s g with l1d := [] } ∧
        (∀ g', g' ≠ g.val → groomOf t g' = groomOf s g') ∧ Keeps [.regs, .grm, .dbg, .pwr, .flow] s t)

/-- CHECKPOINT and RESTORE complete while HALTED (R306, R307): the record holds the confirmed state, the sheds' used
banks and the memory models with every write still queued, and nothing but DRAM and the record changes; a model burst
that the controller cannot deliver leaves no record (R157). A restore brings back the state bits, the previous-tick bank,
the gateway outputs, the probe lanes, the array-used shed bytes and the memory models of the record, leaves every other
shed byte, and empties the write queue; one whose record DRAM no longer delivers as it was written restores nothing
(R216). Where DRAM keeps the record and how it is laid out the spec leaves open (log 11). -/
def Obligations.CheckpointsAreTakenAndRestored : Prop :=
  ∀ s : State, s.pwr.stabled = false → s.tck.run = .halted → ckptServed s = true →
    (∃ t, exec .checkpoint s = .next t ∧
      let c := record s
      c.count = s.tck.count ∧ c.ringPrev = s.arr.ringPrev ∧ c.stCur = s.arr.stCur ∧ c.out = s.pen.out ∧
      c.lanes = s.pen.lanes ∧
      (∀ a, usedByte s.regs a = true → Memory.byte c.sheds a = Memory.byte s.shed.mem a) ∧
      (∀ a, modelByte s.regs a = true → Memory.byte c.dram a = Memory.byte (dramNow s.dmc) a) ∧
      (badModel s = none →
        t.ckpt = (if takesRecord s c.place c.bytes.length then some c else s.ckpt) ∧ t.dmc.wq = s.dmc.wq ∧
        (takesRecord s c.place c.bytes.length = true → Keeps [.ckpt, .clk, .dmc] s t) ∧
        Keeps [.ckpt, .clk, .dmc, .regs, .hst] s t) ∧
      (∀ a, badModel s = some a → t.ckpt = s.ckpt ∧ t.dmc.mem = s.dmc.mem ∧
        (portStatus s false false a = 0 → s.dmc.crcErr.get 0 (a / 64) ≠ 0 → intBit t 0xA000 3 = true) ∧
        Keeps [.regs, .dmc, .hst, .clk] s t)) ∧
    (∀ c, s.ckpt = some c → recordHeld s = true → ∃ t, exec .restore s = .next t ∧ t.arr.stCur = c.stCur ∧
      t.arr.ringPrev = c.ringPrev ∧ t.pen.out = c.out ∧ t.pen.lanes = c.lanes ∧ t.pen.inCur = c.sample ∧ t.dmc.wq = [] ∧
      (Memory.wf c.sheds → ∀ a, usedByte s.regs a = true → Memory.byte t.shed.mem a = Memory.byte c.sheds a) ∧
      (∀ a, usedByte s.regs a = false → Memory.byte t.shed.mem a = Memory.byte s.shed.mem a) ∧
      (Memory.wf c.dram → ∀ a, modelByte s.regs a = true → Memory.byte t.dmc.mem a = Memory.byte c.dram a) ∧
      (∀ a, modelByte s.regs a = false → Memory.byte t.dmc.mem a = Memory.byte (dramNow s.dmc) a) ∧
      (∀ k, modelByte s.regs (64 * k) = true → t.dmc.crcErr.get 0 k = 0) ∧
      t.tck.run = .halted ∧ RegsBut [] s t ∧ Keeps [.arr, .shed, .dmc, .integ, .pen, .exe, .tck, .regs] s t) ∧
    (∀ c, s.ckpt = some c → recordHeld s = false → ∃ t, exec .restore s = .next t ∧ t.dmc.mem = s.dmc.mem ∧
      t.dmc.wq = s.dmc.wq ∧ Keeps [.dmc, .regs, .hst] s t)

/-! ### Paddock (12_paddock.md) -/

/-- GATEWAY_CAPTURE, RCLK_SWITCH, RCLK_ABANDON and FFRESET complete (R319, R323, R326): an edge of a region's commit
clock takes its 128 wires into its staging register and leaves the others; a new SEL makes a switch that is not in
progress BUSY, and an abandoned one sets STOPPED and INT_STATUS.RCLK_STOPPED and waits for the new source; FFRESET holds every flip-flop at its reset value. QUEUE_WRITE,
QUEUE_READ and QRST complete on a queue whose sides see its fill (R321): a write appends the word in the block's
width, or sets OVF and INT_STATUS.QC_ERR while FULL; a read takes the oldest word, or sets UNF and QC_ERR while EMPTY;
QRST empties the queue. No other block's queue changes. The edges that complete a switch come in idle periods (log
25). -/
def Obligations.PaddockClocksAndQueues : Prop :=
  (∀ (region : Fin 8) (wires : BitVec 128) (s : State), s.pwr.stabled = false → fabricOn s = true →
    regionFree s region = true → clocked s region (frameFld (frameOf s 5 region 0) 0 5) = true →
    ∃ t, exec (.gatewayCapture region wires) s = .next t ∧
      (∀ i, i < 1024 → t.pen.staging.getLsbD i =
        if i / 128 = region then wires.getLsbD (i % 128) else s.pen.staging.getLsbD i) ∧
      t.pen.capt.getLsbD region = true ∧ t.pen.inCur = s.pen.inCur ∧ Keeps [.pen] s t) ∧
  (∀ (r : Requester) (v : W32) (s : State), Writable r 0x611C s →
    let k := rclkKey (rget s.regs 0x6118).toNat
    let region := (rget s.regs 0x6118).toNat
    ∃ t, exec (.rclkSwitch r v) s = .next t ∧
      (v.getLsbD 29 ≠ (rget s.regs k).getLsbD 29 → (rtreeOf s.pdk region).stage = 0 →
        (rget t.regs k).getLsbD 31 = true ∧ (rtreeOf t.pdk region).stage = 1 ∧
          (rtreeOf t.pdk region).sel = (rget s.regs k).getLsbD 29) ∧
      (v.getLsbD 29 = (rget s.regs k).getLsbD 29 ∨ (rtreeOf s.pdk region).stage ≠ 0 →
        (rget t.regs k).getLsbD 31 = (rget s.regs k).getLsbD 31 ∧ t.pdk = s.pdk) ∧
      (rget t.regs k).getLsbD 29 = v.getLsbD 29 ∧ rfld t.regs k 0 10 = rfld s.regs k 0 10 ∧
      Keeps [.regs, .pdk, .dbg, .pwr, .flow] s t) ∧
  (∀ (region : Fin 8) (s : State), s.pwr.stabled = false → fabricOn s = true →
    (rget s.regs (rclkKey region)).getLsbD 31 = true → (rtreeOf s.pdk region).stage = 1 →
    ∃ t, exec (.rclkAbandon region) s = .next t ∧ (rget t.regs (rclkKey region)).getLsbD 30 = true ∧
      (rtreeOf t.pdk region).stage = 2 ∧ (rtreeOf t.pdk region).out = false ∧ intBit t 0x6000 2 = true ∧ RegsBut [rclkKey region, 0x6018] s t ∧
      Keeps [.regs, .pdk, .hst] s t) ∧
  (∀ (r : Requester) (v : W32) (s : State), Writable r 0x6100 s →
    ∃ t, exec (.ffreset r v) s = .next t ∧ (rget t.regs 0x6100).getLsbD 0 = v.getLsbD 0 ∧
      t.pdk.ff = (if v.getLsbD 0 then ffReset s.pdk.frames else s.pdk.ff) ∧ t.pdk.frames = s.pdk.frames ∧
      Keeps [.regs, .pdk, .dbg, .pwr, .flow] s t) ∧
  (∀ (b : Fin 96) (s : State), s.pwr.stabled = false →
     let f := blkFrame s b
     let q := queueOf s b
     (∀ w : W64, qLive s b 3 = true → q.rstW = 0 → q.fullLag = 0 →
       (q.items.length < blkDepth f → ∃ t, exec (.queueWrite b w) s = .next t ∧
         (queueOf t b).items = q.items ++ [BitVec.ofNat 64 (w.toNat % 2 ^ blkWidth f)] ∧ (queueOf t b).ovf = q.ovf ∧
         (queueOf t b).outp = q.outp ∧ (∀ b', b' ≠ b.val → queueOf t b' = queueOf s b') ∧ Keeps [.pdk, .clk] s t) ∧
       (blkDepth f ≤ q.items.length → ∃ t, exec (.queueWrite b w) s = .next t ∧ (queueOf t b).items = q.items ∧
         (queueOf t b).ovf = true ∧ intBit t 0x6000 1 = true ∧ RegsBut [0x6018] s t ∧
         Keeps [.pdk, .clk, .regs, .hst] s t)) ∧
     (qLive s b 8 = true → q.rstR = 0 → q.emptyLag = 0 →
       (∀ w rest, q.items = w :: rest → ∃ t, exec (.queueRead b) s = .next t ∧ (queueOf t b).items = rest ∧
         (queueOf t b).outp = w ∧ (queueOf t b).unf = q.unf ∧ (∀ b', b' ≠ b.val → queueOf t b' = queueOf s b') ∧
         Keeps [.pdk, .clk] s t) ∧
       (q.items = [] → ∃ t, exec (.queueRead b) s = .next t ∧ (queueOf t b).items = [] ∧ (queueOf t b).outp = q.outp ∧
         (queueOf t b).unf = true ∧ intBit t 0x6000 1 = true ∧ RegsBut [0x6018] s t ∧
         Keeps [.pdk, .clk, .regs, .hst] s t)) ∧
     (fabricOn s = true → regionFree s (b / 12) = true → queueMode f = true → ∃ t, exec (.qrst b) s = .next t ∧
       (queueOf t b).items = [] ∧ (queueOf t b).outp = q.outp ∧ (queueOf t b).ovf = q.ovf ∧ (queueOf t b).unf = q.unf ∧
       (∀ b', b' ≠ b.val → queueOf t b' = queueOf s b') ∧ Keeps [.pdk, .clk] s t))

/-! ### Boot, loader, security (13_boot_loading.md) -/

/-- BOOT and RETRY complete (R332 to R334): with correct OTP parity the first firmware slot that passes is started,
groom 0 at FW_ENTRY, and its header measured; after both fail the boot ROM waits, and SEC_BOOT.CODE is the last
failure. While it waits, a retry does the same with the image in groom scratch. With wrong parity the boot ROM stops
with code 1. SHA-512 and Ed25519 are constants without a body (log 26). -/
def Obligations.BootStartsFirmware : Prop :=
  (∀ (slotA slotB : List Byte) (s : State), s.pwr.stabled = false → s.sec.booted = false → s.sec.waiting = false →
    s.sec.stopped = false →
    ∃ t, exec (.boot slotA slotB) s = .next t ∧
      let a := fwVerify s.sec.otp slotA
      let b := fwVerify s.sec.otp slotB
      (s.sec.otp.parityOk = false → t.sec = { s.sec with stopped := true } ∧ rfld t.regs 0x1100 0 8 = 1 ∧ t.grm = s.grm) ∧
      (s.sec.otp.parityOk = true → a.1 = 0 → t.sec.booted = true ∧ t.sec.measure = Config.sha512 (slotA.take 1024) ∧
        (groomOf t 0).core.pc = BitVec.ofNat 64 (fwEntry (slotA.take 1024)) ∧ rfld t.regs 0x1100 26 2 = 0) ∧
      (s.sec.otp.parityOk = true → a.1 ≠ 0 → b.1 = 0 → t.sec.booted = true ∧
        t.sec.measure = Config.sha512 (slotB.take 1024) ∧
        (groomOf t 0).core.pc = BitVec.ofNat 64 (fwEntry (slotB.take 1024)) ∧ rfld t.regs 0x1100 26 2 = 1) ∧
      (s.sec.otp.parityOk = true → a.1 ≠ 0 → b.1 ≠ 0 → t.sec.booted = false ∧ t.sec.waiting = true ∧
        rfld t.regs 0x1100 0 8 = b.1) ∧
      t.sec.otp = s.sec.otp ∧ t.tck = s.tck) ∧
  (∀ (r : Requester) (s : State), Writable r 0x1100 s → s.sec.waiting = true →
    ∃ t, exec (.retry r) s = .next t ∧
      let src := Memory.bytes s.grm.scratch 0 scratchSize
      ((fwVerify s.sec.otp src).1 = 0 → t.sec.booted = true ∧ t.sec.waiting = false ∧
        t.sec.measure = Config.sha512 (src.take 1024)) ∧
      ((fwVerify s.sec.otp src).1 ≠ 0 → t.sec = s.sec ∧ rfld t.regs 0x1100 0 8 = (fwVerify s.sec.otp src).1 ∧
        rfld t.regs 0x1100 26 2 = 2))

/-- The security commands complete with INT_STATUS.CMD_DONE and a result (R335, R337, R358, R359): IDENTITY and ATTEST
write their records of 160 and 352 bytes at SEC_BUF; OTP_PROG programs the requested bits in EMPTY; ROLLBACK_ADVANCE
programs the rollback bits below the running firmware's ROLLBACK. The layout of an OTP_PROG request is open (log 30). -/
def Obligations.SecurityCommandsAct : Prop :=
  ∀ (r : Requester) (s : State), Writable r 0x1104 s →
    let a := secBuf s.regs
    let on := domOn s.pwr 22 = true ∧ domOn s.pwr 23 = true ∧ s.pwr.closing = []
    let free (n : Nat) := s.dmc.waiting = [] ∧ s.dmc.wq = [] ∧ ∀ b ∈ burstsOf a n, memBusy s b = false
    (on → a % 64 = 0 → free 160 → bufTakes s 160 = true → ∃ t, exec (.identity r) s = .next t ∧
      Memory.bytes t.dmc.mem a 160 = idRecord s.sec.otp ∧ MemBut a 160 s.dmc.mem t.dmc.mem ∧
      rfld t.regs 0x1110 0 4 = 0 ∧ intBit t 0x1000 0 = true ∧
      RegsBut [0x1110, 0x1018] s t ∧ Keeps [.dmc, .regs, .hst, .flow] s t) ∧
    (on → a % 64 = 0 → free 352 → dramReads s (a + 0x10) 32 = true → bufTakes s 352 = true →
      ∃ t, exec (.attest r) s = .next t ∧
      Memory.bytes t.dmc.mem a 352 = attestReport s (Memory.bytes s.dmc.mem (a + 0x10) 32) ∧
      MemBut a 352 s.dmc.mem t.dmc.mem ∧ rfld t.regs 0x1110 0 4 = 0 ∧ intBit t 0x1000 0 = true ∧
      RegsBut [0x1110, 0x1018] s t ∧ Keeps [.dmc, .regs, .hst, .flow] s t) ∧
    (on → s.tck.run = .empty → dramReads s a 128 = true → ∃ t, exec (.otpProg r) s = .next t ∧ intBit t 0x1000 0 = true ∧
      (∀ field v n, Config.otpRequest (Memory.bytes (dramNow s.dmc) a 128) = some (field, v) →
        otpRefuses (rfld s.regs 0x1118 8 7) s.sec.otp field v = false → program s.sec.otp field v = some n →
        t.sec.otp = n ∧ rfld t.regs 0x1110 0 4 = 0) ∧
      (Config.otpRequest (Memory.bytes (dramNow s.dmc) a 128) = none → t.sec = s.sec ∧ rfld t.regs 0x1110 0 4 = 2) ∧
      t.dmc.mem = s.dmc.mem ∧ t.dmc.wq = s.dmc.wq ∧
      RegsBut [0x1110, 0x1018] s t ∧ Keeps [.sec, .dmc, .regs, .hst, .flow] s t) ∧
    (∃ t, exec (.rollbackAdvance r) s = .next t ∧ t.sec = { s.sec with otp := { s.sec.otp with
        rollback := s.sec.otp.rollback ||| BitVec.ofNat 64 (2 ^ rfld s.regs 0x1118 8 7 - 1) } } ∧
      rfld t.regs 0x1110 0 4 = 0 ∧ intBit t 0x1000 0 = true ∧ RegsBut [0x1110, 0x1018] s t ∧
      Keeps [.sec, .regs, .hst, .flow] s t)

/-- LOAD completes where the loader accepts it (R132, R347, R350, R351): an image that passes both passes leaves the
chip LOADED with the image's header, depth and link mode, an empty load chain, DONE released if it is a single-chip
image, and INT_STATUS.LOAD_DONE; any other leaves it EMPTY with no image, DONE low, and INT_STATUS.LOAD_FAIL. The tick
counter stays. SHA-512, Ed25519 and AES are constants without a body (log 26). -/
def Obligations.LoadsInstallOrLeaveEmpty : Prop :=
  ∀ (r : Requester) (v : W32) (first second : List Byte) (s : State), Writable r 0x2104 s →
    (rget s.regs 0x2100).getLsbD 0 = true → s.ldr.busy = false →
    runIn s [.empty, .loaded, .halted, .faulted] = true →
    let src := Nat.min 2 (fld v 4 2)
    let u := acceptLoad (wakePlace (wakeSource src (fieldWrite (clampSrc r) 0 0x2104 (setFld v 0 4 1)
      (accessPackets r 0 0x2104 s)).1))
    ∃ t, exec (.load r v first second) s = .next t ∧ t.tck.count = s.tck.count ∧
      (∀ b c b2 x, sourceBytes u src first = some b → checkFull u b = .ok c → sourceBytes u src second = some b2 →
        readAgain u.sec.otp c b2 = .ok x →
        t.tck.run = .loaded ∧ t.tck.depth = hDepth c.hdr ∧ t.tck.multi = hMulti c.hdr ∧
        t.ldr.image = some ⟨Config.sha512 c.hdr, c.hdr, hCalls c.hdr, hMwrs c.hdr⟩ ∧ t.ldr.chain = 0 ∧
        t.ldr.doneOut = !hMulti c.hdr ∧ rfld t.regs 0x2120 24 8 = 0 ∧ intBit t 0x2000 0 = true) ∧
      ((∀ b c b2 x, sourceBytes u src first = some b → checkFull u b = .ok c → sourceBytes u src second = some b2 →
        readAgain u.sec.otp c b2 ≠ .ok x) →
        t.tck.run = .empty ∧ t.ldr.image = none ∧ t.ldr.doneOut = false ∧ intBit t 0x2000 1 = true)

/-- PARTIAL and PARTIAL_COMMIT complete (R353, R355 to R357): a partial image that passes is staged and nothing of the
running image changes; the commit of a staged image whose parts may all be committed ends the command, extends the load
chain by the image's digest and sets INT_STATUS.COMMIT_DONE. -/
def Obligations.PartialImagesStageAndCommit : Prop :=
  (∀ (r : Requester) (v : W32) (l : List Byte) (s : State) (i : Image), Writable r 0x2104 s →
    (rget s.regs 0x2100).getLsbD 0 = true → s.ldr.busy = false → runIn s [.loaded, .halted, .faulted] = true →
    s.ldr.image = some i →
    let u := wakeSource (Nat.min 2 (fld v 4 2)) (fieldWrite (clampSrc r) 0 0x2104 (setFld v 0 4 2)
      (accessPackets r 0 0x2104 s)).1
    ∃ t, exec (.partialImg r v l) s = .next t ∧
      (∀ b c, sourceBytes u (Nat.min 2 (fld v 4 2)) l = some b → checkPart u i b = .ok c →
        t.ldr.busy = true ∧ t.ldr.phase = 4 ∧ ∃ g, t.ldr.staged = some g ∧ g.header = c.hdr ∧
          g.digest = Config.sha512 c.hdr ∧ g.stream = c.rd.stream ∧ g.arr = (rBarns c.hdr != 0) ∧
          g.pdk = (rPdk c.hdr != 0)) ∧
      (∀ e b, sourceBytes u (Nat.min 2 (fld v 4 2)) l = some b → checkPart u i b = .error e →
        t.ldr = s.ldr ∧ intBit t 0x2000 1 = true) ∧
      t.arr = s.arr ∧ t.tck = s.tck ∧ t.shed = s.shed ∧ t.pdk = s.pdk) ∧
  (∀ (s : State) (g : Staged) (i : Image), s.pwr.stabled = false → s.ldr.staged = some g → s.ldr.image = some i →
    (g.arr = true → runIn s [.loaded, .halted, .faulted] = true) → (g.pdk = true → s.tck.run ≠ .empty) →
    maxBudget g.header ≤ modeCap (activeMode s.regs) → s.dmc.waiting = [] →
    ∃ t, exec .partialCommit s = .next t ∧ t.ldr.staged = none ∧ t.ldr.busy = false ∧
      t.ldr.chain = extend s.ldr.chain g.digest ∧ intBit t 0x2000 2 = true ∧ t.tck = s.tck ∧ t.dmc.mem = s.dmc.mem ∧
      (g.arr = true → t.ldr.image = some { i with
        header := mergeHeader i.header g.header, calls := (newTotals s i g.header).1, mwrs := (newTotals s i g.header).2 }) ∧
      (g.arr = false → t.ldr.image = some i))

/-- PATCH, ABORT, DONE_RISE and DONE_FALL complete (R151 to R154, R323, R346, R351, R352): a slot-map record that passes
replaces the entry in the device and in the golden copy, and is counted; ABORT ends a staged command; a rising DONE
before tick 0 gives the state bits their initial values and the gateways 0; a falling one changes nothing in a run and
sets INT_STATUS.DONE_FALL, and before the run brings the paddock's pins and flip-flops back to the state before DONE. A
golden word that the controller refuses keeps its old copy (log 136). -/
def Obligations.PatchesAbortsAndDone : Prop :=
  (∀ (r : Requester) (v : W32) (l : List Byte) (s : State) (i : Image) (b : List Byte) (p : PatchRec) (w : Nat),
    Writable r 0x2104 s → (rget s.regs 0x2100).getLsbD 0 = true → s.ldr.busy = false → s.ldr.image = some i →
    patchState s i.header = true →
    sourceBytes (wakeSource (Nat.min 2 (fld v 4 2)) s) (Nat.min 2 (fld v 4 2)) l = some b → patchRecs b = [p] →
    p.table = 3 → patchOk s i.header p = true → physOf s p.vbarn = some w → domOn s.pwr (w / 6) = true →
    domOn s.pwr 22 = true → domOn s.pwr 23 = true →
    ∃ t, exec (.patch r v l) s = .next t ∧
      t.arr = { s.arr with slots := t.arr.slots, tabSyn := t.arr.tabSyn } ∧
      t.arr.slots.get 0 (w * 4096 + p.index) = relocSlot (physLink s.regs) (p.value.setWidth 16) ∧
      (portStatus s true true (goldenAt goldenStart 4 (w * 4096 + p.index)) = 0 →
        t.integ.gSlots.get 0 (w * 4096 + p.index) = t.arr.slots.get 0 (w * 4096 + p.index)) ∧
      (∀ k, k ≠ w * 4096 + p.index → t.arr.slots.get 0 k = s.arr.slots.get 0 k) ∧
      rfld t.regs 0x2134 0 32 = Nat.min (2 ^ 32 - 1) (rfld s.regs 0x2134 0 32 + 1) ∧ intBit t 0x2000 0 = true ∧
      t.tck = s.tck) ∧
  (∀ (r : Requester) (s : State), Writable r 0x2104 s → (rget s.regs 0x2100).getLsbD 0 = true → s.ldr.busy = true →
    ∃ t, exec (.abort r) s = .next t ∧ t.ldr = { s.ldr with staged := none, busy := false, phase := 0 } ∧
      intBit t 0x2000 1 = true ∧ t.arr = s.arr ∧ t.tck = s.tck) ∧
  (∀ s : State, s.pwr.stabled = false → s.ldr.doneOut = true → s.ldr.doneIn = false →
    ∃ t, exec .doneRise s = .next t ∧ t.ldr = { s.ldr with doneIn := true } ∧ t.pdk = { s.pdk with
        held := if (rget s.regs 0x6104).getLsbD 0 then s.pdk.held else 0 } ∧
      intBit t 0x2000 3 = true ∧
      (runIn s [.loaded, .waiting] = true → t.arr.stCur = s.arr.stInit ∧ t.arr.stRet = s.arr.stInit ∧ t.pen.out = 0 ∧
        t.pen.staging = 0 ∧ rfld t.regs 0x6100 0 1 = 0) ∧
      (runIn s [.loaded, .waiting] = false → t.arr = s.arr ∧ t.pen = s.pen) ∧
      RegsBut [0x6100, 0x2018] s t ∧ Keeps [.arr, .pen, .pdk, .ldr, .regs, .hst] s t) ∧
  (∀ s : State, s.pwr.stabled = false → s.ldr.doneIn = true →
    ∃ t, exec .doneFall s = .next t ∧ t.ldr = { s.ldr with doneIn := false } ∧
      (runIn s [.running, .draining, .halted, .faulted] = true → intBit t 0x2000 4 = true ∧
        RegsBut [0x2018] s t ∧ Keeps [.ldr, .regs, .hst] s t) ∧
      (runIn s [.running, .draining, .halted, .faulted] = false → t.pdk = beforeDone s.pdk ∧ Keeps [.ldr, .pdk] s t))

/-! ### Trigger and acquisition (14_trigger_acquisition.md) -/

/-- EVALUATION completes for a released tick (R363, R364, R373, R374): the transitions of the interval are judged under
the registers and counts in effect until then (R368, R383); with no hold-off open, the counters count under
the conditions of the tick, their terminal bits enter the conditions, and the sequencer takes transition A before B or
stays; entering a state with the action TRIGGER opens the hold-off, records the tick and sets INT_STATUS.TRIGGER. -/
def Obligations.EvaluationTakesTheSequencerOn : Prop :=
  ∀ s : State, s.pwr.stabled = false → evalDue s = true → s.trg.holdoff = none →
    let v := judge s.pen.evalAt s.trg
    let u := { s with trg := { v with eff := trgInForce v.eff s.regs } }
    let x := (List.range 4).foldl (countOne u (withTerm (conds0 u) s.trg.term)) u.trg
    let y := { x with term := terminals x }
    let next := taken y (withTerm (conds0 u) (terminals x))
    ∃ t, exec .evaluation s = .next t ∧ t.trg.state = next.getD s.trg.state ∧ t.trg.term = terminals x ∧
      t.trg.eff = trgShadow s.regs ∧ t.trg.start = s.pen.evalTime ∧ t.trg.cleared = none ∧ t.pen = { s.pen with due := false } ∧
      (∀ n, next = some n → (rget y.eff (rkey 0x712C n.toNat)).getLsbD 0 = true →
        t.trg.holdoff = some (releasedTick s, 0) ∧ t.trg.trigTick = BitVec.ofNat 64 (releasedTick s) ∧
        intBit t 0x7000 0 = true) ∧
      t.tck.run = s.tck.run ∧ t.arr = s.arr ∧ t.shed = s.shed ∧ t.exe = s.exe

/-- TRIG_IN_EDGE and XTRG_EDGE complete (R367, R370, R372): a pin takes its new level and, while its domain is ON, the
transition is sampled after its delay; a line's edge is seen RXDLY periods later, and on LINE the low 24 bits of the
period counter are stamped. The control commands of the trigger engine complete (R368, R372, R375, R378): TRG_CAL
starts the calibration of PIN and CAL_DONE records its tap with INT_STATUS.CAL_DONE; a cross-trigger test pulls LINE
low from the next sampling edge for WIDTH; SEQ_RESET enters REARM with every counter 0 from now on and no hold-off; START
and STOP wait for the next evaluation. The phase of the sampling edges is the model's choice (log 7). -/
def Obligations.TriggerEdgesAndControls : Prop :=
  (∀ (k : Fin 8) (rising : Bool) (s : State), s.trg.level.getLsbD k ≠ rising → evalDue s = false →
    ∃ t, exec (.trigInEdge k rising) s = .next t ∧
      (∀ i < 8, t.trg.level.getLsbD i = if i = k.val then rising else s.trg.level.getLsbD i) ∧
      (domOn s.pwr 27 = true → t.trg.trans = addTrans (pinTrans s k rising) (idlePins s).trans) ∧
      (domOn s.pwr 27 = false → t.trg.trans = (idlePins s).trans) ∧ Keeps [.trg] s t) ∧
  (∀ (k : Fin 4) (s : State), s.pwr.stabled = false → domOn s.pwr 27 = true →
    ∃ t, exec (.xtrgEdge k) s = .next t ∧
      t.trg.xedges = (idlePins s).xedges ++ [(k.val, sampleEdge s.clk.ps + rfld s.regs 0x715C 8 8 * 800)] ∧
      (rfld s.regs 0x7160 28 2 = k → rfld t.regs 0x7160 0 24 = s.clk.period.toNat % 2 ^ 24) ∧
      (rfld s.regs 0x7160 28 2 ≠ k → t.regs = s.regs) ∧ RegsBut [0x7160] s t ∧ Keeps [.trg, .regs] s t) ∧
  (∀ (r : Requester) (v : W32) (s : State),
     (Writable r 0x7154 s → v.getLsbD 31 = true → s.trg.cal = none → ∃ t, exec (.trgCal r v) s = .next t ∧
       t.trg = { s.trg with cal := some (fld v 24 3) } ∧ rfld t.regs 0x7154 30 1 = 1 ∧
       rfld t.regs 0x7154 0 7 = rfld s.regs 0x7154 0 7 ∧ Keeps [.trg, .regs, .dbg, .pwr, .flow] s t) ∧
     (∀ tap : BitVec 7, s.pwr.stabled = false → s.trg.cal ≠ none → ∃ t, exec (.calDone tap) s = .next t ∧
       t.trg = { s.trg with cal := none } ∧ rfld t.regs 0x7154 0 7 = tap.toNat ∧ rfld t.regs 0x7154 30 1 = 0 ∧
       intBit t 0x7000 5 = true ∧ RegsBut [0x7154, 0x7018] s t ∧ Keeps [.trg, .regs, .hst] s t) ∧
     (Writable r 0x7160 s → v.getLsbD 31 = true → s.tck.run ≠ .running → s.trg.xtrg = [] →
       ∃ t, exec (.xtrgTest r v) s = .next t ∧
         t.trg = { s.trg with xtrg := [⟨fld v 28 2, sampleEdge (s.clk.ps + 1),
           sampleEdge (s.clk.ps + 1) + rfld s.regs 0x715C 24 5 * 800⟩] } ∧ Keeps [.trg, .regs, .dbg, .pwr, .flow] s t) ∧
     (Writable r 0x7100 s → ∃ t, exec (.seqReset r) s = .next t ∧ t.trg.state = rearm s.regs ∧ t.trg.holdoff = none ∧
       (∀ k < 4, cntOf t.trg k = 0) ∧ t.trg.cleared = some (fineAt s (sampleEdge s.clk.ps)) ∧ (rget t.regs 0x7100).getLsbD 0 = (rget s.regs 0x7100).getLsbD 0 ∧
       Keeps [.trg, .regs, .dbg, .pwr, .flow] s t) ∧
     (Writable r 0x7170 s → ∃ t, exec (.acqCtrlStart r v) s = .next t ∧
       t.trg = { s.trg with startReq := true, stopReq := s.trg.stopReq || v.getLsbD 30 } ∧
       Keeps [.trg, .regs, .dbg, .pwr, .flow] s t) ∧
     (Writable r 0x7170 s → ∃ t, exec (.acqCtrlStop r v) s = .next t ∧
       t.trg = { s.trg with stopReq := true, startReq := s.trg.startReq || v.getLsbD 31 } ∧
       Keeps [.trg, .regs, .dbg, .pwr, .flow] s t))

/-! ### Time synchronisation (15_time_sync.md) -/

/-- The requests on a clock instance complete where R394 accepts them (R388, R393, R395 to R398): SET, STEP, SLEW and a
loaded INCR wait for their 4 ns period and restart the servo watchdog; HOLDOVER and RESUME act on instance 0 at once. No
other instance changes.
Requests that R394 refuses change no time, and RESUME ends holdover (R394, R398): a SET of instance 0 in holdover
gives CAUSE 2, a STEP beyond PTP_JUMP_LIMIT CAUSE 1, each with INT_STATUS.REFUSED. -/
def Obligations.ClockRequestsAreAcceptedOrRefused : Prop :=
  (∀ (r : Requester) (i : Fin 4) (v : W32) (s : State), OnTime i s → inHoldover i s = false →
     (Writable r (pg .ptp i + 0x100) s →
       (runBars i s = false → ∃ t, exec (.ptpSet r i) s = .next t ∧
         Accepts i (.set ((BitVec.ofNat 16 (rfld s.regs (pg .ptp i + 0x128) 0 16)) ++ rget s.regs (pg .ptp i + 0x124))
           (BitVec.ofNat 30 (rget s.regs (pg .ptp i + 0x120)).toNat)) s t ∧ Keeps [.ptp, .flow] s t) ∧
       ((stepOffset s.regs i).natAbs ≤ (rget s.regs (pg .ptp i + 0x13C)).toNat →
         (runBars i s = false ∨ 0 ≤ stepOffset s.regs i) → ∃ t, exec (.ptpStep r i) s = .next t ∧
         Accepts i (.step (stepOffset s.regs i)) s t ∧ Keeps [.ptp, .flow] s t) ∧
       (i = 0 → ∃ t, exec (.ptpHoldover r i) s = .next t ∧ t.ptp.i0 = { s.ptp.i0 with hold := true, slewing := false } ∧
         intBit t 0x10000 1 = true ∧ (∀ j : Fin 4, j ≠ i → instOf t.ptp j = instOf s.ptp j) ∧
         Keeps [.ptp, .regs, .hst, .flow] s t)) ∧
     (Writable r (pg .ptp i + 0x134) s → ∃ t, exec (.ptpSlew r i v) s = .next t ∧
       Accepts i (.slew (if v = 0x80000000 then 0x80000001 else v).toInt) s t ∧ Keeps [.ptp, .dbg, .flow] s t) ∧
     (Writable r (pg .ptp i + 0x108) s → ∃ t, exec (.ptpIncrLo r i v) s = .next t ∧
       Accepts i (.incr (BitVec.ofNat 40 (incrClamp (rfld s.regs (pg .ptp i + 0x10C) 0 8 * 2 ^ 32 + v.toNat)))) s t ∧
       Keeps [.ptp, .regs, .dbg, .pwr, .flow] s t)) ∧
  (∀ (r : Requester) (s : State), OnTime 0 s → s.ptp.i0.hold = true → Writable r 0x10100 s →
    (∃ t, exec (.ptpSet r 0) s = .next t ∧ t.ptp = { s.ptp with i0 := { s.ptp.i0 with cause := 2 } } ∧
      intBit t 0x10000 0 = true ∧ Keeps [.ptp, .regs, .hst, .flow] s t) ∧
    (∃ t, exec (.ptpResume r 0) s = .next t ∧
      t.ptp = { s.ptp with i0 := { s.ptp.i0 with hold := false, lost := false, wdog := s.clk.ps } } ∧ Keeps [.ptp, .flow] s t)) ∧
  (∀ (r : Requester) (i : Fin 4) (s : State), OnTime i s → Writable r (pg .ptp i + 0x100) s →
    (rget s.regs (pg .ptp i + 0x13C)).toNat < (stepOffset s.regs i).natAbs →
    ∃ t, exec (.ptpStep r i) s = .next t ∧ instOf t.ptp i = { instOf s.ptp i with cause := 1 } ∧
      (∀ j : Fin 4, j ≠ i → instOf t.ptp j = instOf s.ptp j) ∧ intBit t (pg .ptp i) 0 = true ∧
      Keeps [.ptp, .regs, .hst, .flow] s t)

/-- SERVO_WATCHDOG, SLEW_COMPLETE, PPS_IN and PPS_OUT complete (R396, R397, R407, R408): an expiry puts instance 0 into
holdover and makes another instance LOST; a slew with no request waiting ends with no remainder; an edge on 1PPS_IN is
stamped in all four instances; a second boundary passed raises 1PPS_OUT for WIDTH milliseconds. -/
def Obligations.WatchdogsSlewsAndPulses : Prop :=
  (∀ (i : Fin 4) (s : State), Quiet s → servoRuns s i = true → reaches s (servoAt s i) = true →
    ∃ t, exec (.servoWatchdog i) s = .next t ∧
      (i = 0 → t.ptp.i0.hold = true ∧ t.ptp.i0.slewing = false ∧ intBit t 0x10000 1 = true) ∧
      (i ≠ 0 → (instOf t.ptp i).lost = true ∧ intBit t (pg .ptp i) 2 = true) ∧
      RegsBut [pg .ptp i + 0x018] s t ∧ Keeps [.ptp, .clk, .regs, .hst] s t) ∧
  (∀ (i : Fin 4) (s : State), Quiet s → (instOf s.ptp i).slewing = true → (instOf s.ptp i).pend = [] →
    domOn s.pwr 25 = true → runIn s [.running, .draining] = false →
    ∃ t, exec (.slewComplete i) s = .next t ∧ (instOf t.ptp i).slewing = false ∧ (instOf t.ptp i).slew = 0 ∧
      Keeps [.ptp, .clk] s t) ∧
  (∀ s : State, s.pwr.stabled = false → domOn s.pwr 25 = true →
    ∃ t, exec .ppsIn s = .next t ∧
      (∀ i : Fin 4, instOf t.ptp i = { instOf s.ptp i with pps := ppsStamp s (instOf s.ptp i) } ∧
        intBit t (pg .ptp i) 3 = true) ∧
      RegsBut [0x10018, 0x11018, 0x12018, 0x13018] s t ∧ Keeps [.ptp, .regs, .hst] s t) ∧
  (∀ s : State, s.pwr.stabled = false → ppsDue s = true →
    ∃ t p, exec .ppsOut s = .next t ∧ t.ptp.ppsOut = some p ∧
      p.stop = p.start + rfld s.regs 0x10154 16 10 * 1000000000 ∧
      t.ptp.ppsSec = ppsIndex s.regs (instOf s.ptp (ppsInst s.regs)).fine ∧
      (∀ i : Fin 4, instOf t.ptp i =
        if i.val = ppsInst s.regs then { instOf s.ptp i with mark := none } else instOf s.ptp i) ∧ Keeps [.ptp] s t)

/-- A frame that a working port accepts and does not forward enters the receive buffer with INT_STATUS.RX_READY and is
counted; one longer than 252 bytes or with a wrong FCS is only counted (R385, R406). PTP_RX_POP discards the head
frame, and a read of PTP_TX_DONE returns and removes the oldest completion. TX_GO, ETH_TRANSMIT, PORT_FEC and
LINK_CHANGE complete (R384, R400, R405, R406): a staged frame of a legal length takes a free slot and the next
sequence number; a free port sends the only frame waiting with its FCS (log 144) and records its completion with INT_STATUS.TX_DONE; a write
of PTP_PORT_CFG loads the latencies of its FEC mode; a link change is reported. That a frame too long is counted
before its FCS is looked at is the model's reading (log 84). -/
def Obligations.EthernetFramesAndPorts : Prop :=
  (∀ (p : Fin 2) (s : State),
     let cnt (m : SMap W32) (k : Nat) := rfld m (rkey (portPg p + 0x14C) k) 0 32
     (∀ (f : List Byte) (fcsOk : Bool), s.pwr.stabled = false → portUp s p = true →
       (60 ≤ f.length → f.length ≤ 252 → fcsOk = true → (destOf f = portMac s.regs p ∨ destOf f ∈ groupMacs) →
         forwards s.regs p f = false → (portOf s.ptp p).rx.length < 32 →
         ∃ t x, exec (.ethFrameRx p f fcsOk) s = .next t ∧ (portOf t.ptp p).rx = (portOf s.ptp p).rx ++ [x] ∧
           x.bytes = f ∧ x.isPtp = isPtp f ∧ x.event = isEvent f ∧ x.copy = false ∧ intBit t (portPg p) 0 = true ∧
           cnt t.regs 0 = Nat.min (2 ^ 32 - 1) (cnt s.regs 0 + 1) ∧ Keeps [.ptp, .regs, .hst, .clk] s t) ∧
       (252 < f.length → ∃ t, exec (.ethFrameRx p f fcsOk) s = .next t ∧
         cnt t.regs 3 = Nat.min (2 ^ 32 - 1) (cnt s.regs 3 + 1) ∧ Keeps [.regs] s t) ∧
       (f.length ≤ 252 → fcsOk = false → ∃ t, exec (.ethFrameRx p f fcsOk) s = .next t ∧
         cnt t.regs 2 = Nat.min (2 ^ 32 - 1) (cnt s.regs 2 + 1) ∧ Keeps [.regs] s t)) ∧
     (∀ r : Requester, Writable r (portPg p + 0x12C) s → ∃ t, exec (.rxPop r p) s = .next t ∧
       portOf t.ptp p = { portOf s.ptp p with rx := (portOf s.ptp p).rx.drop 1 } ∧ Keeps [.ptp, .flow] s t) ∧
     (∀ r : Requester, Readable r (portPg p + 0x144) s → ∃ t, exec (.txDonePop r p) s = .next t ∧
       t.hst.out = txDoneWord (portOf s.ptp p) ∧
       portOf t.ptp p = { portOf s.ptp p with done := (portOf s.ptp p).done.drop 1 } ∧ Keeps [.ptp, .hst, .flow] s t)) ∧
  (∀ (p : Fin 2) (s : State),
     (∀ (r : Requester) (v : W32), Writable r (portPg p + 0x130) s → 60 ≤ fld v 0 9 → fld v 0 9 ≤ 252 →
       (portOf s.ptp p).tx.length < 8 → ∃ t, exec (.txGo r p v) s = .next t ∧
         portOf t.ptp p = { portOf s.ptp p with
           tx := (portOf s.ptp p).tx ++ [⟨(List.range (fld v 0 9)).map fun i => (portOf s.ptp p).win.get 0 i,
             v.getLsbD 30, (portOf s.ptp p).seq⟩]
           seq := (portOf s.ptp p).seq + 1 } ∧ Keeps [.ptp, .regs, .dbg, .pwr, .flow] s t) ∧
     (∀ f : TxFrame, s.pwr.stabled = false → portUp s p = true → (portOf s.ptp p).fwd = [] →
       (portOf s.ptp p).tx = [f] → ∃ t d, exec (.ethTransmit p) s = .next t ∧ (portOf t.ptp p).tx = [] ∧
         (portOf t.ptp p).done.getLast? = some d ∧ d.seq = f.seq ∧ d.inserted = inserts f ∧
         (inserts f = false → (portOf t.ptp p).sent = onWire f.bytes) ∧ intBit t (portPg p) 2 = true ∧
         rfld t.regs (rkey (portPg p + 0x14C) 6) 0 32 =
           Nat.min (2 ^ 32 - 1) (rfld s.regs (rkey (portPg p + 0x14C) 6) 0 32 + 1) ∧ Keeps [.ptp, .regs, .hst, .clk] s t) ∧
     (∀ (r : Requester) (v : W32), Writable r (portPg p + 0x100) s → ∃ t, exec (.portFec r p v) s = .next t ∧
       rfld t.regs (portPg p + 0x10C) 0 20 = (if v.getLsbD 2 then 0xE54C else 0x6E28) ∧
       rfld t.regs (portPg p + 0x110) 0 20 = (if v.getLsbD 2 then 0x3B0EC else 0x8E94) ∧
       rfld t.regs (portPg p + 0x100) 0 4 = fld v 0 4 ∧ Keeps [.regs, .dbg, .pwr, .flow] s t) ∧
     (∀ up : Bool, s.pwr.stabled = false → domOn s.pwr 25 = true →
       (rget s.regs (portPg p + 0x100)).getLsbD 31 ≠ up → ∃ t, exec (.linkChange p up) s = .next t ∧
         (rget t.regs (portPg p + 0x100)).getLsbD 31 = up ∧ intBit t (portPg p) 5 = true ∧
         RegsBut [portPg p + 0x100, portPg p + 0x018] s t ∧ Keeps [.regs, .hst] s t))

/-! ### Debug and trace (16_debug_trace.md) -/

/-- The authorisation commands of a debug path complete (R414 to R416): CHALLENGE places a nonce; VERIFY uses it up,
and grants the key slot's level with AUTH_DONE or leaves NONE, locked out, with AUTH_FAIL; locked out it only gives
RESULT 5; DROP leaves NONE; a nonce lapses and a lockout ends at their times. No other session changes. The commands
of the TAP complete (R411, R412, R416): Test-Logic-Reset ends the TAP path's session; a loaded instruction captures
the cells as SAMPLE/PRELOAD or EXTEST does, and selects the 32 bits of IDCODE or the single bit of BYPASS; DBGACC reads the register, or is DENIED, and captures status, data and
offset; a write through it at DBG_KEY0 is made at every level; an offset in no page is an ERROR. That a VERIFY in a
lockout keeps the nonce is the model's reading (log 87). -/
def Obligations.DebugSessionsAndTapAct : Prop :=
  (∀ (p : DbgPath) (s : State),
     (Writable (.debug p) 0x9100 s →
       (∃ t, exec (.challenge p) s = .next t ∧ sess t p = { sess s p with
           nonce := freshNonce s, nonceOk := true, nonceAt := s.clk.ps } ∧
         (∀ q, q ≠ p → sess t q = sess s q) ∧ Keeps [.dbg, .clk, .flow] s t) ∧
       (∀ k : Fin 4, (sess s p).lockout = false → ∃ t, exec (.verify p k) s = .next t ∧ (sess t p).nonceOk = false ∧
         (sess t p).result.toNat = verifyResult s p k ∧
         (verifyResult s p k = 1 → (sess t p).level = fld (debugSlot s.sec.otp k) 512 2 + 1 ∧ intBit t 0x9000 1 = true ∧
           (sess t p).lockout = false) ∧
         (verifyResult s p k ≠ 1 → (sess t p).level = 0 ∧ (sess t p).lockout = true ∧ (sess t p).lockAt = s.clk.ps ∧
           intBit t 0x9000 2 = true) ∧
         (∀ q, q ≠ p → sess t q = sess s q) ∧ RegsBut [0x9018] s t ∧ Keeps [.dbg, .regs, .hst, .flow] s t) ∧
       (∀ k : Fin 4, (sess s p).lockout = true → ∃ t, exec (.verify p k) s = .next t ∧
         sess t p = { sess s p with result := 5 } ∧ Keeps [.dbg, .flow] s t) ∧
       (∃ t, exec (.drop p) s = .next t ∧ sess t p = { sess s p with level := 0 } ∧
         (∀ q, q ≠ p → sess t q = sess s q) ∧ Keeps [.dbg, .flow] s t)) ∧
     (Quiet s → (sess s p).nonceOk = true → reaches s (nonceEnd s p) = true →
       ∃ t, exec (.nonceLapse p) s = .next t ∧ sess t p = { sess s p with nonceOk := false } ∧ nonceEnd s p ≤ t.clk.ps ∧
         Keeps [.dbg, .clk, .ptp] s t) ∧
     (Quiet s → (sess s p).lockout = true → reaches s (lockEnd s p) = true →
       ∃ t, exec (.lockoutEnd p) s = .next t ∧ sess t p = { sess s p with lockout := false } ∧ lockEnd s p ≤ t.clk.ps ∧
         Keeps [.dbg, .clk, .ptp] s t)) ∧
  (∀ s : State,
     (∃ t, exec .testLogicReset s = .next t ∧
       t.dbg = { s.dbg with tap := { s.dbg.tap with level := 0 }, ir := 1, extest := false } ∧ Keeps [.dbg] s t) ∧
     (∀ (ir : Byte) (balls : List Bool), ∃ t, exec (.extest ir balls) s = .next t ∧ t.dbg.ir = ir ∧
       (t.dbg.extest = true ↔ ir = 0) ∧ t.dbg.tap = s.dbg.tap ∧ t.dbg.bar = s.dbg.bar ∧
       (∀ i < 1068, t.dbg.cells.getD i false =
         if ir = 2 ∨ (ir = 0 ∧ i % 3 = 0) then balls.getD i false else s.dbg.cells.getD i false) ∧
       (ir = 1 → t.dbg.scan = (List.range 32).map fun i => (idcode s.sec.otp).getLsbD i) ∧
       (ir ≠ 0 → ir ≠ 1 → ir ≠ 2 → ir ≠ 0x20 → t.dbg.scan = [false]) ∧ Keeps [.dbg] s t) ∧
     (∀ dr : BitVec 66, s.pwr.stabled = false →
       let off : W32 := dr.extractLsb' 0 32
       (fld dr 64 2 = 1 → off.toNat % 4 = 0 → (pageOf (off.toNat / 4096)).isSome = true →
         ∃ t, exec (.dbgacc dr) s = .next t ∧ t.dbg.tap.accOff = off ∧ t.dbg.tap.accData = t.hst.out ∧
           (mayPeek off.toNat s.dbg.tap.level = true → t.dbg.tap.accSt = 0) ∧
           (mayPeek off.toNat s.dbg.tap.level = false → t.dbg.tap.accSt = 2 ∧ t.hst.out = 0 ∧ intBit t 0x9000 0 = true ∧
             Keeps [.regs, .hst, .dbg] s t)) ∧
       (fld dr 64 2 = 2 → off = 0x9128 → Writable (.debug .tap) 0x9128 s →
         ∃ t, exec (.dbgacc dr) s = .next t ∧ dbgReg t .tap 0x128 = dr.extractLsb' 32 32 ∧ t.dbg.tap.accSt = 0 ∧
           RegsBut [dbgKey .tap 0x128] s t ∧ Keeps [.regs, .dbg, .clk, .flow] s t) ∧
       (fld dr 64 2 = 1 ∨ fld dr 64 2 = 2 → (pageOf (off.toNat / 4096)).isSome = false →
         ∃ t, exec (.dbgacc dr) s = .next t ∧ t.dbg.tap.accSt = 3 ∧ RegsBut [0x9024] s t ∧ Keeps [.regs, .dbg] s t)))

/-- Debug reads and captures of the array complete (R417, R418, R428): a peek returns the register's value and pops,
clears and restarts nothing; one that the path's level does not permit returns 0 with INT_STATUS.DENIED; AQ_GO makes
the path's reader busy, and AQ_CAPTURE ends with the captured word and INT_STATUS.AQ_DONE, NOT_PRESENT for a barn that
is not enabled, and leaves the array as it is. -/
def Obligations.DebugReadsAreChecked : Prop :=
  ∀ (p : DbgPath) (s : State),
    (∀ (off : BitVec 26) (b : Blk) (i : Nat), s.pwr.stabled = false → pageOf (off.toNat / 4096) = some (b, i) →
      (mayPeek off.toNat (sess s p).level = false → ∃ t, exec (.peekRead p off) s = .next t ∧ t.hst.out = 0 ∧
        intBit t 0x9000 0 = true ∧ RegsBut [0x9018, 0x9024] s t ∧ Keeps [.regs, .hst] s t) ∧
      (mayPeek off.toNat (sess s p).level = true → domOn s.pwr (pageDomain b i) = true → s.pwr.closing = [] →
        off.toNat % 4096 ≠ 0x020 → latched b (off.toNat % 4096) = false →
        ∃ t, exec (.peekRead p off) s = .next t ∧
          t.hst.out = regValue (accessPackets (.debug p) 0 off.toNat s) p off.toNat ∧
          RegsBut [off.toNat - off.toNat % 4096 + 0x018] s t ∧ Keeps [.regs, .hst, .dbg, .clk, .flow] s t)) ∧
    (Writable (.debug p) 0x918C s → ∃ t, exec (.aqGo p) s = .next t ∧ sess t p = { sess s p with aqBusy := true } ∧
      Keeps [.dbg, .flow] s t) ∧
    (s.pwr.stabled = false → (sess s p).aqBusy = true →
      let a := aqAddr s p
      let b := fld a 25 7
      (s.sec.otp.barns.getLsbD b = false → ∃ t, exec (.aqCapture p) s = .next t ∧ (sess t p).aqBusy = false ∧
        (sess t p).aqStatus = 2 ∧ intBit t 0x9000 4 = true ∧ Keeps [.dbg, .regs, .hst, .clk] s t) ∧
      (s.sec.otp.barns.getLsbD b = true → s.tck.run ≠ .empty → domOn s.pwr (b / 6) = true →
        let c := aqCapture s (procIndex b (fld a 20 5) (fld a 14 6)) (fld a 12 2) (fld a 0 12)
        ∃ t, exec (.aqCapture p) s = .next t ∧ (sess t p).aqBusy = false ∧ (sess t p).aqData = c.1 ∧
          (sess t p).aqTick = lastCommitted s ∧ intBit t 0x9000 4 = true ∧
          (c.2.1 = [] → (sess t p).aqStatus = 0 ∧ t.integ = s.integ ∧ RegsBut [0x9018] s t) ∧
          (c.2.1 ≠ [] → (sess t p).aqStatus = 1) ∧ t.arr = s.arr ∧ t.tck = s.tck ∧ t.pen = s.pen))

/-- Deposits, forces and accesses of the debug bus master complete (R417, R420, R429, R430): in LOADED, HALTED and
FAULTED a deposit or an enabled force entry sets the named state bit of a barn that holds one, and otherwise sets
INT_STATUS.REFUSED; the bus master reads or writes one word of groom scratch under MASK, and is denied a write at level
observe. -/
def Obligations.DebugWritesTheArrayAndMemory : Prop :=
  ∀ (p : DbgPath) (v : W32) (s : State),
    (Writable (.debug p) 0x919C s →
      (stillRun s = true → barnHeld s (bitBarn v) = true → fld v 12 6 ≤ 47 → domOn s.pwr (bitBarn v / 6) = true →
        ∃ t, exec (.depGo p v) s = .next t ∧ t.arr.stCur.get false (bitKey v) = v.getLsbD 30 ∧
          (∀ k, k ≠ bitKey v → t.arr.stCur.get false k = s.arr.stCur.get false k) ∧
          t.arr = { s.arr with stCur := t.arr.stCur, stCurSyn := t.arr.stCurSyn } ∧
          RegsBut [dbgKey p 0x19C] s t ∧ Keeps [.arr, .regs, .dbg, .flow] s t) ∧
      (stillRun s = false → ∃ t, exec (.depGo p v) s = .next t ∧ intBit t 0x9000 3 = true ∧
        RegsBut [dbgKey p 0x19C, 0x9018] s t ∧ Keeps [.regs, .dbg, .hst, .flow] s t)) ∧
    (Writable (.debug p) 0x91A4 s →
      (stillRun s = true → v.getLsbD 31 = true → barnHeld s (bitBarn v) = true → fld v 12 6 ≤ 47 →
        domOn s.pwr (bitBarn v / 6) = true →
        let n := fld (dbgReg s p 0x1A0) 0 6
        ∃ t, exec (.forceWrite p v) s = .next t ∧ t.dbg.force.find? n = some ⟨true, v.getLsbD 30, bitKey v⟩ ∧
          (∀ m, m ≠ n → t.dbg.force.find? m = s.dbg.force.find? m) ∧
          (s.dbg.force = [] → t.arr.stCur.get false (bitKey v) = v.getLsbD 30) ∧
          (∀ k, k ≠ bitKey v → t.arr.stCur.get false k = s.arr.stCur.get false k) ∧ Keeps [.arr, .dbg, .flow] s t) ∧
      (stillRun s = false → ∃ t, exec (.forceWrite p v) s = .next t ∧ intBit t 0x9000 3 = true ∧
        t.dbg.force = s.dbg.force ∧ RegsBut [0x9018] s t ∧ Keeps [.regs, .dbg, .hst, .flow] s t)) ∧
    (Writable (.debug p) 0x91A8 s →
      (fld v 8 2 = 0 → (sess s p).bmBusy = false → bmAddr s p + 8 ≤ 4194304 →
        (v.getLsbD 30 = false → ∃ t, exec (.bmGo p v) s = .next t ∧ (sess t p).bmStatus = 0 ∧
          bmData t p = Memory.word s.grm.scratch (bmAddr s p) ∧
          RegsBut [dbgKey p 0x1A8, dbgKey p 0x1B4, dbgKey p 0x1B8] s t ∧ Keeps [.regs, .dbg, .flow] s t) ∧
        (v.getLsbD 30 = true → 2 ≤ (sess s p).level → ∃ t, exec (.bmGo p v) s = .next t ∧ (sess t p).bmStatus = 0 ∧
          (∀ i < 8, Memory.byte t.grm.scratch (bmAddr s p + i) =
            if v.getLsbD i then wordByte (bmData s p) i else Memory.byte s.grm.scratch (bmAddr s p + i)) ∧
          MemBut (bmAddr s p) 8 s.grm.scratch t.grm.scratch ∧ t.grm.g = s.grm.g ∧ RegsBut [dbgKey p 0x1A8] s t ∧
          Keeps [.regs, .dbg, .grm, .flow] s t)) ∧
      (v.getLsbD 30 = true → (sess s p).level = 1 → ∃ t, exec (.bmGo p v) s = .next t ∧ intBit t 0x9000 0 = true ∧
        RegsBut [0x9018, 0x9024] s t ∧ Keeps [.regs, .hst, .flow] s t))

/-- Halting, resuming and stepping complete (R421 to R426): HALT, EBREAK and a comparator's match halt the groom with
their CAUSE and INT_STATUS.HALTED, and the other executing members of its halt group with cause GROUP; a groom that
stalls in an instruction halts once that has retired, and a data comparator's match on it takes the cause; RESUME and
RESUME_ALL let a halted groom run from its pc; STEP leaves it halted with cause STEP. The registers that a halted or
stepping groom comes to are free values (log 11). -/
def Obligations.GroomsHaltResumeAndStep : Prop :=
  ∀ (g : GroomId) (s : State),
    (∀ p : DbgPath, Writable (.debug p) (gPage g + 0x100) s →
      (executes s g = true → ∃ t, exec (.gctrlHalt p g) s = .next t ∧ (groomOf t g).halted = true ∧
        (groomOf t g).cause = 1 ∧ (groomOf t g).item = (groomOf s g).item ∧ (groomOf t g).haltAt = s.clk.ps ∧
        intBit t (gPage g) 0 = true ∧
        ((haltMembers s.regs).getLsbD g = false → ∀ k, k ≠ g.val → groomOf t k = groomOf s k) ∧
        ((haltMembers s.regs).getLsbD g = true → ∀ k < 16, k ≠ g.val → (haltMembers s.regs).getLsbD k = true →
          (executes s k = true → (groomOf t k).halted = true ∧ (groomOf t k).cause = 6) ∧
          (groomRuns s k = true → executes s k = false →
            groomOf t k = { groomOf s k with haltReq := some ((groomOf s k).haltReq.getD (6, 0)) })) ∧
        t.tck = s.tck ∧ t.arr = s.arr ∧ t.shed = s.shed ∧ t.dmc = s.dmc) ∧
      (groomRuns s g = true → executes s g = false → ∃ t, exec (.gctrlHalt p g) s = .next t ∧
        groomOf t g = { groomOf s g with haltReq := some ((groomOf s g).haltReq.getD (1, 0)) } ∧
        (∀ k, k ≠ g.val → groomOf t k = groomOf s k) ∧ Keeps [.grm, .regs, .dbg, .pwr, .flow] s t) ∧
      ((groomOf s g).halted = true → ∃ t, exec (.gctrlResume p g) s = .next t ∧ (groomOf t g).halted = false ∧
        (groomOf t g).cause = 0 ∧ (groomOf t g).core = (groomOf s g).core ∧ (groomOf t g).item = (groomOf s g).item ∧
        (∀ k, k ≠ g.val → groomOf t k = groomOf s k) ∧ t.tck = s.tck ∧ t.arr = s.arr ∧ t.shed = s.shed) ∧
      ((groomOf s g).halted = true → (rget s.regs (gPage g + 0x100)).getLsbD 30 = false →
        let ints := (groomOf s g).meip && (rget s.regs (gPage g + 0x100)).getLsbD 2
        ∃ t, exec (.gctrlStep p g) s = .next t ∧ (groomOf t g).halted = true ∧ (groomOf t g).cause = 2 ∧
          (groomOf t g).core = { Config.stepCore (groomOf s g).core ints s.clk.free with
            lr := none, l1i := l1iAfter s (groomOf s g).core } ∧
          intBit t (gPage g) 0 = true ∧ t.tck = s.tck ∧ t.arr = s.arr ∧ t.shed = s.shed)) ∧
    (∀ p : DbgPath, Writable (.debug p) 0x91BC s → ∃ t, exec (.resumeAll p) s = .next t ∧
      (∀ k < 16, (haltMembers s.regs).getLsbD k = true → (groomOf t k).halted = false ∧
        (groomOf t k).core = (groomOf s k).core) ∧
      (∀ k, (haltMembers s.regs).getLsbD k = false → groomOf t k = groomOf s k)) ∧
    (s.pwr.stabled = false → executes s g = true →
      (∀ (k : Fin 8) (a : W64), cmpHit s.regs g k a = true → cmpBeaten s.regs g k a = false →
        ∃ t, exec (.comparatorMatch g k a) s = .next t ∧ (groomOf t g).ghit = a ∧ (groomOf t g).cmp.toNat = k ∧
          (fld (cmpCfg s.regs g k) 4 2 = 1 → (groomOf t g).halted = false) ∧
          (fld (cmpCfg s.regs g k) 4 2 ≠ 1 → (groomOf t g).halted = true ∧ intBit t (gPage g) 0 = true ∧
            (fld (cmpCfg s.regs g k) 0 3 = 1 → (groomOf t g).cause = 3 ∧ (groomOf t g).core.pc = a) ∧
            (fld (cmpCfg s.regs g k) 0 3 ≠ 1 → (groomOf t g).cause = 4)) ∧ t.tck = s.tck ∧ t.arr = s.arr) ∧
      ((rget s.regs (gPage g + 0x100)).getLsbD 1 = true → ∃ t, exec (.ebreak g) s = .next t ∧
        (groomOf t g).halted = true ∧ (groomOf t g).cause = 5 ∧ intBit t (gPage g) 0 = true ∧ t.tck = s.tck ∧
        t.arr = s.arr)) ∧
    (∀ (k : Fin 8) (a : W64), s.pwr.stabled = false → executes s g = false → atHalt s g k = true → cmpHit s.regs g k a = true →
      cmpBeaten s.regs g k a = false → fld (cmpCfg s.regs g k) 4 2 ≠ 1 →
      ∃ t, exec (.comparatorMatch g k a) s = .next t ∧ (groomOf t g).haltReq = some (4, k.val) ∧
        (groomOf t g).halted = false ∧ (groomOf t g).ghit = a ∧ t.tck = s.tck ∧ t.arr = s.arr)

/-- STIM and TRACE_FLUSH complete (R432 to R437): a stimulus write of a selected groom that executes, whose stream has
begun and has room, adds one STIM packet of 10 bytes to its encoder, and one on a port that is not enabled does nothing;
an encoder that holds 256 bytes sends the packets that fit 8 flits to the trace unit, and one whose only packet has
reached the age of 1 µs sends that and is empty. -/
def Obligations.StimuliAreTracedAndFlushed : Prop :=
  ∀ (g : GroomId) (s : State),
    (∀ (port : Fin 32) (v : W64),
      ((rget s.regs 0x8108).getLsbD port = false ∨ executes s g = false → exec (.stim g port v) s = .next s) ∧
      ((rget s.regs 0x8108).getLsbD port = true → traceOn s.regs g = true → (groomOf s g).traced = true →
        executes s g = true → (groomOf s g).brN = 0 → (groomOf s g).lostN = 0 → (groomOf s g).since0 < 255 →
        encBytes (groomOf s g) ≤ 502 →
        ∃ t, exec (.stim g port v) s = .next t ∧ (groomOf t g).enc = (groomOf s g).enc ++ [stimPkt g port v] ∧
          (groomOf t g).seq = (groomOf s g).seq + 1 ∧ (∀ k, k ≠ g.val → groomOf t k = groomOf s k) ∧
          Keeps [.grm, .clk] s t)) ∧
    (∀ b : List Byte, Quiet s → (groomOf s g).enc = [b] → b ≠ [] → b.length ≤ 32 → (groomOf s g).lostN = 0 →
      reaches s (sendAt (groomOf s g)) = true → ∃ t, exec (.traceFlush g) s = .next t ∧ (groomOf t g).enc = [] ∧
        sendAt (groomOf s g) ≤ t.clk.ps ∧ t.rls.fly = s.rls.fly ++ [(opTrace, tracePkt g [b])] ∧
        (∀ k, k ≠ g.val → groomOf t k = groomOf s k) ∧ Keeps [.grm, .rls, .clk, .ptp] s t) ∧
    (s.pwr.stabled = false → sendBytes ≤ encBytes (groomOf s g) → packsOf g (groomOf s g).enc ≠ [] →
      (groomOf s g).lostN = 0 → ∃ t, exec (.traceFlush g) s = .next t ∧
        (groomOf t g).enc = (groomOf s g).enc.drop (packsOf g (groomOf s g).enc).length ∧
        t.rls.fly = s.rls.fly ++ [(opTrace, tracePkt g (packsOf g (groomOf s g).enc))] ∧
        (∀ k, k ≠ g.val → groomOf t k = groomOf s k) ∧ Keeps [.grm, .rls, .clk] s t)

/-! ### Power and resets (17_power.md) -/

/-- PWR_DOM_CTRL, DOMAIN_CLOSE and DOMAIN_WAKE complete (R205, R438, R446 to R448): a permitted request starts the
close, before which the trace of the grooms of a domain that is ON is sent; a refused one records its reason with
INT_STATUS.REFUSED, which is 6 for a state above the present one; one for the present state is done at once with
DOM_DONE; one for ON leaves a domain ON, or begins its wake; a close that nothing bars ends in its target with
DOM_DONE; a wake leaves the domain ON, with DOM_DONE for a request, its array and sheds as they were from IDLE and
RETAIN, and the sheds of an array group all 0 from OFF. -/
def Obligations.DomainsCloseAndWake : Prop :=
  (∀ (r : Requester) (v : W32) (s : State), Writable r 0x4108 s →
    let d := fld v 0 5
    let x := fld v 8 2
    let rested := (d = 20 ∨ d = 21) ∧ domState s.pwr d = 0
    (x ≠ 0 → domState s.pwr d < x → closeReason false d x s = 0 → ∃ t, exec (.pwrDomCtrl r v) s = .next t ∧
      t.pwr = { s.pwr with closing := [(d, ⟨x, false⟩)] } ∧
      rget t.regs 0x410C = BitVec.ofNat 32 (2 ^ 30 + d * 2 ^ 8 + x) ∧
      (¬ rested → RegsBut [0x410C] s t ∧ Keeps [.regs, .pwr, .flow] s t) ∧
      Keeps [.regs, .pwr, .rls, .grm, .hst, .clk, .flow] s t) ∧
    (x ≠ 0 → domState s.pwr d < x → closeReason false d x s ≠ 0 → ∃ t, exec (.pwrDomCtrl r v) s = .next t ∧
      rget t.regs 0x410C = BitVec.ofNat 32 (2 * 2 ^ 30 + closeReason false d x s * 2 ^ 24 + d * 2 ^ 8 + x) ∧
      intBit t 0x4000 1 = true ∧ RegsBut [0x410C, 0x4018] s t ∧ Keeps [.regs, .hst, .flow] s t) ∧
    (x ≠ 0 → x = domState s.pwr d → ∃ t, exec (.pwrDomCtrl r v) s = .next t ∧
      rget t.regs 0x410C = BitVec.ofNat 32 (2 ^ 30 + d * 2 ^ 8 + x) ∧ intBit t 0x4000 3 = true ∧
      RegsBut [0x410C, 0x4018] s t ∧ Keeps [.regs, .hst, .flow] s t) ∧
    (x ≠ 0 → x < domState s.pwr d → ∃ t, exec (.pwrDomCtrl r v) s = .next t ∧
      rget t.regs 0x410C = BitVec.ofNat 32 (2 * 2 ^ 30 + 6 * 2 ^ 24 + d * 2 ^ 8 + x) ∧ intBit t 0x4000 1 = true ∧
      RegsBut [0x410C, 0x4018] s t ∧ Keeps [.regs, .hst, .flow] s t) ∧
    (x = 0 → ∃ t, exec (.pwrDomCtrl r v) s = .next t ∧ rget t.regs 0x410C = BitVec.ofNat 32 (2 ^ 30 + d * 2 ^ 8) ∧
      (domOn s.pwr d = true → intBit t 0x4000 3 = true ∧ RegsBut [0x410C, 0x4018] s t ∧ Keeps [.regs, .hst, .flow] s t) ∧
      (domOn s.pwr d = false → t.pwr = { s.pwr with
          waking := s.pwr.waking ||| BitVec.ofNat 32 (2 ^ d), asked := s.pwr.asked ||| BitVec.ofNat 32 (2 ^ d) } ∧
        RegsBut [0x410C] s t ∧ Keeps [.regs, .pwr, .flow] s t))) ∧
  (∀ (d : Fin 32) (c : Closing) (s : State), s.pwr.closing.find? d = some c → closeAllowed d s = true →
    s.pwr.waking.getLsbD d = false → closeReady d s = true → c.stab = false →
    ∃ t, exec (.domainClose d) s = .next t ∧ domState t.pwr d = c.target ∧
      t.pwr.closing.find? d = none ∧ intBit t 0x4000 3 = true ∧ (∀ e, e ≠ d.val → domState t.pwr e = domState s.pwr e) ∧
      t.arr = s.arr ∧ t.shed = s.shed) ∧
  (∀ (d : Fin 32) (s : State), s.pwr.stabled = false → s.pwr.waking.getLsbD d = true →
    ∃ t, exec (.domainWake d) s = .next t ∧ domOn t.pwr d = true ∧
      (s.pwr.asked.getLsbD d = true → intBit t 0x4000 3 = true) ∧
      (∀ e, e ≠ d.val → domState t.pwr e = domState s.pwr e) ∧
      (domState s.pwr d < 3 → t.arr = s.arr ∧ t.shed = s.shed) ∧
      (domState s.pwr d = 3 → d.val < 16 → ∀ a, Memory.byte t.shed.mem a =
        if d * 6 * 2 ^ 20 ≤ a ∧ a < (d * 6 + 6) * 2 ^ 20 then 0 else Memory.byte s.shed.mem a))

/-- STABLE, WAKE_BALL and FORGET complete in every state in which PWR_CMD can be written and for every enabled ball
(R453, R454, R459): the entry into Stabled begins to close the first domain of its order that is not in RETAIN or OFF,
or stops with reason 7 where that domain refuses; with no domain left the device is in Stabled; STABLE is refused with
reason 1 in another run state, and ignored during the entry; the close of a domain of the entry goes on with the next
one, or stops. An enabled ball is recorded: it sets INT_STATUS.WAKE, and in Stabled it returns every domain to the
state that it had before the entry, with the array and the sheds as they were. FORGET empties the register part of the
tack room. That FORGET leaves the live registers as they are is the model's choice (log 36). So are the DOMAIN and
TARGET that a refused entry records, and STABLE during the entry (log 96). -/
def Obligations.StabledIsEnteredAndLeft : Prop :=
  (∀ (r : Requester) (s : State), runs r s = true → mayWrite r 0x4124 s = true → domOn s.pwr 31 = true →
    s.pwr.closing.find? 31 = none →
    let still := runIn s [.empty, .loaded, .halted, .faulted]
    let first := stableOrder.find? fun d => decide (domState s.pwr d < 2)
    (s.pwr.stabling = true → ∃ t, exec (.stable r) s = .next t ∧ Keeps [.flow] s t) ∧
    (s.pwr.stabling = false → still = true → first = none → ∃ t, exec (.stable r) s = .next t ∧
      t.pwr = { s.pwr with stabled := true, before := s.pwr.dom } ∧ Keeps [.pwr, .flow] s t) ∧
    (∀ d, s.pwr.stabling = false → still = true → first = some d → closeReason true d 2 s = 0 →
      ∃ t, exec (.stable r) s = .next t ∧ t.pwr = { s.pwr with
          stabling := true, before := s.pwr.dom, closing := s.pwr.closing.set d ⟨2, true⟩ } ∧
        (¬ ((d = 20 ∨ d = 21) ∧ domState s.pwr d = 0) → Keeps [.pwr, .flow] s t) ∧
        Keeps [.pwr, .regs, .rls, .grm, .hst, .clk, .flow] s t) ∧
    (∀ d, s.pwr.stabling = false → still = true → first = some d → closeReason true d 2 s ≠ 0 →
      ∃ t, exec (.stable r) s = .next t ∧ t.pwr = { s.pwr with before := s.pwr.dom } ∧
        rget t.regs 0x410C = BitVec.ofNat 32 (2 * 2 ^ 30 + 7 * 2 ^ 24 + d * 2 ^ 8 + 2) ∧ intBit t 0x4000 1 = true ∧
        RegsBut [0x410C, 0x4018] s t ∧ Keeps [.pwr, .regs, .hst, .flow] s t) ∧
    (s.pwr.stabling = false → still = false → ∃ t, exec (.stable r) s = .next t ∧ rget t.regs 0x410C = 0x81000002 ∧
      intBit t 0x4000 1 = true ∧ RegsBut [0x410C, 0x4018] s t ∧ Keeps [.regs, .hst, .flow] s t) ∧
    (∃ t, exec (.forget r) s = .next t ∧ t.pwr = { s.pwr with tack := [], tackBad := [] } ∧ Keeps [.pwr, .flow] s t)) ∧
  (∀ (d : Fin 32) (c : Closing) (s : State), s.pwr.closing.find? d = some c → closeAllowed d s = true →
    s.pwr.waking.getLsbD d = false → closeReady d s = true → c.stab = true → 2 ≤ c.target →
    let next := stableOrder.find? fun e => decide (e ≠ d.val) && decide (domState s.pwr e < 2)
    ∃ t, exec (.domainClose d) s = .next t ∧ domState t.pwr d = c.target ∧
      (∀ e, e ≠ d.val → domState t.pwr e = domState s.pwr e) ∧
      (next = none → t.pwr.stabled = true ∧ t.pwr.stabling = false) ∧
      (∀ e, next = some e → d.val ≠ 22 → d.val ≠ 23 → closeReason true e 2 s = 0 →
        t.pwr.closing.find? e = some ⟨2, true⟩ ∧ t.pwr.stabling = s.pwr.stabling ∧ t.pwr.stabled = s.pwr.stabled) ∧
      (∀ e, next = some e → d.val ≠ 22 → d.val ≠ 23 → closeReason true e 2 s ≠ 0 →
        rget t.regs 0x410C = BitVec.ofNat 32 (2 * 2 ^ 30 + 7 * 2 ^ 24 + e * 2 ^ 8 + 2) ∧ t.pwr.stabling = false ∧
          t.pwr.stabled = s.pwr.stabled) ∧
      t.arr = s.arr ∧ t.shed = s.shed) ∧
  (∀ (k : Fin 4) (s : State), (rget s.regs 0x412C).getLsbD k = true → ∃ t, exec (.wakeBall k) s = .next t ∧
    (rget t.regs 0x4130).getLsbD k = true ∧
    (s.pwr.stabled = false → intBit t 0x4000 5 = true ∧ RegsBut [0x4130, 0x4018] s t ∧ Keeps [.regs, .hst] s t) ∧
    (s.pwr.stabled = true → t.pwr.stabled = false ∧
      (∀ d ∈ stableOrder, (s.pwr.before.get 0 d = 0 → domOn t.pwr d = true) ∧
        (s.pwr.before.get 0 d = 1 → domState t.pwr d = 1) ∧
        (2 ≤ s.pwr.before.get 0 d → domState t.pwr d = domState s.pwr d)) ∧
      ((∀ d ∈ stableOrder, domState s.pwr d < 3) → t.arr = s.arr ∧ t.shed = s.shed) ∧
      t.tck = s.tck ∧ t.exe = s.exe ∧ t.yms = s.yms ∧ t.ldr = s.ldr ∧ t.sec = s.sec ∧ t.ckpt = s.ckpt))

/-- PWR_MODE, CLOCK_RELOCK_DONE, TEMP_SAMPLE and AON_SWITCH complete (R441, R456, R457, R462): a mode of the same
clock takes effect at once, one of another clock when the generator has relocked, each with MODE_DONE, and a refused
one leaves the mode with its reason; a sample gives NOW and PEAK and sets INT_STATUS.TEMP as it reaches ALARM, and at
125 °C or above the chip is reset; a switch of the always-on supply is shown. That INT_STATUS.TEMP is set on the way
up alone is the model's reading (log 98). -/
def Obligations.ModesTemperatureAndSupply : Prop :=
  ∀ s : State,
    (∀ (r : Requester) (v : W32), Writable r 0x4100 s →
      let mode := (modeChecked s.sec.otp v).1
      let max := (modeChecked s.sec.otp v).2.1
      (modeReason s mode max = 0 → slowClock mode max = (rget s.regs 0x4100).getLsbD 5 →
        ∃ t, exec (.pwrMode r v) s = .next t ∧ rfld t.regs 0x4100 6 2 = mode ∧ rfld t.regs 0x4100 0 2 = mode ∧
          (rget t.regs 0x4100).getLsbD 31 = false ∧ intBit t 0x4000 0 = true ∧ rfld t.regs 0x4104 30 2 = 1 ∧
          t.tck = s.tck ∧ t.arr = s.arr) ∧
      (modeReason s mode max = 0 → slowClock mode max ≠ (rget s.regs 0x4100).getLsbD 5 →
        ∃ t, exec (.pwrMode r v) s = .next t ∧ t.pwr.relock = true ∧ (rget t.regs 0x4100).getLsbD 31 = true ∧
          rfld t.regs 0x4100 6 2 = rfld s.regs 0x4100 6 2 ∧ rfld t.regs 0x4104 30 2 = 1 ∧
          Keeps [.regs, .pwr, .dbg, .flow] s t) ∧
      (modeReason s mode max ≠ 0 → ∃ t, exec (.pwrMode r v) s = .next t ∧
        rfld t.regs 0x4104 30 2 = 2 ∧ rfld t.regs 0x4104 24 4 = modeReason s mode max ∧ intBit t 0x4000 1 = true ∧
        RegsBut [0x4104, 0x4018] s t ∧ Keeps [.regs, .hst, .dbg, .flow] s t)) ∧
    (s.pwr.stabled = false → s.pwr.relock = true → ∃ t, exec .clockRelockDone s = .next t ∧ t.pwr.relock = false ∧
      rfld t.regs 0x4100 6 2 = fld s.pwr.reqMode 0 2 ∧ (rget t.regs 0x4100).getLsbD 31 = false ∧
      intBit t 0x4000 0 = true ∧ RegsBut [0x4100, 0x4018] s t ∧ Keeps [.regs, .pwr, .hst] s t) ∧
    (∀ l : List Byte, s.pwr.stabled = false → l.length = 5 →
      (hottest l < 125 → ∃ t, exec (.tempSample l) s = .next t ∧ rfld t.regs 0x4138 0 8 = hottest l ∧
        rfld t.regs 0x4138 8 8 = Nat.max (rfld s.regs 0x4138 8 8) (hottest l) ∧
        (rfld s.regs 0x4138 0 8 < rfld s.regs 0x4138 24 8 → rfld s.regs 0x4138 24 8 ≤ hottest l →
          intBit t 0x4000 6 = true) ∧
        (t.pwr.therm = true ↔ rfld s.regs 0x4138 24 8 ≤ hottest l) ∧ RegsBut [0x4138, 0x4018] s t ∧
        Keeps [.regs, .pwr, .hst, .flow] s t) ∧
      (125 ≤ hottest l → ∃ t, exec (.tempSample l) s = .next t ∧ t.tck = {} ∧ t.sec.otp = s.sec.otp ∧
        t.pwr.tack = s.pwr.tack ∧ t.shed.mem = [] ∧ t.clk.ps = s.clk.ps)) ∧
    (∀ bak : Bool, s.pwr.onBak ≠ bak → ∃ t, exec (.aonSwitch bak) s = .next t ∧ t.pwr = { s.pwr with onBak := bak } ∧
      rfld t.regs 0x4128 24 1 = bak.toNat ∧ (bak = true → intBit t 0x4000 4 = true) ∧ RegsBut [0x4128, 0x4018] s t ∧
      Keeps [.regs, .pwr, .hst] s t)

/-- COLD_START, WARM_RESET and BROWN_OUT complete in every state (R442, R459 to R461): each returns tick control to EMPTY
and every unit to its reset contents, and leaves the OTP, the waiting commands and the elapsed time; a cold start leaves
every register at its reset value, with MAXCLK and CLK 1 in PWR_MODE of a slow grade, and the tack room empty; a warm
reset keeps the tack room, whose entries the registers take again: every register of read-write fields without a check
takes its entry, unless the entry's check byte fails, and a register without an entry its reset value; and its cause is
recorded. What the memories hold after a reset, the DIMMs' contents after a warm one, is the model's choice (log 33). -/
def Obligations.ResetsRestoreFromTheTackRoom : Prop :=
  ∀ s : State,
    let bare (t : State) : Prop := t.tck = {} ∧ t.arr = {} ∧ t.exe = {} ∧ t.pen = {} ∧ t.shed = {} ∧ t.lnk = {} ∧
      t.rls = {} ∧ t.yms = {} ∧ t.grm = {} ∧ t.pdk = {} ∧ t.ldr = {} ∧ t.ckpt = none ∧
      t.sec = { ({} : Sec) with otp := s.sec.otp } ∧ t.ptp = ptpUnset s.clk.ps {} ∧ t.pending = s.pending ∧
      t.clk.ps = s.clk.ps ∧ t.trg.level = s.trg.level
    (∃ t, exec .coldStart s = .next t ∧ bare t ∧ t.pwr = {} ∧ t.dmc = {} ∧ t.integ = {} ∧ t.dbg = {} ∧
      (∀ k, k ≠ 0x4100 → rget t.regs k = regReset k) ∧
      rget t.regs 0x4100 = if slowGrade s.sec.otp then regReset 0x4100 ||| 0x30 else regReset 0x4100) ∧
    (∀ c, c = .warmReset ∨ c = .brownOut → ∃ t, exec c s = .next t ∧ bare t ∧
      t.pwr = { ({} : Pwr) with tack := s.pwr.tack, tackBad := s.pwr.tackBad, onBak := s.pwr.onBak } ∧
      t.dmc = { ({} : Dmc) with mem := s.dmc.mem, crcErr := s.dmc.crcErr, trained := s.dmc.trained } ∧
      t.clk.gen = s.clk.gen ∧
      (∀ off v x, SMap.wf 0 s.pwr.tack → s.pwr.tack.find? off = some v → regAt off = some x → x.sel = 0 →
        dbgBanked off = false → (∀ f ∈ x.fields, f.acc = .rw ∧ f.chk = .none) → unrestored off = 0 →
        off ≠ 0xA110 → off ≠ 0xA114 →
        rget t.regs off = if s.pwr.tackBad.get false off then regReset off
          else (v &&& x.rwMask) ||| (regReset off &&& ~~~x.rwMask)) ∧
      (s.pwr.tack = [] → (∀ k, k ∉ [0x4100, 0x4128, 0x4134, 0x4138] → rget t.regs k = regReset k) ∧
        (rfld t.regs 0x4128 27 1 = 1 ↔ c = .brownOut)))

/-! ### Host interface and registers (18_host_registers.md) -/

/-- PERST, PCIE_LINK_UP, PCIE_LINK_DOWN and FLR complete (R463, R464, R466): PERST takes the link down and, as an FLR,
empties the MSI-X table, the pending bits and the DMA engine and clears EN of every channel; the link comes up at its
speed and width with INT_STATUS.LINK_UP after the first time; a link that goes down is counted. What else the DMA
engine keeps is the model's choice (log 37). -/
def Obligations.PcieLinkAndFunctionResets : Prop :=
  ∀ s : State,
    (∃ t, exec .perst s = .next t ∧ t.hst.up = false ∧ t.hst.msix = [] ∧ t.hst.pba = 0 ∧ t.hst.dma = [] ∧
      (∀ c < 8, (rget t.regs (rkey 0x12C c)).getLsbD 31 = false) ∧
      (∀ k, (∀ c < 8, k ≠ rkey 0x12C c) → rget t.regs k = rget s.regs k) ∧ Keeps [.hst, .regs] s t) ∧
    (s.pwr.stabled = false → domOn s.pwr 24 = true → ∃ t, exec .flr s = .next t ∧ t.hst.msix = [] ∧ t.hst.pba = 0 ∧
      t.hst.dma = [] ∧ t.hst.up = s.hst.up ∧ intBit t 0 10 = true ∧
      (∀ c < 8, (rget t.regs (rkey 0x12C c)).getLsbD 31 = false) ∧ Keeps [.hst, .regs] s t) ∧
    (∀ (speed : BitVec 3) (width : BitVec 6), linkModes speed.toNat width.toNat = true → s.pwr.stabled = false →
      s.hst.up = false → domOn s.pwr 24 = true → ∃ t, exec (.pcieLinkUp speed width) s = .next t ∧ t.hst.up = true ∧
        t.hst.speed = speed ∧ t.hst.width = width ∧ (s.hst.wasUp = true → intBit t 0 11 = true) ∧
        (s.hst.wasUp = false → t.regs = s.regs) ∧ RegsBut [0x018] s t ∧ Keeps [.hst, .regs] s t) ∧
    (s.pwr.stabled = false → s.hst.up = true → ∃ t, exec .pcieLinkDown s = .next t ∧
      t.hst = { s.hst with up := false, speed := 0, width := 0, downs := t.hst.downs } ∧
      t.hst.downs.toNat = Nat.min 0xFFFF (s.hst.downs.toNat + 1) ∧ Keeps [.hst] s t)

/-- BAR2_ACCESS, TELEMETRY_READ, BAD_ACCESS_TIMEOUT, DMA_DESCRIPTOR and DMA_COMPLETE complete (R470 to R472, R477,
R478): a scratch access reads, or writes inside the window, and a write outside it is recorded in HST_ERR; a telemetry
read returns a register and pops nothing; a timed-out access returns all ones; a descriptor of a ring in host memory
copies its bytes between host memory and groom scratch, and completes with STATUS written back, HEAD advanced and
DMA_DONE, or stops its channel. -/
def Obligations.BarAccessesAndDma : Prop :=
  (∀ (off : BitVec 22) (l : List Byte) (s : State), s.pwr.stabled = false → domOn s.pwr 24 = true →
    (∃ t, exec (.bar2Access false off l) s = .next t ∧
      t.hst = { s.hst with outB := Memory.bytes s.grm.scratch off.toNat l.length } ∧ Keeps [.hst] s t) ∧
    (4 ≤ l.length → bar2Piece off.toNat l.length = l.length → (s.sec.waiting = true ∨ inWindow s off.toNat = true) → ∃ t, exec (.bar2Access true off l) s = .next t ∧
      Memory.bytes t.grm.scratch off.toNat l.length = l ∧ MemBut off.toNat l.length s.grm.scratch t.grm.scratch ∧
      t.grm.g = s.grm.g ∧ Keeps [.grm] s t) ∧
    (0 < l.length → l.length < 4 → off.toNat % 4 + l.length ≤ 4 → ∃ t, exec (.bar2Access true off l) s = .next t ∧
      rget t.regs 0x108 = BitVec.ofNat 32 (0xA * 2 ^ 28 + 2 ^ 26 + off.toNat) ∧ intBit t 0 9 = true ∧
      RegsBut [0x108, 0x018] s t ∧ Keeps [.regs, .hst] s t) ∧
    (4 ≤ l.length → bar2Piece off.toNat l.length = l.length → s.sec.waiting = false → inWindow s off.toNat = false → ∃ t, exec (.bar2Access true off l) s = .next t ∧
      rget t.regs 0x108 = BitVec.ofNat 32 (0xD * 2 ^ 28 + 2 ^ 26 + off.toNat) ∧ intBit t 0 9 = true ∧
      RegsBut [0x108, 0x018] s t ∧ Keeps [.regs, .hst] s t)) ∧
  (∀ (off : BitVec 25) (b : Blk) (i : Nat) (s : State), s.pwr.stabled = false → domOn s.pwr 24 = true →
    pageOf (off.toNat / 4096) = some (b, i) → domOn s.pwr (pageDomain b i) = true → s.pwr.closing = [] →
    dbgOnly off.toNat = false → off.toNat % 4096 ≠ 0x020 → latched b (off.toNat % 4096) = false →
    ∃ t, exec (.telemetryRead off) s = .next t ∧
      t.hst.out = regValue (accessPackets .host 3 off.toNat s) .tap off.toNat ∧ Keeps [.hst, .dbg, .clk, .flow] s t) ∧
  (∀ (off : BitVec 26) (s : State), s.pwr.stabled = false → domOn s.pwr 24 = true →
    (pageOf (off.toNat % 2 ^ 25 / 4096)).isSome = true → ∃ t, exec (.badAccessTimeout off) s = .next t ∧
      t.hst.out = 0xFFFFFFFF ∧ rget t.regs 0x108 = BitVec.ofNat 32 (0xB * 2 ^ 28 + off.toNat) ∧ intBit t 0 9 = true ∧
      RegsBut [0x108, 0x018] s t ∧ Keeps [.regs, .hst] s t) ∧
  (∀ (ch : Fin 8) (desc host : List Byte) (s : State), s.pwr.stabled = false → desc.length = 32 →
    dmaPending s ch = true → dmaLoc s.regs ch = 0 →
    let d := dmaDesc desc
    netIdle s.rls = true → d.bad = false → d.target = 2 → d.daddr + d.len ≤ scratchSize → dmaReady s ch d host = true →
    ∃ t, exec (.dmaDescriptor ch desc host) s = .next t ∧
      dmaRuns t ch = dmaRuns s ch ++ [⟨dmaNext s ch, 0, d.irq, false⟩] ∧
      (d.toHost = false → Memory.bytes t.grm.scratch d.daddr d.len = host ∧
        MemBut d.daddr d.len s.grm.scratch t.grm.scratch ∧ t.hst.hostOut = s.hst.hostOut) ∧
      (d.toHost = true → t.grm = s.grm ∧
        ∀ k < d.len, t.hst.hostOut.find? (d.haddr + k) = some (Memory.byte s.grm.scratch (d.daddr + k))) ∧
      Keeps [.grm, .hst] s t) ∧
  (∀ (ch : Fin 8) (r : DmaRun) (rest : List DmaRun) (s : State), s.pwr.stabled = false → domOn s.pwr 24 = true →
    netIdle s.rls = true → dmaWaits s = false → dmaRuns s ch = r :: rest → dmaLoc s.regs ch = 0 →
    ∃ t, exec (.dmaComplete ch) s = .next t ∧
      t.hst.hostOut.find? (dmaSlot s.regs ch r.idx + 21) = some (BitVec.ofNat 8 (0x80 + r.status)) ∧
      rfld t.regs (rkey 0x140 ch) 0 16 = (r.idx + 1) % dmaSize s.regs ch ∧
      (r.failed = false → dmaRuns t ch = rest ∧ (r.irq = true → intBit t 0 ch = true)) ∧
      (r.failed = true → dmaRuns t ch = [] ∧ (rget t.regs (rkey 0x12C ch)).getLsbD 31 = false ∧
        (rget t.regs (rkey 0x140 ch)).getLsbD 31 = true ∧ intBit t 0 8 = true) ∧ Keeps [.hst, .regs] s t)

/-- The register accesses with a row of their own complete (R9, R100, R176, R178, R181, R389, R470, R480, R482): a read
of TCK_COUNT_LO or PTP_TIME_NS returns its part and latches the others; one of TCK_LOG_W3 pops the event log; one of
CLAMP_REPORT moves the record to the read buffer; CLR_ERR, CLR_CLAMP and CLR_COUNTS clear what they name; RESTART begins
the sweep again at row 0; a write of any register of the ARY and RLS pages gives its fields their checked values, and one
of RLS_TB0 to RLS_TB3 reduces its bucket to the new BURST if it holds more (R278, R282); one outside every page is a bad
access. -/
def Obligations.RegisterAccessesAct : Prop :=
  ∀ (r : Requester) (s : State),
    (Readable r 0x3110 s → ∃ t, exec (.tckCountLo r) s = .next t ∧ t.hst.out = s.tck.count.extractLsb' 0 32 ∧
      rget t.regs 0x3114 = s.tck.count.extractLsb' 32 32 ∧ RegsBut [0x3114] s t ∧ Keeps [.regs, .hst, .flow] s t) ∧
    (∀ i : Fin 4, Readable r (pg .ptp i + 0x110) s → ∃ t, exec (.ptpTimeNs r i) s = .next t ∧
      t.hst.out.toNat = (instOf s.ptp i).ns.toNat ∧ rget t.regs (pg .ptp i + 0x114) = (instOf s.ptp i).frac ∧
      rget t.regs (pg .ptp i + 0x118) = (instOf s.ptp i).sec.extractLsb' 0 32 ∧
      (rget t.regs (pg .ptp i + 0x11C)).toNat = fld (instOf s.ptp i).sec 32 16 ∧
      RegsBut [pg .ptp i + 0x114, pg .ptp i + 0x118, pg .ptp i + 0x11C] s t ∧ Keeps [.regs, .hst, .flow] s t) ∧
    (Readable r 0x3190 s → ∃ t, exec (.tckLogW3 r) s = .next t ∧ t.hst.out = (s.integ.log.headD 0).extractLsb' 96 32 ∧
      t.integ = { s.integ with log := s.integ.log.drop 1 } ∧ Keeps [.integ, .hst, .flow] s t) ∧
    (∀ page : BitVec 13, (pageOf page.toNat).isSome = true → Readable r (page.toNat * 4096 + 0x020) s →
      dbgOnly (page.toNat * 4096) = false → deadPage s (page.toNat * 4096) = false →
      s.dbg.clamp.find? (clampBuf page.toNat) = none →
      (∀ ws n, s.dbg.clamp.find? page.toNat = some (ws, n) → ∃ t, exec (.clampReport r page) s = .next t ∧
        t.hst.out = ws.getD 0 0 ∧ t.dbg.clamp.find? page.toNat = none ∧
        t.dbg.clamp.find? (clampBuf page.toNat) = some (ws, 2) ∧ Keeps [.dbg, .hst, .flow] s t) ∧
      (s.dbg.clamp.find? page.toNat = none → ∃ t, exec (.clampReport r page) s = .next t ∧ t.hst.out = 0 ∧
        Keeps [.hst, .flow] s t)) ∧
    (∀ page : BitVec 13, (pageOf page.toNat).isSome = true → Writable r (page.toNat * 4096 + 0x010) s →
      (∃ t, exec (.clrErr r page) s = .next t ∧ rget t.regs (page.toNat * 4096 + 0x024) = 0 ∧
        RegsBut [page.toNat * 4096 + 0x024] s t ∧ Keeps [.regs, .flow] s t) ∧
      (∃ t, exec (.clrClamp r page) s = .next t ∧ t.dbg.clamp.find? page.toNat = none ∧
        t.dbg.clamp.find? (clampBuf page.toNat) = none ∧ Keeps [.dbg, .flow] s t)) ∧
    (∀ v : W32, Writable r 0x3160 s → ∃ t, exec (.clrCounts r v) s = .next t ∧ rget t.regs 0x3170 = 0 ∧
      (∀ k < 10, rget t.regs (rkey 0x3178 k) = 0) ∧ Keeps [.regs, .dbg, .pwr, .flow] s t) ∧
    (∀ (q : QuadId) (v : W32), Writable r (pg .scb q + 0x100) s → ∃ t, exec (.scbRestart r q v) s = .next t ∧
      (scbCfg (scbOf t q)).enable = v.getLsbD 0 ∧
      (runIn s [.empty, .loaded, .halted, .faulted] = true → (scbOf t q).a = {} ∧ (scbOf t q).b = {} ∧
        (scbOf t q).stopped = false) ∧
      (runIn s [.empty, .loaded, .halted, .faulted] = false → intBit t (pg .scb q) 3 = true ∧
        (scbOf t q).a = (scbOf s q).a ∧ (scbOf t q).b = (scbOf s q).b ∧ (scbOf t q).stopped = (scbOf s q).stopped) ∧
      t.arr = s.arr ∧ t.tck = s.tck) ∧
    (∀ (off : BitVec 26) (v : W32) (b : Blk) (i : Nat) (x : Reg), Writable r off.toNat s → off.toNat % 4 = 0 →
      off.toNat < 2 ^ 25 → pageOf (off.toNat / 4096) = some (b, i) → (b = .ary ∨ b = .rls) → 0x100 ≤ off.toNat % 4096 →
      regAt off.toNat = some x →
      let k := keyOf s.regs (pathOf r) off.toNat x
      ∃ t, exec (.registerWrite r off v) s = .next t ∧
        rget t.regs k = (writeFields s.regs off.toNat x (rget s.regs k) v).new ∧ RegsBut [k, 0x4128] s t ∧
        (b = .ary ∨ off.toNat % 4096 ≠ 0x118 → Part.rls.same s t) ∧
        (b = .rls → off.toNat % 4096 = 0x118 →
          Part.rls.same { s with rls := { s.rls with net := t.rls.net } } t ∧ t.rls.net.length = s.rls.net.length ∧
            ∀ x ∈ t.rls.net, stopOf x.place = i → x.losses = 0) ∧
        (let u := accessPackets r 0 off.toNat s
         (b = .ary → t.rls = u.rls) ∧
         (∀ c < 4, b = .rls → off.toNat % 4096 = 0x108 + 4 * c →
          let size := rfld s.regs (tbOff i c) 0 12 * 1500
          let miss := Nat.min size (u.rls.tokens.get 0 (i * 4 + c) -
            (railCycle s.clk.ps - u.rls.refill.get 0 (i * 4 + c)) * rfld s.regs (tbOff i c) 16 11)
          t.rls.tokens.get 0 (i * 4 + c) = rfld t.regs (tbOff i c) 0 12 * 1500 -
            Nat.min (rfld t.regs (tbOff i c) 0 12 * 1500) (size - miss))) ∧
        Keeps [.regs, .dbg, .pwr, .rls, .flow] s t) ∧
    (∀ (off : BitVec 26) (v : W32), r = .host → s.pwr.stabled = false → off.toNat % 4 = 0 →
      (pageOf (off.toNat / 4096)).isSome = false → aliasWrite r off.toNat = false →
      ∃ t, exec (.registerWrite r off v) s = .next t ∧
        rget t.regs 0x108 = BitVec.ofNat 32 (8 * 2 ^ 28 + off.toNat) ∧ intBit t 0 9 = true ∧
        RegsBut [0x108, 0x018] s t ∧ Keeps [.regs, .hst, .flow] s t)

/-! ### The machine as a whole -/

/-- A step performs the command at the front of the queue on the state with the queue's rest, and on an empty queue one
period of the step clock passes (log 1). -/
def Obligations.StepTakesTheFrontCommand : Prop :=
  (∀ (c : Instr) (s : State), step { s with pending := c :: s.pending } = exec c s) ∧
  (∀ s : State, s.pending = [] → step s = .next (idlePeriod s))

/-- The machine right after reset: no command waits; tick control is EMPTY with tick counter 0; every domain is ON; no
debug level is granted; DONE is low; the scrubbers are enabled; every register reads the reset value of the register
map, as TRC_LEN reads 64; and the memories have their canonical form. -/
def Obligations.ResetLeavesTheDevice : Prop :=
  let s := State.reset
  s.pending = [] ∧ s.tck.run = .empty ∧ s.tck.count = 0 ∧ (∀ d < 32, domState s.pwr d = 0) ∧
    (sess s .tap).level = 0 ∧ (sess s .bar).level = 0 ∧ s.ldr.doneOut = false ∧
    (∀ q < 4, (scbCfg (scbOf s q)).enable = true) ∧ (∀ k, rget s.regs k = regReset k) ∧ rget s.regs 0x8128 = 64 ∧
    Canonical s

/-- Every command answers a next state, in every state, and leaves the queue of waiting commands as it is; one whose
operands name nothing leaves the whole state as it is. That a command whose condition does not hold leaves the state as
it is, is the model's choice (log 2). -/
def Obligations.WellFormedCommandsComplete : Prop :=
  ∀ (c : Instr) (s : State),
    (∃ t, exec c s = .next t ∧ t.pending = s.pending) ∧ (c.wellFormed = false → exec c s = .next s)

/-- No step clears a bit of the OTP: every programmable field keeps the bits it has, and what is programmed at
manufacture does not change (R335). -/
def Obligations.OtpBitsAreNeverCleared : Prop :=
  ∀ s t : State, step s = .next t →
    let a := s.sec.otp
    let b := t.sec.otp
    a.fwKey1 &&& b.fwKey1 = a.fwKey1 ∧ a.fwRev &&& b.fwRev = a.fwRev ∧ a.rollback &&& b.rollback = a.rollback ∧
      a.dsKey0 &&& b.dsKey0 = a.dsKey0 ∧ a.dsKey1 &&& b.dsKey1 = a.dsKey1 ∧ a.dsRev &&& b.dsRev = a.dsRev ∧
      a.rootKey &&& b.rootKey = a.rootKey ∧ a.dbgKey0 &&& b.dbgKey0 = a.dbgKey0 ∧ a.dbgKey1 &&& b.dbgKey1 = a.dbgKey1 ∧
      a.dbgKey2 &&& b.dbgKey2 = a.dbgKey2 ∧ a.dbgKey3 &&& b.dbgKey3 = a.dbgKey3 ∧ a.config &&& b.config = a.config ∧
      a.locks &&& b.locks = a.locks ∧ b.barns = a.barns ∧ b.grade = a.grade ∧ b.stepping = a.stepping ∧
      b.serial = a.serial ∧ b.seed = a.seed ∧ b.cert = a.cert ∧ b.fwKey0 = a.fwKey0

/-- Every step keeps the canonical form of the sheds, of DRAM, of groom scratch and of a checkpoint's sheds, so that
equal memories are equal data. -/
def Obligations.MemoriesStayCanonical : Prop :=
  ∀ s t : State, step s = .next t → Canonical s → Canonical t

/-- Only a write of DBG_AUTH_CMD through a debug path raises a debug session's level: a step whose front command is no
VERIFY, no register write of a debug path and no DBGACC leaves both levels where they were or NONE (R414 to R417). -/
def Obligations.OnlyVerifyRaisesALevel : Prop :=
  ∀ s t : State, step s = .next t →
    (∀ c, s.pending.head? = some c → (∀ p k, c ≠ .verify p k) ∧ (∀ p off v, c ≠ .registerWrite (.debug p) off v) ∧
      (∀ dr, c ≠ .dbgacc dr)) →
    ∀ p, (sess t p).level = (sess s p).level ∨ (sess t p).level = 0
end

