-- ==== Sys2Proof/Laws/Memory.lean ====
section
/-!
SUPPORT. Laws of the sparse stores and of the memories: a read after a write, and that every operation keeps the
canonical form.
-/

namespace Sys2Proof

theorem SMap.wf_nil {α : Type} (d : α) : SMap.wf d ([] : SMap α) := by simp [SMap.wf]

theorem SMap.wf_tail {α : Type} {d : α} {e : Nat × α} {m : SMap α} (h : SMap.wf d (e :: m)) : SMap.wf d m :=
  ⟨(List.pairwise_cons.1 h.1).2, fun x hx => h.2 x (List.mem_cons_of_mem _ hx)⟩

theorem SMap.mem_set {α : Type} (m : SMap α) (k : Nat) (v : α) (e : Nat × α) (h : e ∈ m.set k v) :
    e = (k, v) ∨ e ∈ m := by
  induction m with
  | nil => simp [SMap.set] at h; exact .inl h
  | cons x t ih =>
    obtain ⟨k', v'⟩ := x
    simp only [SMap.set] at h
    split at h
    · rcases List.mem_cons.1 h with h | h
      · exact .inl h
      · exact .inr (List.mem_cons_of_mem _ h)
    · split at h
      · rcases List.mem_cons.1 h with h | h
        · exact .inl h
        · exact .inr h
      · rcases List.mem_cons.1 h with h | h
        · exact .inr (by simp [h])
        · rcases ih h with h | h
          · exact .inl h
          · exact .inr (List.mem_cons_of_mem _ h)

theorem SMap.mem_erase {α : Type} (m : SMap α) (k : Nat) (e : Nat × α) (h : e ∈ m.erase k) : e ∈ m := by
  induction m with
  | nil => simp [SMap.erase] at h
  | cons x t ih =>
    obtain ⟨k', v'⟩ := x
    simp only [SMap.erase] at h
    split at h
    · exact List.mem_cons_of_mem _ (ih h)
    · rcases List.mem_cons.1 h with h | h
      · simp [h]
      · exact List.mem_cons_of_mem _ (ih h)

theorem SMap.wf_set {α : Type} {d : α} {m : SMap α} (h : SMap.wf d m) (k : Nat) (v : α) (hv : v ≠ d) :
    SMap.wf d (m.set k v) := by
  refine ⟨?_, fun e he => ?_⟩
  · induction m with
    | nil => simp [SMap.set]
    | cons x t ih =>
      obtain ⟨k', v'⟩ := x
      have hp := List.pairwise_cons.1 h.1
      simp only [SMap.set]
      split
      · rename_i hk
        subst hk
        exact List.pairwise_cons.2 ⟨hp.1, hp.2⟩
      · split
        · rename_i hlt
          refine List.pairwise_cons.2 ⟨fun e he => ?_, h.1⟩
          rcases List.mem_cons.1 he with rfl | he
          · exact hlt
          · exact Nat.lt_trans hlt (hp.1 e he)
        · rename_i hne hlt
          refine List.pairwise_cons.2 ⟨fun e he => ?_, ih (SMap.wf_tail h)⟩
          rcases SMap.mem_set t k v e he with rfl | he
          · exact Nat.lt_of_le_of_ne (Nat.le_of_not_lt hlt) (Ne.symm hne)
          · exact hp.1 e he
  · rcases SMap.mem_set m k v e he with rfl | he
    · exact hv
    · exact h.2 e he

theorem SMap.wf_erase {α : Type} {d : α} {m : SMap α} (h : SMap.wf d m) (k : Nat) : SMap.wf d (m.erase k) := by
  refine ⟨?_, fun e he => h.2 e (SMap.mem_erase m k e he)⟩
  induction m with
  | nil => simp [SMap.erase]
  | cons x t ih =>
    obtain ⟨k', v'⟩ := x
    have hp := List.pairwise_cons.1 h.1
    simp only [SMap.erase]
    split
    · exact ih (SMap.wf_tail h)
    · exact List.pairwise_cons.2 ⟨fun e he => hp.1 e (SMap.mem_erase t k e he), ih (SMap.wf_tail h)⟩

/-- A write keeps the canonical form. -/
theorem SMap.wf_put {α : Type} [DecidableEq α] {d : α} {m : SMap α} (h : SMap.wf d m) (k : Nat) (v : α) :
    SMap.wf d (m.put d k v) := by
  unfold SMap.put
  split
  · exact SMap.wf_erase h k
  · rename_i hv
    exact SMap.wf_set h k v hv

/-- Leaving entries out keeps the canonical form. -/
theorem SMap.wf_keep {α : Type} {d : α} {m : SMap α} (h : SMap.wf d m) (p : Nat → Bool) : SMap.wf d (m.keep p) :=
  ⟨h.1.sublist List.filter_sublist, fun e he => h.2 e (List.mem_filter.1 he).1⟩

theorem SMap.wf_without {α : Type} {d : α} {m : SMap α} (h : SMap.wf d m) (lo n : Nat) : SMap.wf d (m.without lo n) :=
  SMap.wf_keep h _

@[simp] theorem SMap.find?_set_same {α : Type} (m : SMap α) (k : Nat) (v : α) : (m.set k v).find? k = some v := by
  induction m with
  | nil => simp [SMap.set, SMap.find?]
  | cons x t ih =>
    obtain ⟨k', v'⟩ := x
    simp only [SMap.set]
    split
    · simp [SMap.find?]
    · split
      · simp [SMap.find?]
      · rename_i h1 h2
        simp [SMap.find?, h1, ih]

theorem SMap.find?_set_other {α : Type} (m : SMap α) (k j : Nat) (v : α) (h : j ≠ k) :
    (m.set k v).find? j = m.find? j := by
  induction m with
  | nil => simp [SMap.set, SMap.find?, h]
  | cons x t ih =>
    obtain ⟨k', v'⟩ := x
    simp only [SMap.set]
    split
    · rename_i hk
      subst hk
      simp [SMap.find?, h]
    · split
      · simp [SMap.find?, h]
      · simp only [SMap.find?, ih]

@[simp] theorem SMap.find?_erase_same {α : Type} (m : SMap α) (k : Nat) : (m.erase k).find? k = none := by
  induction m with
  | nil => rfl
  | cons x t ih =>
    obtain ⟨k', v'⟩ := x
    simp only [SMap.erase]
    split
    · exact ih
    · rename_i h
      simp [SMap.find?, h, ih]

theorem SMap.find?_erase_other {α : Type} (m : SMap α) (k j : Nat) (hj : j ≠ k) :
    (m.erase k).find? j = m.find? j := by
  induction m with
  | nil => rfl
  | cons x t ih =>
    obtain ⟨k', v'⟩ := x
    simp only [SMap.erase]
    split
    · rename_i hk
      subst hk
      simp [SMap.find?, hj, ih]
    · simp only [SMap.find?, ih]

/-- A read of the key written gives the value written. -/
@[simp] theorem SMap.get_put_same {α : Type} [DecidableEq α] (d : α) (m : SMap α) (k : Nat) (v : α) :
    (m.put d k v).get d k = v := by
  unfold SMap.put SMap.get
  split
  · rename_i hv
    simp [hv]
  · simp

/-- A write leaves every other key as it was. -/
theorem SMap.get_put_other {α : Type} [DecidableEq α] (d c : α) (m : SMap α) (k j : Nat) (v : α) (hj : j ≠ k) :
    (m.put d k v).get c j = m.get c j := by
  unfold SMap.put SMap.get
  split
  · rw [SMap.find?_erase_other m k j hj]
  · rw [SMap.find?_set_other m k j v hj]

@[simp] theorem SMap.get_set_same {α : Type} (d : α) (m : SMap α) (k : Nat) (v : α) : (m.set k v).get d k = v := by
  simp [SMap.get]

theorem SMap.get_set_other {α : Type} (d : α) (m : SMap α) (k j : Nat) (v : α) (hj : j ≠ k) :
    (m.set k v).get d j = m.get d j := by
  simp [SMap.get, SMap.find?_set_other m k j v hj]

@[simp] theorem SMap.get_erase_same {α : Type} (d : α) (m : SMap α) (k : Nat) : (m.erase k).get d k = d := by
  simp [SMap.get]

theorem SMap.get_erase_other {α : Type} (d : α) (m : SMap α) (k j : Nat) (hj : j ≠ k) :
    (m.erase k).get d j = m.get d j := by
  simp [SMap.get, SMap.find?_erase_other m k j hj]

/-! ### Memories of bytes -/

theorem Memory.wf_putByte {m : List Host.Cell} (h : Memory.wf m) (a : Nat) (b : Byte) :
    Memory.wf (Memory.putByte m a b) := SMap.wf_put h a b

theorem Memory.wf_putBytes (l : List Byte) : ∀ {m : List Host.Cell} (_ : Memory.wf m) (a : Nat),
    Memory.wf (Memory.putBytes m a l) := by
  induction l with
  | nil => intro m h a; exact h
  | cons b bs ih => intro m h a; exact ih (Memory.wf_putByte h a b) (a + 1)

/-- A fold whose step keeps the canonical form keeps it. -/
theorem Memory.wf_foldl {α : Type} (f : List Host.Cell → α → List Host.Cell)
    (hf : ∀ m a, Memory.wf m → Memory.wf (f m a)) (l : List α) :
    ∀ {m : List Host.Cell}, Memory.wf m → Memory.wf (l.foldl f m) := by
  induction l with
  | nil => intro m h; exact h
  | cons a l ih => intro m h; exact ih (hf m a h)

theorem Memory.wf_putMasked {m : List Host.Cell} (h : Memory.wf m) (a : Nat) (w : W64) (mask : Byte) :
    Memory.wf (Memory.putMasked m a w mask) := by
  refine Memory.wf_foldl _ (fun m i hm => ?_) _ h
  split
  · exact Memory.wf_putByte hm _ _
  · exact hm

theorem Memory.wf_putWord {m : List Host.Cell} (h : Memory.wf m) (a : Nat) (w : W64) :
    Memory.wf (Memory.putWord m a w) := Memory.wf_putMasked h a w _

/-- Words written one after the other keep the canonical form. -/
theorem Memory.wf_putWords {α : Type} {m : List Host.Cell} (h : Memory.wf m) (addr : α → Nat) (word : α → W64)
    (l : List α) : Memory.wf (l.foldl (fun m x => Memory.putWord m (addr x) (word x)) m) :=
  Memory.wf_foldl _ (fun _ _ hm => Memory.wf_putWord hm _ _) l h

/-- A read of the byte written gives the byte written. -/
@[simp] theorem Memory.byte_putByte_same (m : List Host.Cell) (a : Nat) (b : Byte) :
    Memory.byte (Memory.putByte m a b) a = b := SMap.get_put_same _ m a b

/-- A write of a byte leaves every other byte as it was. -/
theorem Memory.byte_putByte_other (m : List Host.Cell) (a x : Nat) (b : Byte) (hx : x ≠ a) :
    Memory.byte (Memory.putByte m a b) x = Memory.byte m x := SMap.get_put_other _ _ m a x b hx

/-- A write of bytes leaves every byte outside them as it was. -/
theorem Memory.byte_putBytes_other (l : List Byte) : ∀ (m : List Host.Cell) (a x : Nat),
    x < a ∨ a + l.length ≤ x → Memory.byte (Memory.putBytes m a l) x = Memory.byte m x := by
  induction l with
  | nil => intro m a x _; rfl
  | cons b bs ih =>
    intro m a x hx
    simp only [List.length_cons] at hx
    rw [Memory.putBytes, ih _ (a + 1) x (by omega), Memory.byte_putByte_other m a x b (by omega)]

/-- A write of bytes puts each of them at its address. -/
theorem Memory.byte_putBytes (l : List Byte) : ∀ (m : List Host.Cell) (a i : Nat) (h : i < l.length),
    Memory.byte (Memory.putBytes m a l) (a + i) = l[i] := by
  induction l with
  | nil => intro m a i h; simp at h
  | cons b bs ih =>
    intro m a i h
    rw [Memory.putBytes]
    cases i with
    | zero =>
      rw [Memory.byte_putBytes_other bs _ (a + 1) (a + 0) (by omega)]
      simp
    | succ n =>
      have hn : n < bs.length := by simpa using h
      have := ih (Memory.putByte m a b) (a + 1) n hn
      rw [show a + (n + 1) = a + 1 + n by omega, this]
      rfl

/-- One byte after one byte of a masked write. -/
theorem Memory.byte_masked_step (m : List Host.Cell) (a x i : Nat) (c : Bool) (b : Byte) :
    Memory.byte (if c then Memory.putByte m (a + i) b else m) x
      = if c ∧ x = a + i then b else Memory.byte m x := by
  cases c
  · simp
  · by_cases hx : x = a + i
    · subst hx; simp
    · simp [hx, Memory.byte_putByte_other _ _ _ _ hx]

theorem Memory.byte_putMasked_range (n : Nat) (m : List Host.Cell) (a x : Nat) (w : W64) (mask : Byte) :
    Memory.byte ((List.range n).foldl
      (fun m i => if mask.getLsbD i then Memory.putByte m (a + i) (wordByte w i) else m) m) x
      = if a ≤ x ∧ x < a + n ∧ mask.getLsbD (x - a) then wordByte w (x - a) else Memory.byte m x := by
  induction n with
  | zero => simp; omega
  | succ n ih =>
    rw [List.range_succ, List.foldl_append, List.foldl_cons, List.foldl_nil, Memory.byte_masked_step, ih]
    by_cases hx : x = a + n
    · subst hx
      by_cases hm : mask.getLsbD n
      · simp [hm]
      · simp [hm]
    · have hd : x < a + (n + 1) ↔ x < a + n := by omega
      simp [hx, hd]

/-- A byte after a masked write of a word: the word's byte where the mask selects it, otherwise the old one. -/
theorem Memory.byte_putMasked (m : List Host.Cell) (a x : Nat) (w : W64) (mask : Byte) :
    Memory.byte (Memory.putMasked m a w mask) x
      = if a ≤ x ∧ x < a + 8 ∧ mask.getLsbD (x - a) then wordByte w (x - a) else Memory.byte m x :=
  Memory.byte_putMasked_range 8 m a x w mask

/-- A write of a word leaves every byte outside it as it was. -/
theorem Memory.byte_putWord_other (m : List Host.Cell) (a x : Nat) (w : W64) (hx : x < a ∨ a + 8 ≤ x) :
    Memory.byte (Memory.putWord m a w) x = Memory.byte m x := by
  rw [Memory.putWord, Memory.byte_putMasked, if_neg (by omega)]

/-- A write of a word puts its bytes at its addresses. -/
theorem Memory.byte_putWord (m : List Host.Cell) (a i : Nat) (w : W64) (hi : i < 8) :
    Memory.byte (Memory.putWord m a w) (a + i) = wordByte w i := by
  have hm : ∀ j : Fin 8, (0xFF : Byte).getLsbD j = true := by decide
  have := hm ⟨i, hi⟩
  rw [Memory.putWord, Memory.byte_putMasked, if_pos ⟨by omega, by omega, by rw [show a + i - a = i by omega]; exact this⟩]
  rw [show a + i - a = i by omega]

/-- A read of the word written gives the word written. -/
theorem Memory.word_putWord (m : List Host.Cell) (a : Nat) (w : W64) : Memory.word (Memory.putWord m a w) a = w := by
  have h := fun i (hi : i < 8) => Memory.byte_putWord m a i w hi
  simp only [Memory.word, Memory.bytes, List.range_succ, List.range_zero, List.nil_append, List.cons_append,
    List.map_cons, List.map_nil, bytesNat]
  rw [h 0 (by omega), h 1 (by omega), h 2 (by omega), h 3 (by omega), h 4 (by omega), h 5 (by omega), h 6 (by omega),
    h 7 (by omega)]
  apply BitVec.eq_of_toNat_eq
  simp only [wordByte, BitVec.extractLsb'_toNat, BitVec.toNat_ofNat, Nat.shiftRight_eq_div_pow]
  have := w.isLt
  omega

namespace Machine

/-- A full burst write keeps the canonical form. -/
theorem writeBurst_wf {m : List Host.Cell} (h : Memory.wf m) (a : Nat) (mask : Byte) (l : List (BitVec 256)) :
    Memory.wf (writeBurst m a mask l) := by
  refine Memory.wf_foldl _ (fun m i hm => ?_) _ h
  split
  · exact Memory.wf_putWord hm _ _
  · exact hm

/-- What RESTORE does to a memory keeps the canonical form, whatever the checkpoint holds. -/
theorem replaceBytes_wf {m : List Host.Cell} (h : Memory.wf m) (region : Nat → Bool) (new : List Host.Cell) :
    Memory.wf (replaceBytes m region new) := by
  refine Memory.wf_foldl _ (fun m c hm => ?_) _ (SMap.wf_keep h _)
  split
  · exact Memory.wf_putByte hm _ _
  · exact hm

/-- The sheds' memory after a port A write. -/
theorem shedWrite_wf {h : Shed} (hm : Memory.wf h.mem) (key : Nat) (w : W64) : Memory.wf (shedWrite h key w).mem :=
  Memory.wf_putWord hm _ _

/-- The sheds' memory after a port B write. -/
theorem portBWrite_wf {h : Shed} (hm : Memory.wf h.mem) (key : Nat) (w : W64) (mask : Byte) :
    Memory.wf (portBWrite h key w mask).mem := Memory.wf_putMasked hm _ _ _

/-- The sheds' memory after the shed contents of an image are written. -/
theorem putWords_wf (l : List (Nat × W64)) : ∀ {h : Shed}, Memory.wf h.mem → Memory.wf (putWords l h).mem := by
  induction l with
  | nil => intro h hm; exact hm
  | cons e l ih => intro h hm; exact ih (Memory.wf_putWord hm _ _)

/-- The sheds' memory after a domain that was OFF wakes. -/
theorem clearSheds_wf {h : Shed} (hm : Memory.wf h.mem) (b n : Nat) : Memory.wf (clearSheds h b n).mem := by
  simp only [clearSheds]
  exact SMap.wf_keep hm _

/-- The sheds' memory after a load zeroes the banks it uses. -/
theorem zeroBanks_wf {h : Shed} (hm : Memory.wf h.mem) (use : SMap W32) : Memory.wf (zeroBanks use h).mem := by
  simp only [zeroBanks]
  exact SMap.wf_keep hm _

/-- The three memories of the chip, after reset. -/
theorem reset_memories : Memory.wf State.reset.shed.mem ∧ Memory.wf State.reset.dmc.mem
    ∧ Memory.wf State.reset.grm.scratch := by decide

end Machine
end Sys2Proof
end

