-- ==== Sys2Proof/Laws/Registers.lean ====
section
/-!
SUPPORT. Laws of the register store: reads after writes of registers and of their fields, of counters and of
INT_STATUS.
-/

namespace Sys2Proof

theorem fieldMask_getLsbD {n : Nat} (lo len i : Nat) (hi : i < n) :
    (BitVec.ofNat n ((2 ^ len - 1) * 2 ^ lo)).getLsbD i = (decide (lo ≤ i) && decide (i < lo + len)) := by
  rw [BitVec.getLsbD_ofNat]
  rw [Nat.testBit_mul_two_pow, Nat.testBit_two_pow_sub_one]
  by_cases h1 : lo ≤ i
  · have h2 : (i - lo < len) ↔ (i < lo + len) := by omega
    simp [hi, h1, h2]
  · simp [h1]

/-- A bit of a word after a field of it is set. -/
theorem setFld_getLsbD {n : Nat} (w : BitVec n) (lo len v i : Nat) (hi : i < n) :
    (setFld w lo len v).getLsbD i = if lo ≤ i ∧ i < lo + len then v.testBit (i - lo) else w.getLsbD i := by
  unfold setFld
  rw [BitVec.getLsbD_or, BitVec.getLsbD_and, BitVec.getLsbD_not, fieldMask_getLsbD lo len i hi, BitVec.getLsbD_ofNat,
    Nat.testBit_mul_two_pow, Nat.testBit_mod_two_pow]
  by_cases h1 : lo ≤ i
  · by_cases h2 : i < lo + len
    · have h3 : i - lo < len := by omega
      simp [hi, h1, h2, h3]
    · have h3 : ¬ i - lo < len := by omega
      simp [hi, h2, h3]
  · simp [hi, h1]

/-- The field set holds the value, modulo its width. -/
theorem fld_setFld {n : Nat} (w : BitVec n) (lo len v : Nat) (h : lo + len ≤ n) :
    fld (setFld w lo len v) lo len = v % 2 ^ len := by
  unfold fld
  apply Nat.eq_of_testBit_eq
  intro i
  rw [← BitVec.getLsbD, BitVec.getLsbD_extractLsb', Nat.testBit_mod_two_pow]
  by_cases hi : i < len
  · rw [setFld_getLsbD w lo len v (lo + i) (by omega), if_pos (by omega), Nat.add_sub_cancel_left]
  · simp [hi]

/-- A field that does not meet the one set keeps its value. -/
theorem fld_setFld_other {n : Nat} (w : BitVec n) (lo len v lo' len' : Nat) (hn : lo' + len' ≤ n)
    (h : lo' + len' ≤ lo ∨ lo + len ≤ lo') : fld (setFld w lo len v) lo' len' = fld w lo' len' := by
  unfold fld
  apply Nat.eq_of_testBit_eq
  intro i
  rw [← BitVec.getLsbD, ← BitVec.getLsbD, BitVec.getLsbD_extractLsb', BitVec.getLsbD_extractLsb']
  by_cases hi : i < len'
  · rw [setFld_getLsbD w lo len v (lo' + i) (by omega), if_neg (by omega)]
  · simp [hi]

/-- A bit outside the field set keeps its value. -/
theorem getLsbD_setFld_other {n : Nat} (w : BitVec n) (lo len v i : Nat) (h : i < lo ∨ lo + len ≤ i) :
    (setFld w lo len v).getLsbD i = w.getLsbD i := by
  by_cases hi : i < n
  · rw [setFld_getLsbD w lo len v i hi, if_neg (by omega)]
  · rw [BitVec.getLsbD_of_ge _ _ (by omega), BitVec.getLsbD_of_ge _ _ (by omega)]

namespace Machine

@[simp] theorem rget_rput_same (m : SMap W32) (k : Nat) (v : W32) : rget (rput m k v) k = v := by
  simp [rget, rput]

theorem rget_rput_other (m : SMap W32) (k j : Nat) (v : W32) (h : j ≠ k) : rget (rput m k v) j = rget m j :=
  SMap.get_put_other _ _ m k j v h

/-- A register after another is written, or this one. -/
theorem rget_rput (m : SMap W32) (k j : Nat) (v : W32) : rget (rput m k v) j = if j = k then v else rget m j := by
  split
  · rename_i h; subst h; simp
  · rename_i h; exact rget_rput_other m k j v h

@[simp] theorem rget_rset_same (m : SMap W32) (k lo len v : Nat) :
    rget (rset m k lo len v) k = setFld (rget m k) lo len v := by simp [rset]

theorem rget_rset_other (m : SMap W32) (k j lo len v : Nat) (h : j ≠ k) : rget (rset m k lo len v) j = rget m j :=
  rget_rput_other m k j _ h

theorem rfld_rset_same (m : SMap W32) (k lo len v : Nat) (h : lo + len ≤ 32) :
    rfld (rset m k lo len v) k lo len = v % 2 ^ len := by simp [rfld, fld_setFld _ _ _ _ h]

theorem rget_rbump_other (m : SMap W32) (k j lo len n : Nat) (h : j ≠ k) : rget (rbump m k lo len n) j = rget m j :=
  rget_rset_other m k j lo len _ h

/-- A counter field after it counts: it stays at its highest value once it is there. -/
theorem rfld_rbump_same (m : SMap W32) (k lo len n : Nat) (h : lo + len ≤ 32) :
    rfld (rbump m k lo len n) k lo len = Nat.min (2 ^ len - 1) (rfld m k lo len + n) := by
  unfold rbump
  rw [rfld_rset_same _ _ _ _ _ h]
  have : 0 < 2 ^ len := Nat.two_pow_pos len
  unfold satAdd
  exact Nat.mod_eq_of_lt (Nat.lt_of_le_of_lt (Nat.min_le_left _ _) (Nat.sub_lt this Nat.one_pos))

theorem rget_rerr_other (m : SMap W32) (page j n : Nat) (h : j ≠ page + 0x024) : rget (rerr m page n) j = rget m j :=
  rget_rbump_other m _ j 0 16 n h

theorem rget_intRegs_other (m : SMap W32) (page k j : Nat) (h : j ≠ page + 0x018) :
    rget (intRegs m page k) j = rget m j := rget_rput_other m _ j _ h

/-- Raising an interrupt bit changes no register but INT_STATUS of the page. -/
theorem raiseInt_rget (s : State) (page k j : Nat) (h : j ≠ page + 0x018) :
    rget (raiseInt s page k).regs j = rget s.regs j := rget_intRegs_other s.regs page k j h

/-- Raising an interrupt bit sets it and keeps the others. -/
theorem raiseInt_status (s : State) (page k : Nat) :
    rget (raiseInt s page k).regs (page + 0x018) = rget s.regs (page + 0x018) ||| BitVec.ofNat 32 (2 ^ k) := by
  simp [raiseInt, intRegs]

theorem raiseIf_rget (c : Bool) (s : State) (page k j : Nat) (h : j ≠ page + 0x018) :
    rget (raiseIf c s page k).regs j = rget s.regs j := by
  unfold raiseIf
  split
  · exact raiseInt_rget s page k j h
  · rfl

theorem raiseInts_rget (page : Nat) (l : List Nat) : ∀ (s : State) (j : Nat), j ≠ page + 0x018 →
    rget (raiseInts s page l).regs j = rget s.regs j := by
  induction l with
  | nil => intro s j _; rfl
  | cons k ks ih => intro s j h; rw [raiseInts, ih _ j h, raiseInt_rget s page k j h]

end Machine
end Sys2Proof
end

