-- ==== Sys2Proof/Laws/Access.lean ====
section
/-!
SUPPORT. What an access to a register comes to when nothing stands in its way: no close is in progress and the page's
domain is ON, so that nothing is woken or cancelled, and the write or the read is performed on the state as it is.
-/

namespace Sys2Proof.Machine

/-- A page of a domain that is ON is reached as it is while no close is in progress. -/
theorem reachPage_on (off : Nat) (s : State) (hc : s.pwr.closing = [])
    (hd : (pageOf (off / 4096)).all (fun x => domOn s.pwr (pageDomain x.1 x.2)) = true) : reachPage off s = s := by
  unfold reachPage
  cases h : pageOf (off / 4096) with
  | none => rfl
  | some x => simp_all [cancelClose, SMap.find?]

/-- The packets of a register access change the rails alone. -/
theorem accessPackets_eq (r : Requester) (cls off : Nat) (s : State) :
    accessPackets r cls off s = { s with rls := (accessPackets r cls off s).rls } := by
  unfold accessPackets exchange inject
  cases pageOf (off / 4096) with
  | none => rfl
  | some x => cases r <;> rfl

/-- A permitted write of a page that is ON, by a requester that runs, is its act on the state that the access's packets
leave. -/
theorem viaWrite_act (r : Requester) (off : Nat) (act : State → State) (s : State) (hr : runs r s = true)
    (hm : mayWrite r off s = true) (hp : deadPage s off = false) (hc : s.pwr.closing = [])
    (hd : (pageOf (off / 4096)).all (fun x => domOn s.pwr (pageDomain x.1 x.2)) = true) :
    viaWrite r off act s = act (accessPackets r 0 off s) := by
  have hp' : deadPage (accessPackets r 0 off s) off = false := by rw [accessPackets_eq]; exact hp
  have h : reachPage off (accessPackets r 0 off s) = accessPackets r 0 off s := by
    apply reachPage_on
    · rw [accessPackets_eq]; exact hc
    · rw [accessPackets_eq]; exact hd
  simp [viaWrite, hr, hm, hp', h]

/-- A read by a requester that runs, other than a debug path, of a page that is ON, is its act on the state that the
access's packets leave. -/
theorem viaRead_act (r : Requester) (off : Nat) (act peek : State → State) (s : State) (hr : runs r s = true)
    (ht : r ≠ .debug .tap) (hb : r ≠ .debug .bar) (hc : s.pwr.closing = [])
    (hd : (pageOf (off / 4096)).all (fun x => domOn s.pwr (pageDomain x.1 x.2)) = true) :
    viaRead r off act peek s = act (accessPackets r 0 off s) := by
  have h : reachPage off (accessPackets r 0 off s) = accessPackets r 0 off s := by
    apply reachPage_on
    · rw [accessPackets_eq]; exact hc
    · rw [accessPackets_eq]; exact hd
  unfold viaRead
  cases r with
  | debug p => cases p <;> simp_all
  | _ => simp [hr, h]

/-- A session after a path's session is replaced. -/
@[simp] theorem sess_setSess_same (s : State) (p : DbgPath) (x : Session) : sess (setSess s p x) p = x := by
  cases p <;> rfl

theorem sess_setSess_other (s : State) (p q : DbgPath) (x : Session) (h : q ≠ p) : sess (setSess s p x) q = sess s q := by
  cases p <;> cases q <;> simp_all [sess, setSess]

/-- A session depends on the debug part alone. -/
theorem sess_of_dbg {s t : State} (h : t.dbg = s.dbg) (p : DbgPath) : sess t p = sess s p := by
  cases p <;> simp [sess, h]

end Sys2Proof.Machine
end

