-- ==== Sys2Proof/Laws/Frames.lean ====
section
/-!
SUPPORT. Frames of the operations of the stores, the registers, the clock, the sheds' ports, faults, the array, the
commit window, holds, domains, register accesses and run control: for each operation, the parts of `State` that it
leaves as they were. An operation that takes an operation leaves a part alone if that operation does.
-/

namespace Sys2Proof.Machine

set_option linter.unusedVariables false
set_option linter.unusedSimpArgs false

@[simp] theorem foldl_pending {α : Type} (f : State → α → State) (h : ∀ x a, (f x a).pending = x.pending) : ∀ (l :
    List α) (s : State), (l.foldl f s).pending = s.pending
  | [], _ => rfl
  | a :: l, s => by rw [List.foldl_cons, foldl_pending f h l, h]

@[simp] theorem foldl_regs {α : Type} (f : State → α → State) (h : ∀ x a, (f x a).regs = x.regs) : ∀ (l : List α) (s :
    State), (l.foldl f s).regs = s.regs
  | [], _ => rfl
  | a :: l, s => by rw [List.foldl_cons, foldl_regs f h l, h]

@[simp] theorem foldl_clk {α : Type} (f : State → α → State) (h : ∀ x a, (f x a).clk = x.clk) : ∀ (l : List α) (s :
    State), (l.foldl f s).clk = s.clk
  | [], _ => rfl
  | a :: l, s => by rw [List.foldl_cons, foldl_clk f h l, h]

@[simp] theorem foldl_tck {α : Type} (f : State → α → State) (h : ∀ x a, (f x a).tck = x.tck) : ∀ (l : List α) (s :
    State), (l.foldl f s).tck = s.tck
  | [], _ => rfl
  | a :: l, s => by rw [List.foldl_cons, foldl_tck f h l, h]

@[simp] theorem foldl_arr {α : Type} (f : State → α → State) (h : ∀ x a, (f x a).arr = x.arr) : ∀ (l : List α) (s :
    State), (l.foldl f s).arr = s.arr
  | [], _ => rfl
  | a :: l, s => by rw [List.foldl_cons, foldl_arr f h l, h]

@[simp] theorem foldl_exe {α : Type} (f : State → α → State) (h : ∀ x a, (f x a).exe = x.exe) : ∀ (l : List α) (s :
    State), (l.foldl f s).exe = s.exe
  | [], _ => rfl
  | a :: l, s => by rw [List.foldl_cons, foldl_exe f h l, h]

@[simp] theorem foldl_pen {α : Type} (f : State → α → State) (h : ∀ x a, (f x a).pen = x.pen) : ∀ (l : List α) (s :
    State), (l.foldl f s).pen = s.pen
  | [], _ => rfl
  | a :: l, s => by rw [List.foldl_cons, foldl_pen f h l, h]

@[simp] theorem foldl_integ {α : Type} (f : State → α → State) (h : ∀ x a, (f x a).integ = x.integ) : ∀ (l : List α)
    (s : State), (l.foldl f s).integ = s.integ
  | [], _ => rfl
  | a :: l, s => by rw [List.foldl_cons, foldl_integ f h l, h]

@[simp] theorem foldl_shed {α : Type} (f : State → α → State) (h : ∀ x a, (f x a).shed = x.shed) : ∀ (l : List α) (s :
    State), (l.foldl f s).shed = s.shed
  | [], _ => rfl
  | a :: l, s => by rw [List.foldl_cons, foldl_shed f h l, h]

@[simp] theorem foldl_dmc {α : Type} (f : State → α → State) (h : ∀ x a, (f x a).dmc = x.dmc) : ∀ (l : List α) (s :
    State), (l.foldl f s).dmc = s.dmc
  | [], _ => rfl
  | a :: l, s => by rw [List.foldl_cons, foldl_dmc f h l, h]

@[simp] theorem foldl_lnk {α : Type} (f : State → α → State) (h : ∀ x a, (f x a).lnk = x.lnk) : ∀ (l : List α) (s :
    State), (l.foldl f s).lnk = s.lnk
  | [], _ => rfl
  | a :: l, s => by rw [List.foldl_cons, foldl_lnk f h l, h]

@[simp] theorem foldl_rls {α : Type} (f : State → α → State) (h : ∀ x a, (f x a).rls = x.rls) : ∀ (l : List α) (s :
    State), (l.foldl f s).rls = s.rls
  | [], _ => rfl
  | a :: l, s => by rw [List.foldl_cons, foldl_rls f h l, h]

@[simp] theorem foldl_yms {α : Type} (f : State → α → State) (h : ∀ x a, (f x a).yms = x.yms) : ∀ (l : List α) (s :
    State), (l.foldl f s).yms = s.yms
  | [], _ => rfl
  | a :: l, s => by rw [List.foldl_cons, foldl_yms f h l, h]

@[simp] theorem foldl_grm {α : Type} (f : State → α → State) (h : ∀ x a, (f x a).grm = x.grm) : ∀ (l : List α) (s :
    State), (l.foldl f s).grm = s.grm
  | [], _ => rfl
  | a :: l, s => by rw [List.foldl_cons, foldl_grm f h l, h]

@[simp] theorem foldl_pdk {α : Type} (f : State → α → State) (h : ∀ x a, (f x a).pdk = x.pdk) : ∀ (l : List α) (s :
    State), (l.foldl f s).pdk = s.pdk
  | [], _ => rfl
  | a :: l, s => by rw [List.foldl_cons, foldl_pdk f h l, h]

@[simp] theorem foldl_ldr {α : Type} (f : State → α → State) (h : ∀ x a, (f x a).ldr = x.ldr) : ∀ (l : List α) (s :
    State), (l.foldl f s).ldr = s.ldr
  | [], _ => rfl
  | a :: l, s => by rw [List.foldl_cons, foldl_ldr f h l, h]

@[simp] theorem foldl_sec {α : Type} (f : State → α → State) (h : ∀ x a, (f x a).sec = x.sec) : ∀ (l : List α) (s :
    State), (l.foldl f s).sec = s.sec
  | [], _ => rfl
  | a :: l, s => by rw [List.foldl_cons, foldl_sec f h l, h]

@[simp] theorem foldl_trg {α : Type} (f : State → α → State) (h : ∀ x a, (f x a).trg = x.trg) : ∀ (l : List α) (s :
    State), (l.foldl f s).trg = s.trg
  | [], _ => rfl
  | a :: l, s => by rw [List.foldl_cons, foldl_trg f h l, h]

@[simp] theorem foldl_ptp {α : Type} (f : State → α → State) (h : ∀ x a, (f x a).ptp = x.ptp) : ∀ (l : List α) (s :
    State), (l.foldl f s).ptp = s.ptp
  | [], _ => rfl
  | a :: l, s => by rw [List.foldl_cons, foldl_ptp f h l, h]

@[simp] theorem foldl_dbg {α : Type} (f : State → α → State) (h : ∀ x a, (f x a).dbg = x.dbg) : ∀ (l : List α) (s :
    State), (l.foldl f s).dbg = s.dbg
  | [], _ => rfl
  | a :: l, s => by rw [List.foldl_cons, foldl_dbg f h l, h]

@[simp] theorem foldl_pwr {α : Type} (f : State → α → State) (h : ∀ x a, (f x a).pwr = x.pwr) : ∀ (l : List α) (s :
    State), (l.foldl f s).pwr = s.pwr
  | [], _ => rfl
  | a :: l, s => by rw [List.foldl_cons, foldl_pwr f h l, h]

@[simp] theorem foldl_hst {α : Type} (f : State → α → State) (h : ∀ x a, (f x a).hst = x.hst) : ∀ (l : List α) (s :
    State), (l.foldl f s).hst = s.hst
  | [], _ => rfl
  | a :: l, s => by rw [List.foldl_cons, foldl_hst f h l, h]

@[simp] theorem foldl_ckpt {α : Type} (f : State → α → State) (h : ∀ x a, (f x a).ckpt = x.ckpt) : ∀ (l : List α) (s :
    State), (l.foldl f s).ckpt = s.ckpt
  | [], _ => rfl
  | a :: l, s => by rw [List.foldl_cons, foldl_ckpt f h l, h]

theorem ite_frame (c : Prop) [Decidable c] (a b : State) : (if c then a else b).pending = (if c then a.pending else
    b.pending) ∧ (if c then a else b).regs = (if c then a.regs else b.regs) ∧ (if c then a else b).clk = (if c then
    a.clk else b.clk) ∧ (if c then a else b).tck = (if c then a.tck else b.tck) ∧ (if c then a else b).arr = (if c
    then a.arr else b.arr) ∧ (if c then a else b).exe = (if c then a.exe else b.exe) ∧ (if c then a else b).pen = (if
    c then a.pen else b.pen) ∧ (if c then a else b).integ = (if c then a.integ else b.integ) ∧ (if c then a else
    b).shed = (if c then a.shed else b.shed) ∧ (if c then a else b).dmc = (if c then a.dmc else b.dmc) ∧ (if c then a
    else b).lnk = (if c then a.lnk else b.lnk) ∧ (if c then a else b).rls = (if c then a.rls else b.rls) ∧ (if c then
    a else b).yms = (if c then a.yms else b.yms) ∧ (if c then a else b).grm = (if c then a.grm else b.grm) ∧ (if c
    then a else b).pdk = (if c then a.pdk else b.pdk) ∧ (if c then a else b).ldr = (if c then a.ldr else b.ldr) ∧ (if
    c then a else b).sec = (if c then a.sec else b.sec) ∧ (if c then a else b).trg = (if c then a.trg else b.trg) ∧
    (if c then a else b).ptp = (if c then a.ptp else b.ptp) ∧ (if c then a else b).dbg = (if c then a.dbg else b.dbg)
    ∧ (if c then a else b).pwr = (if c then a.pwr else b.pwr) ∧ (if c then a else b).hst = (if c then a.hst else
    b.hst) ∧ (if c then a else b).ckpt = (if c then a.ckpt else b.ckpt) := by
  split <;> simp

/-! ### Ops -/

@[simp] theorem raiseInt_frame (s x1 x2) : (raiseInt s x1 x2).pending = s.pending ∧ (raiseInt s x1 x2).clk = s.clk ∧
    (raiseInt s x1 x2).tck = s.tck ∧ (raiseInt s x1 x2).arr = s.arr ∧ (raiseInt s x1 x2).exe = s.exe ∧ (raiseInt s x1
    x2).pen = s.pen ∧ (raiseInt s x1 x2).integ = s.integ ∧ (raiseInt s x1 x2).shed = s.shed ∧ (raiseInt s x1 x2).dmc =
    s.dmc ∧ (raiseInt s x1 x2).lnk = s.lnk ∧ (raiseInt s x1 x2).rls = s.rls ∧ (raiseInt s x1 x2).yms = s.yms ∧
    (raiseInt s x1 x2).grm = s.grm ∧ (raiseInt s x1 x2).pdk = s.pdk ∧ (raiseInt s x1 x2).ldr = s.ldr ∧ (raiseInt s x1
    x2).sec = s.sec ∧ (raiseInt s x1 x2).trg = s.trg ∧ (raiseInt s x1 x2).ptp = s.ptp ∧ (raiseInt s x1 x2).dbg = s.dbg
    ∧ (raiseInt s x1 x2).pwr = s.pwr ∧ (raiseInt s x1 x2).ckpt = s.ckpt := by
  simp [raiseInt]

@[simp] theorem raiseInts_frame (s x1 x2) : (raiseInts s x1 x2).pending = s.pending ∧ (raiseInts s x1 x2).clk = s.clk
    ∧ (raiseInts s x1 x2).tck = s.tck ∧ (raiseInts s x1 x2).arr = s.arr ∧ (raiseInts s x1 x2).exe = s.exe ∧ (raiseInts
    s x1 x2).pen = s.pen ∧ (raiseInts s x1 x2).integ = s.integ ∧ (raiseInts s x1 x2).shed = s.shed ∧ (raiseInts s x1
    x2).dmc = s.dmc ∧ (raiseInts s x1 x2).lnk = s.lnk ∧ (raiseInts s x1 x2).rls = s.rls ∧ (raiseInts s x1 x2).yms =
    s.yms ∧ (raiseInts s x1 x2).grm = s.grm ∧ (raiseInts s x1 x2).pdk = s.pdk ∧ (raiseInts s x1 x2).ldr = s.ldr ∧
    (raiseInts s x1 x2).sec = s.sec ∧ (raiseInts s x1 x2).trg = s.trg ∧ (raiseInts s x1 x2).ptp = s.ptp ∧ (raiseInts s
    x1 x2).dbg = s.dbg ∧ (raiseInts s x1 x2).pwr = s.pwr ∧ (raiseInts s x1 x2).ckpt = s.ckpt := by
  fun_induction raiseInts <;> simp_all

@[simp] theorem raiseIf_frame (x0 s x2 x3) : (raiseIf x0 s x2 x3).pending = s.pending ∧ (raiseIf x0 s x2 x3).clk =
    s.clk ∧ (raiseIf x0 s x2 x3).tck = s.tck ∧ (raiseIf x0 s x2 x3).arr = s.arr ∧ (raiseIf x0 s x2 x3).exe = s.exe ∧
    (raiseIf x0 s x2 x3).pen = s.pen ∧ (raiseIf x0 s x2 x3).integ = s.integ ∧ (raiseIf x0 s x2 x3).shed = s.shed ∧
    (raiseIf x0 s x2 x3).dmc = s.dmc ∧ (raiseIf x0 s x2 x3).lnk = s.lnk ∧ (raiseIf x0 s x2 x3).rls = s.rls ∧ (raiseIf
    x0 s x2 x3).yms = s.yms ∧ (raiseIf x0 s x2 x3).grm = s.grm ∧ (raiseIf x0 s x2 x3).pdk = s.pdk ∧ (raiseIf x0 s x2
    x3).ldr = s.ldr ∧ (raiseIf x0 s x2 x3).sec = s.sec ∧ (raiseIf x0 s x2 x3).trg = s.trg ∧ (raiseIf x0 s x2 x3).ptp =
    s.ptp ∧ (raiseIf x0 s x2 x3).dbg = s.dbg ∧ (raiseIf x0 s x2 x3).pwr = s.pwr ∧ (raiseIf x0 s x2 x3).ckpt = s.ckpt
    := by
  unfold raiseIf; split <;> simp

@[simp] theorem advance_frame (x0 s) : (advance x0 s).pending = s.pending ∧ (advance x0 s).regs = s.regs ∧ (advance x0
    s).tck = s.tck ∧ (advance x0 s).arr = s.arr ∧ (advance x0 s).exe = s.exe ∧ (advance x0 s).pen = s.pen ∧ (advance
    x0 s).integ = s.integ ∧ (advance x0 s).shed = s.shed ∧ (advance x0 s).dmc = s.dmc ∧ (advance x0 s).lnk = s.lnk ∧
    (advance x0 s).rls = s.rls ∧ (advance x0 s).yms = s.yms ∧ (advance x0 s).grm = s.grm ∧ (advance x0 s).pdk = s.pdk
    ∧ (advance x0 s).ldr = s.ldr ∧ (advance x0 s).sec = s.sec ∧ (advance x0 s).trg = s.trg ∧ (advance x0 s).dbg =
    s.dbg ∧ (advance x0 s).pwr = s.pwr ∧ (advance x0 s).hst = s.hst ∧ (advance x0 s).ckpt = s.ckpt := by
  simp [advance]

/-! ### Flags -/

@[simp] theorem logRecs_frame (x0 s) : (logRecs x0 s).pending = s.pending ∧ (logRecs x0 s).clk = s.clk ∧ (logRecs x0
    s).tck = s.tck ∧ (logRecs x0 s).arr = s.arr ∧ (logRecs x0 s).exe = s.exe ∧ (logRecs x0 s).pen = s.pen ∧ (logRecs
    x0 s).shed = s.shed ∧ (logRecs x0 s).dmc = s.dmc ∧ (logRecs x0 s).lnk = s.lnk ∧ (logRecs x0 s).rls = s.rls ∧
    (logRecs x0 s).yms = s.yms ∧ (logRecs x0 s).grm = s.grm ∧ (logRecs x0 s).pdk = s.pdk ∧ (logRecs x0 s).ldr = s.ldr
    ∧ (logRecs x0 s).sec = s.sec ∧ (logRecs x0 s).trg = s.trg ∧ (logRecs x0 s).ptp = s.ptp ∧ (logRecs x0 s).dbg =
    s.dbg ∧ (logRecs x0 s).pwr = s.pwr ∧ (logRecs x0 s).ckpt = s.ckpt := by
  simp [logRecs]

@[simp] theorem lateDet_frame (x0 s) : (lateDet x0 s).pending = s.pending ∧ (lateDet x0 s).clk = s.clk ∧ (lateDet x0
    s).tck = s.tck ∧ (lateDet x0 s).arr = s.arr ∧ (lateDet x0 s).pen = s.pen ∧ (lateDet x0 s).shed = s.shed ∧ (lateDet
    x0 s).dmc = s.dmc ∧ (lateDet x0 s).lnk = s.lnk ∧ (lateDet x0 s).rls = s.rls ∧ (lateDet x0 s).yms = s.yms ∧
    (lateDet x0 s).grm = s.grm ∧ (lateDet x0 s).pdk = s.pdk ∧ (lateDet x0 s).ldr = s.ldr ∧ (lateDet x0 s).sec = s.sec
    ∧ (lateDet x0 s).trg = s.trg ∧ (lateDet x0 s).ptp = s.ptp ∧ (lateDet x0 s).dbg = s.dbg ∧ (lateDet x0 s).pwr =
    s.pwr ∧ (lateDet x0 s).ckpt = s.ckpt := by
  simp [lateDet]

@[simp] theorem detect_frame (x0 s) : (detect x0 s).pending = s.pending ∧ (detect x0 s).clk = s.clk ∧ (detect x0
    s).tck = s.tck ∧ (detect x0 s).arr = s.arr ∧ (detect x0 s).pen = s.pen ∧ (detect x0 s).shed = s.shed ∧ (detect x0
    s).dmc = s.dmc ∧ (detect x0 s).lnk = s.lnk ∧ (detect x0 s).rls = s.rls ∧ (detect x0 s).yms = s.yms ∧ (detect x0
    s).grm = s.grm ∧ (detect x0 s).pdk = s.pdk ∧ (detect x0 s).ldr = s.ldr ∧ (detect x0 s).sec = s.sec ∧ (detect x0
    s).trg = s.trg ∧ (detect x0 s).ptp = s.ptp ∧ (detect x0 s).dbg = s.dbg ∧ (detect x0 s).pwr = s.pwr ∧ (detect x0
    s).ckpt = s.ckpt := by
  unfold detect; split <;> simp

/-! ### ShedPort -/

@[simp] theorem respond_frame (x0 x1 s) : (respond x0 x1 s).pending = s.pending ∧ (respond x0 x1 s).regs = s.regs ∧
    (respond x0 x1 s).clk = s.clk ∧ (respond x0 x1 s).tck = s.tck ∧ (respond x0 x1 s).arr = s.arr ∧ (respond x0 x1
    s).exe = s.exe ∧ (respond x0 x1 s).pen = s.pen ∧ (respond x0 x1 s).integ = s.integ ∧ (respond x0 x1 s).shed =
    s.shed ∧ (respond x0 x1 s).dmc = s.dmc ∧ (respond x0 x1 s).lnk = s.lnk ∧ (respond x0 x1 s).yms = s.yms ∧ (respond
    x0 x1 s).grm = s.grm ∧ (respond x0 x1 s).pdk = s.pdk ∧ (respond x0 x1 s).ldr = s.ldr ∧ (respond x0 x1 s).sec =
    s.sec ∧ (respond x0 x1 s).trg = s.trg ∧ (respond x0 x1 s).ptp = s.ptp ∧ (respond x0 x1 s).dbg = s.dbg ∧ (respond
    x0 x1 s).pwr = s.pwr ∧ (respond x0 x1 s).hst = s.hst ∧ (respond x0 x1 s).ckpt = s.ckpt := by
  simp [respond]

@[simp] theorem ownerWrite_frame (x0 x1 x2 s) : (ownerWrite x0 x1 x2 s).pending = s.pending ∧ (ownerWrite x0 x1 x2
    s).clk = s.clk ∧ (ownerWrite x0 x1 x2 s).tck = s.tck ∧ (ownerWrite x0 x1 x2 s).arr = s.arr ∧ (ownerWrite x0 x1 x2
    s).exe = s.exe ∧ (ownerWrite x0 x1 x2 s).pen = s.pen ∧ (ownerWrite x0 x1 x2 s).integ = s.integ ∧ (ownerWrite x0 x1
    x2 s).shed = s.shed ∧ (ownerWrite x0 x1 x2 s).dmc = s.dmc ∧ (ownerWrite x0 x1 x2 s).lnk = s.lnk ∧ (ownerWrite x0
    x1 x2 s).rls = s.rls ∧ (ownerWrite x0 x1 x2 s).yms = s.yms ∧ (ownerWrite x0 x1 x2 s).grm = s.grm ∧ (ownerWrite x0
    x1 x2 s).pdk = s.pdk ∧ (ownerWrite x0 x1 x2 s).ldr = s.ldr ∧ (ownerWrite x0 x1 x2 s).sec = s.sec ∧ (ownerWrite x0
    x1 x2 s).trg = s.trg ∧ (ownerWrite x0 x1 x2 s).ptp = s.ptp ∧ (ownerWrite x0 x1 x2 s).dbg = s.dbg ∧ (ownerWrite x0
    x1 x2 s).pwr = s.pwr ∧ (ownerWrite x0 x1 x2 s).ckpt = s.ckpt := by
  simp [ownerWrite]

@[simp] theorem putFill_frame (x0 s) : (putFill x0 s).pending = s.pending ∧ (putFill x0 s).clk = s.clk ∧ (putFill x0
    s).tck = s.tck ∧ (putFill x0 s).arr = s.arr ∧ (putFill x0 s).exe = s.exe ∧ (putFill x0 s).pen = s.pen ∧ (putFill
    x0 s).integ = s.integ ∧ (putFill x0 s).dmc = s.dmc ∧ (putFill x0 s).lnk = s.lnk ∧ (putFill x0 s).rls = s.rls ∧
    (putFill x0 s).yms = s.yms ∧ (putFill x0 s).grm = s.grm ∧ (putFill x0 s).pdk = s.pdk ∧ (putFill x0 s).ldr = s.ldr
    ∧ (putFill x0 s).sec = s.sec ∧ (putFill x0 s).trg = s.trg ∧ (putFill x0 s).ptp = s.ptp ∧ (putFill x0 s).dbg =
    s.dbg ∧ (putFill x0 s).pwr = s.pwr ∧ (putFill x0 s).ckpt = s.ckpt := by
  unfold putFill; split <;> simp

@[simp] theorem patrolStep_frame (x0 s) : (patrolStep x0 s).pending = s.pending ∧ (patrolStep x0 s).clk = s.clk ∧
    (patrolStep x0 s).tck = s.tck ∧ (patrolStep x0 s).arr = s.arr ∧ (patrolStep x0 s).exe = s.exe ∧ (patrolStep x0
    s).pen = s.pen ∧ (patrolStep x0 s).integ = s.integ ∧ (patrolStep x0 s).dmc = s.dmc ∧ (patrolStep x0 s).lnk = s.lnk
    ∧ (patrolStep x0 s).rls = s.rls ∧ (patrolStep x0 s).yms = s.yms ∧ (patrolStep x0 s).grm = s.grm ∧ (patrolStep x0
    s).pdk = s.pdk ∧ (patrolStep x0 s).ldr = s.ldr ∧ (patrolStep x0 s).sec = s.sec ∧ (patrolStep x0 s).trg = s.trg ∧
    (patrolStep x0 s).ptp = s.ptp ∧ (patrolStep x0 s).dbg = s.dbg ∧ (patrolStep x0 s).pwr = s.pwr ∧ (patrolStep x0
    s).ckpt = s.ckpt := by
  simp [patrolStep]

@[simp] theorem bgStart_frame (x0 s) : (bgStart x0 s).pending = s.pending ∧ (bgStart x0 s).clk = s.clk ∧ (bgStart x0
    s).tck = s.tck ∧ (bgStart x0 s).arr = s.arr ∧ (bgStart x0 s).exe = s.exe ∧ (bgStart x0 s).pen = s.pen ∧ (bgStart
    x0 s).integ = s.integ ∧ (bgStart x0 s).dmc = s.dmc ∧ (bgStart x0 s).lnk = s.lnk ∧ (bgStart x0 s).rls = s.rls ∧
    (bgStart x0 s).yms = s.yms ∧ (bgStart x0 s).grm = s.grm ∧ (bgStart x0 s).pdk = s.pdk ∧ (bgStart x0 s).ldr = s.ldr
    ∧ (bgStart x0 s).sec = s.sec ∧ (bgStart x0 s).trg = s.trg ∧ (bgStart x0 s).ptp = s.ptp ∧ (bgStart x0 s).dbg =
    s.dbg ∧ (bgStart x0 s).pwr = s.pwr ∧ (bgStart x0 s).ckpt = s.ckpt := by
  unfold bgStart; split <;> simp

@[simp] theorem ownErr_frame (x0 s) : (ownErr x0 s).pending = s.pending ∧ (ownErr x0 s).clk = s.clk ∧ (ownErr x0
    s).tck = s.tck ∧ (ownErr x0 s).arr = s.arr ∧ (ownErr x0 s).exe = s.exe ∧ (ownErr x0 s).pen = s.pen ∧ (ownErr x0
    s).integ = s.integ ∧ (ownErr x0 s).shed = s.shed ∧ (ownErr x0 s).dmc = s.dmc ∧ (ownErr x0 s).lnk = s.lnk ∧ (ownErr
    x0 s).yms = s.yms ∧ (ownErr x0 s).grm = s.grm ∧ (ownErr x0 s).pdk = s.pdk ∧ (ownErr x0 s).ldr = s.ldr ∧ (ownErr x0
    s).sec = s.sec ∧ (ownErr x0 s).trg = s.trg ∧ (ownErr x0 s).ptp = s.ptp ∧ (ownErr x0 s).dbg = s.dbg ∧ (ownErr x0
    s).pwr = s.pwr ∧ (ownErr x0 s).ckpt = s.ckpt := by
  simp [ownErr]

@[simp] theorem parityErr_frame (x0 x1 s) : (parityErr x0 x1 s).pending = s.pending ∧ (parityErr x0 x1 s).clk = s.clk
    ∧ (parityErr x0 x1 s).tck = s.tck ∧ (parityErr x0 x1 s).arr = s.arr ∧ (parityErr x0 x1 s).exe = s.exe ∧ (parityErr
    x0 x1 s).pen = s.pen ∧ (parityErr x0 x1 s).integ = s.integ ∧ (parityErr x0 x1 s).shed = s.shed ∧ (parityErr x0 x1
    s).dmc = s.dmc ∧ (parityErr x0 x1 s).lnk = s.lnk ∧ (parityErr x0 x1 s).yms = s.yms ∧ (parityErr x0 x1 s).grm =
    s.grm ∧ (parityErr x0 x1 s).pdk = s.pdk ∧ (parityErr x0 x1 s).ldr = s.ldr ∧ (parityErr x0 x1 s).sec = s.sec ∧
    (parityErr x0 x1 s).trg = s.trg ∧ (parityErr x0 x1 s).ptp = s.ptp ∧ (parityErr x0 x1 s).dbg = s.dbg ∧ (parityErr
    x0 x1 s).pwr = s.pwr ∧ (parityErr x0 x1 s).hst = s.hst ∧ (parityErr x0 x1 s).ckpt = s.ckpt := by
  simp [parityErr]

@[simp] theorem writeLost_frame (x0 x1 s) : (writeLost x0 x1 s).pending = s.pending ∧ (writeLost x0 x1 s).clk = s.clk
    ∧ (writeLost x0 x1 s).tck = s.tck ∧ (writeLost x0 x1 s).arr = s.arr ∧ (writeLost x0 x1 s).exe = s.exe ∧ (writeLost
    x0 x1 s).pen = s.pen ∧ (writeLost x0 x1 s).integ = s.integ ∧ (writeLost x0 x1 s).shed = s.shed ∧ (writeLost x0 x1
    s).dmc = s.dmc ∧ (writeLost x0 x1 s).lnk = s.lnk ∧ (writeLost x0 x1 s).yms = s.yms ∧ (writeLost x0 x1 s).grm =
    s.grm ∧ (writeLost x0 x1 s).pdk = s.pdk ∧ (writeLost x0 x1 s).ldr = s.ldr ∧ (writeLost x0 x1 s).sec = s.sec ∧
    (writeLost x0 x1 s).trg = s.trg ∧ (writeLost x0 x1 s).ptp = s.ptp ∧ (writeLost x0 x1 s).dbg = s.dbg ∧ (writeLost
    x0 x1 s).pwr = s.pwr ∧ (writeLost x0 x1 s).hst = s.hst ∧ (writeLost x0 x1 s).ckpt = s.ckpt := by
  simp [writeLost]

@[simp] theorem shedRead_frame (x0 s) : (shedRead x0 s).pending = s.pending ∧ (shedRead x0 s).clk = s.clk ∧ (shedRead
    x0 s).tck = s.tck ∧ (shedRead x0 s).arr = s.arr ∧ (shedRead x0 s).exe = s.exe ∧ (shedRead x0 s).pen = s.pen ∧
    (shedRead x0 s).integ = s.integ ∧ (shedRead x0 s).shed = s.shed ∧ (shedRead x0 s).dmc = s.dmc ∧ (shedRead x0
    s).lnk = s.lnk ∧ (shedRead x0 s).yms = s.yms ∧ (shedRead x0 s).grm = s.grm ∧ (shedRead x0 s).pdk = s.pdk ∧
    (shedRead x0 s).ldr = s.ldr ∧ (shedRead x0 s).sec = s.sec ∧ (shedRead x0 s).trg = s.trg ∧ (shedRead x0 s).ptp =
    s.ptp ∧ (shedRead x0 s).dbg = s.dbg ∧ (shedRead x0 s).pwr = s.pwr ∧ (shedRead x0 s).hst = s.hst ∧ (shedRead x0
    s).ckpt = s.ckpt := by
  simp only [shedRead]; (repeat' split) <;> simp_all

@[simp] theorem shedWriteB_frame (x0 s) : (shedWriteB x0 s).pending = s.pending ∧ (shedWriteB x0 s).clk = s.clk ∧
    (shedWriteB x0 s).tck = s.tck ∧ (shedWriteB x0 s).arr = s.arr ∧ (shedWriteB x0 s).exe = s.exe ∧ (shedWriteB x0
    s).pen = s.pen ∧ (shedWriteB x0 s).integ = s.integ ∧ (shedWriteB x0 s).dmc = s.dmc ∧ (shedWriteB x0 s).lnk = s.lnk
    ∧ (shedWriteB x0 s).yms = s.yms ∧ (shedWriteB x0 s).grm = s.grm ∧ (shedWriteB x0 s).pdk = s.pdk ∧ (shedWriteB x0
    s).ldr = s.ldr ∧ (shedWriteB x0 s).sec = s.sec ∧ (shedWriteB x0 s).trg = s.trg ∧ (shedWriteB x0 s).ptp = s.ptp ∧
    (shedWriteB x0 s).dbg = s.dbg ∧ (shedWriteB x0 s).pwr = s.pwr ∧ (shedWriteB x0 s).hst = s.hst ∧ (shedWriteB x0
    s).ckpt = s.ckpt := by
  simp only [shedWriteB]; (repeat' split) <;> simp_all

@[simp] theorem setPortB_frame (s x1 x2) : (setPortB s x1 x2).pending = s.pending ∧ (setPortB s x1 x2).regs = s.regs ∧
    (setPortB s x1 x2).clk = s.clk ∧ (setPortB s x1 x2).tck = s.tck ∧ (setPortB s x1 x2).arr = s.arr ∧ (setPortB s x1
    x2).exe = s.exe ∧ (setPortB s x1 x2).pen = s.pen ∧ (setPortB s x1 x2).integ = s.integ ∧ (setPortB s x1 x2).dmc =
    s.dmc ∧ (setPortB s x1 x2).lnk = s.lnk ∧ (setPortB s x1 x2).rls = s.rls ∧ (setPortB s x1 x2).yms = s.yms ∧
    (setPortB s x1 x2).grm = s.grm ∧ (setPortB s x1 x2).pdk = s.pdk ∧ (setPortB s x1 x2).ldr = s.ldr ∧ (setPortB s x1
    x2).sec = s.sec ∧ (setPortB s x1 x2).trg = s.trg ∧ (setPortB s x1 x2).ptp = s.ptp ∧ (setPortB s x1 x2).dbg = s.dbg
    ∧ (setPortB s x1 x2).pwr = s.pwr ∧ (setPortB s x1 x2).hst = s.hst ∧ (setPortB s x1 x2).ckpt = s.ckpt := by
  simp [setPortB]

@[simp] theorem shedAtomic_frame (x0 x1 s) : (shedAtomic x0 x1 s).pending = s.pending ∧ (shedAtomic x0 x1 s).clk =
    s.clk ∧ (shedAtomic x0 x1 s).tck = s.tck ∧ (shedAtomic x0 x1 s).arr = s.arr ∧ (shedAtomic x0 x1 s).exe = s.exe ∧
    (shedAtomic x0 x1 s).pen = s.pen ∧ (shedAtomic x0 x1 s).integ = s.integ ∧ (shedAtomic x0 x1 s).dmc = s.dmc ∧
    (shedAtomic x0 x1 s).lnk = s.lnk ∧ (shedAtomic x0 x1 s).yms = s.yms ∧ (shedAtomic x0 x1 s).grm = s.grm ∧
    (shedAtomic x0 x1 s).pdk = s.pdk ∧ (shedAtomic x0 x1 s).ldr = s.ldr ∧ (shedAtomic x0 x1 s).sec = s.sec ∧
    (shedAtomic x0 x1 s).trg = s.trg ∧ (shedAtomic x0 x1 s).ptp = s.ptp ∧ (shedAtomic x0 x1 s).dbg = s.dbg ∧
    (shedAtomic x0 x1 s).pwr = s.pwr ∧ (shedAtomic x0 x1 s).hst = s.hst ∧ (shedAtomic x0 x1 s).ckpt = s.ckpt := by
  simp only [shedAtomic]; (repeat' split) <;> simp_all

@[simp] theorem shedFinish_frame (x0 x1 s) : (shedFinish x0 x1 s).pending = s.pending ∧ (shedFinish x0 x1 s).clk =
    s.clk ∧ (shedFinish x0 x1 s).tck = s.tck ∧ (shedFinish x0 x1 s).arr = s.arr ∧ (shedFinish x0 x1 s).exe = s.exe ∧
    (shedFinish x0 x1 s).pen = s.pen ∧ (shedFinish x0 x1 s).integ = s.integ ∧ (shedFinish x0 x1 s).dmc = s.dmc ∧
    (shedFinish x0 x1 s).lnk = s.lnk ∧ (shedFinish x0 x1 s).yms = s.yms ∧ (shedFinish x0 x1 s).grm = s.grm ∧
    (shedFinish x0 x1 s).pdk = s.pdk ∧ (shedFinish x0 x1 s).ldr = s.ldr ∧ (shedFinish x0 x1 s).sec = s.sec ∧
    (shedFinish x0 x1 s).trg = s.trg ∧ (shedFinish x0 x1 s).ptp = s.ptp ∧ (shedFinish x0 x1 s).dbg = s.dbg ∧
    (shedFinish x0 x1 s).pwr = s.pwr ∧ (shedFinish x0 x1 s).hst = s.hst ∧ (shedFinish x0 x1 s).ckpt = s.ckpt := by
  unfold shedFinish; split <;> simp

@[simp] theorem shedOp_frame (x0 x1 s) : (shedOp x0 x1 s).pending = s.pending ∧ (shedOp x0 x1 s).clk = s.clk ∧ (shedOp
    x0 x1 s).tck = s.tck ∧ (shedOp x0 x1 s).arr = s.arr ∧ (shedOp x0 x1 s).exe = s.exe ∧ (shedOp x0 x1 s).pen = s.pen
    ∧ (shedOp x0 x1 s).integ = s.integ ∧ (shedOp x0 x1 s).dmc = s.dmc ∧ (shedOp x0 x1 s).lnk = s.lnk ∧ (shedOp x0 x1
    s).yms = s.yms ∧ (shedOp x0 x1 s).grm = s.grm ∧ (shedOp x0 x1 s).pdk = s.pdk ∧ (shedOp x0 x1 s).ldr = s.ldr ∧
    (shedOp x0 x1 s).sec = s.sec ∧ (shedOp x0 x1 s).trg = s.trg ∧ (shedOp x0 x1 s).ptp = s.ptp ∧ (shedOp x0 x1 s).dbg
    = s.dbg ∧ (shedOp x0 x1 s).pwr = s.pwr ∧ (shedOp x0 x1 s).ckpt = s.ckpt := by
  simp only [shedOp]; (repeat' split) <;> simp_all

@[simp] theorem fillGo_frame (x0 x1 x2 s) : (fillGo x0 x1 x2 s).pending = s.pending ∧ (fillGo x0 x1 x2 s).clk = s.clk
    ∧ (fillGo x0 x1 x2 s).tck = s.tck ∧ (fillGo x0 x1 x2 s).arr = s.arr ∧ (fillGo x0 x1 x2 s).exe = s.exe ∧ (fillGo x0
    x1 x2 s).pen = s.pen ∧ (fillGo x0 x1 x2 s).integ = s.integ ∧ (fillGo x0 x1 x2 s).dmc = s.dmc ∧ (fillGo x0 x1 x2
    s).lnk = s.lnk ∧ (fillGo x0 x1 x2 s).rls = s.rls ∧ (fillGo x0 x1 x2 s).yms = s.yms ∧ (fillGo x0 x1 x2 s).grm =
    s.grm ∧ (fillGo x0 x1 x2 s).pdk = s.pdk ∧ (fillGo x0 x1 x2 s).ldr = s.ldr ∧ (fillGo x0 x1 x2 s).sec = s.sec ∧
    (fillGo x0 x1 x2 s).trg = s.trg ∧ (fillGo x0 x1 x2 s).ptp = s.ptp ∧ (fillGo x0 x1 x2 s).dbg = s.dbg ∧ (fillGo x0
    x1 x2 s).pwr = s.pwr ∧ (fillGo x0 x1 x2 s).ckpt = s.ckpt := by
  simp only [fillGo]; (repeat' split) <;> simp_all

@[simp] theorem fgStart_frame (x0 x1 s) : (fgStart x0 x1 s).pending = s.pending ∧ (fgStart x0 x1 s).clk = s.clk ∧
    (fgStart x0 x1 s).tck = s.tck ∧ (fgStart x0 x1 s).arr = s.arr ∧ (fgStart x0 x1 s).exe = s.exe ∧ (fgStart x0 x1
    s).pen = s.pen ∧ (fgStart x0 x1 s).integ = s.integ ∧ (fgStart x0 x1 s).dmc = s.dmc ∧ (fgStart x0 x1 s).lnk = s.lnk
    ∧ (fgStart x0 x1 s).yms = s.yms ∧ (fgStart x0 x1 s).grm = s.grm ∧ (fgStart x0 x1 s).pdk = s.pdk ∧ (fgStart x0 x1
    s).ldr = s.ldr ∧ (fgStart x0 x1 s).sec = s.sec ∧ (fgStart x0 x1 s).trg = s.trg ∧ (fgStart x0 x1 s).ptp = s.ptp ∧
    (fgStart x0 x1 s).dbg = s.dbg ∧ (fgStart x0 x1 s).pwr = s.pwr ∧ (fgStart x0 x1 s).ckpt = s.ckpt := by
  unfold fgStart; split <;> simp

@[simp] theorem addLoss_frame (x0 s) : (addLoss x0 s).pending = s.pending ∧ (addLoss x0 s).regs = s.regs ∧ (addLoss x0
    s).clk = s.clk ∧ (addLoss x0 s).tck = s.tck ∧ (addLoss x0 s).arr = s.arr ∧ (addLoss x0 s).exe = s.exe ∧ (addLoss
    x0 s).pen = s.pen ∧ (addLoss x0 s).integ = s.integ ∧ (addLoss x0 s).dmc = s.dmc ∧ (addLoss x0 s).lnk = s.lnk ∧
    (addLoss x0 s).rls = s.rls ∧ (addLoss x0 s).yms = s.yms ∧ (addLoss x0 s).grm = s.grm ∧ (addLoss x0 s).pdk = s.pdk
    ∧ (addLoss x0 s).ldr = s.ldr ∧ (addLoss x0 s).sec = s.sec ∧ (addLoss x0 s).trg = s.trg ∧ (addLoss x0 s).ptp =
    s.ptp ∧ (addLoss x0 s).dbg = s.dbg ∧ (addLoss x0 s).pwr = s.pwr ∧ (addLoss x0 s).hst = s.hst ∧ (addLoss x0 s).ckpt
    = s.ckpt := by
  unfold addLoss; split <;> simp

@[simp] theorem markStart_frame (x0 s) : (markStart x0 s).pending = s.pending ∧ (markStart x0 s).regs = s.regs ∧
    (markStart x0 s).clk = s.clk ∧ (markStart x0 s).tck = s.tck ∧ (markStart x0 s).arr = s.arr ∧ (markStart x0 s).exe
    = s.exe ∧ (markStart x0 s).pen = s.pen ∧ (markStart x0 s).integ = s.integ ∧ (markStart x0 s).dmc = s.dmc ∧
    (markStart x0 s).lnk = s.lnk ∧ (markStart x0 s).rls = s.rls ∧ (markStart x0 s).yms = s.yms ∧ (markStart x0 s).grm
    = s.grm ∧ (markStart x0 s).pdk = s.pdk ∧ (markStart x0 s).ldr = s.ldr ∧ (markStart x0 s).sec = s.sec ∧ (markStart
    x0 s).trg = s.trg ∧ (markStart x0 s).ptp = s.ptp ∧ (markStart x0 s).dbg = s.dbg ∧ (markStart x0 s).pwr = s.pwr ∧
    (markStart x0 s).hst = s.hst ∧ (markStart x0 s).ckpt = s.ckpt := by
  simp [markStart]

@[simp] theorem serveShed_frame (x0 s) : (serveShed x0 s).pending = s.pending ∧ (serveShed x0 s).clk = s.clk ∧
    (serveShed x0 s).tck = s.tck ∧ (serveShed x0 s).arr = s.arr ∧ (serveShed x0 s).exe = s.exe ∧ (serveShed x0 s).pen
    = s.pen ∧ (serveShed x0 s).integ = s.integ ∧ (serveShed x0 s).dmc = s.dmc ∧ (serveShed x0 s).lnk = s.lnk ∧
    (serveShed x0 s).yms = s.yms ∧ (serveShed x0 s).grm = s.grm ∧ (serveShed x0 s).pdk = s.pdk ∧ (serveShed x0 s).ldr
    = s.ldr ∧ (serveShed x0 s).sec = s.sec ∧ (serveShed x0 s).trg = s.trg ∧ (serveShed x0 s).ptp = s.ptp ∧ (serveShed
    x0 s).dbg = s.dbg ∧ (serveShed x0 s).pwr = s.pwr ∧ (serveShed x0 s).ckpt = s.ckpt := by
  simp only [serveShed]; (repeat' split) <;> simp_all

@[simp] theorem shedArrive_frame (x0 x1 s) : (shedArrive x0 x1 s).pending = s.pending ∧ (shedArrive x0 x1 s).clk =
    s.clk ∧ (shedArrive x0 x1 s).tck = s.tck ∧ (shedArrive x0 x1 s).arr = s.arr ∧ (shedArrive x0 x1 s).exe = s.exe ∧
    (shedArrive x0 x1 s).pen = s.pen ∧ (shedArrive x0 x1 s).integ = s.integ ∧ (shedArrive x0 x1 s).dmc = s.dmc ∧
    (shedArrive x0 x1 s).lnk = s.lnk ∧ (shedArrive x0 x1 s).yms = s.yms ∧ (shedArrive x0 x1 s).grm = s.grm ∧
    (shedArrive x0 x1 s).pdk = s.pdk ∧ (shedArrive x0 x1 s).ldr = s.ldr ∧ (shedArrive x0 x1 s).sec = s.sec ∧
    (shedArrive x0 x1 s).trg = s.trg ∧ (shedArrive x0 x1 s).ptp = s.ptp ∧ (shedArrive x0 x1 s).dbg = s.dbg ∧
    (shedArrive x0 x1 s).pwr = s.pwr ∧ (shedArrive x0 x1 s).ckpt = s.ckpt := by
  unfold shedArrive; split <;> simp

@[simp] theorem serveSheds_frame (s) : (serveSheds s).pending = s.pending ∧ (serveSheds s).clk = s.clk ∧ (serveSheds
    s).tck = s.tck ∧ (serveSheds s).arr = s.arr ∧ (serveSheds s).exe = s.exe ∧ (serveSheds s).pen = s.pen ∧
    (serveSheds s).integ = s.integ ∧ (serveSheds s).dmc = s.dmc ∧ (serveSheds s).lnk = s.lnk ∧ (serveSheds s).yms =
    s.yms ∧ (serveSheds s).grm = s.grm ∧ (serveSheds s).pdk = s.pdk ∧ (serveSheds s).ldr = s.ldr ∧ (serveSheds s).sec
    = s.sec ∧ (serveSheds s).trg = s.trg ∧ (serveSheds s).ptp = s.ptp ∧ (serveSheds s).dbg = s.dbg ∧ (serveSheds
    s).pwr = s.pwr ∧ (serveSheds s).ckpt = s.ckpt := by
  simp [serveSheds]

@[simp] theorem pass_frame (x0 s) : (pass x0 s).pending = s.pending ∧ (pass x0 s).tck = s.tck ∧ (pass x0 s).arr =
    s.arr ∧ (pass x0 s).exe = s.exe ∧ (pass x0 s).pen = s.pen ∧ (pass x0 s).integ = s.integ ∧ (pass x0 s).dmc = s.dmc
    ∧ (pass x0 s).lnk = s.lnk ∧ (pass x0 s).yms = s.yms ∧ (pass x0 s).grm = s.grm ∧ (pass x0 s).pdk = s.pdk ∧ (pass x0
    s).ldr = s.ldr ∧ (pass x0 s).sec = s.sec ∧ (pass x0 s).trg = s.trg ∧ (pass x0 s).dbg = s.dbg ∧ (pass x0 s).pwr =
    s.pwr ∧ (pass x0 s).ckpt = s.ckpt := by
  fun_induction pass <;> simp_all

@[simp] theorem passTo_frame (x0 s) : (passTo x0 s).pending = s.pending ∧ (passTo x0 s).tck = s.tck ∧ (passTo x0
    s).arr = s.arr ∧ (passTo x0 s).exe = s.exe ∧ (passTo x0 s).pen = s.pen ∧ (passTo x0 s).integ = s.integ ∧ (passTo
    x0 s).dmc = s.dmc ∧ (passTo x0 s).lnk = s.lnk ∧ (passTo x0 s).yms = s.yms ∧ (passTo x0 s).grm = s.grm ∧ (passTo x0
    s).pdk = s.pdk ∧ (passTo x0 s).ldr = s.ldr ∧ (passTo x0 s).sec = s.sec ∧ (passTo x0 s).trg = s.trg ∧ (passTo x0
    s).dbg = s.dbg ∧ (passTo x0 s).pwr = s.pwr ∧ (passTo x0 s).ckpt = s.ckpt := by
  simp [passTo]

@[simp] theorem passPs_frame (x0 s) : (passPs x0 s).pending = s.pending ∧ (passPs x0 s).tck = s.tck ∧ (passPs x0
    s).arr = s.arr ∧ (passPs x0 s).exe = s.exe ∧ (passPs x0 s).pen = s.pen ∧ (passPs x0 s).integ = s.integ ∧ (passPs
    x0 s).dmc = s.dmc ∧ (passPs x0 s).lnk = s.lnk ∧ (passPs x0 s).yms = s.yms ∧ (passPs x0 s).grm = s.grm ∧ (passPs x0
    s).pdk = s.pdk ∧ (passPs x0 s).ldr = s.ldr ∧ (passPs x0 s).sec = s.sec ∧ (passPs x0 s).trg = s.trg ∧ (passPs x0
    s).dbg = s.dbg ∧ (passPs x0 s).pwr = s.pwr ∧ (passPs x0 s).ckpt = s.ckpt := by
  simp [passPs]

/-! ### Array -/

@[simp] theorem retire_frame (s x1 x2 x3 x4) : (retire s x1 x2 x3 x4).pending = s.pending ∧ (retire s x1 x2 x3 x4).pen
    = s.pen ∧ (retire s x1 x2 x3 x4).dmc = s.dmc ∧ (retire s x1 x2 x3 x4).lnk = s.lnk ∧ (retire s x1 x2 x3 x4).yms =
    s.yms ∧ (retire s x1 x2 x3 x4).grm = s.grm ∧ (retire s x1 x2 x3 x4).pdk = s.pdk ∧ (retire s x1 x2 x3 x4).ldr =
    s.ldr ∧ (retire s x1 x2 x3 x4).sec = s.sec ∧ (retire s x1 x2 x3 x4).trg = s.trg ∧ (retire s x1 x2 x3 x4).dbg =
    s.dbg ∧ (retire s x1 x2 x3 x4).pwr = s.pwr ∧ (retire s x1 x2 x3 x4).ckpt = s.ckpt := by
  simp [retire]

@[simp] theorem doIdle_frame (x0 x1 s) : (doIdle x0 x1 s).pending = s.pending ∧ (doIdle x0 x1 s).pen = s.pen ∧ (doIdle
    x0 x1 s).dmc = s.dmc ∧ (doIdle x0 x1 s).lnk = s.lnk ∧ (doIdle x0 x1 s).yms = s.yms ∧ (doIdle x0 x1 s).grm = s.grm
    ∧ (doIdle x0 x1 s).pdk = s.pdk ∧ (doIdle x0 x1 s).ldr = s.ldr ∧ (doIdle x0 x1 s).sec = s.sec ∧ (doIdle x0 x1
    s).trg = s.trg ∧ (doIdle x0 x1 s).dbg = s.dbg ∧ (doIdle x0 x1 s).pwr = s.pwr ∧ (doIdle x0 x1 s).ckpt = s.ckpt :=
    by
  simp [doIdle]

@[simp] theorem doLutd_frame (x0 x1 s) : (doLutd x0 x1 s).pending = s.pending ∧ (doLutd x0 x1 s).pen = s.pen ∧ (doLutd
    x0 x1 s).dmc = s.dmc ∧ (doLutd x0 x1 s).lnk = s.lnk ∧ (doLutd x0 x1 s).yms = s.yms ∧ (doLutd x0 x1 s).grm = s.grm
    ∧ (doLutd x0 x1 s).pdk = s.pdk ∧ (doLutd x0 x1 s).ldr = s.ldr ∧ (doLutd x0 x1 s).sec = s.sec ∧ (doLutd x0 x1
    s).trg = s.trg ∧ (doLutd x0 x1 s).dbg = s.dbg ∧ (doLutd x0 x1 s).pwr = s.pwr ∧ (doLutd x0 x1 s).ckpt = s.ckpt :=
    by
  simp [doLutd]

@[simp] theorem doLutl_frame (x0 x1 s) : (doLutl x0 x1 s).pending = s.pending ∧ (doLutl x0 x1 s).pen = s.pen ∧ (doLutl
    x0 x1 s).dmc = s.dmc ∧ (doLutl x0 x1 s).lnk = s.lnk ∧ (doLutl x0 x1 s).yms = s.yms ∧ (doLutl x0 x1 s).grm = s.grm
    ∧ (doLutl x0 x1 s).pdk = s.pdk ∧ (doLutl x0 x1 s).ldr = s.ldr ∧ (doLutl x0 x1 s).sec = s.sec ∧ (doLutl x0 x1
    s).trg = s.trg ∧ (doLutl x0 x1 s).dbg = s.dbg ∧ (doLutl x0 x1 s).pwr = s.pwr ∧ (doLutl x0 x1 s).ckpt = s.ckpt :=
    by
  unfold doLutl; split <;> simp

@[simp] theorem doStw_frame (x0 x1 s) : (doStw x0 x1 s).pending = s.pending ∧ (doStw x0 x1 s).pen = s.pen ∧ (doStw x0
    x1 s).dmc = s.dmc ∧ (doStw x0 x1 s).lnk = s.lnk ∧ (doStw x0 x1 s).yms = s.yms ∧ (doStw x0 x1 s).grm = s.grm ∧
    (doStw x0 x1 s).pdk = s.pdk ∧ (doStw x0 x1 s).ldr = s.ldr ∧ (doStw x0 x1 s).sec = s.sec ∧ (doStw x0 x1 s).trg =
    s.trg ∧ (doStw x0 x1 s).dbg = s.dbg ∧ (doStw x0 x1 s).pwr = s.pwr ∧ (doStw x0 x1 s).ckpt = s.ckpt := by
  simp [doStw]

@[simp] theorem doMrd_frame (x0 x1 s) : (doMrd x0 x1 s).pending = s.pending ∧ (doMrd x0 x1 s).pen = s.pen ∧ (doMrd x0
    x1 s).dmc = s.dmc ∧ (doMrd x0 x1 s).lnk = s.lnk ∧ (doMrd x0 x1 s).yms = s.yms ∧ (doMrd x0 x1 s).grm = s.grm ∧
    (doMrd x0 x1 s).pdk = s.pdk ∧ (doMrd x0 x1 s).ldr = s.ldr ∧ (doMrd x0 x1 s).sec = s.sec ∧ (doMrd x0 x1 s).trg =
    s.trg ∧ (doMrd x0 x1 s).dbg = s.dbg ∧ (doMrd x0 x1 s).pwr = s.pwr ∧ (doMrd x0 x1 s).ckpt = s.ckpt := by
  simp [doMrd]

@[simp] theorem doMwr_frame (x0 x1 s) : (doMwr x0 x1 s).pending = s.pending ∧ (doMwr x0 x1 s).dmc = s.dmc ∧ (doMwr x0
    x1 s).lnk = s.lnk ∧ (doMwr x0 x1 s).yms = s.yms ∧ (doMwr x0 x1 s).grm = s.grm ∧ (doMwr x0 x1 s).pdk = s.pdk ∧
    (doMwr x0 x1 s).ldr = s.ldr ∧ (doMwr x0 x1 s).sec = s.sec ∧ (doMwr x0 x1 s).trg = s.trg ∧ (doMwr x0 x1 s).dbg =
    s.dbg ∧ (doMwr x0 x1 s).pwr = s.pwr ∧ (doMwr x0 x1 s).ckpt = s.ckpt := by
  simp only [doMwr]; (repeat' split) <;> simp_all

@[simp] theorem doXmt_frame (x0 x1 s) : (doXmt x0 x1 s).pending = s.pending ∧ (doXmt x0 x1 s).pen = s.pen ∧ (doXmt x0
    x1 s).dmc = s.dmc ∧ (doXmt x0 x1 s).lnk = s.lnk ∧ (doXmt x0 x1 s).yms = s.yms ∧ (doXmt x0 x1 s).grm = s.grm ∧
    (doXmt x0 x1 s).pdk = s.pdk ∧ (doXmt x0 x1 s).ldr = s.ldr ∧ (doXmt x0 x1 s).sec = s.sec ∧ (doXmt x0 x1 s).trg =
    s.trg ∧ (doXmt x0 x1 s).dbg = s.dbg ∧ (doXmt x0 x1 s).pwr = s.pwr ∧ (doXmt x0 x1 s).ckpt = s.ckpt := by
  simp [doXmt]

@[simp] theorem doLnk_frame (x0 x1 s) : (doLnk x0 x1 s).pending = s.pending ∧ (doLnk x0 x1 s).dmc = s.dmc ∧ (doLnk x0
    x1 s).lnk = s.lnk ∧ (doLnk x0 x1 s).yms = s.yms ∧ (doLnk x0 x1 s).grm = s.grm ∧ (doLnk x0 x1 s).pdk = s.pdk ∧
    (doLnk x0 x1 s).ldr = s.ldr ∧ (doLnk x0 x1 s).sec = s.sec ∧ (doLnk x0 x1 s).trg = s.trg ∧ (doLnk x0 x1 s).dbg =
    s.dbg ∧ (doLnk x0 x1 s).pwr = s.pwr ∧ (doLnk x0 x1 s).ckpt = s.ckpt := by
  simp [doLnk]

@[simp] theorem placeEvent_frame (x0 s) : (placeEvent x0 s).pending = s.pending ∧ (placeEvent x0 s).clk = s.clk ∧
    (placeEvent x0 s).tck = s.tck ∧ (placeEvent x0 s).arr = s.arr ∧ (placeEvent x0 s).exe = s.exe ∧ (placeEvent x0
    s).integ = s.integ ∧ (placeEvent x0 s).shed = s.shed ∧ (placeEvent x0 s).dmc = s.dmc ∧ (placeEvent x0 s).lnk =
    s.lnk ∧ (placeEvent x0 s).rls = s.rls ∧ (placeEvent x0 s).yms = s.yms ∧ (placeEvent x0 s).grm = s.grm ∧
    (placeEvent x0 s).pdk = s.pdk ∧ (placeEvent x0 s).ldr = s.ldr ∧ (placeEvent x0 s).sec = s.sec ∧ (placeEvent x0
    s).trg = s.trg ∧ (placeEvent x0 s).ptp = s.ptp ∧ (placeEvent x0 s).dbg = s.dbg ∧ (placeEvent x0 s).pwr = s.pwr ∧
    (placeEvent x0 s).hst = s.hst ∧ (placeEvent x0 s).ckpt = s.ckpt := by
  simp [placeEvent]

@[simp] theorem doCall_frame (x0 x1 s) : (doCall x0 x1 s).pending = s.pending ∧ (doCall x0 x1 s).dmc = s.dmc ∧ (doCall
    x0 x1 s).lnk = s.lnk ∧ (doCall x0 x1 s).yms = s.yms ∧ (doCall x0 x1 s).grm = s.grm ∧ (doCall x0 x1 s).pdk = s.pdk
    ∧ (doCall x0 x1 s).ldr = s.ldr ∧ (doCall x0 x1 s).sec = s.sec ∧ (doCall x0 x1 s).trg = s.trg ∧ (doCall x0 x1
    s).dbg = s.dbg ∧ (doCall x0 x1 s).pwr = s.pwr ∧ (doCall x0 x1 s).ckpt = s.ckpt := by
  simp only [doCall]; (repeat' split) <;> simp_all

@[simp] theorem doCheck_frame (x0 x1 s) : (doCheck x0 x1 s).pending = s.pending ∧ (doCheck x0 x1 s).dmc = s.dmc ∧
    (doCheck x0 x1 s).lnk = s.lnk ∧ (doCheck x0 x1 s).yms = s.yms ∧ (doCheck x0 x1 s).grm = s.grm ∧ (doCheck x0 x1
    s).pdk = s.pdk ∧ (doCheck x0 x1 s).ldr = s.ldr ∧ (doCheck x0 x1 s).sec = s.sec ∧ (doCheck x0 x1 s).trg = s.trg ∧
    (doCheck x0 x1 s).dbg = s.dbg ∧ (doCheck x0 x1 s).pwr = s.pwr ∧ (doCheck x0 x1 s).ckpt = s.ckpt := by
  simp only [doCheck]; (repeat' split) <;> simp_all

@[simp] theorem doProbe_frame (x0 x1 s) : (doProbe x0 x1 s).pending = s.pending ∧ (doProbe x0 x1 s).dmc = s.dmc ∧
    (doProbe x0 x1 s).lnk = s.lnk ∧ (doProbe x0 x1 s).yms = s.yms ∧ (doProbe x0 x1 s).grm = s.grm ∧ (doProbe x0 x1
    s).pdk = s.pdk ∧ (doProbe x0 x1 s).ldr = s.ldr ∧ (doProbe x0 x1 s).sec = s.sec ∧ (doProbe x0 x1 s).trg = s.trg ∧
    (doProbe x0 x1 s).dbg = s.dbg ∧ (doProbe x0 x1 s).pwr = s.pwr ∧ (doProbe x0 x1 s).ckpt = s.ckpt := by
  simp [doProbe]

@[simp] theorem doReadLanding_frame (x0 x1 x2 s) : (doReadLanding x0 x1 x2 s).pending = s.pending ∧ (doReadLanding x0
    x1 x2 s).arr = s.arr ∧ (doReadLanding x0 x1 x2 s).pen = s.pen ∧ (doReadLanding x0 x1 x2 s).integ = s.integ ∧
    (doReadLanding x0 x1 x2 s).dmc = s.dmc ∧ (doReadLanding x0 x1 x2 s).lnk = s.lnk ∧ (doReadLanding x0 x1 x2 s).yms =
    s.yms ∧ (doReadLanding x0 x1 x2 s).grm = s.grm ∧ (doReadLanding x0 x1 x2 s).pdk = s.pdk ∧ (doReadLanding x0 x1 x2
    s).ldr = s.ldr ∧ (doReadLanding x0 x1 x2 s).sec = s.sec ∧ (doReadLanding x0 x1 x2 s).trg = s.trg ∧ (doReadLanding
    x0 x1 x2 s).dbg = s.dbg ∧ (doReadLanding x0 x1 x2 s).pwr = s.pwr ∧ (doReadLanding x0 x1 x2 s).ckpt = s.ckpt := by
  simp [doReadLanding]

/-! ### DramOps -/

@[simp] theorem portNote_frame (x0 s) : (portNote x0 s).pending = s.pending ∧ (portNote x0 s).clk = s.clk ∧ (portNote
    x0 s).tck = s.tck ∧ (portNote x0 s).arr = s.arr ∧ (portNote x0 s).exe = s.exe ∧ (portNote x0 s).pen = s.pen ∧
    (portNote x0 s).integ = s.integ ∧ (portNote x0 s).shed = s.shed ∧ (portNote x0 s).dmc = s.dmc ∧ (portNote x0
    s).lnk = s.lnk ∧ (portNote x0 s).rls = s.rls ∧ (portNote x0 s).yms = s.yms ∧ (portNote x0 s).grm = s.grm ∧
    (portNote x0 s).pdk = s.pdk ∧ (portNote x0 s).ldr = s.ldr ∧ (portNote x0 s).sec = s.sec ∧ (portNote x0 s).trg =
    s.trg ∧ (portNote x0 s).ptp = s.ptp ∧ (portNote x0 s).dbg = s.dbg ∧ (portNote x0 s).pwr = s.pwr ∧ (portNote x0
    s).ckpt = s.ckpt := by
  unfold portNote; split <;> simp

@[simp] theorem enqueue_frame (x0 s) : (enqueue x0 s).pending = s.pending ∧ (enqueue x0 s).regs = s.regs ∧ (enqueue x0
    s).clk = s.clk ∧ (enqueue x0 s).tck = s.tck ∧ (enqueue x0 s).arr = s.arr ∧ (enqueue x0 s).exe = s.exe ∧ (enqueue
    x0 s).pen = s.pen ∧ (enqueue x0 s).integ = s.integ ∧ (enqueue x0 s).shed = s.shed ∧ (enqueue x0 s).lnk = s.lnk ∧
    (enqueue x0 s).rls = s.rls ∧ (enqueue x0 s).yms = s.yms ∧ (enqueue x0 s).grm = s.grm ∧ (enqueue x0 s).pdk = s.pdk
    ∧ (enqueue x0 s).ldr = s.ldr ∧ (enqueue x0 s).sec = s.sec ∧ (enqueue x0 s).trg = s.trg ∧ (enqueue x0 s).ptp =
    s.ptp ∧ (enqueue x0 s).dbg = s.dbg ∧ (enqueue x0 s).pwr = s.pwr ∧ (enqueue x0 s).hst = s.hst ∧ (enqueue x0 s).ckpt
    = s.ckpt := by
  simp [enqueue]

@[simp] theorem selfRefresh_frame (x0 x1 s) : (selfRefresh x0 x1 s).pending = s.pending ∧ (selfRefresh x0 x1 s).clk =
    s.clk ∧ (selfRefresh x0 x1 s).tck = s.tck ∧ (selfRefresh x0 x1 s).arr = s.arr ∧ (selfRefresh x0 x1 s).exe = s.exe
    ∧ (selfRefresh x0 x1 s).pen = s.pen ∧ (selfRefresh x0 x1 s).integ = s.integ ∧ (selfRefresh x0 x1 s).shed = s.shed
    ∧ (selfRefresh x0 x1 s).lnk = s.lnk ∧ (selfRefresh x0 x1 s).rls = s.rls ∧ (selfRefresh x0 x1 s).yms = s.yms ∧
    (selfRefresh x0 x1 s).grm = s.grm ∧ (selfRefresh x0 x1 s).pdk = s.pdk ∧ (selfRefresh x0 x1 s).ldr = s.ldr ∧
    (selfRefresh x0 x1 s).sec = s.sec ∧ (selfRefresh x0 x1 s).trg = s.trg ∧ (selfRefresh x0 x1 s).ptp = s.ptp ∧
    (selfRefresh x0 x1 s).dbg = s.dbg ∧ (selfRefresh x0 x1 s).pwr = s.pwr ∧ (selfRefresh x0 x1 s).hst = s.hst ∧
    (selfRefresh x0 x1 s).ckpt = s.ckpt := by
  simp [selfRefresh]

@[simp] theorem noteCmd_frame (x0 x1 s) : (noteCmd x0 x1 s).pending = s.pending ∧ (noteCmd x0 x1 s).regs = s.regs ∧
    (noteCmd x0 x1 s).clk = s.clk ∧ (noteCmd x0 x1 s).tck = s.tck ∧ (noteCmd x0 x1 s).arr = s.arr ∧ (noteCmd x0 x1
    s).exe = s.exe ∧ (noteCmd x0 x1 s).pen = s.pen ∧ (noteCmd x0 x1 s).integ = s.integ ∧ (noteCmd x0 x1 s).shed =
    s.shed ∧ (noteCmd x0 x1 s).lnk = s.lnk ∧ (noteCmd x0 x1 s).rls = s.rls ∧ (noteCmd x0 x1 s).yms = s.yms ∧ (noteCmd
    x0 x1 s).grm = s.grm ∧ (noteCmd x0 x1 s).pdk = s.pdk ∧ (noteCmd x0 x1 s).ldr = s.ldr ∧ (noteCmd x0 x1 s).sec =
    s.sec ∧ (noteCmd x0 x1 s).trg = s.trg ∧ (noteCmd x0 x1 s).ptp = s.ptp ∧ (noteCmd x0 x1 s).dbg = s.dbg ∧ (noteCmd
    x0 x1 s).pwr = s.pwr ∧ (noteCmd x0 x1 s).hst = s.hst ∧ (noteCmd x0 x1 s).ckpt = s.ckpt := by
  simp [noteCmd]

@[simp] theorem readBurst_frame (x0 x1 s) : (readBurst x0 x1 s).1.pending = s.pending ∧ (readBurst x0 x1 s).1.clk =
    s.clk ∧ (readBurst x0 x1 s).1.tck = s.tck ∧ (readBurst x0 x1 s).1.arr = s.arr ∧ (readBurst x0 x1 s).1.exe = s.exe
    ∧ (readBurst x0 x1 s).1.pen = s.pen ∧ (readBurst x0 x1 s).1.integ = s.integ ∧ (readBurst x0 x1 s).1.shed = s.shed
    ∧ (readBurst x0 x1 s).1.dmc = s.dmc ∧ (readBurst x0 x1 s).1.lnk = s.lnk ∧ (readBurst x0 x1 s).1.rls = s.rls ∧
    (readBurst x0 x1 s).1.yms = s.yms ∧ (readBurst x0 x1 s).1.grm = s.grm ∧ (readBurst x0 x1 s).1.pdk = s.pdk ∧
    (readBurst x0 x1 s).1.ldr = s.ldr ∧ (readBurst x0 x1 s).1.sec = s.sec ∧ (readBurst x0 x1 s).1.trg = s.trg ∧
    (readBurst x0 x1 s).1.ptp = s.ptp ∧ (readBurst x0 x1 s).1.dbg = s.dbg ∧ (readBurst x0 x1 s).1.pwr = s.pwr ∧
    (readBurst x0 x1 s).1.hst = s.hst ∧ (readBurst x0 x1 s).1.ckpt = s.ckpt := by
  simp [readBurst]

@[simp] theorem portWrite_frame (x0 x1 x2 s) : (portWrite x0 x1 x2 s).pending = s.pending ∧ (portWrite x0 x1 x2 s).clk
    = s.clk ∧ (portWrite x0 x1 x2 s).tck = s.tck ∧ (portWrite x0 x1 x2 s).arr = s.arr ∧ (portWrite x0 x1 x2 s).exe =
    s.exe ∧ (portWrite x0 x1 x2 s).pen = s.pen ∧ (portWrite x0 x1 x2 s).integ = s.integ ∧ (portWrite x0 x1 x2 s).shed
    = s.shed ∧ (portWrite x0 x1 x2 s).lnk = s.lnk ∧ (portWrite x0 x1 x2 s).rls = s.rls ∧ (portWrite x0 x1 x2 s).yms =
    s.yms ∧ (portWrite x0 x1 x2 s).grm = s.grm ∧ (portWrite x0 x1 x2 s).pdk = s.pdk ∧ (portWrite x0 x1 x2 s).ldr =
    s.ldr ∧ (portWrite x0 x1 x2 s).sec = s.sec ∧ (portWrite x0 x1 x2 s).trg = s.trg ∧ (portWrite x0 x1 x2 s).ptp =
    s.ptp ∧ (portWrite x0 x1 x2 s).dbg = s.dbg ∧ (portWrite x0 x1 x2 s).pwr = s.pwr ∧ (portWrite x0 x1 x2 s).ckpt =
    s.ckpt := by
  simp only [portWrite]; (repeat' split) <;> simp_all

@[simp] theorem burstNote_frame (x0 s) : (burstNote x0 s).pending = s.pending ∧ (burstNote x0 s).clk = s.clk ∧
    (burstNote x0 s).tck = s.tck ∧ (burstNote x0 s).arr = s.arr ∧ (burstNote x0 s).exe = s.exe ∧ (burstNote x0 s).pen
    = s.pen ∧ (burstNote x0 s).integ = s.integ ∧ (burstNote x0 s).shed = s.shed ∧ (burstNote x0 s).lnk = s.lnk ∧
    (burstNote x0 s).rls = s.rls ∧ (burstNote x0 s).yms = s.yms ∧ (burstNote x0 s).grm = s.grm ∧ (burstNote x0 s).pdk
    = s.pdk ∧ (burstNote x0 s).ldr = s.ldr ∧ (burstNote x0 s).sec = s.sec ∧ (burstNote x0 s).trg = s.trg ∧ (burstNote
    x0 s).ptp = s.ptp ∧ (burstNote x0 s).dbg = s.dbg ∧ (burstNote x0 s).pwr = s.pwr ∧ (burstNote x0 s).ckpt = s.ckpt
    := by
  simp only [burstNote]; (repeat' split) <;> simp_all

@[simp] theorem burstsNote_frame (x0 s) : (burstsNote x0 s).pending = s.pending ∧ (burstsNote x0 s).clk = s.clk ∧
    (burstsNote x0 s).tck = s.tck ∧ (burstsNote x0 s).arr = s.arr ∧ (burstsNote x0 s).exe = s.exe ∧ (burstsNote x0
    s).pen = s.pen ∧ (burstsNote x0 s).integ = s.integ ∧ (burstsNote x0 s).shed = s.shed ∧ (burstsNote x0 s).lnk =
    s.lnk ∧ (burstsNote x0 s).rls = s.rls ∧ (burstsNote x0 s).yms = s.yms ∧ (burstsNote x0 s).grm = s.grm ∧
    (burstsNote x0 s).pdk = s.pdk ∧ (burstsNote x0 s).ldr = s.ldr ∧ (burstsNote x0 s).sec = s.sec ∧ (burstsNote x0
    s).trg = s.trg ∧ (burstsNote x0 s).ptp = s.ptp ∧ (burstsNote x0 s).dbg = s.dbg ∧ (burstsNote x0 s).pwr = s.pwr ∧
    (burstsNote x0 s).ckpt = s.ckpt := by
  simp [burstsNote]

@[simp] theorem readsNote_frame (x0 x1 s) : (readsNote x0 x1 s).pending = s.pending ∧ (readsNote x0 x1 s).clk = s.clk
    ∧ (readsNote x0 x1 s).tck = s.tck ∧ (readsNote x0 x1 s).arr = s.arr ∧ (readsNote x0 x1 s).exe = s.exe ∧ (readsNote
    x0 x1 s).pen = s.pen ∧ (readsNote x0 x1 s).integ = s.integ ∧ (readsNote x0 x1 s).shed = s.shed ∧ (readsNote x0 x1
    s).lnk = s.lnk ∧ (readsNote x0 x1 s).rls = s.rls ∧ (readsNote x0 x1 s).yms = s.yms ∧ (readsNote x0 x1 s).grm =
    s.grm ∧ (readsNote x0 x1 s).pdk = s.pdk ∧ (readsNote x0 x1 s).ldr = s.ldr ∧ (readsNote x0 x1 s).sec = s.sec ∧
    (readsNote x0 x1 s).trg = s.trg ∧ (readsNote x0 x1 s).ptp = s.ptp ∧ (readsNote x0 x1 s).dbg = s.dbg ∧ (readsNote
    x0 x1 s).pwr = s.pwr ∧ (readsNote x0 x1 s).ckpt = s.ckpt := by
  simp [readsNote]

@[simp] theorem portWrites_frame (x0 x1 x2 s) : (portWrites x0 x1 x2 s).pending = s.pending ∧ (portWrites x0 x1 x2
    s).clk = s.clk ∧ (portWrites x0 x1 x2 s).tck = s.tck ∧ (portWrites x0 x1 x2 s).arr = s.arr ∧ (portWrites x0 x1 x2
    s).exe = s.exe ∧ (portWrites x0 x1 x2 s).pen = s.pen ∧ (portWrites x0 x1 x2 s).integ = s.integ ∧ (portWrites x0 x1
    x2 s).shed = s.shed ∧ (portWrites x0 x1 x2 s).lnk = s.lnk ∧ (portWrites x0 x1 x2 s).rls = s.rls ∧ (portWrites x0
    x1 x2 s).yms = s.yms ∧ (portWrites x0 x1 x2 s).grm = s.grm ∧ (portWrites x0 x1 x2 s).pdk = s.pdk ∧ (portWrites x0
    x1 x2 s).ldr = s.ldr ∧ (portWrites x0 x1 x2 s).sec = s.sec ∧ (portWrites x0 x1 x2 s).trg = s.trg ∧ (portWrites x0
    x1 x2 s).ptp = s.ptp ∧ (portWrites x0 x1 x2 s).dbg = s.dbg ∧ (portWrites x0 x1 x2 s).pwr = s.pwr ∧ (portWrites x0
    x1 x2 s).ckpt = s.ckpt := by
  simp [portWrites]

@[simp] theorem goldenNote_frame (x0 x1 s) : (goldenNote x0 x1 s).pending = s.pending ∧ (goldenNote x0 x1 s).clk =
    s.clk ∧ (goldenNote x0 x1 s).tck = s.tck ∧ (goldenNote x0 x1 s).arr = s.arr ∧ (goldenNote x0 x1 s).exe = s.exe ∧
    (goldenNote x0 x1 s).pen = s.pen ∧ (goldenNote x0 x1 s).integ = s.integ ∧ (goldenNote x0 x1 s).shed = s.shed ∧
    (goldenNote x0 x1 s).lnk = s.lnk ∧ (goldenNote x0 x1 s).rls = s.rls ∧ (goldenNote x0 x1 s).yms = s.yms ∧
    (goldenNote x0 x1 s).grm = s.grm ∧ (goldenNote x0 x1 s).pdk = s.pdk ∧ (goldenNote x0 x1 s).ldr = s.ldr ∧
    (goldenNote x0 x1 s).sec = s.sec ∧ (goldenNote x0 x1 s).trg = s.trg ∧ (goldenNote x0 x1 s).ptp = s.ptp ∧
    (goldenNote x0 x1 s).dbg = s.dbg ∧ (goldenNote x0 x1 s).pwr = s.pwr ∧ (goldenNote x0 x1 s).ckpt = s.ckpt := by
  simp only [goldenNote]; (repeat' split) <;> simp_all

@[simp] theorem goldenNotes_frame (x0 s) : (goldenNotes x0 s).pending = s.pending ∧ (goldenNotes x0 s).clk = s.clk ∧
    (goldenNotes x0 s).tck = s.tck ∧ (goldenNotes x0 s).arr = s.arr ∧ (goldenNotes x0 s).exe = s.exe ∧ (goldenNotes x0
    s).pen = s.pen ∧ (goldenNotes x0 s).integ = s.integ ∧ (goldenNotes x0 s).shed = s.shed ∧ (goldenNotes x0 s).lnk =
    s.lnk ∧ (goldenNotes x0 s).rls = s.rls ∧ (goldenNotes x0 s).yms = s.yms ∧ (goldenNotes x0 s).grm = s.grm ∧
    (goldenNotes x0 s).pdk = s.pdk ∧ (goldenNotes x0 s).ldr = s.ldr ∧ (goldenNotes x0 s).sec = s.sec ∧ (goldenNotes x0
    s).trg = s.trg ∧ (goldenNotes x0 s).ptp = s.ptp ∧ (goldenNotes x0 s).dbg = s.dbg ∧ (goldenNotes x0 s).pwr = s.pwr
    ∧ (goldenNotes x0 s).ckpt = s.ckpt := by
  simp [goldenNotes]

/-! ### Integrity -/

@[simp] theorem enterHalted_frame (s) : (enterHalted s).pending = s.pending ∧ (enterHalted s).clk = s.clk ∧
    (enterHalted s).arr = s.arr ∧ (enterHalted s).exe = s.exe ∧ (enterHalted s).pen = s.pen ∧ (enterHalted s).integ =
    s.integ ∧ (enterHalted s).shed = s.shed ∧ (enterHalted s).dmc = s.dmc ∧ (enterHalted s).lnk = s.lnk ∧ (enterHalted
    s).rls = s.rls ∧ (enterHalted s).yms = s.yms ∧ (enterHalted s).grm = s.grm ∧ (enterHalted s).pdk = s.pdk ∧
    (enterHalted s).ldr = s.ldr ∧ (enterHalted s).sec = s.sec ∧ (enterHalted s).trg = s.trg ∧ (enterHalted s).ptp =
    s.ptp ∧ (enterHalted s).dbg = s.dbg ∧ (enterHalted s).pwr = s.pwr ∧ (enterHalted s).ckpt = s.ckpt := by
  simp [enterHalted]

@[simp] theorem enterFaulted_frame (s) : (enterFaulted s).pending = s.pending ∧ (enterFaulted s).clk = s.clk ∧
    (enterFaulted s).arr = s.arr ∧ (enterFaulted s).exe = s.exe ∧ (enterFaulted s).pen = s.pen ∧ (enterFaulted
    s).integ = s.integ ∧ (enterFaulted s).shed = s.shed ∧ (enterFaulted s).dmc = s.dmc ∧ (enterFaulted s).lnk = s.lnk
    ∧ (enterFaulted s).rls = s.rls ∧ (enterFaulted s).yms = s.yms ∧ (enterFaulted s).grm = s.grm ∧ (enterFaulted
    s).pdk = s.pdk ∧ (enterFaulted s).ldr = s.ldr ∧ (enterFaulted s).sec = s.sec ∧ (enterFaulted s).trg = s.trg ∧
    (enterFaulted s).ptp = s.ptp ∧ (enterFaulted s).dbg = s.dbg ∧ (enterFaulted s).pwr = s.pwr ∧ (enterFaulted s).ckpt
    = s.ckpt := by
  simp [enterFaulted]

@[simp] theorem setTaint_frame (s) : (setTaint s).pending = s.pending ∧ (setTaint s).clk = s.clk ∧ (setTaint s).tck =
    s.tck ∧ (setTaint s).arr = s.arr ∧ (setTaint s).exe = s.exe ∧ (setTaint s).pen = s.pen ∧ (setTaint s).integ =
    s.integ ∧ (setTaint s).shed = s.shed ∧ (setTaint s).dmc = s.dmc ∧ (setTaint s).lnk = s.lnk ∧ (setTaint s).rls =
    s.rls ∧ (setTaint s).yms = s.yms ∧ (setTaint s).grm = s.grm ∧ (setTaint s).pdk = s.pdk ∧ (setTaint s).ldr = s.ldr
    ∧ (setTaint s).sec = s.sec ∧ (setTaint s).trg = s.trg ∧ (setTaint s).ptp = s.ptp ∧ (setTaint s).dbg = s.dbg ∧
    (setTaint s).pwr = s.pwr ∧ (setTaint s).ckpt = s.ckpt := by
  simp [setTaint]

@[simp] theorem exhaust_frame (s x1 x2) : (exhaust s x1 x2).pending = s.pending ∧ (exhaust s x1 x2).clk = s.clk ∧
    (exhaust s x1 x2).arr = s.arr ∧ (exhaust s x1 x2).exe = s.exe ∧ (exhaust s x1 x2).pen = s.pen ∧ (exhaust s x1
    x2).shed = s.shed ∧ (exhaust s x1 x2).dmc = s.dmc ∧ (exhaust s x1 x2).lnk = s.lnk ∧ (exhaust s x1 x2).rls = s.rls
    ∧ (exhaust s x1 x2).yms = s.yms ∧ (exhaust s x1 x2).grm = s.grm ∧ (exhaust s x1 x2).pdk = s.pdk ∧ (exhaust s x1
    x2).ldr = s.ldr ∧ (exhaust s x1 x2).sec = s.sec ∧ (exhaust s x1 x2).trg = s.trg ∧ (exhaust s x1 x2).ptp = s.ptp ∧
    (exhaust s x1 x2).dbg = s.dbg ∧ (exhaust s x1 x2).pwr = s.pwr ∧ (exhaust s x1 x2).ckpt = s.ckpt := by
  simp [exhaust]

@[simp] theorem writeRepair_frame (x0 s) : (writeRepair x0 s).pending = s.pending ∧ (writeRepair x0 s).clk = s.clk ∧
    (writeRepair x0 s).exe = s.exe ∧ (writeRepair x0 s).pen = s.pen ∧ (writeRepair x0 s).integ = s.integ ∧
    (writeRepair x0 s).shed = s.shed ∧ (writeRepair x0 s).dmc = s.dmc ∧ (writeRepair x0 s).lnk = s.lnk ∧ (writeRepair
    x0 s).rls = s.rls ∧ (writeRepair x0 s).yms = s.yms ∧ (writeRepair x0 s).grm = s.grm ∧ (writeRepair x0 s).pdk =
    s.pdk ∧ (writeRepair x0 s).ldr = s.ldr ∧ (writeRepair x0 s).sec = s.sec ∧ (writeRepair x0 s).trg = s.trg ∧
    (writeRepair x0 s).ptp = s.ptp ∧ (writeRepair x0 s).dbg = s.dbg ∧ (writeRepair x0 s).pwr = s.pwr ∧ (writeRepair x0
    s).ckpt = s.ckpt := by
  simp [writeRepair]

@[simp] theorem stopScb_frame (x0 s) : (stopScb x0 s).pending = s.pending ∧ (stopScb x0 s).clk = s.clk ∧ (stopScb x0
    s).tck = s.tck ∧ (stopScb x0 s).arr = s.arr ∧ (stopScb x0 s).exe = s.exe ∧ (stopScb x0 s).pen = s.pen ∧ (stopScb
    x0 s).shed = s.shed ∧ (stopScb x0 s).dmc = s.dmc ∧ (stopScb x0 s).lnk = s.lnk ∧ (stopScb x0 s).rls = s.rls ∧
    (stopScb x0 s).yms = s.yms ∧ (stopScb x0 s).grm = s.grm ∧ (stopScb x0 s).pdk = s.pdk ∧ (stopScb x0 s).ldr = s.ldr
    ∧ (stopScb x0 s).sec = s.sec ∧ (stopScb x0 s).trg = s.trg ∧ (stopScb x0 s).ptp = s.ptp ∧ (stopScb x0 s).dbg =
    s.dbg ∧ (stopScb x0 s).pwr = s.pwr ∧ (stopScb x0 s).ckpt = s.ckpt := by
  simp [stopScb]

@[simp] theorem compareScb_frame (x0 s) : (compareScb x0 s).pending = s.pending ∧ (compareScb x0 s).clk = s.clk ∧
    (compareScb x0 s).tck = s.tck ∧ (compareScb x0 s).arr = s.arr ∧ (compareScb x0 s).exe = s.exe ∧ (compareScb x0
    s).pen = s.pen ∧ (compareScb x0 s).shed = s.shed ∧ (compareScb x0 s).dmc = s.dmc ∧ (compareScb x0 s).lnk = s.lnk ∧
    (compareScb x0 s).rls = s.rls ∧ (compareScb x0 s).yms = s.yms ∧ (compareScb x0 s).grm = s.grm ∧ (compareScb x0
    s).pdk = s.pdk ∧ (compareScb x0 s).ldr = s.ldr ∧ (compareScb x0 s).sec = s.sec ∧ (compareScb x0 s).trg = s.trg ∧
    (compareScb x0 s).ptp = s.ptp ∧ (compareScb x0 s).dbg = s.dbg ∧ (compareScb x0 s).pwr = s.pwr ∧ (compareScb x0
    s).ckpt = s.ckpt := by
  unfold compareScb; split <;> simp

@[simp] theorem compareAll_frame (s) : (compareAll s).pending = s.pending ∧ (compareAll s).clk = s.clk ∧ (compareAll
    s).tck = s.tck ∧ (compareAll s).arr = s.arr ∧ (compareAll s).exe = s.exe ∧ (compareAll s).pen = s.pen ∧
    (compareAll s).shed = s.shed ∧ (compareAll s).dmc = s.dmc ∧ (compareAll s).lnk = s.lnk ∧ (compareAll s).rls =
    s.rls ∧ (compareAll s).yms = s.yms ∧ (compareAll s).grm = s.grm ∧ (compareAll s).pdk = s.pdk ∧ (compareAll s).ldr
    = s.ldr ∧ (compareAll s).sec = s.sec ∧ (compareAll s).trg = s.trg ∧ (compareAll s).ptp = s.ptp ∧ (compareAll
    s).dbg = s.dbg ∧ (compareAll s).pwr = s.pwr ∧ (compareAll s).ckpt = s.ckpt := by
  simp [compareAll]

@[simp] theorem writeRepairs_frame (s) : (writeRepairs s).pending = s.pending ∧ (writeRepairs s).clk = s.clk ∧
    (writeRepairs s).exe = s.exe ∧ (writeRepairs s).pen = s.pen ∧ (writeRepairs s).shed = s.shed ∧ (writeRepairs
    s).dmc = s.dmc ∧ (writeRepairs s).lnk = s.lnk ∧ (writeRepairs s).rls = s.rls ∧ (writeRepairs s).yms = s.yms ∧
    (writeRepairs s).grm = s.grm ∧ (writeRepairs s).pdk = s.pdk ∧ (writeRepairs s).ldr = s.ldr ∧ (writeRepairs s).sec
    = s.sec ∧ (writeRepairs s).trg = s.trg ∧ (writeRepairs s).ptp = s.ptp ∧ (writeRepairs s).dbg = s.dbg ∧
    (writeRepairs s).pwr = s.pwr ∧ (writeRepairs s).ckpt = s.ckpt := by
  simp [writeRepairs]

@[simp] theorem doGoldenRepair_frame (x0 s) : (doGoldenRepair x0 s).pending = s.pending ∧ (doGoldenRepair x0 s).clk =
    s.clk ∧ (doGoldenRepair x0 s).pen = s.pen ∧ (doGoldenRepair x0 s).shed = s.shed ∧ (doGoldenRepair x0 s).lnk =
    s.lnk ∧ (doGoldenRepair x0 s).rls = s.rls ∧ (doGoldenRepair x0 s).yms = s.yms ∧ (doGoldenRepair x0 s).grm = s.grm
    ∧ (doGoldenRepair x0 s).pdk = s.pdk ∧ (doGoldenRepair x0 s).ldr = s.ldr ∧ (doGoldenRepair x0 s).sec = s.sec ∧
    (doGoldenRepair x0 s).trg = s.trg ∧ (doGoldenRepair x0 s).ptp = s.ptp ∧ (doGoldenRepair x0 s).dbg = s.dbg ∧
    (doGoldenRepair x0 s).pwr = s.pwr ∧ (doGoldenRepair x0 s).ckpt = s.ckpt := by
  simp only [doGoldenRepair]; (repeat' split) <;> simp_all

@[simp] theorem voteCfg_frame (x0 s) : (voteCfg x0 s).pending = s.pending ∧ (voteCfg x0 s).clk = s.clk ∧ (voteCfg x0
    s).tck = s.tck ∧ (voteCfg x0 s).arr = s.arr ∧ (voteCfg x0 s).exe = s.exe ∧ (voteCfg x0 s).pen = s.pen ∧ (voteCfg
    x0 s).shed = s.shed ∧ (voteCfg x0 s).dmc = s.dmc ∧ (voteCfg x0 s).lnk = s.lnk ∧ (voteCfg x0 s).rls = s.rls ∧
    (voteCfg x0 s).yms = s.yms ∧ (voteCfg x0 s).grm = s.grm ∧ (voteCfg x0 s).pdk = s.pdk ∧ (voteCfg x0 s).ldr = s.ldr
    ∧ (voteCfg x0 s).sec = s.sec ∧ (voteCfg x0 s).trg = s.trg ∧ (voteCfg x0 s).ptp = s.ptp ∧ (voteCfg x0 s).dbg =
    s.dbg ∧ (voteCfg x0 s).pwr = s.pwr ∧ (voteCfg x0 s).ckpt = s.ckpt := by
  simp only [voteCfg]; (repeat' split) <;> simp_all

@[simp] theorem setCopies_frame (x0 x1 s) : (setCopies x0 x1 s).pending = s.pending ∧ (setCopies x0 x1 s).regs =
    s.regs ∧ (setCopies x0 x1 s).clk = s.clk ∧ (setCopies x0 x1 s).tck = s.tck ∧ (setCopies x0 x1 s).arr = s.arr ∧
    (setCopies x0 x1 s).exe = s.exe ∧ (setCopies x0 x1 s).pen = s.pen ∧ (setCopies x0 x1 s).shed = s.shed ∧ (setCopies
    x0 x1 s).dmc = s.dmc ∧ (setCopies x0 x1 s).lnk = s.lnk ∧ (setCopies x0 x1 s).rls = s.rls ∧ (setCopies x0 x1 s).yms
    = s.yms ∧ (setCopies x0 x1 s).grm = s.grm ∧ (setCopies x0 x1 s).pdk = s.pdk ∧ (setCopies x0 x1 s).ldr = s.ldr ∧
    (setCopies x0 x1 s).sec = s.sec ∧ (setCopies x0 x1 s).trg = s.trg ∧ (setCopies x0 x1 s).ptp = s.ptp ∧ (setCopies
    x0 x1 s).dbg = s.dbg ∧ (setCopies x0 x1 s).pwr = s.pwr ∧ (setCopies x0 x1 s).hst = s.hst ∧ (setCopies x0 x1
    s).ckpt = s.ckpt := by
  simp [setCopies]

@[simp] theorem lineWritten_frame (x0 x1 x2 s) : (lineWritten x0 x1 x2 s).pending = s.pending ∧ (lineWritten x0 x1 x2
    s).clk = s.clk ∧ (lineWritten x0 x1 x2 s).tck = s.tck ∧ (lineWritten x0 x1 x2 s).exe = s.exe ∧ (lineWritten x0 x1
    x2 s).pen = s.pen ∧ (lineWritten x0 x1 x2 s).shed = s.shed ∧ (lineWritten x0 x1 x2 s).dmc = s.dmc ∧ (lineWritten
    x0 x1 x2 s).lnk = s.lnk ∧ (lineWritten x0 x1 x2 s).rls = s.rls ∧ (lineWritten x0 x1 x2 s).yms = s.yms ∧
    (lineWritten x0 x1 x2 s).grm = s.grm ∧ (lineWritten x0 x1 x2 s).pdk = s.pdk ∧ (lineWritten x0 x1 x2 s).ldr = s.ldr
    ∧ (lineWritten x0 x1 x2 s).sec = s.sec ∧ (lineWritten x0 x1 x2 s).trg = s.trg ∧ (lineWritten x0 x1 x2 s).ptp =
    s.ptp ∧ (lineWritten x0 x1 x2 s).dbg = s.dbg ∧ (lineWritten x0 x1 x2 s).pwr = s.pwr ∧ (lineWritten x0 x1 x2
    s).ckpt = s.ckpt := by
  simp [lineWritten]

@[simp] theorem lineRepair_frame (x0 x1 x2 s) : (lineRepair x0 x1 x2 s).pending = s.pending ∧ (lineRepair x0 x1 x2
    s).clk = s.clk ∧ (lineRepair x0 x1 x2 s).tck = s.tck ∧ (lineRepair x0 x1 x2 s).pen = s.pen ∧ (lineRepair x0 x1 x2
    s).shed = s.shed ∧ (lineRepair x0 x1 x2 s).lnk = s.lnk ∧ (lineRepair x0 x1 x2 s).rls = s.rls ∧ (lineRepair x0 x1
    x2 s).yms = s.yms ∧ (lineRepair x0 x1 x2 s).grm = s.grm ∧ (lineRepair x0 x1 x2 s).pdk = s.pdk ∧ (lineRepair x0 x1
    x2 s).ldr = s.ldr ∧ (lineRepair x0 x1 x2 s).sec = s.sec ∧ (lineRepair x0 x1 x2 s).trg = s.trg ∧ (lineRepair x0 x1
    x2 s).ptp = s.ptp ∧ (lineRepair x0 x1 x2 s).dbg = s.dbg ∧ (lineRepair x0 x1 x2 s).pwr = s.pwr ∧ (lineRepair x0 x1
    x2 s).ckpt = s.ckpt := by
  unfold lineRepair
  generalize lineBursts s x0 x1 = l
  cases h : badGolden s l with
  | some a => simp [h]
  | none => cases hb : l.any (memBusy s) <;> simp [h, hb]

@[simp] theorem readRow_frame (x0 x1 s) : (readRow x0 x1 s).pending = s.pending ∧ (readRow x0 x1 s).clk = s.clk ∧
    (readRow x0 x1 s).tck = s.tck ∧ (readRow x0 x1 s).arr = s.arr ∧ (readRow x0 x1 s).exe = s.exe ∧ (readRow x0 x1
    s).pen = s.pen ∧ (readRow x0 x1 s).shed = s.shed ∧ (readRow x0 x1 s).dmc = s.dmc ∧ (readRow x0 x1 s).lnk = s.lnk ∧
    (readRow x0 x1 s).rls = s.rls ∧ (readRow x0 x1 s).yms = s.yms ∧ (readRow x0 x1 s).grm = s.grm ∧ (readRow x0 x1
    s).pdk = s.pdk ∧ (readRow x0 x1 s).ldr = s.ldr ∧ (readRow x0 x1 s).sec = s.sec ∧ (readRow x0 x1 s).trg = s.trg ∧
    (readRow x0 x1 s).ptp = s.ptp ∧ (readRow x0 x1 s).dbg = s.dbg ∧ (readRow x0 x1 s).pwr = s.pwr ∧ (readRow x0 x1
    s).ckpt = s.ckpt := by
  simp [readRow]

@[simp] theorem scrubRow_frame (x0 s) : (scrubRow x0 s).pending = s.pending ∧ (scrubRow x0 s).clk = s.clk ∧ (scrubRow
    x0 s).tck = s.tck ∧ (scrubRow x0 s).pen = s.pen ∧ (scrubRow x0 s).shed = s.shed ∧ (scrubRow x0 s).lnk = s.lnk ∧
    (scrubRow x0 s).rls = s.rls ∧ (scrubRow x0 s).yms = s.yms ∧ (scrubRow x0 s).grm = s.grm ∧ (scrubRow x0 s).pdk =
    s.pdk ∧ (scrubRow x0 s).ldr = s.ldr ∧ (scrubRow x0 s).sec = s.sec ∧ (scrubRow x0 s).trg = s.trg ∧ (scrubRow x0
    s).ptp = s.ptp ∧ (scrubRow x0 s).dbg = s.dbg ∧ (scrubRow x0 s).pwr = s.pwr ∧ (scrubRow x0 s).ckpt = s.ckpt := by
  simp only [scrubRow]; (repeat' split) <;> simp_all

@[simp] theorem scrubStep_frame (x0 s) : (scrubStep x0 s).pending = s.pending ∧ (scrubStep x0 s).clk = s.clk ∧
    (scrubStep x0 s).tck = s.tck ∧ (scrubStep x0 s).pen = s.pen ∧ (scrubStep x0 s).shed = s.shed ∧ (scrubStep x0
    s).lnk = s.lnk ∧ (scrubStep x0 s).rls = s.rls ∧ (scrubStep x0 s).yms = s.yms ∧ (scrubStep x0 s).grm = s.grm ∧
    (scrubStep x0 s).pdk = s.pdk ∧ (scrubStep x0 s).ldr = s.ldr ∧ (scrubStep x0 s).sec = s.sec ∧ (scrubStep x0 s).trg
    = s.trg ∧ (scrubStep x0 s).ptp = s.ptp ∧ (scrubStep x0 s).dbg = s.dbg ∧ (scrubStep x0 s).pwr = s.pwr ∧ (scrubStep
    x0 s).ckpt = s.ckpt := by
  simp only [scrubStep]; (repeat' split) <;> simp_all

@[simp] theorem scrubWindow_frame (s) : (scrubWindow s).pending = s.pending ∧ (scrubWindow s).clk = s.clk ∧
    (scrubWindow s).tck = s.tck ∧ (scrubWindow s).pen = s.pen ∧ (scrubWindow s).shed = s.shed ∧ (scrubWindow s).lnk =
    s.lnk ∧ (scrubWindow s).rls = s.rls ∧ (scrubWindow s).yms = s.yms ∧ (scrubWindow s).grm = s.grm ∧ (scrubWindow
    s).pdk = s.pdk ∧ (scrubWindow s).ldr = s.ldr ∧ (scrubWindow s).sec = s.sec ∧ (scrubWindow s).trg = s.trg ∧
    (scrubWindow s).ptp = s.ptp ∧ (scrubWindow s).dbg = s.dbg ∧ (scrubWindow s).pwr = s.pwr ∧ (scrubWindow s).ckpt =
    s.ckpt := by
  simp [scrubWindow]

@[simp] theorem doScrubReadStep_frame (x0 s) : (doScrubReadStep x0 s).pending = s.pending ∧ (doScrubReadStep x0 s).tck
    = s.tck ∧ (doScrubReadStep x0 s).pen = s.pen ∧ (doScrubReadStep x0 s).lnk = s.lnk ∧ (doScrubReadStep x0 s).yms =
    s.yms ∧ (doScrubReadStep x0 s).grm = s.grm ∧ (doScrubReadStep x0 s).pdk = s.pdk ∧ (doScrubReadStep x0 s).ldr =
    s.ldr ∧ (doScrubReadStep x0 s).sec = s.sec ∧ (doScrubReadStep x0 s).trg = s.trg ∧ (doScrubReadStep x0 s).dbg =
    s.dbg ∧ (doScrubReadStep x0 s).pwr = s.pwr ∧ (doScrubReadStep x0 s).ckpt = s.ckpt := by
  simp [doScrubReadStep]

/-! ### Window -/

@[simp] theorem pushDown_frame (x0 x1 s) : (pushDown x0 x1 s).pending = s.pending ∧ (pushDown x0 x1 s).regs = s.regs ∧
    (pushDown x0 x1 s).clk = s.clk ∧ (pushDown x0 x1 s).tck = s.tck ∧ (pushDown x0 x1 s).arr = s.arr ∧ (pushDown x0 x1
    s).exe = s.exe ∧ (pushDown x0 x1 s).pen = s.pen ∧ (pushDown x0 x1 s).integ = s.integ ∧ (pushDown x0 x1 s).shed =
    s.shed ∧ (pushDown x0 x1 s).dmc = s.dmc ∧ (pushDown x0 x1 s).rls = s.rls ∧ (pushDown x0 x1 s).yms = s.yms ∧
    (pushDown x0 x1 s).grm = s.grm ∧ (pushDown x0 x1 s).pdk = s.pdk ∧ (pushDown x0 x1 s).ldr = s.ldr ∧ (pushDown x0 x1
    s).sec = s.sec ∧ (pushDown x0 x1 s).trg = s.trg ∧ (pushDown x0 x1 s).ptp = s.ptp ∧ (pushDown x0 x1 s).dbg = s.dbg
    ∧ (pushDown x0 x1 s).pwr = s.pwr ∧ (pushDown x0 x1 s).hst = s.hst ∧ (pushDown x0 x1 s).ckpt = s.ckpt := by
  simp [pushDown]

@[simp] theorem pushUp_frame (x0 x1 s) : (pushUp x0 x1 s).pending = s.pending ∧ (pushUp x0 x1 s).regs = s.regs ∧
    (pushUp x0 x1 s).clk = s.clk ∧ (pushUp x0 x1 s).tck = s.tck ∧ (pushUp x0 x1 s).arr = s.arr ∧ (pushUp x0 x1 s).exe
    = s.exe ∧ (pushUp x0 x1 s).pen = s.pen ∧ (pushUp x0 x1 s).integ = s.integ ∧ (pushUp x0 x1 s).shed = s.shed ∧
    (pushUp x0 x1 s).dmc = s.dmc ∧ (pushUp x0 x1 s).rls = s.rls ∧ (pushUp x0 x1 s).yms = s.yms ∧ (pushUp x0 x1 s).grm
    = s.grm ∧ (pushUp x0 x1 s).pdk = s.pdk ∧ (pushUp x0 x1 s).ldr = s.ldr ∧ (pushUp x0 x1 s).sec = s.sec ∧ (pushUp x0
    x1 s).trg = s.trg ∧ (pushUp x0 x1 s).ptp = s.ptp ∧ (pushUp x0 x1 s).dbg = s.dbg ∧ (pushUp x0 x1 s).pwr = s.pwr ∧
    (pushUp x0 x1 s).hst = s.hst ∧ (pushUp x0 x1 s).ckpt = s.ckpt := by
  unfold pushUp; split <;> simp

@[simp] theorem moveHold_frame (x0 x1 s) : (moveHold x0 x1 s).pending = s.pending ∧ (moveHold x0 x1 s).regs = s.regs ∧
    (moveHold x0 x1 s).clk = s.clk ∧ (moveHold x0 x1 s).arr = s.arr ∧ (moveHold x0 x1 s).pen = s.pen ∧ (moveHold x0 x1
    s).integ = s.integ ∧ (moveHold x0 x1 s).shed = s.shed ∧ (moveHold x0 x1 s).dmc = s.dmc ∧ (moveHold x0 x1 s).rls =
    s.rls ∧ (moveHold x0 x1 s).yms = s.yms ∧ (moveHold x0 x1 s).grm = s.grm ∧ (moveHold x0 x1 s).pdk = s.pdk ∧
    (moveHold x0 x1 s).ldr = s.ldr ∧ (moveHold x0 x1 s).sec = s.sec ∧ (moveHold x0 x1 s).trg = s.trg ∧ (moveHold x0 x1
    s).ptp = s.ptp ∧ (moveHold x0 x1 s).dbg = s.dbg ∧ (moveHold x0 x1 s).pwr = s.pwr ∧ (moveHold x0 x1 s).hst = s.hst
    ∧ (moveHold x0 x1 s).ckpt = s.ckpt := by
  simp [moveHold]

@[simp] theorem rootHold_frame (x0 x1 x2 s) : (rootHold x0 x1 x2 s).pending = s.pending ∧ (rootHold x0 x1 x2 s).regs =
    s.regs ∧ (rootHold x0 x1 x2 s).clk = s.clk ∧ (rootHold x0 x1 x2 s).arr = s.arr ∧ (rootHold x0 x1 x2 s).pen = s.pen
    ∧ (rootHold x0 x1 x2 s).integ = s.integ ∧ (rootHold x0 x1 x2 s).shed = s.shed ∧ (rootHold x0 x1 x2 s).dmc = s.dmc
    ∧ (rootHold x0 x1 x2 s).rls = s.rls ∧ (rootHold x0 x1 x2 s).yms = s.yms ∧ (rootHold x0 x1 x2 s).grm = s.grm ∧
    (rootHold x0 x1 x2 s).pdk = s.pdk ∧ (rootHold x0 x1 x2 s).ldr = s.ldr ∧ (rootHold x0 x1 x2 s).sec = s.sec ∧
    (rootHold x0 x1 x2 s).trg = s.trg ∧ (rootHold x0 x1 x2 s).ptp = s.ptp ∧ (rootHold x0 x1 x2 s).dbg = s.dbg ∧
    (rootHold x0 x1 x2 s).pwr = s.pwr ∧ (rootHold x0 x1 x2 s).hst = s.hst ∧ (rootHold x0 x1 x2 s).ckpt = s.ckpt := by
  simp only [rootHold]; (repeat' split) <;> simp_all

@[simp] theorem upHold_frame (x0 x1 x2 x3 s) : (upHold x0 x1 x2 x3 s).pending = s.pending ∧ (upHold x0 x1 x2 x3
    s).regs = s.regs ∧ (upHold x0 x1 x2 x3 s).clk = s.clk ∧ (upHold x0 x1 x2 x3 s).arr = s.arr ∧ (upHold x0 x1 x2 x3
    s).pen = s.pen ∧ (upHold x0 x1 x2 x3 s).integ = s.integ ∧ (upHold x0 x1 x2 x3 s).shed = s.shed ∧ (upHold x0 x1 x2
    x3 s).dmc = s.dmc ∧ (upHold x0 x1 x2 x3 s).rls = s.rls ∧ (upHold x0 x1 x2 x3 s).yms = s.yms ∧ (upHold x0 x1 x2 x3
    s).grm = s.grm ∧ (upHold x0 x1 x2 x3 s).pdk = s.pdk ∧ (upHold x0 x1 x2 x3 s).ldr = s.ldr ∧ (upHold x0 x1 x2 x3
    s).sec = s.sec ∧ (upHold x0 x1 x2 x3 s).trg = s.trg ∧ (upHold x0 x1 x2 x3 s).ptp = s.ptp ∧ (upHold x0 x1 x2 x3
    s).dbg = s.dbg ∧ (upHold x0 x1 x2 x3 s).pwr = s.pwr ∧ (upHold x0 x1 x2 x3 s).hst = s.hst ∧ (upHold x0 x1 x2 x3
    s).ckpt = s.ckpt := by
  simp only [upHold]; (repeat' split) <;> simp_all

@[simp] theorem raiseHold_frame (x0 x1 x2 s) : (raiseHold x0 x1 x2 s).pending = s.pending ∧ (raiseHold x0 x1 x2
    s).regs = s.regs ∧ (raiseHold x0 x1 x2 s).clk = s.clk ∧ (raiseHold x0 x1 x2 s).arr = s.arr ∧ (raiseHold x0 x1 x2
    s).pen = s.pen ∧ (raiseHold x0 x1 x2 s).integ = s.integ ∧ (raiseHold x0 x1 x2 s).shed = s.shed ∧ (raiseHold x0 x1
    x2 s).dmc = s.dmc ∧ (raiseHold x0 x1 x2 s).rls = s.rls ∧ (raiseHold x0 x1 x2 s).yms = s.yms ∧ (raiseHold x0 x1 x2
    s).grm = s.grm ∧ (raiseHold x0 x1 x2 s).pdk = s.pdk ∧ (raiseHold x0 x1 x2 s).ldr = s.ldr ∧ (raiseHold x0 x1 x2
    s).sec = s.sec ∧ (raiseHold x0 x1 x2 s).trg = s.trg ∧ (raiseHold x0 x1 x2 s).ptp = s.ptp ∧ (raiseHold x0 x1 x2
    s).dbg = s.dbg ∧ (raiseHold x0 x1 x2 s).pwr = s.pwr ∧ (raiseHold x0 x1 x2 s).hst = s.hst ∧ (raiseHold x0 x1 x2
    s).ckpt = s.ckpt := by
  simp only [raiseHold]; (repeat' split) <;> simp_all

@[simp] theorem sendStop_frame (x0 x1 s) : (sendStop x0 x1 s).pending = s.pending ∧ (sendStop x0 x1 s).regs = s.regs ∧
    (sendStop x0 x1 s).clk = s.clk ∧ (sendStop x0 x1 s).arr = s.arr ∧ (sendStop x0 x1 s).exe = s.exe ∧ (sendStop x0 x1
    s).pen = s.pen ∧ (sendStop x0 x1 s).integ = s.integ ∧ (sendStop x0 x1 s).shed = s.shed ∧ (sendStop x0 x1 s).dmc =
    s.dmc ∧ (sendStop x0 x1 s).rls = s.rls ∧ (sendStop x0 x1 s).yms = s.yms ∧ (sendStop x0 x1 s).grm = s.grm ∧
    (sendStop x0 x1 s).pdk = s.pdk ∧ (sendStop x0 x1 s).ldr = s.ldr ∧ (sendStop x0 x1 s).sec = s.sec ∧ (sendStop x0 x1
    s).trg = s.trg ∧ (sendStop x0 x1 s).ptp = s.ptp ∧ (sendStop x0 x1 s).dbg = s.dbg ∧ (sendStop x0 x1 s).pwr = s.pwr
    ∧ (sendStop x0 x1 s).hst = s.hst ∧ (sendStop x0 x1 s).ckpt = s.ckpt := by
  unfold sendStop; (repeat' split) <;> simp_all

@[simp] theorem formVote_frame (x0 s) : (formVote x0 s).pending = s.pending ∧ (formVote x0 s).regs = s.regs ∧
    (formVote x0 s).clk = s.clk ∧ (formVote x0 s).arr = s.arr ∧ (formVote x0 s).exe = s.exe ∧ (formVote x0 s).pen =
    s.pen ∧ (formVote x0 s).integ = s.integ ∧ (formVote x0 s).shed = s.shed ∧ (formVote x0 s).dmc = s.dmc ∧ (formVote
    x0 s).rls = s.rls ∧ (formVote x0 s).yms = s.yms ∧ (formVote x0 s).grm = s.grm ∧ (formVote x0 s).pdk = s.pdk ∧
    (formVote x0 s).ldr = s.ldr ∧ (formVote x0 s).sec = s.sec ∧ (formVote x0 s).trg = s.trg ∧ (formVote x0 s).ptp =
    s.ptp ∧ (formVote x0 s).dbg = s.dbg ∧ (formVote x0 s).pwr = s.pwr ∧ (formVote x0 s).hst = s.hst ∧ (formVote x0
    s).ckpt = s.ckpt := by
  unfold formVote; (repeat' split) <;> simp_all

@[simp] theorem gatherReports_frame (s) : (gatherReports s).pending = s.pending ∧ (gatherReports s).clk = s.clk ∧
    (gatherReports s).exe = s.exe ∧ (gatherReports s).pen = s.pen ∧ (gatherReports s).shed = s.shed ∧ (gatherReports
    s).dmc = s.dmc ∧ (gatherReports s).lnk = s.lnk ∧ (gatherReports s).rls = s.rls ∧ (gatherReports s).yms = s.yms ∧
    (gatherReports s).grm = s.grm ∧ (gatherReports s).pdk = s.pdk ∧ (gatherReports s).ldr = s.ldr ∧ (gatherReports
    s).sec = s.sec ∧ (gatherReports s).trg = s.trg ∧ (gatherReports s).ptp = s.ptp ∧ (gatherReports s).dbg = s.dbg ∧
    (gatherReports s).pwr = s.pwr ∧ (gatherReports s).ckpt = s.ckpt := by
  simp [gatherReports]

@[simp] theorem requestHold_frame (x0 x1 s) : (requestHold x0 x1 s).pending = s.pending ∧ (requestHold x0 x1 s).regs =
    s.regs ∧ (requestHold x0 x1 s).clk = s.clk ∧ (requestHold x0 x1 s).arr = s.arr ∧ (requestHold x0 x1 s).pen = s.pen
    ∧ (requestHold x0 x1 s).integ = s.integ ∧ (requestHold x0 x1 s).shed = s.shed ∧ (requestHold x0 x1 s).dmc = s.dmc
    ∧ (requestHold x0 x1 s).rls = s.rls ∧ (requestHold x0 x1 s).yms = s.yms ∧ (requestHold x0 x1 s).grm = s.grm ∧
    (requestHold x0 x1 s).pdk = s.pdk ∧ (requestHold x0 x1 s).ldr = s.ldr ∧ (requestHold x0 x1 s).sec = s.sec ∧
    (requestHold x0 x1 s).trg = s.trg ∧ (requestHold x0 x1 s).ptp = s.ptp ∧ (requestHold x0 x1 s).dbg = s.dbg ∧
    (requestHold x0 x1 s).pwr = s.pwr ∧ (requestHold x0 x1 s).hst = s.hst ∧ (requestHold x0 x1 s).ckpt = s.ckpt := by
  simp only [requestHold]; (repeat' split) <;> simp_all

@[simp] theorem requestHolds_frame (s) : (requestHolds s).pending = s.pending ∧ (requestHolds s).clk = s.clk ∧
    (requestHolds s).arr = s.arr ∧ (requestHolds s).pen = s.pen ∧ (requestHolds s).integ = s.integ ∧ (requestHolds
    s).shed = s.shed ∧ (requestHolds s).dmc = s.dmc ∧ (requestHolds s).rls = s.rls ∧ (requestHolds s).yms = s.yms ∧
    (requestHolds s).grm = s.grm ∧ (requestHolds s).pdk = s.pdk ∧ (requestHolds s).ldr = s.ldr ∧ (requestHolds s).sec
    = s.sec ∧ (requestHolds s).trg = s.trg ∧ (requestHolds s).ptp = s.ptp ∧ (requestHolds s).dbg = s.dbg ∧
    (requestHolds s).pwr = s.pwr ∧ (requestHolds s).ckpt = s.ckpt := by
  simp only [requestHolds]; (repeat' split) <;> simp_all

@[simp] theorem commitTick_frame (s) : (commitTick s).pending = s.pending ∧ (commitTick s).regs = s.regs ∧ (commitTick
    s).clk = s.clk ∧ (commitTick s).tck = s.tck ∧ (commitTick s).exe = s.exe ∧ (commitTick s).integ = s.integ ∧
    (commitTick s).shed = s.shed ∧ (commitTick s).dmc = s.dmc ∧ (commitTick s).lnk = s.lnk ∧ (commitTick s).rls =
    s.rls ∧ (commitTick s).grm = s.grm ∧ (commitTick s).pdk = s.pdk ∧ (commitTick s).ldr = s.ldr ∧ (commitTick s).sec
    = s.sec ∧ (commitTick s).trg = s.trg ∧ (commitTick s).ptp = s.ptp ∧ (commitTick s).dbg = s.dbg ∧ (commitTick
    s).pwr = s.pwr ∧ (commitTick s).hst = s.hst ∧ (commitTick s).ckpt = s.ckpt := by
  simp [commitTick]

@[simp] theorem stickyFlags_frame (x0 s) : (stickyFlags x0 s).pending = s.pending ∧ (stickyFlags x0 s).clk = s.clk ∧
    (stickyFlags x0 s).tck = s.tck ∧ (stickyFlags x0 s).arr = s.arr ∧ (stickyFlags x0 s).exe = s.exe ∧ (stickyFlags x0
    s).pen = s.pen ∧ (stickyFlags x0 s).integ = s.integ ∧ (stickyFlags x0 s).shed = s.shed ∧ (stickyFlags x0 s).dmc =
    s.dmc ∧ (stickyFlags x0 s).lnk = s.lnk ∧ (stickyFlags x0 s).rls = s.rls ∧ (stickyFlags x0 s).yms = s.yms ∧
    (stickyFlags x0 s).grm = s.grm ∧ (stickyFlags x0 s).pdk = s.pdk ∧ (stickyFlags x0 s).ldr = s.ldr ∧ (stickyFlags x0
    s).sec = s.sec ∧ (stickyFlags x0 s).trg = s.trg ∧ (stickyFlags x0 s).ptp = s.ptp ∧ (stickyFlags x0 s).dbg = s.dbg
    ∧ (stickyFlags x0 s).pwr = s.pwr ∧ (stickyFlags x0 s).ckpt = s.ckpt := by
  fun_induction stickyFlags <;> simp_all

@[simp] theorem confirm_frame (x0 x1 s) : (confirm x0 x1 s).pending = s.pending ∧ (confirm x0 x1 s).clk = s.clk ∧
    (confirm x0 x1 s).arr = s.arr ∧ (confirm x0 x1 s).exe = s.exe ∧ (confirm x0 x1 s).pen = s.pen ∧ (confirm x0 x1
    s).shed = s.shed ∧ (confirm x0 x1 s).dmc = s.dmc ∧ (confirm x0 x1 s).lnk = s.lnk ∧ (confirm x0 x1 s).rls = s.rls ∧
    (confirm x0 x1 s).yms = s.yms ∧ (confirm x0 x1 s).grm = s.grm ∧ (confirm x0 x1 s).pdk = s.pdk ∧ (confirm x0 x1
    s).ldr = s.ldr ∧ (confirm x0 x1 s).sec = s.sec ∧ (confirm x0 x1 s).trg = s.trg ∧ (confirm x0 x1 s).ptp = s.ptp ∧
    (confirm x0 x1 s).dbg = s.dbg ∧ (confirm x0 x1 s).pwr = s.pwr ∧ (confirm x0 x1 s).ckpt = s.ckpt := by
  simp [confirm]

@[simp] theorem sampleInputs_frame (s) : (sampleInputs s).pending = s.pending ∧ (sampleInputs s).regs = s.regs ∧
    (sampleInputs s).clk = s.clk ∧ (sampleInputs s).tck = s.tck ∧ (sampleInputs s).arr = s.arr ∧ (sampleInputs s).exe
    = s.exe ∧ (sampleInputs s).integ = s.integ ∧ (sampleInputs s).shed = s.shed ∧ (sampleInputs s).dmc = s.dmc ∧
    (sampleInputs s).lnk = s.lnk ∧ (sampleInputs s).rls = s.rls ∧ (sampleInputs s).yms = s.yms ∧ (sampleInputs s).grm
    = s.grm ∧ (sampleInputs s).pdk = s.pdk ∧ (sampleInputs s).ldr = s.ldr ∧ (sampleInputs s).sec = s.sec ∧
    (sampleInputs s).trg = s.trg ∧ (sampleInputs s).ptp = s.ptp ∧ (sampleInputs s).dbg = s.dbg ∧ (sampleInputs s).pwr
    = s.pwr ∧ (sampleInputs s).hst = s.hst ∧ (sampleInputs s).ckpt = s.ckpt := by
  unfold sampleInputs; split <;> simp

@[simp] theorem releaseTick_frame (x0 x1 s) : (releaseTick x0 x1 s).pending = s.pending ∧ (releaseTick x0 x1 s).clk =
    s.clk ∧ (releaseTick x0 x1 s).tck = s.tck ∧ (releaseTick x0 x1 s).arr = s.arr ∧ (releaseTick x0 x1 s).exe = s.exe
    ∧ (releaseTick x0 x1 s).integ = s.integ ∧ (releaseTick x0 x1 s).shed = s.shed ∧ (releaseTick x0 x1 s).lnk = s.lnk
    ∧ (releaseTick x0 x1 s).rls = s.rls ∧ (releaseTick x0 x1 s).grm = s.grm ∧ (releaseTick x0 x1 s).pdk = s.pdk ∧
    (releaseTick x0 x1 s).ldr = s.ldr ∧ (releaseTick x0 x1 s).sec = s.sec ∧ (releaseTick x0 x1 s).trg = s.trg ∧
    (releaseTick x0 x1 s).ptp = s.ptp ∧ (releaseTick x0 x1 s).dbg = s.dbg ∧ (releaseTick x0 x1 s).pwr = s.pwr ∧
    (releaseTick x0 x1 s).hst = s.hst ∧ (releaseTick x0 x1 s).ckpt = s.ckpt := by
  simp [releaseTick]

@[simp] theorem recordFaults_frame (x0 s) : (recordFaults x0 s).pending = s.pending ∧ (recordFaults x0 s).clk = s.clk
    ∧ (recordFaults x0 s).tck = s.tck ∧ (recordFaults x0 s).arr = s.arr ∧ (recordFaults x0 s).exe = s.exe ∧
    (recordFaults x0 s).pen = s.pen ∧ (recordFaults x0 s).shed = s.shed ∧ (recordFaults x0 s).dmc = s.dmc ∧
    (recordFaults x0 s).lnk = s.lnk ∧ (recordFaults x0 s).rls = s.rls ∧ (recordFaults x0 s).yms = s.yms ∧
    (recordFaults x0 s).grm = s.grm ∧ (recordFaults x0 s).pdk = s.pdk ∧ (recordFaults x0 s).ldr = s.ldr ∧
    (recordFaults x0 s).sec = s.sec ∧ (recordFaults x0 s).trg = s.trg ∧ (recordFaults x0 s).ptp = s.ptp ∧
    (recordFaults x0 s).dbg = s.dbg ∧ (recordFaults x0 s).pwr = s.pwr ∧ (recordFaults x0 s).hst = s.hst ∧
    (recordFaults x0 s).ckpt = s.ckpt := by
  simp [recordFaults]

@[simp] theorem recordRun_frame (x0 s) : (recordRun x0 s).pending = s.pending ∧ (recordRun x0 s).clk = s.clk ∧
    (recordRun x0 s).tck = s.tck ∧ (recordRun x0 s).arr = s.arr ∧ (recordRun x0 s).exe = s.exe ∧ (recordRun x0 s).pen
    = s.pen ∧ (recordRun x0 s).shed = s.shed ∧ (recordRun x0 s).dmc = s.dmc ∧ (recordRun x0 s).lnk = s.lnk ∧
    (recordRun x0 s).rls = s.rls ∧ (recordRun x0 s).yms = s.yms ∧ (recordRun x0 s).grm = s.grm ∧ (recordRun x0 s).pdk
    = s.pdk ∧ (recordRun x0 s).ldr = s.ldr ∧ (recordRun x0 s).sec = s.sec ∧ (recordRun x0 s).trg = s.trg ∧ (recordRun
    x0 s).ptp = s.ptp ∧ (recordRun x0 s).dbg = s.dbg ∧ (recordRun x0 s).pwr = s.pwr ∧ (recordRun x0 s).ckpt = s.ckpt
    := by
  simp [recordRun]

@[simp] theorem noteOverrun_frame (x0 x1 s) : (noteOverrun x0 x1 s).pending = s.pending ∧ (noteOverrun x0 x1 s).clk =
    s.clk ∧ (noteOverrun x0 x1 s).tck = s.tck ∧ (noteOverrun x0 x1 s).arr = s.arr ∧ (noteOverrun x0 x1 s).exe = s.exe
    ∧ (noteOverrun x0 x1 s).pen = s.pen ∧ (noteOverrun x0 x1 s).integ = s.integ ∧ (noteOverrun x0 x1 s).shed = s.shed
    ∧ (noteOverrun x0 x1 s).dmc = s.dmc ∧ (noteOverrun x0 x1 s).lnk = s.lnk ∧ (noteOverrun x0 x1 s).rls = s.rls ∧
    (noteOverrun x0 x1 s).yms = s.yms ∧ (noteOverrun x0 x1 s).grm = s.grm ∧ (noteOverrun x0 x1 s).pdk = s.pdk ∧
    (noteOverrun x0 x1 s).ldr = s.ldr ∧ (noteOverrun x0 x1 s).sec = s.sec ∧ (noteOverrun x0 x1 s).trg = s.trg ∧
    (noteOverrun x0 x1 s).ptp = s.ptp ∧ (noteOverrun x0 x1 s).dbg = s.dbg ∧ (noteOverrun x0 x1 s).pwr = s.pwr ∧
    (noteOverrun x0 x1 s).ckpt = s.ckpt := by
  simp [noteOverrun]

@[simp] theorem deferFaults_frame (x0 s) : (deferFaults x0 s).pending = s.pending ∧ (deferFaults x0 s).clk = s.clk ∧
    (deferFaults x0 s).tck = s.tck ∧ (deferFaults x0 s).arr = s.arr ∧ (deferFaults x0 s).exe = s.exe ∧ (deferFaults x0
    s).pen = s.pen ∧ (deferFaults x0 s).shed = s.shed ∧ (deferFaults x0 s).dmc = s.dmc ∧ (deferFaults x0 s).lnk =
    s.lnk ∧ (deferFaults x0 s).rls = s.rls ∧ (deferFaults x0 s).yms = s.yms ∧ (deferFaults x0 s).grm = s.grm ∧
    (deferFaults x0 s).pdk = s.pdk ∧ (deferFaults x0 s).ldr = s.ldr ∧ (deferFaults x0 s).sec = s.sec ∧ (deferFaults x0
    s).trg = s.trg ∧ (deferFaults x0 s).ptp = s.ptp ∧ (deferFaults x0 s).dbg = s.dbg ∧ (deferFaults x0 s).pwr = s.pwr
    ∧ (deferFaults x0 s).ckpt = s.ckpt := by
  unfold deferFaults; split <;> simp

@[simp] theorem recordOverrun_frame (x0 x1 x2 x3 s) : (recordOverrun x0 x1 x2 x3 s).pending = s.pending ∧
    (recordOverrun x0 x1 x2 x3 s).clk = s.clk ∧ (recordOverrun x0 x1 x2 x3 s).tck = s.tck ∧ (recordOverrun x0 x1 x2 x3
    s).arr = s.arr ∧ (recordOverrun x0 x1 x2 x3 s).exe = s.exe ∧ (recordOverrun x0 x1 x2 x3 s).pen = s.pen ∧
    (recordOverrun x0 x1 x2 x3 s).shed = s.shed ∧ (recordOverrun x0 x1 x2 x3 s).dmc = s.dmc ∧ (recordOverrun x0 x1 x2
    x3 s).lnk = s.lnk ∧ (recordOverrun x0 x1 x2 x3 s).rls = s.rls ∧ (recordOverrun x0 x1 x2 x3 s).yms = s.yms ∧
    (recordOverrun x0 x1 x2 x3 s).grm = s.grm ∧ (recordOverrun x0 x1 x2 x3 s).pdk = s.pdk ∧ (recordOverrun x0 x1 x2 x3
    s).ldr = s.ldr ∧ (recordOverrun x0 x1 x2 x3 s).sec = s.sec ∧ (recordOverrun x0 x1 x2 x3 s).trg = s.trg ∧
    (recordOverrun x0 x1 x2 x3 s).ptp = s.ptp ∧ (recordOverrun x0 x1 x2 x3 s).dbg = s.dbg ∧ (recordOverrun x0 x1 x2 x3
    s).pwr = s.pwr ∧ (recordOverrun x0 x1 x2 x3 s).ckpt = s.ckpt := by
  simp only [recordOverrun]; (repeat' split) <;> simp_all

@[simp] theorem undoTicks_frame (s) : (undoTicks s).st.pending = s.pending ∧ (undoTicks s).st.clk = s.clk ∧ (undoTicks
    s).st.dmc = s.dmc ∧ (undoTicks s).st.lnk = s.lnk ∧ (undoTicks s).st.rls = s.rls ∧ (undoTicks s).st.grm = s.grm ∧
    (undoTicks s).st.pdk = s.pdk ∧ (undoTicks s).st.ldr = s.ldr ∧ (undoTicks s).st.sec = s.sec ∧ (undoTicks s).st.trg
    = s.trg ∧ (undoTicks s).st.ptp = s.ptp ∧ (undoTicks s).st.dbg = s.dbg ∧ (undoTicks s).st.pwr = s.pwr ∧ (undoTicks
    s).st.ckpt = s.ckpt := by
  simp [undoTicks]

@[simp] theorem faultStop_frame (s) : (faultStop s).pending = s.pending ∧ (faultStop s).clk = s.clk ∧ (faultStop
    s).dmc = s.dmc ∧ (faultStop s).lnk = s.lnk ∧ (faultStop s).rls = s.rls ∧ (faultStop s).grm = s.grm ∧ (faultStop
    s).pdk = s.pdk ∧ (faultStop s).ldr = s.ldr ∧ (faultStop s).sec = s.sec ∧ (faultStop s).trg = s.trg ∧ (faultStop
    s).ptp = s.ptp ∧ (faultStop s).dbg = s.dbg ∧ (faultStop s).pwr = s.pwr ∧ (faultStop s).ckpt = s.ckpt := by
  simp only [faultStop]; (repeat' split) <;> simp_all

@[simp] theorem replayTick_frame (x0 s) : (replayTick x0 s).pending = s.pending ∧ (replayTick x0 s).clk = s.clk ∧
    (replayTick x0 s).dmc = s.dmc ∧ (replayTick x0 s).rls = s.rls ∧ (replayTick x0 s).grm = s.grm ∧ (replayTick x0
    s).pdk = s.pdk ∧ (replayTick x0 s).ldr = s.ldr ∧ (replayTick x0 s).sec = s.sec ∧ (replayTick x0 s).trg = s.trg ∧
    (replayTick x0 s).ptp = s.ptp ∧ (replayTick x0 s).dbg = s.dbg ∧ (replayTick x0 s).pwr = s.pwr ∧ (replayTick x0
    s).ckpt = s.ckpt := by
  simp only [replayTick]; (repeat' split) <;> simp_all

@[simp] theorem windowSingle_frame (x0 s) : (windowSingle x0 s).pending = s.pending ∧ (windowSingle x0 s).clk = s.clk
    ∧ (windowSingle x0 s).rls = s.rls ∧ (windowSingle x0 s).grm = s.grm ∧ (windowSingle x0 s).pdk = s.pdk ∧
    (windowSingle x0 s).ldr = s.ldr ∧ (windowSingle x0 s).sec = s.sec ∧ (windowSingle x0 s).trg = s.trg ∧
    (windowSingle x0 s).ptp = s.ptp ∧ (windowSingle x0 s).dbg = s.dbg ∧ (windowSingle x0 s).pwr = s.pwr ∧
    (windowSingle x0 s).ckpt = s.ckpt := by
  simp only [windowSingle]; (repeat' split) <;> simp_all

@[simp] theorem launchVote_frame (x0 s) : (launchVote x0 s).pending = s.pending ∧ (launchVote x0 s).regs = s.regs ∧
    (launchVote x0 s).clk = s.clk ∧ (launchVote x0 s).arr = s.arr ∧ (launchVote x0 s).exe = s.exe ∧ (launchVote x0
    s).pen = s.pen ∧ (launchVote x0 s).integ = s.integ ∧ (launchVote x0 s).shed = s.shed ∧ (launchVote x0 s).dmc =
    s.dmc ∧ (launchVote x0 s).rls = s.rls ∧ (launchVote x0 s).yms = s.yms ∧ (launchVote x0 s).grm = s.grm ∧
    (launchVote x0 s).pdk = s.pdk ∧ (launchVote x0 s).ldr = s.ldr ∧ (launchVote x0 s).sec = s.sec ∧ (launchVote x0
    s).trg = s.trg ∧ (launchVote x0 s).ptp = s.ptp ∧ (launchVote x0 s).dbg = s.dbg ∧ (launchVote x0 s).pwr = s.pwr ∧
    (launchVote x0 s).hst = s.hst ∧ (launchVote x0 s).ckpt = s.ckpt := by
  unfold launchVote; split <;> simp

@[simp] theorem commitSpec_frame (x0 x1 s) : (commitSpec x0 x1 s).pending = s.pending ∧ (commitSpec x0 x1 s).regs =
    s.regs ∧ (commitSpec x0 x1 s).clk = s.clk ∧ (commitSpec x0 x1 s).integ = s.integ ∧ (commitSpec x0 x1 s).shed =
    s.shed ∧ (commitSpec x0 x1 s).dmc = s.dmc ∧ (commitSpec x0 x1 s).rls = s.rls ∧ (commitSpec x0 x1 s).grm = s.grm ∧
    (commitSpec x0 x1 s).pdk = s.pdk ∧ (commitSpec x0 x1 s).ldr = s.ldr ∧ (commitSpec x0 x1 s).sec = s.sec ∧
    (commitSpec x0 x1 s).trg = s.trg ∧ (commitSpec x0 x1 s).ptp = s.ptp ∧ (commitSpec x0 x1 s).dbg = s.dbg ∧
    (commitSpec x0 x1 s).pwr = s.pwr ∧ (commitSpec x0 x1 s).hst = s.hst ∧ (commitSpec x0 x1 s).ckpt = s.ckpt := by
  simp [commitSpec]

@[simp] theorem windowMulti_frame (x0 s) : (windowMulti x0 s).pending = s.pending ∧ (windowMulti x0 s).clk = s.clk ∧
    (windowMulti x0 s).rls = s.rls ∧ (windowMulti x0 s).grm = s.grm ∧ (windowMulti x0 s).pdk = s.pdk ∧ (windowMulti x0
    s).ldr = s.ldr ∧ (windowMulti x0 s).sec = s.sec ∧ (windowMulti x0 s).trg = s.trg ∧ (windowMulti x0 s).ptp = s.ptp
    ∧ (windowMulti x0 s).dbg = s.dbg ∧ (windowMulti x0 s).pwr = s.pwr ∧ (windowMulti x0 s).ckpt = s.ckpt := by
  simp only [windowMulti]; (repeat' split) <;> simp_all

@[simp] theorem windowTail_frame (x0 s) : (windowTail x0 s).pending = s.pending ∧ (windowTail x0 s).clk = s.clk ∧
    (windowTail x0 s).tck = s.tck ∧ (windowTail x0 s).pen = s.pen ∧ (windowTail x0 s).shed = s.shed ∧ (windowTail x0
    s).rls = s.rls ∧ (windowTail x0 s).yms = s.yms ∧ (windowTail x0 s).grm = s.grm ∧ (windowTail x0 s).pdk = s.pdk ∧
    (windowTail x0 s).ldr = s.ldr ∧ (windowTail x0 s).sec = s.sec ∧ (windowTail x0 s).trg = s.trg ∧ (windowTail x0
    s).ptp = s.ptp ∧ (windowTail x0 s).dbg = s.dbg ∧ (windowTail x0 s).pwr = s.pwr ∧ (windowTail x0 s).ckpt = s.ckpt
    := by
  simp [windowTail]

@[simp] theorem atW0_frame (s) : (atW0 s).pending = s.pending ∧ (atW0 s).arr = s.arr ∧ (atW0 s).exe = s.exe ∧ (atW0
    s).pen = s.pen ∧ (atW0 s).integ = s.integ ∧ (atW0 s).dmc = s.dmc ∧ (atW0 s).lnk = s.lnk ∧ (atW0 s).yms = s.yms ∧
    (atW0 s).grm = s.grm ∧ (atW0 s).pdk = s.pdk ∧ (atW0 s).ldr = s.ldr ∧ (atW0 s).sec = s.sec ∧ (atW0 s).trg = s.trg ∧
    (atW0 s).dbg = s.dbg ∧ (atW0 s).pwr = s.pwr ∧ (atW0 s).ckpt = s.ckpt := by
  simp [atW0]

@[simp] theorem wholeWindow_frame (x0 s) : (wholeWindow x0 s).pending = s.pending ∧ (wholeWindow x0 s).grm = s.grm ∧
    (wholeWindow x0 s).pdk = s.pdk ∧ (wholeWindow x0 s).ldr = s.ldr ∧ (wholeWindow x0 s).sec = s.sec ∧ (wholeWindow x0
    s).trg = s.trg ∧ (wholeWindow x0 s).dbg = s.dbg ∧ (wholeWindow x0 s).pwr = s.pwr ∧ (wholeWindow x0 s).ckpt =
    s.ckpt := by
  simp only [wholeWindow]; (repeat' split) <;> simp_all

@[simp] theorem beginTick_frame (s) : (beginTick s).pending = s.pending ∧ (beginTick s).regs = s.regs ∧ (beginTick
    s).clk = s.clk ∧ (beginTick s).integ = s.integ ∧ (beginTick s).shed = s.shed ∧ (beginTick s).dmc = s.dmc ∧
    (beginTick s).rls = s.rls ∧ (beginTick s).yms = s.yms ∧ (beginTick s).grm = s.grm ∧ (beginTick s).pdk = s.pdk ∧
    (beginTick s).ldr = s.ldr ∧ (beginTick s).sec = s.sec ∧ (beginTick s).trg = s.trg ∧ (beginTick s).ptp = s.ptp ∧
    (beginTick s).dbg = s.dbg ∧ (beginTick s).pwr = s.pwr ∧ (beginTick s).hst = s.hst ∧ (beginTick s).ckpt = s.ckpt :=
    by
  simp [beginTick]

/-! ### Hold -/

@[simp] theorem doHoldDecision_frame (x0 x1 x2 s) : (doHoldDecision x0 x1 x2 s).pending = s.pending ∧ (doHoldDecision
    x0 x1 x2 s).arr = s.arr ∧ (doHoldDecision x0 x1 x2 s).pen = s.pen ∧ (doHoldDecision x0 x1 x2 s).integ = s.integ ∧
    (doHoldDecision x0 x1 x2 s).dmc = s.dmc ∧ (doHoldDecision x0 x1 x2 s).yms = s.yms ∧ (doHoldDecision x0 x1 x2
    s).grm = s.grm ∧ (doHoldDecision x0 x1 x2 s).pdk = s.pdk ∧ (doHoldDecision x0 x1 x2 s).ldr = s.ldr ∧
    (doHoldDecision x0 x1 x2 s).sec = s.sec ∧ (doHoldDecision x0 x1 x2 s).trg = s.trg ∧ (doHoldDecision x0 x1 x2
    s).dbg = s.dbg ∧ (doHoldDecision x0 x1 x2 s).pwr = s.pwr ∧ (doHoldDecision x0 x1 x2 s).ckpt = s.ckpt := by
  simp only [doHoldDecision]; (repeat' split) <;> simp_all

@[simp] theorem doHoldFreeze_frame (s) : (doHoldFreeze s).pending = s.pending ∧ (doHoldFreeze s).exe = s.exe ∧
    (doHoldFreeze s).pen = s.pen ∧ (doHoldFreeze s).dmc = s.dmc ∧ (doHoldFreeze s).lnk = s.lnk ∧ (doHoldFreeze s).yms
    = s.yms ∧ (doHoldFreeze s).grm = s.grm ∧ (doHoldFreeze s).pdk = s.pdk ∧ (doHoldFreeze s).ldr = s.ldr ∧
    (doHoldFreeze s).sec = s.sec ∧ (doHoldFreeze s).trg = s.trg ∧ (doHoldFreeze s).dbg = s.dbg ∧ (doHoldFreeze s).pwr
    = s.pwr ∧ (doHoldFreeze s).ckpt = s.ckpt := by
  simp only [doHoldFreeze]; (repeat' split) <;> simp_all

@[simp] theorem doModelReadArrival_frame (x0 x1 x2 x3 s) : (doModelReadArrival x0 x1 x2 x3 s).pending = s.pending ∧
    (doModelReadArrival x0 x1 x2 x3 s).clk = s.clk ∧ (doModelReadArrival x0 x1 x2 x3 s).tck = s.tck ∧
    (doModelReadArrival x0 x1 x2 x3 s).arr = s.arr ∧ (doModelReadArrival x0 x1 x2 x3 s).pen = s.pen ∧
    (doModelReadArrival x0 x1 x2 x3 s).integ = s.integ ∧ (doModelReadArrival x0 x1 x2 x3 s).shed = s.shed ∧
    (doModelReadArrival x0 x1 x2 x3 s).lnk = s.lnk ∧ (doModelReadArrival x0 x1 x2 x3 s).rls = s.rls ∧
    (doModelReadArrival x0 x1 x2 x3 s).yms = s.yms ∧ (doModelReadArrival x0 x1 x2 x3 s).grm = s.grm ∧
    (doModelReadArrival x0 x1 x2 x3 s).pdk = s.pdk ∧ (doModelReadArrival x0 x1 x2 x3 s).ldr = s.ldr ∧
    (doModelReadArrival x0 x1 x2 x3 s).sec = s.sec ∧ (doModelReadArrival x0 x1 x2 x3 s).trg = s.trg ∧
    (doModelReadArrival x0 x1 x2 x3 s).ptp = s.ptp ∧ (doModelReadArrival x0 x1 x2 x3 s).dbg = s.dbg ∧
    (doModelReadArrival x0 x1 x2 x3 s).pwr = s.pwr ∧ (doModelReadArrival x0 x1 x2 x3 s).hst = s.hst ∧
    (doModelReadArrival x0 x1 x2 x3 s).ckpt = s.ckpt := by
  unfold doModelReadArrival; split <;> simp

@[simp] theorem rootRelease_frame (s) : (rootRelease s).pending = s.pending ∧ (rootRelease s).regs = s.regs ∧
    (rootRelease s).clk = s.clk ∧ (rootRelease s).arr = s.arr ∧ (rootRelease s).exe = s.exe ∧ (rootRelease s).pen =
    s.pen ∧ (rootRelease s).integ = s.integ ∧ (rootRelease s).shed = s.shed ∧ (rootRelease s).dmc = s.dmc ∧
    (rootRelease s).rls = s.rls ∧ (rootRelease s).yms = s.yms ∧ (rootRelease s).grm = s.grm ∧ (rootRelease s).pdk =
    s.pdk ∧ (rootRelease s).ldr = s.ldr ∧ (rootRelease s).sec = s.sec ∧ (rootRelease s).trg = s.trg ∧ (rootRelease
    s).ptp = s.ptp ∧ (rootRelease s).dbg = s.dbg ∧ (rootRelease s).pwr = s.pwr ∧ (rootRelease s).hst = s.hst ∧
    (rootRelease s).ckpt = s.ckpt := by
  unfold rootRelease; (repeat' split) <;> simp_all

@[simp] theorem holdOver_frame (x0 x1 s) : (holdOver x0 x1 s).pending = s.pending ∧ (holdOver x0 x1 s).clk = s.clk ∧
    (holdOver x0 x1 s).arr = s.arr ∧ (holdOver x0 x1 s).exe = s.exe ∧ (holdOver x0 x1 s).pen = s.pen ∧ (holdOver x0 x1
    s).integ = s.integ ∧ (holdOver x0 x1 s).shed = s.shed ∧ (holdOver x0 x1 s).dmc = s.dmc ∧ (holdOver x0 x1 s).rls =
    s.rls ∧ (holdOver x0 x1 s).yms = s.yms ∧ (holdOver x0 x1 s).grm = s.grm ∧ (holdOver x0 x1 s).pdk = s.pdk ∧
    (holdOver x0 x1 s).ldr = s.ldr ∧ (holdOver x0 x1 s).sec = s.sec ∧ (holdOver x0 x1 s).trg = s.trg ∧ (holdOver x0 x1
    s).ptp = s.ptp ∧ (holdOver x0 x1 s).dbg = s.dbg ∧ (holdOver x0 x1 s).pwr = s.pwr ∧ (holdOver x0 x1 s).hst = s.hst
    ∧ (holdOver x0 x1 s).ckpt = s.ckpt := by
  simp [holdOver]

@[simp] theorem doHoldResume_frame (s) : (doHoldResume s).pending = s.pending ∧ (doHoldResume s).integ = s.integ ∧
    (doHoldResume s).dmc = s.dmc ∧ (doHoldResume s).yms = s.yms ∧ (doHoldResume s).grm = s.grm ∧ (doHoldResume s).pdk
    = s.pdk ∧ (doHoldResume s).ldr = s.ldr ∧ (doHoldResume s).sec = s.sec ∧ (doHoldResume s).trg = s.trg ∧
    (doHoldResume s).dbg = s.dbg ∧ (doHoldResume s).pwr = s.pwr ∧ (doHoldResume s).ckpt = s.ckpt := by
  simp only [doHoldResume]; (repeat' split) <;> simp_all

@[simp] theorem doRestartHoldEnd_frame (s) : (doRestartHoldEnd s).pending = s.pending ∧ (doRestartHoldEnd s).integ =
    s.integ ∧ (doRestartHoldEnd s).dmc = s.dmc ∧ (doRestartHoldEnd s).yms = s.yms ∧ (doRestartHoldEnd s).grm = s.grm ∧
    (doRestartHoldEnd s).pdk = s.pdk ∧ (doRestartHoldEnd s).ldr = s.ldr ∧ (doRestartHoldEnd s).sec = s.sec ∧
    (doRestartHoldEnd s).trg = s.trg ∧ (doRestartHoldEnd s).dbg = s.dbg ∧ (doRestartHoldEnd s).pwr = s.pwr ∧
    (doRestartHoldEnd s).ckpt = s.ckpt := by
  simp only [doRestartHoldEnd]; (repeat' split) <;> simp_all

@[simp] theorem atTimeout_frame (s x1) : (atTimeout s x1).pending = s.pending ∧ (atTimeout s x1).tck = s.tck ∧
    (atTimeout s x1).arr = s.arr ∧ (atTimeout s x1).exe = s.exe ∧ (atTimeout s x1).pen = s.pen ∧ (atTimeout s
    x1).integ = s.integ ∧ (atTimeout s x1).dmc = s.dmc ∧ (atTimeout s x1).lnk = s.lnk ∧ (atTimeout s x1).yms = s.yms ∧
    (atTimeout s x1).grm = s.grm ∧ (atTimeout s x1).pdk = s.pdk ∧ (atTimeout s x1).ldr = s.ldr ∧ (atTimeout s x1).sec
    = s.sec ∧ (atTimeout s x1).trg = s.trg ∧ (atTimeout s x1).dbg = s.dbg ∧ (atTimeout s x1).pwr = s.pwr ∧ (atTimeout
    s x1).ckpt = s.ckpt := by
  simp [atTimeout]

@[simp] theorem logOpen_frame (s) : (logOpen s).pending = s.pending ∧ (logOpen s).clk = s.clk ∧ (logOpen s).tck =
    s.tck ∧ (logOpen s).arr = s.arr ∧ (logOpen s).pen = s.pen ∧ (logOpen s).shed = s.shed ∧ (logOpen s).dmc = s.dmc ∧
    (logOpen s).lnk = s.lnk ∧ (logOpen s).rls = s.rls ∧ (logOpen s).yms = s.yms ∧ (logOpen s).grm = s.grm ∧ (logOpen
    s).pdk = s.pdk ∧ (logOpen s).ldr = s.ldr ∧ (logOpen s).sec = s.sec ∧ (logOpen s).trg = s.trg ∧ (logOpen s).ptp =
    s.ptp ∧ (logOpen s).dbg = s.dbg ∧ (logOpen s).pwr = s.pwr ∧ (logOpen s).ckpt = s.ckpt := by
  simp [logOpen]

@[simp] theorem doTickStretchTimeout_frame (s) : (doTickStretchTimeout s).pending = s.pending ∧ (doTickStretchTimeout
    s).dmc = s.dmc ∧ (doTickStretchTimeout s).grm = s.grm ∧ (doTickStretchTimeout s).pdk = s.pdk ∧
    (doTickStretchTimeout s).ldr = s.ldr ∧ (doTickStretchTimeout s).sec = s.sec ∧ (doTickStretchTimeout s).trg = s.trg
    ∧ (doTickStretchTimeout s).dbg = s.dbg ∧ (doTickStretchTimeout s).pwr = s.pwr ∧ (doTickStretchTimeout s).ckpt =
    s.ckpt := by
  simp only [doTickStretchTimeout]; (repeat' split) <;> simp_all

/-! ### RegFile -/

@[simp] theorem fieldWrite_frame (x0 x1 x2 x3 s) : (fieldWrite x0 x1 x2 x3 s).1.pending = s.pending ∧ (fieldWrite x0
    x1 x2 x3 s).1.clk = s.clk ∧ (fieldWrite x0 x1 x2 x3 s).1.tck = s.tck ∧ (fieldWrite x0 x1 x2 x3 s).1.arr = s.arr ∧
    (fieldWrite x0 x1 x2 x3 s).1.exe = s.exe ∧ (fieldWrite x0 x1 x2 x3 s).1.pen = s.pen ∧ (fieldWrite x0 x1 x2 x3
    s).1.integ = s.integ ∧ (fieldWrite x0 x1 x2 x3 s).1.shed = s.shed ∧ (fieldWrite x0 x1 x2 x3 s).1.dmc = s.dmc ∧
    (fieldWrite x0 x1 x2 x3 s).1.lnk = s.lnk ∧ (fieldWrite x0 x1 x2 x3 s).1.rls = s.rls ∧ (fieldWrite x0 x1 x2 x3
    s).1.yms = s.yms ∧ (fieldWrite x0 x1 x2 x3 s).1.grm = s.grm ∧ (fieldWrite x0 x1 x2 x3 s).1.pdk = s.pdk ∧
    (fieldWrite x0 x1 x2 x3 s).1.ldr = s.ldr ∧ (fieldWrite x0 x1 x2 x3 s).1.sec = s.sec ∧ (fieldWrite x0 x1 x2 x3
    s).1.trg = s.trg ∧ (fieldWrite x0 x1 x2 x3 s).1.ptp = s.ptp ∧ (fieldWrite x0 x1 x2 x3 s).1.hst = s.hst ∧
    (fieldWrite x0 x1 x2 x3 s).1.ckpt = s.ckpt := by
  unfold fieldWrite; split <;> simp

@[simp] theorem hwSet_frame (x0 x1 x2 x3 s) : (hwSet x0 x1 x2 x3 s).pending = s.pending ∧ (hwSet x0 x1 x2 x3 s).clk =
    s.clk ∧ (hwSet x0 x1 x2 x3 s).tck = s.tck ∧ (hwSet x0 x1 x2 x3 s).arr = s.arr ∧ (hwSet x0 x1 x2 x3 s).exe = s.exe
    ∧ (hwSet x0 x1 x2 x3 s).pen = s.pen ∧ (hwSet x0 x1 x2 x3 s).integ = s.integ ∧ (hwSet x0 x1 x2 x3 s).shed = s.shed
    ∧ (hwSet x0 x1 x2 x3 s).dmc = s.dmc ∧ (hwSet x0 x1 x2 x3 s).lnk = s.lnk ∧ (hwSet x0 x1 x2 x3 s).rls = s.rls ∧
    (hwSet x0 x1 x2 x3 s).yms = s.yms ∧ (hwSet x0 x1 x2 x3 s).grm = s.grm ∧ (hwSet x0 x1 x2 x3 s).pdk = s.pdk ∧ (hwSet
    x0 x1 x2 x3 s).ldr = s.ldr ∧ (hwSet x0 x1 x2 x3 s).sec = s.sec ∧ (hwSet x0 x1 x2 x3 s).trg = s.trg ∧ (hwSet x0 x1
    x2 x3 s).ptp = s.ptp ∧ (hwSet x0 x1 x2 x3 s).dbg = s.dbg ∧ (hwSet x0 x1 x2 x3 s).pwr = s.pwr ∧ (hwSet x0 x1 x2 x3
    s).hst = s.hst ∧ (hwSet x0 x1 x2 x3 s).ckpt = s.ckpt := by
  simp [hwSet]

/-! ### TraceOps -/

@[simp] theorem setGroom_frame (s x1 x2) : (setGroom s x1 x2).pending = s.pending ∧ (setGroom s x1 x2).regs = s.regs ∧
    (setGroom s x1 x2).clk = s.clk ∧ (setGroom s x1 x2).tck = s.tck ∧ (setGroom s x1 x2).arr = s.arr ∧ (setGroom s x1
    x2).exe = s.exe ∧ (setGroom s x1 x2).pen = s.pen ∧ (setGroom s x1 x2).integ = s.integ ∧ (setGroom s x1 x2).shed =
    s.shed ∧ (setGroom s x1 x2).dmc = s.dmc ∧ (setGroom s x1 x2).lnk = s.lnk ∧ (setGroom s x1 x2).rls = s.rls ∧
    (setGroom s x1 x2).yms = s.yms ∧ (setGroom s x1 x2).pdk = s.pdk ∧ (setGroom s x1 x2).ldr = s.ldr ∧ (setGroom s x1
    x2).sec = s.sec ∧ (setGroom s x1 x2).trg = s.trg ∧ (setGroom s x1 x2).ptp = s.ptp ∧ (setGroom s x1 x2).dbg = s.dbg
    ∧ (setGroom s x1 x2).pwr = s.pwr ∧ (setGroom s x1 x2).hst = s.hst ∧ (setGroom s x1 x2).ckpt = s.ckpt := by
  simp [setGroom]

@[simp] theorem trcLost_frame (x0 s) : (trcLost x0 s).pending = s.pending ∧ (trcLost x0 s).clk = s.clk ∧ (trcLost x0
    s).tck = s.tck ∧ (trcLost x0 s).arr = s.arr ∧ (trcLost x0 s).exe = s.exe ∧ (trcLost x0 s).pen = s.pen ∧ (trcLost
    x0 s).integ = s.integ ∧ (trcLost x0 s).shed = s.shed ∧ (trcLost x0 s).dmc = s.dmc ∧ (trcLost x0 s).lnk = s.lnk ∧
    (trcLost x0 s).rls = s.rls ∧ (trcLost x0 s).yms = s.yms ∧ (trcLost x0 s).grm = s.grm ∧ (trcLost x0 s).pdk = s.pdk
    ∧ (trcLost x0 s).ldr = s.ldr ∧ (trcLost x0 s).sec = s.sec ∧ (trcLost x0 s).trg = s.trg ∧ (trcLost x0 s).ptp =
    s.ptp ∧ (trcLost x0 s).dbg = s.dbg ∧ (trcLost x0 s).pwr = s.pwr ∧ (trcLost x0 s).ckpt = s.ckpt := by
  unfold trcLost; split <;> simp

@[simp] theorem passFree_frame (s) : (passFree s).pending = s.pending ∧ (passFree s).regs = s.regs ∧ (passFree s).tck
    = s.tck ∧ (passFree s).arr = s.arr ∧ (passFree s).exe = s.exe ∧ (passFree s).pen = s.pen ∧ (passFree s).integ =
    s.integ ∧ (passFree s).shed = s.shed ∧ (passFree s).dmc = s.dmc ∧ (passFree s).lnk = s.lnk ∧ (passFree s).rls =
    s.rls ∧ (passFree s).yms = s.yms ∧ (passFree s).grm = s.grm ∧ (passFree s).pdk = s.pdk ∧ (passFree s).ldr = s.ldr
    ∧ (passFree s).sec = s.sec ∧ (passFree s).trg = s.trg ∧ (passFree s).ptp = s.ptp ∧ (passFree s).dbg = s.dbg ∧
    (passFree s).pwr = s.pwr ∧ (passFree s).hst = s.hst ∧ (passFree s).ckpt = s.ckpt := by
  simp [passFree]

@[simp] theorem emitTrace_frame (x0 x1 s) : (emitTrace x0 x1 s).pending = s.pending ∧ (emitTrace x0 x1 s).tck = s.tck
    ∧ (emitTrace x0 x1 s).arr = s.arr ∧ (emitTrace x0 x1 s).exe = s.exe ∧ (emitTrace x0 x1 s).pen = s.pen ∧ (emitTrace
    x0 x1 s).integ = s.integ ∧ (emitTrace x0 x1 s).shed = s.shed ∧ (emitTrace x0 x1 s).dmc = s.dmc ∧ (emitTrace x0 x1
    s).lnk = s.lnk ∧ (emitTrace x0 x1 s).rls = s.rls ∧ (emitTrace x0 x1 s).yms = s.yms ∧ (emitTrace x0 x1 s).pdk =
    s.pdk ∧ (emitTrace x0 x1 s).ldr = s.ldr ∧ (emitTrace x0 x1 s).sec = s.sec ∧ (emitTrace x0 x1 s).trg = s.trg ∧
    (emitTrace x0 x1 s).ptp = s.ptp ∧ (emitTrace x0 x1 s).dbg = s.dbg ∧ (emitTrace x0 x1 s).pwr = s.pwr ∧ (emitTrace
    x0 x1 s).ckpt = s.ckpt := by
  unfold emitTrace; split <;> simp

@[simp] theorem emitFlow_frame (x0 x1 s) : (emitFlow x0 x1 s).pending = s.pending ∧ (emitFlow x0 x1 s).tck = s.tck ∧
    (emitFlow x0 x1 s).arr = s.arr ∧ (emitFlow x0 x1 s).exe = s.exe ∧ (emitFlow x0 x1 s).pen = s.pen ∧ (emitFlow x0 x1
    s).integ = s.integ ∧ (emitFlow x0 x1 s).shed = s.shed ∧ (emitFlow x0 x1 s).dmc = s.dmc ∧ (emitFlow x0 x1 s).lnk =
    s.lnk ∧ (emitFlow x0 x1 s).rls = s.rls ∧ (emitFlow x0 x1 s).yms = s.yms ∧ (emitFlow x0 x1 s).pdk = s.pdk ∧
    (emitFlow x0 x1 s).ldr = s.ldr ∧ (emitFlow x0 x1 s).sec = s.sec ∧ (emitFlow x0 x1 s).trg = s.trg ∧ (emitFlow x0 x1
    s).ptp = s.ptp ∧ (emitFlow x0 x1 s).dbg = s.dbg ∧ (emitFlow x0 x1 s).pwr = s.pwr ∧ (emitFlow x0 x1 s).ckpt =
    s.ckpt := by
  simp only [emitFlow]; (repeat' split) <;> simp_all

@[simp] theorem emitData_frame (x0 x1 s) : (emitData x0 x1 s).pending = s.pending ∧ (emitData x0 x1 s).tck = s.tck ∧
    (emitData x0 x1 s).arr = s.arr ∧ (emitData x0 x1 s).exe = s.exe ∧ (emitData x0 x1 s).pen = s.pen ∧ (emitData x0 x1
    s).integ = s.integ ∧ (emitData x0 x1 s).shed = s.shed ∧ (emitData x0 x1 s).dmc = s.dmc ∧ (emitData x0 x1 s).lnk =
    s.lnk ∧ (emitData x0 x1 s).rls = s.rls ∧ (emitData x0 x1 s).yms = s.yms ∧ (emitData x0 x1 s).pdk = s.pdk ∧
    (emitData x0 x1 s).ldr = s.ldr ∧ (emitData x0 x1 s).sec = s.sec ∧ (emitData x0 x1 s).trg = s.trg ∧ (emitData x0 x1
    s).ptp = s.ptp ∧ (emitData x0 x1 s).dbg = s.dbg ∧ (emitData x0 x1 s).pwr = s.pwr ∧ (emitData x0 x1 s).ckpt =
    s.ckpt := by
  induction x1 generalizing s with
  | nil => simp [emitData]
  | cons d ds ih =>
    simp only [emitData, ih]
    (repeat' split) <;> simp

@[simp] theorem emitRetired_frame (x0 x1 s) : (emitRetired x0 x1 s).pending = s.pending ∧ (emitRetired x0 x1 s).tck =
    s.tck ∧ (emitRetired x0 x1 s).arr = s.arr ∧ (emitRetired x0 x1 s).exe = s.exe ∧ (emitRetired x0 x1 s).pen = s.pen
    ∧ (emitRetired x0 x1 s).integ = s.integ ∧ (emitRetired x0 x1 s).shed = s.shed ∧ (emitRetired x0 x1 s).dmc = s.dmc
    ∧ (emitRetired x0 x1 s).lnk = s.lnk ∧ (emitRetired x0 x1 s).rls = s.rls ∧ (emitRetired x0 x1 s).yms = s.yms ∧
    (emitRetired x0 x1 s).pdk = s.pdk ∧ (emitRetired x0 x1 s).ldr = s.ldr ∧ (emitRetired x0 x1 s).sec = s.sec ∧
    (emitRetired x0 x1 s).trg = s.trg ∧ (emitRetired x0 x1 s).ptp = s.ptp ∧ (emitRetired x0 x1 s).dbg = s.dbg ∧
    (emitRetired x0 x1 s).pwr = s.pwr ∧ (emitRetired x0 x1 s).ckpt = s.ckpt := by
  simp [emitRetired]

/-! ### Domains -/

@[simp] theorem raiseBarns_frame (x0 x1 x2 s) : (raiseBarns x0 x1 x2 s).pending = s.pending ∧ (raiseBarns x0 x1 x2
    s).clk = s.clk ∧ (raiseBarns x0 x1 x2 s).tck = s.tck ∧ (raiseBarns x0 x1 x2 s).arr = s.arr ∧ (raiseBarns x0 x1 x2
    s).exe = s.exe ∧ (raiseBarns x0 x1 x2 s).pen = s.pen ∧ (raiseBarns x0 x1 x2 s).integ = s.integ ∧ (raiseBarns x0 x1
    x2 s).shed = s.shed ∧ (raiseBarns x0 x1 x2 s).dmc = s.dmc ∧ (raiseBarns x0 x1 x2 s).lnk = s.lnk ∧ (raiseBarns x0
    x1 x2 s).rls = s.rls ∧ (raiseBarns x0 x1 x2 s).yms = s.yms ∧ (raiseBarns x0 x1 x2 s).grm = s.grm ∧ (raiseBarns x0
    x1 x2 s).pdk = s.pdk ∧ (raiseBarns x0 x1 x2 s).ldr = s.ldr ∧ (raiseBarns x0 x1 x2 s).sec = s.sec ∧ (raiseBarns x0
    x1 x2 s).trg = s.trg ∧ (raiseBarns x0 x1 x2 s).ptp = s.ptp ∧ (raiseBarns x0 x1 x2 s).dbg = s.dbg ∧ (raiseBarns x0
    x1 x2 s).pwr = s.pwr ∧ (raiseBarns x0 x1 x2 s).ckpt = s.ckpt := by
  fun_induction raiseBarns <;> simp_all

@[simp] theorem wakeSync_frame (x0 s) : (wakeSync x0 s).pending = s.pending ∧ (wakeSync x0 s).tck = s.tck ∧ (wakeSync
    x0 s).arr = s.arr ∧ (wakeSync x0 s).exe = s.exe ∧ (wakeSync x0 s).pen = s.pen ∧ (wakeSync x0 s).integ = s.integ ∧
    (wakeSync x0 s).shed = s.shed ∧ (wakeSync x0 s).dmc = s.dmc ∧ (wakeSync x0 s).lnk = s.lnk ∧ (wakeSync x0 s).rls =
    s.rls ∧ (wakeSync x0 s).yms = s.yms ∧ (wakeSync x0 s).pdk = s.pdk ∧ (wakeSync x0 s).ldr = s.ldr ∧ (wakeSync x0
    s).sec = s.sec ∧ (wakeSync x0 s).trg = s.trg ∧ (wakeSync x0 s).ptp = s.ptp ∧ (wakeSync x0 s).dbg = s.dbg ∧
    (wakeSync x0 s).pwr = s.pwr ∧ (wakeSync x0 s).ckpt = s.ckpt := by
  unfold wakeSync; split <;> simp

@[simp] theorem wakeSyncs_frame (x0 x1 s) : (wakeSyncs x0 x1 s).pending = s.pending ∧ (wakeSyncs x0 x1 s).tck = s.tck
    ∧ (wakeSyncs x0 x1 s).arr = s.arr ∧ (wakeSyncs x0 x1 s).exe = s.exe ∧ (wakeSyncs x0 x1 s).pen = s.pen ∧ (wakeSyncs
    x0 x1 s).integ = s.integ ∧ (wakeSyncs x0 x1 s).shed = s.shed ∧ (wakeSyncs x0 x1 s).dmc = s.dmc ∧ (wakeSyncs x0 x1
    s).lnk = s.lnk ∧ (wakeSyncs x0 x1 s).rls = s.rls ∧ (wakeSyncs x0 x1 s).yms = s.yms ∧ (wakeSyncs x0 x1 s).pdk =
    s.pdk ∧ (wakeSyncs x0 x1 s).ldr = s.ldr ∧ (wakeSyncs x0 x1 s).sec = s.sec ∧ (wakeSyncs x0 x1 s).trg = s.trg ∧
    (wakeSyncs x0 x1 s).ptp = s.ptp ∧ (wakeSyncs x0 x1 s).dbg = s.dbg ∧ (wakeSyncs x0 x1 s).pwr = s.pwr ∧ (wakeSyncs
    x0 x1 s).ckpt = s.ckpt := by
  fun_induction wakeSyncs <;> simp_all

@[simp] theorem unlockLinks_frame (x0 x1 s) : (unlockLinks x0 x1 s).pending = s.pending ∧ (unlockLinks x0 x1 s).clk =
    s.clk ∧ (unlockLinks x0 x1 s).tck = s.tck ∧ (unlockLinks x0 x1 s).arr = s.arr ∧ (unlockLinks x0 x1 s).exe = s.exe
    ∧ (unlockLinks x0 x1 s).pen = s.pen ∧ (unlockLinks x0 x1 s).integ = s.integ ∧ (unlockLinks x0 x1 s).shed = s.shed
    ∧ (unlockLinks x0 x1 s).dmc = s.dmc ∧ (unlockLinks x0 x1 s).rls = s.rls ∧ (unlockLinks x0 x1 s).yms = s.yms ∧
    (unlockLinks x0 x1 s).grm = s.grm ∧ (unlockLinks x0 x1 s).pdk = s.pdk ∧ (unlockLinks x0 x1 s).ldr = s.ldr ∧
    (unlockLinks x0 x1 s).sec = s.sec ∧ (unlockLinks x0 x1 s).trg = s.trg ∧ (unlockLinks x0 x1 s).ptp = s.ptp ∧
    (unlockLinks x0 x1 s).dbg = s.dbg ∧ (unlockLinks x0 x1 s).pwr = s.pwr ∧ (unlockLinks x0 x1 s).hst = s.hst ∧
    (unlockLinks x0 x1 s).ckpt = s.ckpt := by
  fun_induction unlockLinks <;> simp_all

@[simp] theorem restoreOne_frame (x0 x1 s) : (restoreOne x0 x1 s).pending = s.pending ∧ (restoreOne x0 x1 s).clk =
    s.clk ∧ (restoreOne x0 x1 s).tck = s.tck ∧ (restoreOne x0 x1 s).arr = s.arr ∧ (restoreOne x0 x1 s).exe = s.exe ∧
    (restoreOne x0 x1 s).pen = s.pen ∧ (restoreOne x0 x1 s).integ = s.integ ∧ (restoreOne x0 x1 s).shed = s.shed ∧
    (restoreOne x0 x1 s).dmc = s.dmc ∧ (restoreOne x0 x1 s).lnk = s.lnk ∧ (restoreOne x0 x1 s).rls = s.rls ∧
    (restoreOne x0 x1 s).yms = s.yms ∧ (restoreOne x0 x1 s).grm = s.grm ∧ (restoreOne x0 x1 s).pdk = s.pdk ∧
    (restoreOne x0 x1 s).ldr = s.ldr ∧ (restoreOne x0 x1 s).sec = s.sec ∧ (restoreOne x0 x1 s).trg = s.trg ∧
    (restoreOne x0 x1 s).ptp = s.ptp ∧ (restoreOne x0 x1 s).pwr = s.pwr ∧ (restoreOne x0 x1 s).ckpt = s.ckpt := by
  unfold restoreOne; (repeat' split) <;> simp_all

@[simp] theorem restoreAll_frame (x0 s) : (restoreAll x0 s).pending = s.pending ∧ (restoreAll x0 s).clk = s.clk ∧
    (restoreAll x0 s).tck = s.tck ∧ (restoreAll x0 s).arr = s.arr ∧ (restoreAll x0 s).exe = s.exe ∧ (restoreAll x0
    s).pen = s.pen ∧ (restoreAll x0 s).integ = s.integ ∧ (restoreAll x0 s).shed = s.shed ∧ (restoreAll x0 s).dmc =
    s.dmc ∧ (restoreAll x0 s).lnk = s.lnk ∧ (restoreAll x0 s).rls = s.rls ∧ (restoreAll x0 s).yms = s.yms ∧
    (restoreAll x0 s).grm = s.grm ∧ (restoreAll x0 s).pdk = s.pdk ∧ (restoreAll x0 s).ldr = s.ldr ∧ (restoreAll x0
    s).sec = s.sec ∧ (restoreAll x0 s).trg = s.trg ∧ (restoreAll x0 s).ptp = s.ptp ∧ (restoreAll x0 s).pwr = s.pwr ∧
    (restoreAll x0 s).ckpt = s.ckpt := by
  fun_induction restoreAll <;> simp_all

@[simp] theorem clearDomain_frame (x0 s) : (clearDomain x0 s).pending = s.pending ∧ (clearDomain x0 s).regs = s.regs ∧
    (clearDomain x0 s).clk = s.clk ∧ (clearDomain x0 s).tck = s.tck ∧ (clearDomain x0 s).exe = s.exe ∧ (clearDomain x0
    s).dmc = s.dmc ∧ (clearDomain x0 s).rls = s.rls ∧ (clearDomain x0 s).yms = s.yms ∧ (clearDomain x0 s).grm = s.grm
    ∧ (clearDomain x0 s).ldr = s.ldr ∧ (clearDomain x0 s).sec = s.sec ∧ (clearDomain x0 s).pwr = s.pwr ∧ (clearDomain
    x0 s).hst = s.hst ∧ (clearDomain x0 s).ckpt = s.ckpt := by
  unfold clearDomain; (repeat' split) <;> simp_all

@[simp] theorem offGrooms_frame (x0 x1 s) : (offGrooms x0 x1 s).pending = s.pending ∧ (offGrooms x0 x1 s).regs =
    s.regs ∧ (offGrooms x0 x1 s).clk = s.clk ∧ (offGrooms x0 x1 s).tck = s.tck ∧ (offGrooms x0 x1 s).arr = s.arr ∧
    (offGrooms x0 x1 s).exe = s.exe ∧ (offGrooms x0 x1 s).pen = s.pen ∧ (offGrooms x0 x1 s).integ = s.integ ∧
    (offGrooms x0 x1 s).shed = s.shed ∧ (offGrooms x0 x1 s).dmc = s.dmc ∧ (offGrooms x0 x1 s).lnk = s.lnk ∧ (offGrooms
    x0 x1 s).rls = s.rls ∧ (offGrooms x0 x1 s).yms = s.yms ∧ (offGrooms x0 x1 s).pdk = s.pdk ∧ (offGrooms x0 x1 s).ldr
    = s.ldr ∧ (offGrooms x0 x1 s).sec = s.sec ∧ (offGrooms x0 x1 s).trg = s.trg ∧ (offGrooms x0 x1 s).ptp = s.ptp ∧
    (offGrooms x0 x1 s).dbg = s.dbg ∧ (offGrooms x0 x1 s).pwr = s.pwr ∧ (offGrooms x0 x1 s).hst = s.hst ∧ (offGrooms
    x0 x1 s).ckpt = s.ckpt := by
  fun_induction offGrooms <;> simp_all

@[simp] theorem afterRestore_frame (x0 s) : (afterRestore x0 s).pending = s.pending ∧ (afterRestore x0 s).clk = s.clk
    ∧ (afterRestore x0 s).tck = s.tck ∧ (afterRestore x0 s).arr = s.arr ∧ (afterRestore x0 s).exe = s.exe ∧
    (afterRestore x0 s).pen = s.pen ∧ (afterRestore x0 s).integ = s.integ ∧ (afterRestore x0 s).shed = s.shed ∧
    (afterRestore x0 s).dmc = s.dmc ∧ (afterRestore x0 s).lnk = s.lnk ∧ (afterRestore x0 s).rls = s.rls ∧
    (afterRestore x0 s).yms = s.yms ∧ (afterRestore x0 s).pdk = s.pdk ∧ (afterRestore x0 s).ldr = s.ldr ∧
    (afterRestore x0 s).sec = s.sec ∧ (afterRestore x0 s).trg = s.trg ∧ (afterRestore x0 s).ptp = s.ptp ∧
    (afterRestore x0 s).dbg = s.dbg ∧ (afterRestore x0 s).pwr = s.pwr ∧ (afterRestore x0 s).ckpt = s.ckpt := by
  unfold afterRestore; (repeat' split) <;> simp_all

@[simp] theorem anyWake_frame (x0 s) : (anyWake x0 s).pending = s.pending ∧ (anyWake x0 s).tck = s.tck ∧ (anyWake x0
    s).arr = s.arr ∧ (anyWake x0 s).exe = s.exe ∧ (anyWake x0 s).pen = s.pen ∧ (anyWake x0 s).integ = s.integ ∧
    (anyWake x0 s).shed = s.shed ∧ (anyWake x0 s).lnk = s.lnk ∧ (anyWake x0 s).rls = s.rls ∧ (anyWake x0 s).yms =
    s.yms ∧ (anyWake x0 s).pdk = s.pdk ∧ (anyWake x0 s).ldr = s.ldr ∧ (anyWake x0 s).sec = s.sec ∧ (anyWake x0 s).trg
    = s.trg ∧ (anyWake x0 s).dbg = s.dbg ∧ (anyWake x0 s).pwr = s.pwr ∧ (anyWake x0 s).ckpt = s.ckpt := by
  unfold anyWake; (repeat' split) <;> simp_all

@[simp] theorem startWake_frame (x0 s) : (startWake x0 s).pending = s.pending ∧ (startWake x0 s).regs = s.regs ∧
    (startWake x0 s).clk = s.clk ∧ (startWake x0 s).tck = s.tck ∧ (startWake x0 s).arr = s.arr ∧ (startWake x0 s).exe
    = s.exe ∧ (startWake x0 s).pen = s.pen ∧ (startWake x0 s).integ = s.integ ∧ (startWake x0 s).shed = s.shed ∧
    (startWake x0 s).dmc = s.dmc ∧ (startWake x0 s).lnk = s.lnk ∧ (startWake x0 s).rls = s.rls ∧ (startWake x0 s).yms
    = s.yms ∧ (startWake x0 s).grm = s.grm ∧ (startWake x0 s).pdk = s.pdk ∧ (startWake x0 s).ldr = s.ldr ∧ (startWake
    x0 s).sec = s.sec ∧ (startWake x0 s).trg = s.trg ∧ (startWake x0 s).ptp = s.ptp ∧ (startWake x0 s).dbg = s.dbg ∧
    (startWake x0 s).hst = s.hst ∧ (startWake x0 s).ckpt = s.ckpt := by
  simp [startWake]

@[simp] theorem wakeNow_frame (x0 s) : (wakeNow x0 s).pending = s.pending ∧ (wakeNow x0 s).tck = s.tck ∧ (wakeNow x0
    s).exe = s.exe ∧ (wakeNow x0 s).yms = s.yms ∧ (wakeNow x0 s).ldr = s.ldr ∧ (wakeNow x0 s).sec = s.sec ∧ (wakeNow
    x0 s).ckpt = s.ckpt := by
  simp only [wakeNow]; (repeat' split) <;> simp_all

@[simp] theorem abortClose_frame (x0 s) : (abortClose x0 s).pending = s.pending ∧ (abortClose x0 s).clk = s.clk ∧
    (abortClose x0 s).tck = s.tck ∧ (abortClose x0 s).arr = s.arr ∧ (abortClose x0 s).exe = s.exe ∧ (abortClose x0
    s).pen = s.pen ∧ (abortClose x0 s).integ = s.integ ∧ (abortClose x0 s).shed = s.shed ∧ (abortClose x0 s).dmc =
    s.dmc ∧ (abortClose x0 s).lnk = s.lnk ∧ (abortClose x0 s).rls = s.rls ∧ (abortClose x0 s).yms = s.yms ∧
    (abortClose x0 s).grm = s.grm ∧ (abortClose x0 s).pdk = s.pdk ∧ (abortClose x0 s).ldr = s.ldr ∧ (abortClose x0
    s).sec = s.sec ∧ (abortClose x0 s).trg = s.trg ∧ (abortClose x0 s).ptp = s.ptp ∧ (abortClose x0 s).dbg = s.dbg ∧
    (abortClose x0 s).hst = s.hst ∧ (abortClose x0 s).ckpt = s.ckpt := by
  unfold abortClose; split <;> simp

@[simp] theorem cancelClose_frame (x0 s) : (cancelClose x0 s).pending = s.pending ∧ (cancelClose x0 s).clk = s.clk ∧
    (cancelClose x0 s).tck = s.tck ∧ (cancelClose x0 s).arr = s.arr ∧ (cancelClose x0 s).exe = s.exe ∧ (cancelClose x0
    s).pen = s.pen ∧ (cancelClose x0 s).integ = s.integ ∧ (cancelClose x0 s).shed = s.shed ∧ (cancelClose x0 s).dmc =
    s.dmc ∧ (cancelClose x0 s).lnk = s.lnk ∧ (cancelClose x0 s).rls = s.rls ∧ (cancelClose x0 s).yms = s.yms ∧
    (cancelClose x0 s).grm = s.grm ∧ (cancelClose x0 s).pdk = s.pdk ∧ (cancelClose x0 s).ldr = s.ldr ∧ (cancelClose x0
    s).sec = s.sec ∧ (cancelClose x0 s).trg = s.trg ∧ (cancelClose x0 s).ptp = s.ptp ∧ (cancelClose x0 s).dbg = s.dbg
    ∧ (cancelClose x0 s).ckpt = s.ckpt := by
  unfold cancelClose; split <;> simp

@[simp] theorem waitWake_frame (x0 s) : (waitWake x0 s).pending = s.pending ∧ (waitWake x0 s).clk = s.clk ∧ (waitWake
    x0 s).tck = s.tck ∧ (waitWake x0 s).arr = s.arr ∧ (waitWake x0 s).exe = s.exe ∧ (waitWake x0 s).pen = s.pen ∧
    (waitWake x0 s).integ = s.integ ∧ (waitWake x0 s).shed = s.shed ∧ (waitWake x0 s).dmc = s.dmc ∧ (waitWake x0
    s).lnk = s.lnk ∧ (waitWake x0 s).rls = s.rls ∧ (waitWake x0 s).yms = s.yms ∧ (waitWake x0 s).grm = s.grm ∧
    (waitWake x0 s).pdk = s.pdk ∧ (waitWake x0 s).ldr = s.ldr ∧ (waitWake x0 s).sec = s.sec ∧ (waitWake x0 s).trg =
    s.trg ∧ (waitWake x0 s).ptp = s.ptp ∧ (waitWake x0 s).dbg = s.dbg ∧ (waitWake x0 s).pwr = s.pwr ∧ (waitWake x0
    s).ckpt = s.ckpt := by
  simp [waitWake]

@[simp] theorem reachPage_frame (x0 s) : (reachPage x0 s).pending = s.pending ∧ (reachPage x0 s).tck = s.tck ∧
    (reachPage x0 s).exe = s.exe ∧ (reachPage x0 s).yms = s.yms ∧ (reachPage x0 s).ldr = s.ldr ∧ (reachPage x0 s).sec
    = s.sec ∧ (reachPage x0 s).ckpt = s.ckpt := by
  simp only [reachPage]; (repeat' split) <;> simp_all

@[simp] theorem tbSettle_frame (x0 x1 x2 s) : (tbSettle x0 x1 x2 s).pending = s.pending ∧ (tbSettle x0 x1 x2 s).regs =
    s.regs ∧ (tbSettle x0 x1 x2 s).clk = s.clk ∧ (tbSettle x0 x1 x2 s).tck = s.tck ∧ (tbSettle x0 x1 x2 s).arr = s.arr
    ∧ (tbSettle x0 x1 x2 s).exe = s.exe ∧ (tbSettle x0 x1 x2 s).pen = s.pen ∧ (tbSettle x0 x1 x2 s).integ = s.integ ∧
    (tbSettle x0 x1 x2 s).shed = s.shed ∧ (tbSettle x0 x1 x2 s).dmc = s.dmc ∧ (tbSettle x0 x1 x2 s).lnk = s.lnk ∧
    (tbSettle x0 x1 x2 s).yms = s.yms ∧ (tbSettle x0 x1 x2 s).grm = s.grm ∧ (tbSettle x0 x1 x2 s).pdk = s.pdk ∧
    (tbSettle x0 x1 x2 s).ldr = s.ldr ∧ (tbSettle x0 x1 x2 s).sec = s.sec ∧ (tbSettle x0 x1 x2 s).trg = s.trg ∧
    (tbSettle x0 x1 x2 s).ptp = s.ptp ∧ (tbSettle x0 x1 x2 s).dbg = s.dbg ∧ (tbSettle x0 x1 x2 s).pwr = s.pwr ∧
    (tbSettle x0 x1 x2 s).hst = s.hst ∧ (tbSettle x0 x1 x2 s).ckpt = s.ckpt := by
  simp [tbSettle]

@[simp] theorem inject_frame (x0 x1 x2 s) : (inject x0 x1 x2 s).pending = s.pending ∧ (inject x0 x1 x2 s).regs =
    s.regs ∧ (inject x0 x1 x2 s).clk = s.clk ∧ (inject x0 x1 x2 s).tck = s.tck ∧ (inject x0 x1 x2 s).arr = s.arr ∧
    (inject x0 x1 x2 s).exe = s.exe ∧ (inject x0 x1 x2 s).pen = s.pen ∧ (inject x0 x1 x2 s).integ = s.integ ∧ (inject
    x0 x1 x2 s).shed = s.shed ∧ (inject x0 x1 x2 s).dmc = s.dmc ∧ (inject x0 x1 x2 s).lnk = s.lnk ∧ (inject x0 x1 x2
    s).yms = s.yms ∧ (inject x0 x1 x2 s).grm = s.grm ∧ (inject x0 x1 x2 s).pdk = s.pdk ∧ (inject x0 x1 x2 s).ldr =
    s.ldr ∧ (inject x0 x1 x2 s).sec = s.sec ∧ (inject x0 x1 x2 s).trg = s.trg ∧ (inject x0 x1 x2 s).ptp = s.ptp ∧
    (inject x0 x1 x2 s).dbg = s.dbg ∧ (inject x0 x1 x2 s).pwr = s.pwr ∧ (inject x0 x1 x2 s).hst = s.hst ∧ (inject x0
    x1 x2 s).ckpt = s.ckpt := by
  simp [inject]

@[simp] theorem exchange_frame (x0 x1 x2 x3 x4 s) : (exchange x0 x1 x2 x3 x4 s).pending = s.pending ∧ (exchange x0 x1
    x2 x3 x4 s).regs = s.regs ∧ (exchange x0 x1 x2 x3 x4 s).clk = s.clk ∧ (exchange x0 x1 x2 x3 x4 s).tck = s.tck ∧
    (exchange x0 x1 x2 x3 x4 s).arr = s.arr ∧ (exchange x0 x1 x2 x3 x4 s).exe = s.exe ∧ (exchange x0 x1 x2 x3 x4
    s).pen = s.pen ∧ (exchange x0 x1 x2 x3 x4 s).integ = s.integ ∧ (exchange x0 x1 x2 x3 x4 s).shed = s.shed ∧
    (exchange x0 x1 x2 x3 x4 s).dmc = s.dmc ∧ (exchange x0 x1 x2 x3 x4 s).lnk = s.lnk ∧ (exchange x0 x1 x2 x3 x4
    s).yms = s.yms ∧ (exchange x0 x1 x2 x3 x4 s).grm = s.grm ∧ (exchange x0 x1 x2 x3 x4 s).pdk = s.pdk ∧ (exchange x0
    x1 x2 x3 x4 s).ldr = s.ldr ∧ (exchange x0 x1 x2 x3 x4 s).sec = s.sec ∧ (exchange x0 x1 x2 x3 x4 s).trg = s.trg ∧
    (exchange x0 x1 x2 x3 x4 s).ptp = s.ptp ∧ (exchange x0 x1 x2 x3 x4 s).dbg = s.dbg ∧ (exchange x0 x1 x2 x3 x4
    s).pwr = s.pwr ∧ (exchange x0 x1 x2 x3 x4 s).hst = s.hst ∧ (exchange x0 x1 x2 x3 x4 s).ckpt = s.ckpt := by
  simp [exchange]

@[simp] theorem accessPackets_frame (x0 x1 x2 s) : (accessPackets x0 x1 x2 s).pending = s.pending ∧ (accessPackets x0
    x1 x2 s).regs = s.regs ∧ (accessPackets x0 x1 x2 s).clk = s.clk ∧ (accessPackets x0 x1 x2 s).tck = s.tck ∧
    (accessPackets x0 x1 x2 s).arr = s.arr ∧ (accessPackets x0 x1 x2 s).exe = s.exe ∧ (accessPackets x0 x1 x2 s).pen =
    s.pen ∧ (accessPackets x0 x1 x2 s).integ = s.integ ∧ (accessPackets x0 x1 x2 s).shed = s.shed ∧ (accessPackets x0
    x1 x2 s).dmc = s.dmc ∧ (accessPackets x0 x1 x2 s).lnk = s.lnk ∧ (accessPackets x0 x1 x2 s).yms = s.yms ∧
    (accessPackets x0 x1 x2 s).grm = s.grm ∧ (accessPackets x0 x1 x2 s).pdk = s.pdk ∧ (accessPackets x0 x1 x2 s).ldr =
    s.ldr ∧ (accessPackets x0 x1 x2 s).sec = s.sec ∧ (accessPackets x0 x1 x2 s).trg = s.trg ∧ (accessPackets x0 x1 x2
    s).ptp = s.ptp ∧ (accessPackets x0 x1 x2 s).dbg = s.dbg ∧ (accessPackets x0 x1 x2 s).pwr = s.pwr ∧ (accessPackets
    x0 x1 x2 s).hst = s.hst ∧ (accessPackets x0 x1 x2 s).ckpt = s.ckpt := by
  simp only [accessPackets]; (repeat' split) <;> simp_all

/-! ### Access -/

@[simp] theorem setSess_frame (s x1 x2) : (setSess s x1 x2).pending = s.pending ∧ (setSess s x1 x2).regs = s.regs ∧
    (setSess s x1 x2).clk = s.clk ∧ (setSess s x1 x2).tck = s.tck ∧ (setSess s x1 x2).arr = s.arr ∧ (setSess s x1
    x2).exe = s.exe ∧ (setSess s x1 x2).pen = s.pen ∧ (setSess s x1 x2).integ = s.integ ∧ (setSess s x1 x2).shed =
    s.shed ∧ (setSess s x1 x2).dmc = s.dmc ∧ (setSess s x1 x2).lnk = s.lnk ∧ (setSess s x1 x2).rls = s.rls ∧ (setSess
    s x1 x2).yms = s.yms ∧ (setSess s x1 x2).grm = s.grm ∧ (setSess s x1 x2).pdk = s.pdk ∧ (setSess s x1 x2).ldr =
    s.ldr ∧ (setSess s x1 x2).sec = s.sec ∧ (setSess s x1 x2).trg = s.trg ∧ (setSess s x1 x2).ptp = s.ptp ∧ (setSess s
    x1 x2).pwr = s.pwr ∧ (setSess s x1 x2).hst = s.hst ∧ (setSess s x1 x2).ckpt = s.ckpt := by
  unfold setSess; split <;> simp

@[simp] theorem badAccess_frame (x0 x1 x2 s) : (badAccess x0 x1 x2 s).pending = s.pending ∧ (badAccess x0 x1 x2 s).clk
    = s.clk ∧ (badAccess x0 x1 x2 s).tck = s.tck ∧ (badAccess x0 x1 x2 s).arr = s.arr ∧ (badAccess x0 x1 x2 s).exe =
    s.exe ∧ (badAccess x0 x1 x2 s).pen = s.pen ∧ (badAccess x0 x1 x2 s).integ = s.integ ∧ (badAccess x0 x1 x2 s).shed
    = s.shed ∧ (badAccess x0 x1 x2 s).dmc = s.dmc ∧ (badAccess x0 x1 x2 s).lnk = s.lnk ∧ (badAccess x0 x1 x2 s).rls =
    s.rls ∧ (badAccess x0 x1 x2 s).yms = s.yms ∧ (badAccess x0 x1 x2 s).grm = s.grm ∧ (badAccess x0 x1 x2 s).pdk =
    s.pdk ∧ (badAccess x0 x1 x2 s).ldr = s.ldr ∧ (badAccess x0 x1 x2 s).sec = s.sec ∧ (badAccess x0 x1 x2 s).trg =
    s.trg ∧ (badAccess x0 x1 x2 s).ptp = s.ptp ∧ (badAccess x0 x1 x2 s).dbg = s.dbg ∧ (badAccess x0 x1 x2 s).pwr =
    s.pwr ∧ (badAccess x0 x1 x2 s).ckpt = s.ckpt := by
  simp [badAccess]

@[simp] theorem denied_frame (s) : (denied s).pending = s.pending ∧ (denied s).clk = s.clk ∧ (denied s).tck = s.tck ∧
    (denied s).arr = s.arr ∧ (denied s).exe = s.exe ∧ (denied s).pen = s.pen ∧ (denied s).integ = s.integ ∧ (denied
    s).shed = s.shed ∧ (denied s).dmc = s.dmc ∧ (denied s).lnk = s.lnk ∧ (denied s).rls = s.rls ∧ (denied s).yms =
    s.yms ∧ (denied s).grm = s.grm ∧ (denied s).pdk = s.pdk ∧ (denied s).ldr = s.ldr ∧ (denied s).sec = s.sec ∧
    (denied s).trg = s.trg ∧ (denied s).ptp = s.ptp ∧ (denied s).dbg = s.dbg ∧ (denied s).pwr = s.pwr ∧ (denied
    s).ckpt = s.ckpt := by
  simp [denied]

@[simp] theorem badDebug_frame (s) : (badDebug s).pending = s.pending ∧ (badDebug s).clk = s.clk ∧ (badDebug s).tck =
    s.tck ∧ (badDebug s).arr = s.arr ∧ (badDebug s).exe = s.exe ∧ (badDebug s).pen = s.pen ∧ (badDebug s).integ =
    s.integ ∧ (badDebug s).shed = s.shed ∧ (badDebug s).dmc = s.dmc ∧ (badDebug s).lnk = s.lnk ∧ (badDebug s).rls =
    s.rls ∧ (badDebug s).yms = s.yms ∧ (badDebug s).grm = s.grm ∧ (badDebug s).pdk = s.pdk ∧ (badDebug s).ldr = s.ldr
    ∧ (badDebug s).sec = s.sec ∧ (badDebug s).trg = s.trg ∧ (badDebug s).ptp = s.ptp ∧ (badDebug s).dbg = s.dbg ∧
    (badDebug s).pwr = s.pwr ∧ (badDebug s).hst = s.hst ∧ (badDebug s).ckpt = s.ckpt := by
  simp [badDebug]

@[simp] theorem refuseWrite_frame (x0 x1 s) : (refuseWrite x0 x1 s).pending = s.pending ∧ (refuseWrite x0 x1 s).clk =
    s.clk ∧ (refuseWrite x0 x1 s).tck = s.tck ∧ (refuseWrite x0 x1 s).arr = s.arr ∧ (refuseWrite x0 x1 s).exe = s.exe
    ∧ (refuseWrite x0 x1 s).pen = s.pen ∧ (refuseWrite x0 x1 s).integ = s.integ ∧ (refuseWrite x0 x1 s).shed = s.shed
    ∧ (refuseWrite x0 x1 s).dmc = s.dmc ∧ (refuseWrite x0 x1 s).lnk = s.lnk ∧ (refuseWrite x0 x1 s).rls = s.rls ∧
    (refuseWrite x0 x1 s).yms = s.yms ∧ (refuseWrite x0 x1 s).grm = s.grm ∧ (refuseWrite x0 x1 s).pdk = s.pdk ∧
    (refuseWrite x0 x1 s).ldr = s.ldr ∧ (refuseWrite x0 x1 s).sec = s.sec ∧ (refuseWrite x0 x1 s).trg = s.trg ∧
    (refuseWrite x0 x1 s).ptp = s.ptp ∧ (refuseWrite x0 x1 s).dbg = s.dbg ∧ (refuseWrite x0 x1 s).pwr = s.pwr ∧
    (refuseWrite x0 x1 s).ckpt = s.ckpt := by
  unfold refuseWrite; (repeat' split) <;> simp_all

@[simp] theorem viaWrite_frame (x0 x1 x2 s) : ((∀ x, (x2 x).pending = x.pending) → (viaWrite x0 x1 x2 s).pending =
    s.pending) ∧ ((∀ x, (x2 x).tck = x.tck) → (viaWrite x0 x1 x2 s).tck = s.tck) ∧ ((∀ x, (x2 x).exe = x.exe) →
    (viaWrite x0 x1 x2 s).exe = s.exe) ∧ ((∀ x, (x2 x).yms = x.yms) → (viaWrite x0 x1 x2 s).yms = s.yms) ∧ ((∀ x, (x2
    x).ldr = x.ldr) → (viaWrite x0 x1 x2 s).ldr = s.ldr) ∧ ((∀ x, (x2 x).sec = x.sec) → (viaWrite x0 x1 x2 s).sec =
    s.sec) ∧ ((∀ x, (x2 x).ckpt = x.ckpt) → (viaWrite x0 x1 x2 s).ckpt = s.ckpt) := by
  simp only [viaWrite]; (repeat' split) <;> simp_all

@[simp] theorem answer_frame (x0 s) : (answer x0 s).pending = s.pending ∧ (answer x0 s).regs = s.regs ∧ (answer x0
    s).clk = s.clk ∧ (answer x0 s).tck = s.tck ∧ (answer x0 s).arr = s.arr ∧ (answer x0 s).exe = s.exe ∧ (answer x0
    s).pen = s.pen ∧ (answer x0 s).integ = s.integ ∧ (answer x0 s).shed = s.shed ∧ (answer x0 s).dmc = s.dmc ∧ (answer
    x0 s).lnk = s.lnk ∧ (answer x0 s).rls = s.rls ∧ (answer x0 s).yms = s.yms ∧ (answer x0 s).grm = s.grm ∧ (answer x0
    s).pdk = s.pdk ∧ (answer x0 s).ldr = s.ldr ∧ (answer x0 s).sec = s.sec ∧ (answer x0 s).trg = s.trg ∧ (answer x0
    s).ptp = s.ptp ∧ (answer x0 s).dbg = s.dbg ∧ (answer x0 s).pwr = s.pwr ∧ (answer x0 s).ckpt = s.ckpt := by
  simp [answer]

@[simp] theorem viaRead_frame (x0 x1 x2 x3 s) : ((∀ x, (x2 x).pending = x.pending) → (∀ x, (x3 x).pending = x.pending)
    → (viaRead x0 x1 x2 x3 s).pending = s.pending) ∧ ((∀ x, (x2 x).tck = x.tck) → (∀ x, (x3 x).tck = x.tck) → (viaRead
    x0 x1 x2 x3 s).tck = s.tck) ∧ ((∀ x, (x2 x).exe = x.exe) → (∀ x, (x3 x).exe = x.exe) → (viaRead x0 x1 x2 x3 s).exe
    = s.exe) ∧ ((∀ x, (x2 x).yms = x.yms) → (∀ x, (x3 x).yms = x.yms) → (viaRead x0 x1 x2 x3 s).yms = s.yms) ∧ ((∀ x,
    (x2 x).ldr = x.ldr) → (∀ x, (x3 x).ldr = x.ldr) → (viaRead x0 x1 x2 x3 s).ldr = s.ldr) ∧ ((∀ x, (x2 x).sec =
    x.sec) → (∀ x, (x3 x).sec = x.sec) → (viaRead x0 x1 x2 x3 s).sec = s.sec) ∧ ((∀ x, (x2 x).ckpt = x.ckpt) → (∀ x,
    (x3 x).ckpt = x.ckpt) → (viaRead x0 x1 x2 x3 s).ckpt = s.ckpt) := by
  unfold viaRead; (repeat' split) <;> simp_all

/-! ### Run -/

@[simp] theorem wakeGroups_frame (x0 s) : (wakeGroups x0 s).pending = s.pending ∧ (wakeGroups x0 s).clk = s.clk ∧
    (wakeGroups x0 s).tck = s.tck ∧ (wakeGroups x0 s).arr = s.arr ∧ (wakeGroups x0 s).exe = s.exe ∧ (wakeGroups x0
    s).pen = s.pen ∧ (wakeGroups x0 s).integ = s.integ ∧ (wakeGroups x0 s).shed = s.shed ∧ (wakeGroups x0 s).dmc =
    s.dmc ∧ (wakeGroups x0 s).lnk = s.lnk ∧ (wakeGroups x0 s).rls = s.rls ∧ (wakeGroups x0 s).yms = s.yms ∧
    (wakeGroups x0 s).grm = s.grm ∧ (wakeGroups x0 s).pdk = s.pdk ∧ (wakeGroups x0 s).ldr = s.ldr ∧ (wakeGroups x0
    s).sec = s.sec ∧ (wakeGroups x0 s).trg = s.trg ∧ (wakeGroups x0 s).ptp = s.ptp ∧ (wakeGroups x0 s).dbg = s.dbg ∧
    (wakeGroups x0 s).hst = s.hst ∧ (wakeGroups x0 s).ckpt = s.ckpt := by
  induction x0 generalizing s with
  | nil => simp [wakeGroups]
  | cons d ds ih => simp only [wakeGroups, ih]; (repeat' split) <;> simp

@[simp] theorem wakePlaced_frame (s) : (wakePlaced s).pending = s.pending ∧ (wakePlaced s).clk = s.clk ∧ (wakePlaced
    s).tck = s.tck ∧ (wakePlaced s).arr = s.arr ∧ (wakePlaced s).exe = s.exe ∧ (wakePlaced s).pen = s.pen ∧
    (wakePlaced s).integ = s.integ ∧ (wakePlaced s).shed = s.shed ∧ (wakePlaced s).dmc = s.dmc ∧ (wakePlaced s).lnk =
    s.lnk ∧ (wakePlaced s).rls = s.rls ∧ (wakePlaced s).yms = s.yms ∧ (wakePlaced s).grm = s.grm ∧ (wakePlaced s).pdk
    = s.pdk ∧ (wakePlaced s).ldr = s.ldr ∧ (wakePlaced s).sec = s.sec ∧ (wakePlaced s).trg = s.trg ∧ (wakePlaced
    s).ptp = s.ptp ∧ (wakePlaced s).dbg = s.dbg ∧ (wakePlaced s).hst = s.hst ∧ (wakePlaced s).ckpt = s.ckpt := by
  simp [wakePlaced]

@[simp] theorem cmdReject_frame (s) : (cmdReject s).pending = s.pending ∧ (cmdReject s).clk = s.clk ∧ (cmdReject
    s).tck = s.tck ∧ (cmdReject s).arr = s.arr ∧ (cmdReject s).exe = s.exe ∧ (cmdReject s).pen = s.pen ∧ (cmdReject
    s).integ = s.integ ∧ (cmdReject s).shed = s.shed ∧ (cmdReject s).dmc = s.dmc ∧ (cmdReject s).lnk = s.lnk ∧
    (cmdReject s).rls = s.rls ∧ (cmdReject s).yms = s.yms ∧ (cmdReject s).grm = s.grm ∧ (cmdReject s).pdk = s.pdk ∧
    (cmdReject s).ldr = s.ldr ∧ (cmdReject s).sec = s.sec ∧ (cmdReject s).trg = s.trg ∧ (cmdReject s).ptp = s.ptp ∧
    (cmdReject s).dbg = s.dbg ∧ (cmdReject s).pwr = s.pwr ∧ (cmdReject s).ckpt = s.ckpt := by
  simp [cmdReject]

@[simp] theorem beginInterval_frame (s) : (beginInterval s).pending = s.pending ∧ (beginInterval s).regs = s.regs ∧
    (beginInterval s).clk = s.clk ∧ (beginInterval s).tck = s.tck ∧ (beginInterval s).arr = s.arr ∧ (beginInterval
    s).exe = s.exe ∧ (beginInterval s).integ = s.integ ∧ (beginInterval s).shed = s.shed ∧ (beginInterval s).dmc =
    s.dmc ∧ (beginInterval s).lnk = s.lnk ∧ (beginInterval s).rls = s.rls ∧ (beginInterval s).yms = s.yms ∧
    (beginInterval s).grm = s.grm ∧ (beginInterval s).pdk = s.pdk ∧ (beginInterval s).ldr = s.ldr ∧ (beginInterval
    s).sec = s.sec ∧ (beginInterval s).ptp = s.ptp ∧ (beginInterval s).dbg = s.dbg ∧ (beginInterval s).pwr = s.pwr ∧
    (beginInterval s).hst = s.hst ∧ (beginInterval s).ckpt = s.ckpt := by
  simp [beginInterval]

@[simp] theorem actStart_frame (s) : (actStart s).pending = s.pending ∧ (actStart s).clk = s.clk ∧ (actStart s).arr =
    s.arr ∧ (actStart s).exe = s.exe ∧ (actStart s).integ = s.integ ∧ (actStart s).shed = s.shed ∧ (actStart s).dmc =
    s.dmc ∧ (actStart s).lnk = s.lnk ∧ (actStart s).rls = s.rls ∧ (actStart s).yms = s.yms ∧ (actStart s).grm = s.grm
    ∧ (actStart s).pdk = s.pdk ∧ (actStart s).ldr = s.ldr ∧ (actStart s).sec = s.sec ∧ (actStart s).ptp = s.ptp ∧
    (actStart s).dbg = s.dbg ∧ (actStart s).ckpt = s.ckpt := by
  unfold actStart; split <;> simp

@[simp] theorem resume_frame (x0 s) : (resume x0 s).pending = s.pending ∧ (resume x0 s).clk = s.clk ∧ (resume x0
    s).arr = s.arr ∧ (resume x0 s).exe = s.exe ∧ (resume x0 s).pen = s.pen ∧ (resume x0 s).integ = s.integ ∧ (resume
    x0 s).shed = s.shed ∧ (resume x0 s).dmc = s.dmc ∧ (resume x0 s).lnk = s.lnk ∧ (resume x0 s).rls = s.rls ∧ (resume
    x0 s).yms = s.yms ∧ (resume x0 s).grm = s.grm ∧ (resume x0 s).pdk = s.pdk ∧ (resume x0 s).ldr = s.ldr ∧ (resume x0
    s).sec = s.sec ∧ (resume x0 s).trg = s.trg ∧ (resume x0 s).ptp = s.ptp ∧ (resume x0 s).dbg = s.dbg ∧ (resume x0
    s).hst = s.hst ∧ (resume x0 s).ckpt = s.ckpt := by
  simp [resume]

@[simp] theorem actRun_frame (s) : (actRun s).pending = s.pending ∧ (actRun s).clk = s.clk ∧ (actRun s).arr = s.arr ∧
    (actRun s).exe = s.exe ∧ (actRun s).pen = s.pen ∧ (actRun s).integ = s.integ ∧ (actRun s).shed = s.shed ∧ (actRun
    s).dmc = s.dmc ∧ (actRun s).lnk = s.lnk ∧ (actRun s).rls = s.rls ∧ (actRun s).yms = s.yms ∧ (actRun s).grm = s.grm
    ∧ (actRun s).pdk = s.pdk ∧ (actRun s).ldr = s.ldr ∧ (actRun s).sec = s.sec ∧ (actRun s).trg = s.trg ∧ (actRun
    s).ptp = s.ptp ∧ (actRun s).dbg = s.dbg ∧ (actRun s).ckpt = s.ckpt := by
  unfold actRun; split <;> simp

@[simp] theorem actRunN_frame (x0 s) : (actRunN x0 s).pending = s.pending ∧ (actRunN x0 s).clk = s.clk ∧ (actRunN x0
    s).arr = s.arr ∧ (actRunN x0 s).exe = s.exe ∧ (actRunN x0 s).pen = s.pen ∧ (actRunN x0 s).integ = s.integ ∧
    (actRunN x0 s).shed = s.shed ∧ (actRunN x0 s).dmc = s.dmc ∧ (actRunN x0 s).lnk = s.lnk ∧ (actRunN x0 s).rls =
    s.rls ∧ (actRunN x0 s).yms = s.yms ∧ (actRunN x0 s).grm = s.grm ∧ (actRunN x0 s).pdk = s.pdk ∧ (actRunN x0 s).ldr
    = s.ldr ∧ (actRunN x0 s).sec = s.sec ∧ (actRunN x0 s).trg = s.trg ∧ (actRunN x0 s).ptp = s.ptp ∧ (actRunN x0
    s).dbg = s.dbg ∧ (actRunN x0 s).ckpt = s.ckpt := by
  unfold actRunN; split <;> simp

@[simp] theorem actHalt_frame (s) : (actHalt s).pending = s.pending ∧ (actHalt s).clk = s.clk ∧ (actHalt s).arr =
    s.arr ∧ (actHalt s).exe = s.exe ∧ (actHalt s).pen = s.pen ∧ (actHalt s).integ = s.integ ∧ (actHalt s).shed =
    s.shed ∧ (actHalt s).dmc = s.dmc ∧ (actHalt s).lnk = s.lnk ∧ (actHalt s).rls = s.rls ∧ (actHalt s).yms = s.yms ∧
    (actHalt s).grm = s.grm ∧ (actHalt s).pdk = s.pdk ∧ (actHalt s).ldr = s.ldr ∧ (actHalt s).sec = s.sec ∧ (actHalt
    s).trg = s.trg ∧ (actHalt s).ptp = s.ptp ∧ (actHalt s).dbg = s.dbg ∧ (actHalt s).pwr = s.pwr ∧ (actHalt s).ckpt =
    s.ckpt := by
  unfold actHalt; (repeat' split) <;> simp_all

@[simp] theorem actArm_frame (s) : (actArm s).pending = s.pending ∧ (actArm s).regs = s.regs ∧ (actArm s).clk = s.clk
    ∧ (actArm s).arr = s.arr ∧ (actArm s).exe = s.exe ∧ (actArm s).pen = s.pen ∧ (actArm s).integ = s.integ ∧ (actArm
    s).shed = s.shed ∧ (actArm s).dmc = s.dmc ∧ (actArm s).lnk = s.lnk ∧ (actArm s).rls = s.rls ∧ (actArm s).yms =
    s.yms ∧ (actArm s).grm = s.grm ∧ (actArm s).pdk = s.pdk ∧ (actArm s).ldr = s.ldr ∧ (actArm s).sec = s.sec ∧
    (actArm s).trg = s.trg ∧ (actArm s).ptp = s.ptp ∧ (actArm s).dbg = s.dbg ∧ (actArm s).pwr = s.pwr ∧ (actArm s).hst
    = s.hst ∧ (actArm s).ckpt = s.ckpt := by
  simp [actArm]

@[simp] theorem actDisarm_frame (s) : (actDisarm s).pending = s.pending ∧ (actDisarm s).regs = s.regs ∧ (actDisarm
    s).clk = s.clk ∧ (actDisarm s).arr = s.arr ∧ (actDisarm s).exe = s.exe ∧ (actDisarm s).pen = s.pen ∧ (actDisarm
    s).integ = s.integ ∧ (actDisarm s).shed = s.shed ∧ (actDisarm s).dmc = s.dmc ∧ (actDisarm s).lnk = s.lnk ∧
    (actDisarm s).rls = s.rls ∧ (actDisarm s).yms = s.yms ∧ (actDisarm s).grm = s.grm ∧ (actDisarm s).pdk = s.pdk ∧
    (actDisarm s).ldr = s.ldr ∧ (actDisarm s).sec = s.sec ∧ (actDisarm s).trg = s.trg ∧ (actDisarm s).ptp = s.ptp ∧
    (actDisarm s).dbg = s.dbg ∧ (actDisarm s).pwr = s.pwr ∧ (actDisarm s).hst = s.hst ∧ (actDisarm s).ckpt = s.ckpt :=
    by
  simp [actDisarm]

@[simp] theorem actClear_frame (s) : (actClear s).pending = s.pending ∧ (actClear s).clk = s.clk ∧ (actClear s).arr =
    s.arr ∧ (actClear s).exe = s.exe ∧ (actClear s).pen = s.pen ∧ (actClear s).integ = s.integ ∧ (actClear s).shed =
    s.shed ∧ (actClear s).dmc = s.dmc ∧ (actClear s).lnk = s.lnk ∧ (actClear s).rls = s.rls ∧ (actClear s).yms = s.yms
    ∧ (actClear s).grm = s.grm ∧ (actClear s).pdk = s.pdk ∧ (actClear s).ldr = s.ldr ∧ (actClear s).sec = s.sec ∧
    (actClear s).trg = s.trg ∧ (actClear s).ptp = s.ptp ∧ (actClear s).dbg = s.dbg ∧ (actClear s).pwr = s.pwr ∧
    (actClear s).ckpt = s.ckpt := by
  unfold actClear; split <;> simp

@[simp] theorem actCmd_frame (x0 s) : (actCmd x0 s).pending = s.pending ∧ (actCmd x0 s).clk = s.clk ∧ (actCmd x0
    s).arr = s.arr ∧ (actCmd x0 s).exe = s.exe ∧ (actCmd x0 s).integ = s.integ ∧ (actCmd x0 s).shed = s.shed ∧ (actCmd
    x0 s).dmc = s.dmc ∧ (actCmd x0 s).lnk = s.lnk ∧ (actCmd x0 s).rls = s.rls ∧ (actCmd x0 s).yms = s.yms ∧ (actCmd x0
    s).grm = s.grm ∧ (actCmd x0 s).pdk = s.pdk ∧ (actCmd x0 s).ldr = s.ldr ∧ (actCmd x0 s).sec = s.sec ∧ (actCmd x0
    s).ptp = s.ptp ∧ (actCmd x0 s).dbg = s.dbg ∧ (actCmd x0 s).ckpt = s.ckpt := by
  unfold actCmd; split <;> simp

@[simp] theorem actCmds_frame (x0 s) : (actCmds x0 s).pending = s.pending ∧ (actCmds x0 s).arr = s.arr ∧ (actCmds x0
    s).exe = s.exe ∧ (actCmds x0 s).integ = s.integ ∧ (actCmds x0 s).dmc = s.dmc ∧ (actCmds x0 s).lnk = s.lnk ∧
    (actCmds x0 s).yms = s.yms ∧ (actCmds x0 s).grm = s.grm ∧ (actCmds x0 s).pdk = s.pdk ∧ (actCmds x0 s).ldr = s.ldr
    ∧ (actCmds x0 s).sec = s.sec ∧ (actCmds x0 s).dbg = s.dbg ∧ (actCmds x0 s).ckpt = s.ckpt := by
  fun_induction actCmds <;> simp_all

@[simp] theorem settleCmds_frame (s) : (settleCmds s).pending = s.pending ∧ (settleCmds s).arr = s.arr ∧ (settleCmds
    s).exe = s.exe ∧ (settleCmds s).integ = s.integ ∧ (settleCmds s).dmc = s.dmc ∧ (settleCmds s).lnk = s.lnk ∧
    (settleCmds s).yms = s.yms ∧ (settleCmds s).grm = s.grm ∧ (settleCmds s).pdk = s.pdk ∧ (settleCmds s).ldr = s.ldr
    ∧ (settleCmds s).sec = s.sec ∧ (settleCmds s).dbg = s.dbg ∧ (settleCmds s).ckpt = s.ckpt := by
  unfold settleCmds; split <;> simp

@[simp] theorem treeCommand_frame (x0 x1 s) : (treeCommand x0 x1 s).pending = s.pending ∧ (treeCommand x0 x1 s).arr =
    s.arr ∧ (treeCommand x0 x1 s).exe = s.exe ∧ (treeCommand x0 x1 s).integ = s.integ ∧ (treeCommand x0 x1 s).dmc =
    s.dmc ∧ (treeCommand x0 x1 s).lnk = s.lnk ∧ (treeCommand x0 x1 s).yms = s.yms ∧ (treeCommand x0 x1 s).grm = s.grm
    ∧ (treeCommand x0 x1 s).pdk = s.pdk ∧ (treeCommand x0 x1 s).ldr = s.ldr ∧ (treeCommand x0 x1 s).sec = s.sec ∧
    (treeCommand x0 x1 s).dbg = s.dbg ∧ (treeCommand x0 x1 s).ckpt = s.ckpt := by
  simp only [treeCommand]; (repeat' split) <;> simp_all

@[simp] theorem applyDue_frame (s) : (applyDue s).pending = s.pending ∧ (applyDue s).clk = s.clk ∧ (applyDue s).arr =
    s.arr ∧ (applyDue s).exe = s.exe ∧ (applyDue s).integ = s.integ ∧ (applyDue s).shed = s.shed ∧ (applyDue s).dmc =
    s.dmc ∧ (applyDue s).lnk = s.lnk ∧ (applyDue s).rls = s.rls ∧ (applyDue s).yms = s.yms ∧ (applyDue s).grm = s.grm
    ∧ (applyDue s).pdk = s.pdk ∧ (applyDue s).ldr = s.ldr ∧ (applyDue s).sec = s.sec ∧ (applyDue s).ptp = s.ptp ∧
    (applyDue s).dbg = s.dbg ∧ (applyDue s).ckpt = s.ckpt := by
  simp [applyDue]

@[simp] theorem sendDown_frame (x0 x1 x2 s) : (sendDown x0 x1 x2 s).pending = s.pending ∧ (sendDown x0 x1 x2 s).regs =
    s.regs ∧ (sendDown x0 x1 x2 s).clk = s.clk ∧ (sendDown x0 x1 x2 s).tck = s.tck ∧ (sendDown x0 x1 x2 s).arr = s.arr
    ∧ (sendDown x0 x1 x2 s).exe = s.exe ∧ (sendDown x0 x1 x2 s).pen = s.pen ∧ (sendDown x0 x1 x2 s).integ = s.integ ∧
    (sendDown x0 x1 x2 s).shed = s.shed ∧ (sendDown x0 x1 x2 s).dmc = s.dmc ∧ (sendDown x0 x1 x2 s).rls = s.rls ∧
    (sendDown x0 x1 x2 s).yms = s.yms ∧ (sendDown x0 x1 x2 s).grm = s.grm ∧ (sendDown x0 x1 x2 s).pdk = s.pdk ∧
    (sendDown x0 x1 x2 s).ldr = s.ldr ∧ (sendDown x0 x1 x2 s).sec = s.sec ∧ (sendDown x0 x1 x2 s).trg = s.trg ∧
    (sendDown x0 x1 x2 s).ptp = s.ptp ∧ (sendDown x0 x1 x2 s).dbg = s.dbg ∧ (sendDown x0 x1 x2 s).pwr = s.pwr ∧
    (sendDown x0 x1 x2 s).hst = s.hst ∧ (sendDown x0 x1 x2 s).ckpt = s.ckpt := by
  simp [sendDown]

@[simp] theorem acceptCmd_frame (x0 s) : (acceptCmd x0 s).pending = s.pending ∧ (acceptCmd x0 s).arr = s.arr ∧
    (acceptCmd x0 s).exe = s.exe ∧ (acceptCmd x0 s).integ = s.integ ∧ (acceptCmd x0 s).dmc = s.dmc ∧ (acceptCmd x0
    s).yms = s.yms ∧ (acceptCmd x0 s).grm = s.grm ∧ (acceptCmd x0 s).pdk = s.pdk ∧ (acceptCmd x0 s).ldr = s.ldr ∧
    (acceptCmd x0 s).sec = s.sec ∧ (acceptCmd x0 s).dbg = s.dbg ∧ (acceptCmd x0 s).ckpt = s.ckpt := by
  simp [acceptCmd]

@[simp] theorem rootCommand_frame (x0 s) : (rootCommand x0 s).pending = s.pending ∧ (rootCommand x0 s).arr = s.arr ∧
    (rootCommand x0 s).exe = s.exe ∧ (rootCommand x0 s).integ = s.integ ∧ (rootCommand x0 s).dmc = s.dmc ∧
    (rootCommand x0 s).yms = s.yms ∧ (rootCommand x0 s).grm = s.grm ∧ (rootCommand x0 s).pdk = s.pdk ∧ (rootCommand x0
    s).ldr = s.ldr ∧ (rootCommand x0 s).sec = s.sec ∧ (rootCommand x0 s).dbg = s.dbg ∧ (rootCommand x0 s).ckpt =
    s.ckpt := by
  unfold rootCommand; split <;> simp

@[simp] theorem tckCommand_frame (x0 s) : (tckCommand x0 s).pending = s.pending ∧ (tckCommand x0 s).arr = s.arr ∧
    (tckCommand x0 s).exe = s.exe ∧ (tckCommand x0 s).integ = s.integ ∧ (tckCommand x0 s).dmc = s.dmc ∧ (tckCommand x0
    s).yms = s.yms ∧ (tckCommand x0 s).grm = s.grm ∧ (tckCommand x0 s).pdk = s.pdk ∧ (tckCommand x0 s).ldr = s.ldr ∧
    (tckCommand x0 s).sec = s.sec ∧ (tckCommand x0 s).dbg = s.dbg ∧ (tckCommand x0 s).ckpt = s.ckpt := by
  unfold tckCommand; (repeat' split) <;> simp_all

@[simp] theorem doStart_frame (x0 s) : (doStart x0 s).pending = s.pending ∧ (doStart x0 s).exe = s.exe ∧ (doStart x0
    s).yms = s.yms ∧ (doStart x0 s).ldr = s.ldr ∧ (doStart x0 s).sec = s.sec ∧ (doStart x0 s).ckpt = s.ckpt := by
  simp [doStart]

@[simp] theorem doRun_frame (x0 s) : (doRun x0 s).pending = s.pending ∧ (doRun x0 s).exe = s.exe ∧ (doRun x0 s).yms =
    s.yms ∧ (doRun x0 s).ldr = s.ldr ∧ (doRun x0 s).sec = s.sec ∧ (doRun x0 s).ckpt = s.ckpt := by
  simp [doRun]

@[simp] theorem doRunN_frame (x0 s) : (doRunN x0 s).pending = s.pending ∧ (doRunN x0 s).exe = s.exe ∧ (doRunN x0
    s).yms = s.yms ∧ (doRunN x0 s).ldr = s.ldr ∧ (doRunN x0 s).sec = s.sec ∧ (doRunN x0 s).ckpt = s.ckpt := by
  simp [doRunN]

@[simp] theorem doHalt_frame (x0 s) : (doHalt x0 s).pending = s.pending ∧ (doHalt x0 s).exe = s.exe ∧ (doHalt x0
    s).yms = s.yms ∧ (doHalt x0 s).ldr = s.ldr ∧ (doHalt x0 s).sec = s.sec ∧ (doHalt x0 s).ckpt = s.ckpt := by
  simp [doHalt]

@[simp] theorem doBreakArm_frame (x0 s) : (doBreakArm x0 s).pending = s.pending ∧ (doBreakArm x0 s).exe = s.exe ∧
    (doBreakArm x0 s).yms = s.yms ∧ (doBreakArm x0 s).ldr = s.ldr ∧ (doBreakArm x0 s).sec = s.sec ∧ (doBreakArm x0
    s).ckpt = s.ckpt := by
  simp [doBreakArm]

@[simp] theorem doBreakDisarm_frame (x0 s) : (doBreakDisarm x0 s).pending = s.pending ∧ (doBreakDisarm x0 s).exe =
    s.exe ∧ (doBreakDisarm x0 s).yms = s.yms ∧ (doBreakDisarm x0 s).ldr = s.ldr ∧ (doBreakDisarm x0 s).sec = s.sec ∧
    (doBreakDisarm x0 s).ckpt = s.ckpt := by
  simp [doBreakDisarm]

@[simp] theorem doClearFault_frame (x0 s) : (doClearFault x0 s).pending = s.pending ∧ (doClearFault x0 s).exe = s.exe
    ∧ (doClearFault x0 s).yms = s.yms ∧ (doClearFault x0 s).ldr = s.ldr ∧ (doClearFault x0 s).sec = s.sec ∧
    (doClearFault x0 s).ckpt = s.ckpt := by
  simp [doClearFault]

@[simp] theorem doCommitWindow_frame (x0 s) : (doCommitWindow x0 s).pending = s.pending ∧ (doCommitWindow x0 s).grm =
    s.grm ∧ (doCommitWindow x0 s).pdk = s.pdk ∧ (doCommitWindow x0 s).ldr = s.ldr ∧ (doCommitWindow x0 s).sec = s.sec
    ∧ (doCommitWindow x0 s).dbg = s.dbg ∧ (doCommitWindow x0 s).ckpt = s.ckpt := by
  simp only [doCommitWindow]; (repeat' split) <;> simp_all

@[simp] theorem drainRelease_frame (s) : (drainRelease s).pending = s.pending ∧ (drainRelease s).arr = s.arr ∧
    (drainRelease s).lnk = s.lnk ∧ (drainRelease s).grm = s.grm ∧ (drainRelease s).pdk = s.pdk ∧ (drainRelease s).ldr
    = s.ldr ∧ (drainRelease s).sec = s.sec ∧ (drainRelease s).trg = s.trg ∧ (drainRelease s).dbg = s.dbg ∧
    (drainRelease s).pwr = s.pwr ∧ (drainRelease s).ckpt = s.ckpt := by
  simp [drainRelease]

@[simp] theorem drainDecision_frame (x0 s) : (drainDecision x0 s).pending = s.pending ∧ (drainDecision x0 s).grm =
    s.grm ∧ (drainDecision x0 s).pdk = s.pdk ∧ (drainDecision x0 s).ldr = s.ldr ∧ (drainDecision x0 s).sec = s.sec ∧
    (drainDecision x0 s).trg = s.trg ∧ (drainDecision x0 s).dbg = s.dbg ∧ (drainDecision x0 s).pwr = s.pwr ∧
    (drainDecision x0 s).ckpt = s.ckpt := by
  unfold drainDecision; (repeat' split) <;> simp_all

@[simp] theorem stopAtBoundary_frame (s) : (stopAtBoundary s).pending = s.pending ∧ (stopAtBoundary s).grm = s.grm ∧
    (stopAtBoundary s).pdk = s.pdk ∧ (stopAtBoundary s).ldr = s.ldr ∧ (stopAtBoundary s).sec = s.sec ∧ (stopAtBoundary
    s).trg = s.trg ∧ (stopAtBoundary s).dbg = s.dbg ∧ (stopAtBoundary s).pwr = s.pwr ∧ (stopAtBoundary s).ckpt =
    s.ckpt := by
  simp only [stopAtBoundary]; (repeat' split) <;> simp_all

@[simp] theorem doTickBoundary_frame (s) : (doTickBoundary s).pending = s.pending ∧ (doTickBoundary s).grm = s.grm ∧
    (doTickBoundary s).pdk = s.pdk ∧ (doTickBoundary s).ldr = s.ldr ∧ (doTickBoundary s).sec = s.sec ∧ (doTickBoundary
    s).dbg = s.dbg ∧ (doTickBoundary s).ckpt = s.ckpt := by
  unfold doTickBoundary; split <;> simp

@[simp] theorem doGo_frame (s) : (doGo s).pending = s.pending ∧ (doGo s).arr = s.arr ∧ (doGo s).exe = s.exe ∧ (doGo
    s).integ = s.integ ∧ (doGo s).dmc = s.dmc ∧ (doGo s).yms = s.yms ∧ (doGo s).grm = s.grm ∧ (doGo s).pdk = s.pdk ∧
    (doGo s).ldr = s.ldr ∧ (doGo s).sec = s.sec ∧ (doGo s).dbg = s.dbg ∧ (doGo s).ckpt = s.ckpt := by
  simp [doGo]

@[simp] theorem atStart_frame (s) : (atStart s).pending = s.pending ∧ (atStart s).tck = s.tck ∧ (atStart s).arr =
    s.arr ∧ (atStart s).exe = s.exe ∧ (atStart s).pen = s.pen ∧ (atStart s).integ = s.integ ∧ (atStart s).dmc = s.dmc
    ∧ (atStart s).lnk = s.lnk ∧ (atStart s).yms = s.yms ∧ (atStart s).grm = s.grm ∧ (atStart s).pdk = s.pdk ∧ (atStart
    s).ldr = s.ldr ∧ (atStart s).sec = s.sec ∧ (atStart s).trg = s.trg ∧ (atStart s).dbg = s.dbg ∧ (atStart s).pwr =
    s.pwr ∧ (atStart s).ckpt = s.ckpt := by
  unfold atStart; split <;> simp

@[simp] theorem doTickStart_frame (s) : (doTickStart s).pending = s.pending ∧ (doTickStart s).integ = s.integ ∧
    (doTickStart s).dmc = s.dmc ∧ (doTickStart s).yms = s.yms ∧ (doTickStart s).grm = s.grm ∧ (doTickStart s).pdk =
    s.pdk ∧ (doTickStart s).ldr = s.ldr ∧ (doTickStart s).sec = s.sec ∧ (doTickStart s).trg = s.trg ∧ (doTickStart
    s).dbg = s.dbg ∧ (doTickStart s).pwr = s.pwr ∧ (doTickStart s).ckpt = s.ckpt := by
  simp [doTickStart]

@[simp] theorem doControlTreeStop_frame (s) : (doControlTreeStop s).pending = s.pending ∧ (doControlTreeStop s).dmc =
    s.dmc ∧ (doControlTreeStop s).grm = s.grm ∧ (doControlTreeStop s).pdk = s.pdk ∧ (doControlTreeStop s).ldr = s.ldr
    ∧ (doControlTreeStop s).sec = s.sec ∧ (doControlTreeStop s).dbg = s.dbg ∧ (doControlTreeStop s).ckpt = s.ckpt :=
    by
  simp only [doControlTreeStop]; (repeat' split) <;> simp_all

end Sys2Proof.Machine
end

