-- ==== Sys2Proof/Laws/FramesUnits.lean ====
section
/-!
SUPPORT. Frames of the operations of the rails, the sheds, DRAM, trace, the yardmaster, the triggers, the clocks, the
grooms, the paddock and the debug paths: for each operation, the parts of `State` that it leaves as they were. An
operation that takes an operation leaves a part alone if that operation does.
-/

namespace Sys2Proof.Machine

set_option linter.unusedVariables false
set_option linter.unusedSimpArgs false

/-! ### Rails -/

@[simp] theorem respondBlank_frame (x0 x1 x2 s) : (respondBlank x0 x1 x2 s).pending = s.pending ∧ (respondBlank x0 x1
    x2 s).regs = s.regs ∧ (respondBlank x0 x1 x2 s).tck = s.tck ∧ (respondBlank x0 x1 x2 s).arr = s.arr ∧
    (respondBlank x0 x1 x2 s).exe = s.exe ∧ (respondBlank x0 x1 x2 s).pen = s.pen ∧ (respondBlank x0 x1 x2 s).integ =
    s.integ ∧ (respondBlank x0 x1 x2 s).shed = s.shed ∧ (respondBlank x0 x1 x2 s).dmc = s.dmc ∧ (respondBlank x0 x1 x2
    s).lnk = s.lnk ∧ (respondBlank x0 x1 x2 s).yms = s.yms ∧ (respondBlank x0 x1 x2 s).grm = s.grm ∧ (respondBlank x0
    x1 x2 s).pdk = s.pdk ∧ (respondBlank x0 x1 x2 s).ldr = s.ldr ∧ (respondBlank x0 x1 x2 s).sec = s.sec ∧
    (respondBlank x0 x1 x2 s).trg = s.trg ∧ (respondBlank x0 x1 x2 s).ptp = s.ptp ∧ (respondBlank x0 x1 x2 s).dbg =
    s.dbg ∧ (respondBlank x0 x1 x2 s).pwr = s.pwr ∧ (respondBlank x0 x1 x2 s).hst = s.hst ∧ (respondBlank x0 x1 x2
    s).ckpt = s.ckpt := by
  simp [respondBlank]

@[simp] theorem noRoute_frame (x0 x1 s) : (noRoute x0 x1 s).pending = s.pending ∧ (noRoute x0 x1 s).tck = s.tck ∧
    (noRoute x0 x1 s).arr = s.arr ∧ (noRoute x0 x1 s).exe = s.exe ∧ (noRoute x0 x1 s).pen = s.pen ∧ (noRoute x0 x1
    s).integ = s.integ ∧ (noRoute x0 x1 s).shed = s.shed ∧ (noRoute x0 x1 s).dmc = s.dmc ∧ (noRoute x0 x1 s).lnk =
    s.lnk ∧ (noRoute x0 x1 s).yms = s.yms ∧ (noRoute x0 x1 s).grm = s.grm ∧ (noRoute x0 x1 s).pdk = s.pdk ∧ (noRoute
    x0 x1 s).ldr = s.ldr ∧ (noRoute x0 x1 s).sec = s.sec ∧ (noRoute x0 x1 s).trg = s.trg ∧ (noRoute x0 x1 s).ptp =
    s.ptp ∧ (noRoute x0 x1 s).dbg = s.dbg ∧ (noRoute x0 x1 s).pwr = s.pwr ∧ (noRoute x0 x1 s).ckpt = s.ckpt := by
  unfold noRoute; split <;> simp

@[simp] theorem noUnit_frame (x0 x1 s) : (noUnit x0 x1 s).pending = s.pending ∧ (noUnit x0 x1 s).tck = s.tck ∧ (noUnit
    x0 x1 s).arr = s.arr ∧ (noUnit x0 x1 s).exe = s.exe ∧ (noUnit x0 x1 s).pen = s.pen ∧ (noUnit x0 x1 s).integ =
    s.integ ∧ (noUnit x0 x1 s).shed = s.shed ∧ (noUnit x0 x1 s).dmc = s.dmc ∧ (noUnit x0 x1 s).lnk = s.lnk ∧ (noUnit
    x0 x1 s).yms = s.yms ∧ (noUnit x0 x1 s).grm = s.grm ∧ (noUnit x0 x1 s).pdk = s.pdk ∧ (noUnit x0 x1 s).ldr = s.ldr
    ∧ (noUnit x0 x1 s).sec = s.sec ∧ (noUnit x0 x1 s).trg = s.trg ∧ (noUnit x0 x1 s).ptp = s.ptp ∧ (noUnit x0 x1
    s).dbg = s.dbg ∧ (noUnit x0 x1 s).pwr = s.pwr ∧ (noUnit x0 x1 s).ckpt = s.ckpt := by
  unfold noUnit; split <;> simp

@[simp] theorem enqueuePkt_frame (x0 x1 s) : (enqueuePkt x0 x1 s).pending = s.pending ∧ (enqueuePkt x0 x1 s).regs =
    s.regs ∧ (enqueuePkt x0 x1 s).clk = s.clk ∧ (enqueuePkt x0 x1 s).tck = s.tck ∧ (enqueuePkt x0 x1 s).arr = s.arr ∧
    (enqueuePkt x0 x1 s).exe = s.exe ∧ (enqueuePkt x0 x1 s).pen = s.pen ∧ (enqueuePkt x0 x1 s).integ = s.integ ∧
    (enqueuePkt x0 x1 s).shed = s.shed ∧ (enqueuePkt x0 x1 s).dmc = s.dmc ∧ (enqueuePkt x0 x1 s).lnk = s.lnk ∧
    (enqueuePkt x0 x1 s).yms = s.yms ∧ (enqueuePkt x0 x1 s).grm = s.grm ∧ (enqueuePkt x0 x1 s).pdk = s.pdk ∧
    (enqueuePkt x0 x1 s).ldr = s.ldr ∧ (enqueuePkt x0 x1 s).sec = s.sec ∧ (enqueuePkt x0 x1 s).trg = s.trg ∧
    (enqueuePkt x0 x1 s).ptp = s.ptp ∧ (enqueuePkt x0 x1 s).dbg = s.dbg ∧ (enqueuePkt x0 x1 s).pwr = s.pwr ∧
    (enqueuePkt x0 x1 s).hst = s.hst ∧ (enqueuePkt x0 x1 s).ckpt = s.ckpt := by
  unfold enqueuePkt; split <;> simp

@[simp] theorem waitAt_frame (x0 x1 x2 s) : (waitAt x0 x1 x2 s).pending = s.pending ∧ (waitAt x0 x1 x2 s).clk = s.clk
    ∧ (waitAt x0 x1 x2 s).tck = s.tck ∧ (waitAt x0 x1 x2 s).arr = s.arr ∧ (waitAt x0 x1 x2 s).exe = s.exe ∧ (waitAt x0
    x1 x2 s).pen = s.pen ∧ (waitAt x0 x1 x2 s).integ = s.integ ∧ (waitAt x0 x1 x2 s).shed = s.shed ∧ (waitAt x0 x1 x2
    s).dmc = s.dmc ∧ (waitAt x0 x1 x2 s).lnk = s.lnk ∧ (waitAt x0 x1 x2 s).yms = s.yms ∧ (waitAt x0 x1 x2 s).grm =
    s.grm ∧ (waitAt x0 x1 x2 s).pdk = s.pdk ∧ (waitAt x0 x1 x2 s).ldr = s.ldr ∧ (waitAt x0 x1 x2 s).sec = s.sec ∧
    (waitAt x0 x1 x2 s).trg = s.trg ∧ (waitAt x0 x1 x2 s).ptp = s.ptp ∧ (waitAt x0 x1 x2 s).dbg = s.dbg ∧ (waitAt x0
    x1 x2 s).ckpt = s.ckpt := by
  simp [waitAt]

@[simp] theorem reachUnit_frame (x0 x1 x2 x3 s) : ((∀ x, (x3 x).pending = x.pending) → (reachUnit x0 x1 x2 x3
    s).pending = s.pending) ∧ ((∀ x, (x3 x).clk = x.clk) → (reachUnit x0 x1 x2 x3 s).clk = s.clk) ∧ ((∀ x, (x3 x).tck
    = x.tck) → (reachUnit x0 x1 x2 x3 s).tck = s.tck) ∧ ((∀ x, (x3 x).arr = x.arr) → (reachUnit x0 x1 x2 x3 s).arr =
    s.arr) ∧ ((∀ x, (x3 x).exe = x.exe) → (reachUnit x0 x1 x2 x3 s).exe = s.exe) ∧ ((∀ x, (x3 x).pen = x.pen) →
    (reachUnit x0 x1 x2 x3 s).pen = s.pen) ∧ ((∀ x, (x3 x).integ = x.integ) → (reachUnit x0 x1 x2 x3 s).integ =
    s.integ) ∧ ((∀ x, (x3 x).shed = x.shed) → (reachUnit x0 x1 x2 x3 s).shed = s.shed) ∧ ((∀ x, (x3 x).dmc = x.dmc) →
    (reachUnit x0 x1 x2 x3 s).dmc = s.dmc) ∧ ((∀ x, (x3 x).lnk = x.lnk) → (reachUnit x0 x1 x2 x3 s).lnk = s.lnk) ∧ ((∀
    x, (x3 x).yms = x.yms) → (reachUnit x0 x1 x2 x3 s).yms = s.yms) ∧ ((∀ x, (x3 x).grm = x.grm) → (reachUnit x0 x1 x2
    x3 s).grm = s.grm) ∧ ((∀ x, (x3 x).pdk = x.pdk) → (reachUnit x0 x1 x2 x3 s).pdk = s.pdk) ∧ ((∀ x, (x3 x).ldr =
    x.ldr) → (reachUnit x0 x1 x2 x3 s).ldr = s.ldr) ∧ ((∀ x, (x3 x).sec = x.sec) → (reachUnit x0 x1 x2 x3 s).sec =
    s.sec) ∧ ((∀ x, (x3 x).trg = x.trg) → (reachUnit x0 x1 x2 x3 s).trg = s.trg) ∧ ((∀ x, (x3 x).ptp = x.ptp) →
    (reachUnit x0 x1 x2 x3 s).ptp = s.ptp) ∧ ((∀ x, (x3 x).dbg = x.dbg) → (reachUnit x0 x1 x2 x3 s).dbg = s.dbg) ∧ ((∀
    x, (x3 x).ckpt = x.ckpt) → (reachUnit x0 x1 x2 x3 s).ckpt = s.ckpt) := by
  unfold reachUnit; (repeat' split) <;> simp_all

@[simp] theorem carryNow_frame (x0 x1 s) : ((∀ p x, (x1 p x).pending = x.pending) → (carryNow x0 x1 s).pending =
    s.pending) ∧ ((∀ p x, (x1 p x).regs = x.regs) → (carryNow x0 x1 s).regs = s.regs) ∧ ((∀ p x, (x1 p x).clk = x.clk)
    → (carryNow x0 x1 s).clk = s.clk) ∧ ((∀ p x, (x1 p x).tck = x.tck) → (carryNow x0 x1 s).tck = s.tck) ∧ ((∀ p x,
    (x1 p x).arr = x.arr) → (carryNow x0 x1 s).arr = s.arr) ∧ ((∀ p x, (x1 p x).exe = x.exe) → (carryNow x0 x1 s).exe
    = s.exe) ∧ ((∀ p x, (x1 p x).pen = x.pen) → (carryNow x0 x1 s).pen = s.pen) ∧ ((∀ p x, (x1 p x).integ = x.integ) →
    (carryNow x0 x1 s).integ = s.integ) ∧ ((∀ p x, (x1 p x).shed = x.shed) → (carryNow x0 x1 s).shed = s.shed) ∧ ((∀ p
    x, (x1 p x).dmc = x.dmc) → (carryNow x0 x1 s).dmc = s.dmc) ∧ ((∀ p x, (x1 p x).lnk = x.lnk) → (carryNow x0 x1
    s).lnk = s.lnk) ∧ ((∀ p x, (x1 p x).yms = x.yms) → (carryNow x0 x1 s).yms = s.yms) ∧ ((∀ p x, (x1 p x).grm =
    x.grm) → (carryNow x0 x1 s).grm = s.grm) ∧ ((∀ p x, (x1 p x).pdk = x.pdk) → (carryNow x0 x1 s).pdk = s.pdk) ∧ ((∀
    p x, (x1 p x).ldr = x.ldr) → (carryNow x0 x1 s).ldr = s.ldr) ∧ ((∀ p x, (x1 p x).sec = x.sec) → (carryNow x0 x1
    s).sec = s.sec) ∧ ((∀ p x, (x1 p x).trg = x.trg) → (carryNow x0 x1 s).trg = s.trg) ∧ ((∀ p x, (x1 p x).ptp =
    x.ptp) → (carryNow x0 x1 s).ptp = s.ptp) ∧ ((∀ p x, (x1 p x).dbg = x.dbg) → (carryNow x0 x1 s).dbg = s.dbg) ∧ ((∀
    p x, (x1 p x).pwr = x.pwr) → (carryNow x0 x1 s).pwr = s.pwr) ∧ ((∀ p x, (x1 p x).hst = x.hst) → (carryNow x0 x1
    s).hst = s.hst) ∧ ((∀ p x, (x1 p x).ckpt = x.ckpt) → (carryNow x0 x1 s).ckpt = s.ckpt) := by
  simp only [carryNow]; (repeat' split) <;> simp_all

@[simp] theorem launch_frame (x0 x1 x2 x3 s) : ((∀ p x, (x3 p x).pending = x.pending) → (launch x0 x1 x2 x3 s).pending
    = s.pending) ∧ ((∀ p x, (x3 p x).tck = x.tck) → (launch x0 x1 x2 x3 s).tck = s.tck) ∧ ((∀ p x, (x3 p x).arr =
    x.arr) → (launch x0 x1 x2 x3 s).arr = s.arr) ∧ ((∀ p x, (x3 p x).exe = x.exe) → (launch x0 x1 x2 x3 s).exe =
    s.exe) ∧ ((∀ p x, (x3 p x).pen = x.pen) → (launch x0 x1 x2 x3 s).pen = s.pen) ∧ ((∀ p x, (x3 p x).integ = x.integ)
    → (launch x0 x1 x2 x3 s).integ = s.integ) ∧ ((∀ p x, (x3 p x).shed = x.shed) → (launch x0 x1 x2 x3 s).shed =
    s.shed) ∧ ((∀ p x, (x3 p x).dmc = x.dmc) → (launch x0 x1 x2 x3 s).dmc = s.dmc) ∧ ((∀ p x, (x3 p x).lnk = x.lnk) →
    (launch x0 x1 x2 x3 s).lnk = s.lnk) ∧ ((∀ p x, (x3 p x).yms = x.yms) → (launch x0 x1 x2 x3 s).yms = s.yms) ∧ ((∀ p
    x, (x3 p x).grm = x.grm) → (launch x0 x1 x2 x3 s).grm = s.grm) ∧ ((∀ p x, (x3 p x).pdk = x.pdk) → (launch x0 x1 x2
    x3 s).pdk = s.pdk) ∧ ((∀ p x, (x3 p x).ldr = x.ldr) → (launch x0 x1 x2 x3 s).ldr = s.ldr) ∧ ((∀ p x, (x3 p x).sec
    = x.sec) → (launch x0 x1 x2 x3 s).sec = s.sec) ∧ ((∀ p x, (x3 p x).trg = x.trg) → (launch x0 x1 x2 x3 s).trg =
    s.trg) ∧ ((∀ p x, (x3 p x).ptp = x.ptp) → (launch x0 x1 x2 x3 s).ptp = s.ptp) ∧ ((∀ p x, (x3 p x).dbg = x.dbg) →
    (launch x0 x1 x2 x3 s).dbg = s.dbg) ∧ ((∀ p x, (x3 p x).pwr = x.pwr) → (launch x0 x1 x2 x3 s).pwr = s.pwr) ∧ ((∀ p
    x, (x3 p x).ckpt = x.ckpt) → (launch x0 x1 x2 x3 s).ckpt = s.ckpt) := by
  unfold launch; (repeat' split) <;> simp_all

@[simp] theorem send_frame (x0 x1 x2 x3 s) : ((∀ p x, (x3 p x).pending = x.pending) → (send x0 x1 x2 x3 s).pending =
    s.pending) ∧ ((∀ p x, (x3 p x).tck = x.tck) → (send x0 x1 x2 x3 s).tck = s.tck) ∧ ((∀ p x, (x3 p x).arr = x.arr) →
    (send x0 x1 x2 x3 s).arr = s.arr) ∧ ((∀ p x, (x3 p x).exe = x.exe) → (send x0 x1 x2 x3 s).exe = s.exe) ∧ ((∀ p x,
    (x3 p x).pen = x.pen) → (send x0 x1 x2 x3 s).pen = s.pen) ∧ ((∀ p x, (x3 p x).integ = x.integ) → (send x0 x1 x2 x3
    s).integ = s.integ) ∧ ((∀ p x, (x3 p x).shed = x.shed) → (send x0 x1 x2 x3 s).shed = s.shed) ∧ ((∀ p x, (x3 p
    x).dmc = x.dmc) → (send x0 x1 x2 x3 s).dmc = s.dmc) ∧ ((∀ p x, (x3 p x).lnk = x.lnk) → (send x0 x1 x2 x3 s).lnk =
    s.lnk) ∧ ((∀ p x, (x3 p x).yms = x.yms) → (send x0 x1 x2 x3 s).yms = s.yms) ∧ ((∀ p x, (x3 p x).pdk = x.pdk) →
    (send x0 x1 x2 x3 s).pdk = s.pdk) ∧ ((∀ p x, (x3 p x).ldr = x.ldr) → (send x0 x1 x2 x3 s).ldr = s.ldr) ∧ ((∀ p x,
    (x3 p x).sec = x.sec) → (send x0 x1 x2 x3 s).sec = s.sec) ∧ ((∀ p x, (x3 p x).trg = x.trg) → (send x0 x1 x2 x3
    s).trg = s.trg) ∧ ((∀ p x, (x3 p x).ptp = x.ptp) → (send x0 x1 x2 x3 s).ptp = s.ptp) ∧ ((∀ p x, (x3 p x).dbg =
    x.dbg) → (send x0 x1 x2 x3 s).dbg = s.dbg) ∧ ((∀ p x, (x3 p x).pwr = x.pwr) → (send x0 x1 x2 x3 s).pwr = s.pwr) ∧
    ((∀ p x, (x3 p x).ckpt = x.ckpt) → (send x0 x1 x2 x3 s).ckpt = s.ckpt) := by
  unfold send; (repeat' split) <;> simp_all

@[simp] theorem unitSend_frame (x0 x1 x2 x3 s) : ((∀ p x, (x3 p x).pending = x.pending) → (unitSend x0 x1 x2 x3
    s).pending = s.pending) ∧ ((∀ p x, (x3 p x).tck = x.tck) → (unitSend x0 x1 x2 x3 s).tck = s.tck) ∧ ((∀ p x, (x3 p
    x).arr = x.arr) → (unitSend x0 x1 x2 x3 s).arr = s.arr) ∧ ((∀ p x, (x3 p x).exe = x.exe) → (unitSend x0 x1 x2 x3
    s).exe = s.exe) ∧ ((∀ p x, (x3 p x).pen = x.pen) → (unitSend x0 x1 x2 x3 s).pen = s.pen) ∧ ((∀ p x, (x3 p x).integ
    = x.integ) → (unitSend x0 x1 x2 x3 s).integ = s.integ) ∧ ((∀ p x, (x3 p x).shed = x.shed) → (unitSend x0 x1 x2 x3
    s).shed = s.shed) ∧ ((∀ p x, (x3 p x).dmc = x.dmc) → (unitSend x0 x1 x2 x3 s).dmc = s.dmc) ∧ ((∀ p x, (x3 p x).lnk
    = x.lnk) → (unitSend x0 x1 x2 x3 s).lnk = s.lnk) ∧ ((∀ p x, (x3 p x).yms = x.yms) → (unitSend x0 x1 x2 x3 s).yms =
    s.yms) ∧ ((∀ p x, (x3 p x).grm = x.grm) → (unitSend x0 x1 x2 x3 s).grm = s.grm) ∧ ((∀ p x, (x3 p x).pdk = x.pdk) →
    (unitSend x0 x1 x2 x3 s).pdk = s.pdk) ∧ ((∀ p x, (x3 p x).ldr = x.ldr) → (unitSend x0 x1 x2 x3 s).ldr = s.ldr) ∧
    ((∀ p x, (x3 p x).sec = x.sec) → (unitSend x0 x1 x2 x3 s).sec = s.sec) ∧ ((∀ p x, (x3 p x).trg = x.trg) →
    (unitSend x0 x1 x2 x3 s).trg = s.trg) ∧ ((∀ p x, (x3 p x).ptp = x.ptp) → (unitSend x0 x1 x2 x3 s).ptp = s.ptp) ∧
    ((∀ p x, (x3 p x).dbg = x.dbg) → (unitSend x0 x1 x2 x3 s).dbg = s.dbg) ∧ ((∀ p x, (x3 p x).pwr = x.pwr) →
    (unitSend x0 x1 x2 x3 s).pwr = s.pwr) ∧ ((∀ p x, (x3 p x).ckpt = x.ckpt) → (unitSend x0 x1 x2 x3 s).ckpt = s.ckpt)
    := by
  simp only [unitSend]; (repeat' split) <;> simp_all

@[simp] theorem waitRoom_frame (x0 x1 s) : (waitRoom x0 x1 s).pending = s.pending ∧ (waitRoom x0 x1 s).regs = s.regs ∧
    (waitRoom x0 x1 s).clk = s.clk ∧ (waitRoom x0 x1 s).tck = s.tck ∧ (waitRoom x0 x1 s).arr = s.arr ∧ (waitRoom x0 x1
    s).exe = s.exe ∧ (waitRoom x0 x1 s).pen = s.pen ∧ (waitRoom x0 x1 s).integ = s.integ ∧ (waitRoom x0 x1 s).shed =
    s.shed ∧ (waitRoom x0 x1 s).dmc = s.dmc ∧ (waitRoom x0 x1 s).lnk = s.lnk ∧ (waitRoom x0 x1 s).yms = s.yms ∧
    (waitRoom x0 x1 s).grm = s.grm ∧ (waitRoom x0 x1 s).pdk = s.pdk ∧ (waitRoom x0 x1 s).ldr = s.ldr ∧ (waitRoom x0 x1
    s).sec = s.sec ∧ (waitRoom x0 x1 s).trg = s.trg ∧ (waitRoom x0 x1 s).ptp = s.ptp ∧ (waitRoom x0 x1 s).dbg = s.dbg
    ∧ (waitRoom x0 x1 s).pwr = s.pwr ∧ (waitRoom x0 x1 s).hst = s.hst ∧ (waitRoom x0 x1 s).ckpt = s.ckpt := by
  simp [waitRoom]

@[simp] theorem takeFly_frame (x0 x1 s) : (takeFly x0 x1 s).pending = s.pending ∧ (takeFly x0 x1 s).regs = s.regs ∧
    (takeFly x0 x1 s).clk = s.clk ∧ (takeFly x0 x1 s).tck = s.tck ∧ (takeFly x0 x1 s).arr = s.arr ∧ (takeFly x0 x1
    s).exe = s.exe ∧ (takeFly x0 x1 s).pen = s.pen ∧ (takeFly x0 x1 s).integ = s.integ ∧ (takeFly x0 x1 s).shed =
    s.shed ∧ (takeFly x0 x1 s).dmc = s.dmc ∧ (takeFly x0 x1 s).lnk = s.lnk ∧ (takeFly x0 x1 s).yms = s.yms ∧ (takeFly
    x0 x1 s).grm = s.grm ∧ (takeFly x0 x1 s).pdk = s.pdk ∧ (takeFly x0 x1 s).ldr = s.ldr ∧ (takeFly x0 x1 s).sec =
    s.sec ∧ (takeFly x0 x1 s).trg = s.trg ∧ (takeFly x0 x1 s).ptp = s.ptp ∧ (takeFly x0 x1 s).dbg = s.dbg ∧ (takeFly
    x0 x1 s).pwr = s.pwr ∧ (takeFly x0 x1 s).hst = s.hst ∧ (takeFly x0 x1 s).ckpt = s.ckpt := by
  simp [takeFly]

@[simp] theorem flyArrive_frame (x0 x1 x2 s) : ((∀ p x, (x2 p x).pending = x.pending) → (flyArrive x0 x1 x2 s).pending
    = s.pending) ∧ ((∀ p x, (x2 p x).tck = x.tck) → (flyArrive x0 x1 x2 s).tck = s.tck) ∧ ((∀ p x, (x2 p x).arr =
    x.arr) → (flyArrive x0 x1 x2 s).arr = s.arr) ∧ ((∀ p x, (x2 p x).exe = x.exe) → (flyArrive x0 x1 x2 s).exe =
    s.exe) ∧ ((∀ p x, (x2 p x).pen = x.pen) → (flyArrive x0 x1 x2 s).pen = s.pen) ∧ ((∀ p x, (x2 p x).integ = x.integ)
    → (flyArrive x0 x1 x2 s).integ = s.integ) ∧ ((∀ p x, (x2 p x).shed = x.shed) → (flyArrive x0 x1 x2 s).shed =
    s.shed) ∧ ((∀ p x, (x2 p x).dmc = x.dmc) → (flyArrive x0 x1 x2 s).dmc = s.dmc) ∧ ((∀ p x, (x2 p x).lnk = x.lnk) →
    (flyArrive x0 x1 x2 s).lnk = s.lnk) ∧ ((∀ p x, (x2 p x).yms = x.yms) → (flyArrive x0 x1 x2 s).yms = s.yms) ∧ ((∀ p
    x, (x2 p x).grm = x.grm) → (flyArrive x0 x1 x2 s).grm = s.grm) ∧ ((∀ p x, (x2 p x).pdk = x.pdk) → (flyArrive x0 x1
    x2 s).pdk = s.pdk) ∧ ((∀ p x, (x2 p x).ldr = x.ldr) → (flyArrive x0 x1 x2 s).ldr = s.ldr) ∧ ((∀ p x, (x2 p x).sec
    = x.sec) → (flyArrive x0 x1 x2 s).sec = s.sec) ∧ ((∀ p x, (x2 p x).trg = x.trg) → (flyArrive x0 x1 x2 s).trg =
    s.trg) ∧ ((∀ p x, (x2 p x).ptp = x.ptp) → (flyArrive x0 x1 x2 s).ptp = s.ptp) ∧ ((∀ p x, (x2 p x).dbg = x.dbg) →
    (flyArrive x0 x1 x2 s).dbg = s.dbg) ∧ ((∀ p x, (x2 p x).pwr = x.pwr) → (flyArrive x0 x1 x2 s).pwr = s.pwr) ∧ ((∀ p
    x, (x2 p x).ckpt = x.ckpt) → (flyArrive x0 x1 x2 s).ckpt = s.ckpt) := by
  unfold flyArrive; (repeat' split) <;> simp_all

@[simp] theorem logWord_frame (x0 s) : (logWord x0 s).pending = s.pending ∧ (logWord x0 s).clk = s.clk ∧ (logWord x0
    s).tck = s.tck ∧ (logWord x0 s).arr = s.arr ∧ (logWord x0 s).exe = s.exe ∧ (logWord x0 s).pen = s.pen ∧ (logWord
    x0 s).shed = s.shed ∧ (logWord x0 s).dmc = s.dmc ∧ (logWord x0 s).lnk = s.lnk ∧ (logWord x0 s).rls = s.rls ∧
    (logWord x0 s).yms = s.yms ∧ (logWord x0 s).grm = s.grm ∧ (logWord x0 s).pdk = s.pdk ∧ (logWord x0 s).ldr = s.ldr
    ∧ (logWord x0 s).sec = s.sec ∧ (logWord x0 s).trg = s.trg ∧ (logWord x0 s).ptp = s.ptp ∧ (logWord x0 s).dbg =
    s.dbg ∧ (logWord x0 s).pwr = s.pwr ∧ (logWord x0 s).ckpt = s.ckpt := by
  simp [logWord]

@[simp] theorem doCreditAudit_frame (x0 s) : (doCreditAudit x0 s).pending = s.pending ∧ (doCreditAudit x0 s).clk =
    s.clk ∧ (doCreditAudit x0 s).tck = s.tck ∧ (doCreditAudit x0 s).arr = s.arr ∧ (doCreditAudit x0 s).exe = s.exe ∧
    (doCreditAudit x0 s).pen = s.pen ∧ (doCreditAudit x0 s).shed = s.shed ∧ (doCreditAudit x0 s).dmc = s.dmc ∧
    (doCreditAudit x0 s).lnk = s.lnk ∧ (doCreditAudit x0 s).yms = s.yms ∧ (doCreditAudit x0 s).grm = s.grm ∧
    (doCreditAudit x0 s).pdk = s.pdk ∧ (doCreditAudit x0 s).ldr = s.ldr ∧ (doCreditAudit x0 s).sec = s.sec ∧
    (doCreditAudit x0 s).trg = s.trg ∧ (doCreditAudit x0 s).ptp = s.ptp ∧ (doCreditAudit x0 s).dbg = s.dbg ∧
    (doCreditAudit x0 s).pwr = s.pwr ∧ (doCreditAudit x0 s).ckpt = s.ckpt := by
  simp [doCreditAudit]

/-! ### Sheds -/

@[simp] theorem shedDeliver_frame (x0 x1 s) : (shedDeliver x0 x1 s).pending = s.pending ∧ (shedDeliver x0 x1 s).tck =
    s.tck ∧ (shedDeliver x0 x1 s).arr = s.arr ∧ (shedDeliver x0 x1 s).exe = s.exe ∧ (shedDeliver x0 x1 s).pen = s.pen
    ∧ (shedDeliver x0 x1 s).integ = s.integ ∧ (shedDeliver x0 x1 s).dmc = s.dmc ∧ (shedDeliver x0 x1 s).lnk = s.lnk ∧
    (shedDeliver x0 x1 s).yms = s.yms ∧ (shedDeliver x0 x1 s).grm = s.grm ∧ (shedDeliver x0 x1 s).pdk = s.pdk ∧
    (shedDeliver x0 x1 s).ldr = s.ldr ∧ (shedDeliver x0 x1 s).sec = s.sec ∧ (shedDeliver x0 x1 s).trg = s.trg ∧
    (shedDeliver x0 x1 s).ptp = s.ptp ∧ (shedDeliver x0 x1 s).dbg = s.dbg ∧ (shedDeliver x0 x1 s).ckpt = s.ckpt := by
  simp only [shedDeliver]; (repeat' split) <;> simp_all

@[simp] theorem doShdRead_frame (x0 s) : (doShdRead x0 s).pending = s.pending ∧ (doShdRead x0 s).tck = s.tck ∧
    (doShdRead x0 s).arr = s.arr ∧ (doShdRead x0 s).exe = s.exe ∧ (doShdRead x0 s).pen = s.pen ∧ (doShdRead x0
    s).integ = s.integ ∧ (doShdRead x0 s).dmc = s.dmc ∧ (doShdRead x0 s).lnk = s.lnk ∧ (doShdRead x0 s).yms = s.yms ∧
    (doShdRead x0 s).pdk = s.pdk ∧ (doShdRead x0 s).ldr = s.ldr ∧ (doShdRead x0 s).sec = s.sec ∧ (doShdRead x0 s).trg
    = s.trg ∧ (doShdRead x0 s).ptp = s.ptp ∧ (doShdRead x0 s).dbg = s.dbg ∧ (doShdRead x0 s).ckpt = s.ckpt := by
  simp [doShdRead]

@[simp] theorem doShdWrite_frame (x0 s) : (doShdWrite x0 s).pending = s.pending ∧ (doShdWrite x0 s).tck = s.tck ∧
    (doShdWrite x0 s).arr = s.arr ∧ (doShdWrite x0 s).exe = s.exe ∧ (doShdWrite x0 s).pen = s.pen ∧ (doShdWrite x0
    s).integ = s.integ ∧ (doShdWrite x0 s).dmc = s.dmc ∧ (doShdWrite x0 s).lnk = s.lnk ∧ (doShdWrite x0 s).yms = s.yms
    ∧ (doShdWrite x0 s).pdk = s.pdk ∧ (doShdWrite x0 s).ldr = s.ldr ∧ (doShdWrite x0 s).sec = s.sec ∧ (doShdWrite x0
    s).trg = s.trg ∧ (doShdWrite x0 s).ptp = s.ptp ∧ (doShdWrite x0 s).dbg = s.dbg ∧ (doShdWrite x0 s).ckpt = s.ckpt
    := by
  simp [doShdWrite]

@[simp] theorem doShdAdd_frame (x0 s) : (doShdAdd x0 s).pending = s.pending ∧ (doShdAdd x0 s).tck = s.tck ∧ (doShdAdd
    x0 s).arr = s.arr ∧ (doShdAdd x0 s).exe = s.exe ∧ (doShdAdd x0 s).pen = s.pen ∧ (doShdAdd x0 s).integ = s.integ ∧
    (doShdAdd x0 s).dmc = s.dmc ∧ (doShdAdd x0 s).lnk = s.lnk ∧ (doShdAdd x0 s).yms = s.yms ∧ (doShdAdd x0 s).pdk =
    s.pdk ∧ (doShdAdd x0 s).ldr = s.ldr ∧ (doShdAdd x0 s).sec = s.sec ∧ (doShdAdd x0 s).trg = s.trg ∧ (doShdAdd x0
    s).ptp = s.ptp ∧ (doShdAdd x0 s).dbg = s.dbg ∧ (doShdAdd x0 s).ckpt = s.ckpt := by
  simp [doShdAdd]

@[simp] theorem doShdSwap_frame (x0 s) : (doShdSwap x0 s).pending = s.pending ∧ (doShdSwap x0 s).tck = s.tck ∧
    (doShdSwap x0 s).arr = s.arr ∧ (doShdSwap x0 s).exe = s.exe ∧ (doShdSwap x0 s).pen = s.pen ∧ (doShdSwap x0
    s).integ = s.integ ∧ (doShdSwap x0 s).dmc = s.dmc ∧ (doShdSwap x0 s).lnk = s.lnk ∧ (doShdSwap x0 s).yms = s.yms ∧
    (doShdSwap x0 s).pdk = s.pdk ∧ (doShdSwap x0 s).ldr = s.ldr ∧ (doShdSwap x0 s).sec = s.sec ∧ (doShdSwap x0 s).trg
    = s.trg ∧ (doShdSwap x0 s).ptp = s.ptp ∧ (doShdSwap x0 s).dbg = s.dbg ∧ (doShdSwap x0 s).ckpt = s.ckpt := by
  simp [doShdSwap]

@[simp] theorem groomBusErr_frame (x0 x1 s) : (groomBusErr x0 x1 s).pending = s.pending ∧ (groomBusErr x0 x1 s).clk =
    s.clk ∧ (groomBusErr x0 x1 s).tck = s.tck ∧ (groomBusErr x0 x1 s).arr = s.arr ∧ (groomBusErr x0 x1 s).exe = s.exe
    ∧ (groomBusErr x0 x1 s).pen = s.pen ∧ (groomBusErr x0 x1 s).integ = s.integ ∧ (groomBusErr x0 x1 s).shed = s.shed
    ∧ (groomBusErr x0 x1 s).dmc = s.dmc ∧ (groomBusErr x0 x1 s).lnk = s.lnk ∧ (groomBusErr x0 x1 s).rls = s.rls ∧
    (groomBusErr x0 x1 s).yms = s.yms ∧ (groomBusErr x0 x1 s).grm = s.grm ∧ (groomBusErr x0 x1 s).pdk = s.pdk ∧
    (groomBusErr x0 x1 s).ldr = s.ldr ∧ (groomBusErr x0 x1 s).sec = s.sec ∧ (groomBusErr x0 x1 s).trg = s.trg ∧
    (groomBusErr x0 x1 s).ptp = s.ptp ∧ (groomBusErr x0 x1 s).dbg = s.dbg ∧ (groomBusErr x0 x1 s).pwr = s.pwr ∧
    (groomBusErr x0 x1 s).ckpt = s.ckpt := by
  simp [groomBusErr]

@[simp] theorem bmEnd_frame (x0 x1 s) : (bmEnd x0 x1 s).pending = s.pending ∧ (bmEnd x0 x1 s).clk = s.clk ∧ (bmEnd x0
    x1 s).tck = s.tck ∧ (bmEnd x0 x1 s).arr = s.arr ∧ (bmEnd x0 x1 s).exe = s.exe ∧ (bmEnd x0 x1 s).pen = s.pen ∧
    (bmEnd x0 x1 s).integ = s.integ ∧ (bmEnd x0 x1 s).shed = s.shed ∧ (bmEnd x0 x1 s).dmc = s.dmc ∧ (bmEnd x0 x1
    s).lnk = s.lnk ∧ (bmEnd x0 x1 s).rls = s.rls ∧ (bmEnd x0 x1 s).yms = s.yms ∧ (bmEnd x0 x1 s).grm = s.grm ∧ (bmEnd
    x0 x1 s).pdk = s.pdk ∧ (bmEnd x0 x1 s).ldr = s.ldr ∧ (bmEnd x0 x1 s).sec = s.sec ∧ (bmEnd x0 x1 s).trg = s.trg ∧
    (bmEnd x0 x1 s).ptp = s.ptp ∧ (bmEnd x0 x1 s).pwr = s.pwr ∧ (bmEnd x0 x1 s).hst = s.hst ∧ (bmEnd x0 x1 s).ckpt =
    s.ckpt := by
  simp [bmEnd]

@[simp] theorem atRequester_frame (x0 x1 x2 s) : (atRequester x0 x1 x2 s).pending = s.pending ∧ (atRequester x0 x1 x2
    s).clk = s.clk ∧ (atRequester x0 x1 x2 s).tck = s.tck ∧ (atRequester x0 x1 x2 s).arr = s.arr ∧ (atRequester x0 x1
    x2 s).exe = s.exe ∧ (atRequester x0 x1 x2 s).pen = s.pen ∧ (atRequester x0 x1 x2 s).integ = s.integ ∧ (atRequester
    x0 x1 x2 s).shed = s.shed ∧ (atRequester x0 x1 x2 s).dmc = s.dmc ∧ (atRequester x0 x1 x2 s).lnk = s.lnk ∧
    (atRequester x0 x1 x2 s).rls = s.rls ∧ (atRequester x0 x1 x2 s).yms = s.yms ∧ (atRequester x0 x1 x2 s).grm = s.grm
    ∧ (atRequester x0 x1 x2 s).ldr = s.ldr ∧ (atRequester x0 x1 x2 s).sec = s.sec ∧ (atRequester x0 x1 x2 s).trg =
    s.trg ∧ (atRequester x0 x1 x2 s).ptp = s.ptp ∧ (atRequester x0 x1 x2 s).pwr = s.pwr ∧ (atRequester x0 x1 x2
    s).ckpt = s.ckpt := by
  simp only [atRequester]; (repeat' split) <;> simp_all

@[simp] theorem toRequester_frame (x0 x1 x2 s) : ((∀ x, (x2 x).pending = x.pending) → (toRequester x0 x1 x2 s).pending
    = s.pending) ∧ ((∀ x, (x2 x).tck = x.tck) → (toRequester x0 x1 x2 s).tck = s.tck) ∧ ((∀ x, (x2 x).arr = x.arr) →
    (toRequester x0 x1 x2 s).arr = s.arr) ∧ ((∀ x, (x2 x).exe = x.exe) → (toRequester x0 x1 x2 s).exe = s.exe) ∧ ((∀
    x, (x2 x).pen = x.pen) → (toRequester x0 x1 x2 s).pen = s.pen) ∧ ((∀ x, (x2 x).integ = x.integ) → (toRequester x0
    x1 x2 s).integ = s.integ) ∧ ((∀ x, (x2 x).shed = x.shed) → (toRequester x0 x1 x2 s).shed = s.shed) ∧ ((∀ x, (x2
    x).dmc = x.dmc) → (toRequester x0 x1 x2 s).dmc = s.dmc) ∧ ((∀ x, (x2 x).lnk = x.lnk) → (toRequester x0 x1 x2
    s).lnk = s.lnk) ∧ ((∀ x, (x2 x).yms = x.yms) → (toRequester x0 x1 x2 s).yms = s.yms) ∧ ((∀ x, (x2 x).grm = x.grm)
    → (toRequester x0 x1 x2 s).grm = s.grm) ∧ ((∀ x, (x2 x).pdk = x.pdk) → (toRequester x0 x1 x2 s).pdk = s.pdk) ∧ ((∀
    x, (x2 x).ldr = x.ldr) → (toRequester x0 x1 x2 s).ldr = s.ldr) ∧ ((∀ x, (x2 x).sec = x.sec) → (toRequester x0 x1
    x2 s).sec = s.sec) ∧ ((∀ x, (x2 x).trg = x.trg) → (toRequester x0 x1 x2 s).trg = s.trg) ∧ ((∀ x, (x2 x).ptp =
    x.ptp) → (toRequester x0 x1 x2 s).ptp = s.ptp) ∧ ((∀ x, (x2 x).dbg = x.dbg) → (toRequester x0 x1 x2 s).dbg =
    s.dbg) ∧ ((∀ x, (x2 x).ckpt = x.ckpt) → (toRequester x0 x1 x2 s).ckpt = s.ckpt) := by
  simp only [toRequester]; (repeat' split) <;> simp_all

@[simp] theorem shedRespDeliver_frame (x0 s) : (shedRespDeliver x0 s).pending = s.pending ∧ (shedRespDeliver x0 s).tck
    = s.tck ∧ (shedRespDeliver x0 s).arr = s.arr ∧ (shedRespDeliver x0 s).exe = s.exe ∧ (shedRespDeliver x0 s).pen =
    s.pen ∧ (shedRespDeliver x0 s).integ = s.integ ∧ (shedRespDeliver x0 s).shed = s.shed ∧ (shedRespDeliver x0 s).dmc
    = s.dmc ∧ (shedRespDeliver x0 s).lnk = s.lnk ∧ (shedRespDeliver x0 s).yms = s.yms ∧ (shedRespDeliver x0 s).grm =
    s.grm ∧ (shedRespDeliver x0 s).ldr = s.ldr ∧ (shedRespDeliver x0 s).sec = s.sec ∧ (shedRespDeliver x0 s).trg =
    s.trg ∧ (shedRespDeliver x0 s).ptp = s.ptp ∧ (shedRespDeliver x0 s).ckpt = s.ckpt := by
  simp [shedRespDeliver]

@[simp] theorem doShdResp_frame (x0 s) : (doShdResp x0 s).pending = s.pending ∧ (doShdResp x0 s).tck = s.tck ∧
    (doShdResp x0 s).arr = s.arr ∧ (doShdResp x0 s).exe = s.exe ∧ (doShdResp x0 s).pen = s.pen ∧ (doShdResp x0
    s).integ = s.integ ∧ (doShdResp x0 s).shed = s.shed ∧ (doShdResp x0 s).dmc = s.dmc ∧ (doShdResp x0 s).lnk = s.lnk
    ∧ (doShdResp x0 s).yms = s.yms ∧ (doShdResp x0 s).grm = s.grm ∧ (doShdResp x0 s).ldr = s.ldr ∧ (doShdResp x0
    s).sec = s.sec ∧ (doShdResp x0 s).trg = s.trg ∧ (doShdResp x0 s).ptp = s.ptp ∧ (doShdResp x0 s).ckpt = s.ckpt :=
    by
  simp [doShdResp]

@[simp] theorem doShdOwner_frame (x0 x1 x2 s) : (doShdOwner x0 x1 x2 s).pending = s.pending ∧ (doShdOwner x0 x1 x2
    s).tck = s.tck ∧ (doShdOwner x0 x1 x2 s).exe = s.exe ∧ (doShdOwner x0 x1 x2 s).yms = s.yms ∧ (doShdOwner x0 x1 x2
    s).ldr = s.ldr ∧ (doShdOwner x0 x1 x2 s).sec = s.sec ∧ (doShdOwner x0 x1 x2 s).ckpt = s.ckpt := by
  simp [doShdOwner]

@[simp] theorem fillWrite_frame (x0 x1 x2 s) : (fillWrite x0 x1 x2 s).pending = s.pending ∧ (fillWrite x0 x1 x2 s).clk
    = s.clk ∧ (fillWrite x0 x1 x2 s).tck = s.tck ∧ (fillWrite x0 x1 x2 s).arr = s.arr ∧ (fillWrite x0 x1 x2 s).exe =
    s.exe ∧ (fillWrite x0 x1 x2 s).pen = s.pen ∧ (fillWrite x0 x1 x2 s).integ = s.integ ∧ (fillWrite x0 x1 x2 s).dmc =
    s.dmc ∧ (fillWrite x0 x1 x2 s).lnk = s.lnk ∧ (fillWrite x0 x1 x2 s).yms = s.yms ∧ (fillWrite x0 x1 x2 s).grm =
    s.grm ∧ (fillWrite x0 x1 x2 s).pdk = s.pdk ∧ (fillWrite x0 x1 x2 s).ldr = s.ldr ∧ (fillWrite x0 x1 x2 s).sec =
    s.sec ∧ (fillWrite x0 x1 x2 s).trg = s.trg ∧ (fillWrite x0 x1 x2 s).ptp = s.ptp ∧ (fillWrite x0 x1 x2 s).ckpt =
    s.ckpt := by
  unfold fillWrite; split <;> simp

@[simp] theorem doFillStart_frame (x0 x1 x2 s) : (doFillStart x0 x1 x2 s).pending = s.pending ∧ (doFillStart x0 x1 x2
    s).tck = s.tck ∧ (doFillStart x0 x1 x2 s).exe = s.exe ∧ (doFillStart x0 x1 x2 s).yms = s.yms ∧ (doFillStart x0 x1
    x2 s).ldr = s.ldr ∧ (doFillStart x0 x1 x2 s).sec = s.sec ∧ (doFillStart x0 x1 x2 s).ckpt = s.ckpt := by
  simp [doFillStart]

@[simp] theorem wantBg_frame (x0 s) : (wantBg x0 s).pending = s.pending ∧ (wantBg x0 s).clk = s.clk ∧ (wantBg x0
    s).tck = s.tck ∧ (wantBg x0 s).arr = s.arr ∧ (wantBg x0 s).exe = s.exe ∧ (wantBg x0 s).pen = s.pen ∧ (wantBg x0
    s).integ = s.integ ∧ (wantBg x0 s).dmc = s.dmc ∧ (wantBg x0 s).lnk = s.lnk ∧ (wantBg x0 s).yms = s.yms ∧ (wantBg
    x0 s).grm = s.grm ∧ (wantBg x0 s).pdk = s.pdk ∧ (wantBg x0 s).ldr = s.ldr ∧ (wantBg x0 s).sec = s.sec ∧ (wantBg x0
    s).trg = s.trg ∧ (wantBg x0 s).ptp = s.ptp ∧ (wantBg x0 s).dbg = s.dbg ∧ (wantBg x0 s).pwr = s.pwr ∧ (wantBg x0
    s).ckpt = s.ckpt := by
  unfold wantBg; split <;> simp

@[simp] theorem doFillWord_frame (x0 s) : (doFillWord x0 s).pending = s.pending ∧ (doFillWord x0 s).clk = s.clk ∧
    (doFillWord x0 s).tck = s.tck ∧ (doFillWord x0 s).arr = s.arr ∧ (doFillWord x0 s).exe = s.exe ∧ (doFillWord x0
    s).pen = s.pen ∧ (doFillWord x0 s).integ = s.integ ∧ (doFillWord x0 s).dmc = s.dmc ∧ (doFillWord x0 s).lnk = s.lnk
    ∧ (doFillWord x0 s).yms = s.yms ∧ (doFillWord x0 s).grm = s.grm ∧ (doFillWord x0 s).pdk = s.pdk ∧ (doFillWord x0
    s).ldr = s.ldr ∧ (doFillWord x0 s).sec = s.sec ∧ (doFillWord x0 s).trg = s.trg ∧ (doFillWord x0 s).ptp = s.ptp ∧
    (doFillWord x0 s).dbg = s.dbg ∧ (doFillWord x0 s).pwr = s.pwr ∧ (doFillWord x0 s).ckpt = s.ckpt := by
  simp [doFillWord]

@[simp] theorem doPatrolRead_frame (x0 s) : (doPatrolRead x0 s).pending = s.pending ∧ (doPatrolRead x0 s).clk = s.clk
    ∧ (doPatrolRead x0 s).tck = s.tck ∧ (doPatrolRead x0 s).arr = s.arr ∧ (doPatrolRead x0 s).exe = s.exe ∧
    (doPatrolRead x0 s).pen = s.pen ∧ (doPatrolRead x0 s).integ = s.integ ∧ (doPatrolRead x0 s).dmc = s.dmc ∧
    (doPatrolRead x0 s).lnk = s.lnk ∧ (doPatrolRead x0 s).yms = s.yms ∧ (doPatrolRead x0 s).grm = s.grm ∧
    (doPatrolRead x0 s).pdk = s.pdk ∧ (doPatrolRead x0 s).ldr = s.ldr ∧ (doPatrolRead x0 s).sec = s.sec ∧
    (doPatrolRead x0 s).trg = s.trg ∧ (doPatrolRead x0 s).ptp = s.ptp ∧ (doPatrolRead x0 s).dbg = s.dbg ∧
    (doPatrolRead x0 s).pwr = s.pwr ∧ (doPatrolRead x0 s).ckpt = s.ckpt := by
  simp [doPatrolRead]

@[simp] theorem doShdPatrolErr_frame (x0 x1 s) : (doShdPatrolErr x0 x1 s).pending = s.pending ∧ (doShdPatrolErr x0 x1
    s).tck = s.tck ∧ (doShdPatrolErr x0 x1 s).exe = s.exe ∧ (doShdPatrolErr x0 x1 s).yms = s.yms ∧ (doShdPatrolErr x0
    x1 s).ldr = s.ldr ∧ (doShdPatrolErr x0 x1 s).sec = s.sec ∧ (doShdPatrolErr x0 x1 s).ckpt = s.ckpt := by
  simp [doShdPatrolErr]

/-! ### Dram -/

@[simp] theorem memReadAt_frame (x0 x1 x2 s) : (memReadAt x0 x1 x2 s).pending = s.pending ∧ (memReadAt x0 x1 x2 s).tck
    = s.tck ∧ (memReadAt x0 x1 x2 s).arr = s.arr ∧ (memReadAt x0 x1 x2 s).exe = s.exe ∧ (memReadAt x0 x1 x2 s).pen =
    s.pen ∧ (memReadAt x0 x1 x2 s).integ = s.integ ∧ (memReadAt x0 x1 x2 s).shed = s.shed ∧ (memReadAt x0 x1 x2 s).lnk
    = s.lnk ∧ (memReadAt x0 x1 x2 s).yms = s.yms ∧ (memReadAt x0 x1 x2 s).grm = s.grm ∧ (memReadAt x0 x1 x2 s).pdk =
    s.pdk ∧ (memReadAt x0 x1 x2 s).ldr = s.ldr ∧ (memReadAt x0 x1 x2 s).sec = s.sec ∧ (memReadAt x0 x1 x2 s).trg =
    s.trg ∧ (memReadAt x0 x1 x2 s).ptp = s.ptp ∧ (memReadAt x0 x1 x2 s).dbg = s.dbg ∧ (memReadAt x0 x1 x2 s).pwr =
    s.pwr ∧ (memReadAt x0 x1 x2 s).ckpt = s.ckpt := by
  simp only [memReadAt]; (repeat' split) <;> simp_all

@[simp] theorem memWriteAt_frame (x0 s) : (memWriteAt x0 s).pending = s.pending ∧ (memWriteAt x0 s).regs = s.regs ∧
    (memWriteAt x0 s).clk = s.clk ∧ (memWriteAt x0 s).tck = s.tck ∧ (memWriteAt x0 s).arr = s.arr ∧ (memWriteAt x0
    s).exe = s.exe ∧ (memWriteAt x0 s).pen = s.pen ∧ (memWriteAt x0 s).integ = s.integ ∧ (memWriteAt x0 s).shed =
    s.shed ∧ (memWriteAt x0 s).lnk = s.lnk ∧ (memWriteAt x0 s).yms = s.yms ∧ (memWriteAt x0 s).grm = s.grm ∧
    (memWriteAt x0 s).pdk = s.pdk ∧ (memWriteAt x0 s).ldr = s.ldr ∧ (memWriteAt x0 s).sec = s.sec ∧ (memWriteAt x0
    s).trg = s.trg ∧ (memWriteAt x0 s).ptp = s.ptp ∧ (memWriteAt x0 s).dbg = s.dbg ∧ (memWriteAt x0 s).pwr = s.pwr ∧
    (memWriteAt x0 s).hst = s.hst ∧ (memWriteAt x0 s).ckpt = s.ckpt := by
  simp [memWriteAt]

@[simp] theorem startReq_frame (x0 x1 s) : (startReq x0 x1 s).pending = s.pending ∧ (startReq x0 x1 s).tck = s.tck ∧
    (startReq x0 x1 s).arr = s.arr ∧ (startReq x0 x1 s).exe = s.exe ∧ (startReq x0 x1 s).pen = s.pen ∧ (startReq x0 x1
    s).integ = s.integ ∧ (startReq x0 x1 s).shed = s.shed ∧ (startReq x0 x1 s).lnk = s.lnk ∧ (startReq x0 x1 s).yms =
    s.yms ∧ (startReq x0 x1 s).grm = s.grm ∧ (startReq x0 x1 s).pdk = s.pdk ∧ (startReq x0 x1 s).ldr = s.ldr ∧
    (startReq x0 x1 s).sec = s.sec ∧ (startReq x0 x1 s).trg = s.trg ∧ (startReq x0 x1 s).ptp = s.ptp ∧ (startReq x0 x1
    s).dbg = s.dbg ∧ (startReq x0 x1 s).pwr = s.pwr ∧ (startReq x0 x1 s).ckpt = s.ckpt := by
  simp only [startReq]; (repeat' split) <;> simp_all

@[simp] theorem atController_frame (x0 x1 x2 s) : (atController x0 x1 x2 s).pending = s.pending ∧ (atController x0 x1
    x2 s).tck = s.tck ∧ (atController x0 x1 x2 s).arr = s.arr ∧ (atController x0 x1 x2 s).exe = s.exe ∧ (atController
    x0 x1 x2 s).pen = s.pen ∧ (atController x0 x1 x2 s).integ = s.integ ∧ (atController x0 x1 x2 s).shed = s.shed ∧
    (atController x0 x1 x2 s).lnk = s.lnk ∧ (atController x0 x1 x2 s).yms = s.yms ∧ (atController x0 x1 x2 s).grm =
    s.grm ∧ (atController x0 x1 x2 s).pdk = s.pdk ∧ (atController x0 x1 x2 s).ldr = s.ldr ∧ (atController x0 x1 x2
    s).sec = s.sec ∧ (atController x0 x1 x2 s).trg = s.trg ∧ (atController x0 x1 x2 s).ptp = s.ptp ∧ (atController x0
    x1 x2 s).dbg = s.dbg ∧ (atController x0 x1 x2 s).pwr = s.pwr ∧ (atController x0 x1 x2 s).ckpt = s.ckpt := by
  simp only [atController]; (repeat' split) <;> simp_all

@[simp] theorem reachChan_frame (x0 s) : (reachChan x0 s).pending = s.pending ∧ (reachChan x0 s).tck = s.tck ∧
    (reachChan x0 s).exe = s.exe ∧ (reachChan x0 s).yms = s.yms ∧ (reachChan x0 s).ldr = s.ldr ∧ (reachChan x0 s).sec
    = s.sec ∧ (reachChan x0 s).ckpt = s.ckpt := by
  simp only [reachChan]; (repeat' split) <;> simp_all

@[simp] theorem memDeliver_frame (x0 x1 x2 s) : (memDeliver x0 x1 x2 s).pending = s.pending ∧ (memDeliver x0 x1 x2
    s).tck = s.tck ∧ (memDeliver x0 x1 x2 s).arr = s.arr ∧ (memDeliver x0 x1 x2 s).exe = s.exe ∧ (memDeliver x0 x1 x2
    s).pen = s.pen ∧ (memDeliver x0 x1 x2 s).integ = s.integ ∧ (memDeliver x0 x1 x2 s).shed = s.shed ∧ (memDeliver x0
    x1 x2 s).lnk = s.lnk ∧ (memDeliver x0 x1 x2 s).yms = s.yms ∧ (memDeliver x0 x1 x2 s).grm = s.grm ∧ (memDeliver x0
    x1 x2 s).pdk = s.pdk ∧ (memDeliver x0 x1 x2 s).ldr = s.ldr ∧ (memDeliver x0 x1 x2 s).sec = s.sec ∧ (memDeliver x0
    x1 x2 s).trg = s.trg ∧ (memDeliver x0 x1 x2 s).ptp = s.ptp ∧ (memDeliver x0 x1 x2 s).dbg = s.dbg ∧ (memDeliver x0
    x1 x2 s).ckpt = s.ckpt := by
  unfold memDeliver; split <;> simp

@[simp] theorem drawFree_frame (s) : (drawFree s).pending = s.pending ∧ (drawFree s).regs = s.regs ∧ (drawFree s).tck
    = s.tck ∧ (drawFree s).arr = s.arr ∧ (drawFree s).exe = s.exe ∧ (drawFree s).pen = s.pen ∧ (drawFree s).integ =
    s.integ ∧ (drawFree s).shed = s.shed ∧ (drawFree s).dmc = s.dmc ∧ (drawFree s).lnk = s.lnk ∧ (drawFree s).rls =
    s.rls ∧ (drawFree s).yms = s.yms ∧ (drawFree s).grm = s.grm ∧ (drawFree s).pdk = s.pdk ∧ (drawFree s).ldr = s.ldr
    ∧ (drawFree s).sec = s.sec ∧ (drawFree s).trg = s.trg ∧ (drawFree s).ptp = s.ptp ∧ (drawFree s).dbg = s.dbg ∧
    (drawFree s).pwr = s.pwr ∧ (drawFree s).hst = s.hst ∧ (drawFree s).ckpt = s.ckpt := by
  simp [drawFree]

@[simp] theorem startUpTo_frame (x0 s) : (startUpTo x0 s).pending = s.pending ∧ (startUpTo x0 s).tck = s.tck ∧
    (startUpTo x0 s).arr = s.arr ∧ (startUpTo x0 s).exe = s.exe ∧ (startUpTo x0 s).pen = s.pen ∧ (startUpTo x0
    s).integ = s.integ ∧ (startUpTo x0 s).shed = s.shed ∧ (startUpTo x0 s).lnk = s.lnk ∧ (startUpTo x0 s).yms = s.yms
    ∧ (startUpTo x0 s).grm = s.grm ∧ (startUpTo x0 s).pdk = s.pdk ∧ (startUpTo x0 s).ldr = s.ldr ∧ (startUpTo x0
    s).sec = s.sec ∧ (startUpTo x0 s).trg = s.trg ∧ (startUpTo x0 s).ptp = s.ptp ∧ (startUpTo x0 s).dbg = s.dbg ∧
    (startUpTo x0 s).pwr = s.pwr ∧ (startUpTo x0 s).ckpt = s.ckpt := by
  fun_induction startUpTo <;> simp_all

@[simp] theorem startWaiting_frame (s) : (startWaiting s).pending = s.pending ∧ (startWaiting s).tck = s.tck ∧
    (startWaiting s).arr = s.arr ∧ (startWaiting s).exe = s.exe ∧ (startWaiting s).pen = s.pen ∧ (startWaiting
    s).integ = s.integ ∧ (startWaiting s).shed = s.shed ∧ (startWaiting s).lnk = s.lnk ∧ (startWaiting s).yms = s.yms
    ∧ (startWaiting s).grm = s.grm ∧ (startWaiting s).pdk = s.pdk ∧ (startWaiting s).ldr = s.ldr ∧ (startWaiting
    s).sec = s.sec ∧ (startWaiting s).trg = s.trg ∧ (startWaiting s).ptp = s.ptp ∧ (startWaiting s).dbg = s.dbg ∧
    (startWaiting s).pwr = s.pwr ∧ (startWaiting s).ckpt = s.ckpt := by
  simp [startWaiting]

@[simp] theorem doMemRead_frame (x0 x1 s) : (doMemRead x0 x1 s).pending = s.pending ∧ (doMemRead x0 x1 s).tck = s.tck
    ∧ (doMemRead x0 x1 s).arr = s.arr ∧ (doMemRead x0 x1 s).exe = s.exe ∧ (doMemRead x0 x1 s).pen = s.pen ∧ (doMemRead
    x0 x1 s).integ = s.integ ∧ (doMemRead x0 x1 s).shed = s.shed ∧ (doMemRead x0 x1 s).lnk = s.lnk ∧ (doMemRead x0 x1
    s).yms = s.yms ∧ (doMemRead x0 x1 s).pdk = s.pdk ∧ (doMemRead x0 x1 s).ldr = s.ldr ∧ (doMemRead x0 x1 s).sec =
    s.sec ∧ (doMemRead x0 x1 s).trg = s.trg ∧ (doMemRead x0 x1 s).ptp = s.ptp ∧ (doMemRead x0 x1 s).dbg = s.dbg ∧
    (doMemRead x0 x1 s).ckpt = s.ckpt := by
  simp [doMemRead]

@[simp] theorem cacheWrite_frame (x0 s) : (cacheWrite x0 s).pending = s.pending ∧ (cacheWrite x0 s).regs = s.regs ∧
    (cacheWrite x0 s).clk = s.clk ∧ (cacheWrite x0 s).tck = s.tck ∧ (cacheWrite x0 s).arr = s.arr ∧ (cacheWrite x0
    s).exe = s.exe ∧ (cacheWrite x0 s).pen = s.pen ∧ (cacheWrite x0 s).integ = s.integ ∧ (cacheWrite x0 s).shed =
    s.shed ∧ (cacheWrite x0 s).dmc = s.dmc ∧ (cacheWrite x0 s).lnk = s.lnk ∧ (cacheWrite x0 s).rls = s.rls ∧
    (cacheWrite x0 s).yms = s.yms ∧ (cacheWrite x0 s).pdk = s.pdk ∧ (cacheWrite x0 s).ldr = s.ldr ∧ (cacheWrite x0
    s).sec = s.sec ∧ (cacheWrite x0 s).trg = s.trg ∧ (cacheWrite x0 s).ptp = s.ptp ∧ (cacheWrite x0 s).dbg = s.dbg ∧
    (cacheWrite x0 s).pwr = s.pwr ∧ (cacheWrite x0 s).hst = s.hst ∧ (cacheWrite x0 s).ckpt = s.ckpt := by
  simp only [cacheWrite]; (repeat' split) <;> simp_all

@[simp] theorem doMemWrite_frame (x0 s) : (doMemWrite x0 s).pending = s.pending ∧ (doMemWrite x0 s).tck = s.tck ∧
    (doMemWrite x0 s).arr = s.arr ∧ (doMemWrite x0 s).exe = s.exe ∧ (doMemWrite x0 s).pen = s.pen ∧ (doMemWrite x0
    s).integ = s.integ ∧ (doMemWrite x0 s).shed = s.shed ∧ (doMemWrite x0 s).lnk = s.lnk ∧ (doMemWrite x0 s).yms =
    s.yms ∧ (doMemWrite x0 s).pdk = s.pdk ∧ (doMemWrite x0 s).ldr = s.ldr ∧ (doMemWrite x0 s).sec = s.sec ∧
    (doMemWrite x0 s).trg = s.trg ∧ (doMemWrite x0 s).ptp = s.ptp ∧ (doMemWrite x0 s).dbg = s.dbg ∧ (doMemWrite x0
    s).ckpt = s.ckpt := by
  unfold doMemWrite; split <;> simp

@[simp] theorem cacheFill_frame (x0 s) : (cacheFill x0 s).pending = s.pending ∧ (cacheFill x0 s).regs = s.regs ∧
    (cacheFill x0 s).tck = s.tck ∧ (cacheFill x0 s).arr = s.arr ∧ (cacheFill x0 s).exe = s.exe ∧ (cacheFill x0 s).pen
    = s.pen ∧ (cacheFill x0 s).integ = s.integ ∧ (cacheFill x0 s).shed = s.shed ∧ (cacheFill x0 s).dmc = s.dmc ∧
    (cacheFill x0 s).lnk = s.lnk ∧ (cacheFill x0 s).rls = s.rls ∧ (cacheFill x0 s).yms = s.yms ∧ (cacheFill x0 s).pdk
    = s.pdk ∧ (cacheFill x0 s).ldr = s.ldr ∧ (cacheFill x0 s).sec = s.sec ∧ (cacheFill x0 s).trg = s.trg ∧ (cacheFill
    x0 s).ptp = s.ptp ∧ (cacheFill x0 s).dbg = s.dbg ∧ (cacheFill x0 s).pwr = s.pwr ∧ (cacheFill x0 s).hst = s.hst ∧
    (cacheFill x0 s).ckpt = s.ckpt := by
  simp only [cacheFill]; (repeat' split) <;> simp_all

@[simp] theorem memRespDeliver_frame (x0 s) : (memRespDeliver x0 s).pending = s.pending ∧ (memRespDeliver x0 s).tck =
    s.tck ∧ (memRespDeliver x0 s).arr = s.arr ∧ (memRespDeliver x0 s).exe = s.exe ∧ (memRespDeliver x0 s).pen = s.pen
    ∧ (memRespDeliver x0 s).integ = s.integ ∧ (memRespDeliver x0 s).shed = s.shed ∧ (memRespDeliver x0 s).dmc = s.dmc
    ∧ (memRespDeliver x0 s).lnk = s.lnk ∧ (memRespDeliver x0 s).yms = s.yms ∧ (memRespDeliver x0 s).ldr = s.ldr ∧
    (memRespDeliver x0 s).sec = s.sec ∧ (memRespDeliver x0 s).trg = s.trg ∧ (memRespDeliver x0 s).ptp = s.ptp ∧
    (memRespDeliver x0 s).ckpt = s.ckpt := by
  simp [memRespDeliver]

@[simp] theorem doMemResp_frame (x0 s) : (doMemResp x0 s).pending = s.pending ∧ (doMemResp x0 s).tck = s.tck ∧
    (doMemResp x0 s).arr = s.arr ∧ (doMemResp x0 s).exe = s.exe ∧ (doMemResp x0 s).pen = s.pen ∧ (doMemResp x0
    s).integ = s.integ ∧ (doMemResp x0 s).shed = s.shed ∧ (doMemResp x0 s).dmc = s.dmc ∧ (doMemResp x0 s).lnk = s.lnk
    ∧ (doMemResp x0 s).yms = s.yms ∧ (doMemResp x0 s).ldr = s.ldr ∧ (doMemResp x0 s).sec = s.sec ∧ (doMemResp x0
    s).trg = s.trg ∧ (doMemResp x0 s).ptp = s.ptp ∧ (doMemResp x0 s).ckpt = s.ckpt := by
  simp [doMemResp]

@[simp] theorem doRefresh_frame (x0 x1 s) : (doRefresh x0 x1 s).pending = s.pending ∧ (doRefresh x0 x1 s).tck = s.tck
    ∧ (doRefresh x0 x1 s).arr = s.arr ∧ (doRefresh x0 x1 s).exe = s.exe ∧ (doRefresh x0 x1 s).pen = s.pen ∧ (doRefresh
    x0 x1 s).integ = s.integ ∧ (doRefresh x0 x1 s).lnk = s.lnk ∧ (doRefresh x0 x1 s).yms = s.yms ∧ (doRefresh x0 x1
    s).grm = s.grm ∧ (doRefresh x0 x1 s).pdk = s.pdk ∧ (doRefresh x0 x1 s).ldr = s.ldr ∧ (doRefresh x0 x1 s).sec =
    s.sec ∧ (doRefresh x0 x1 s).trg = s.trg ∧ (doRefresh x0 x1 s).dbg = s.dbg ∧ (doRefresh x0 x1 s).pwr = s.pwr ∧
    (doRefresh x0 x1 s).ckpt = s.ckpt := by
  simp [doRefresh]

@[simp] theorem pollRank_frame (x0 x1 x2 s) : (pollRank x0 x1 x2 s).pending = s.pending ∧ (pollRank x0 x1 x2 s).clk =
    s.clk ∧ (pollRank x0 x1 x2 s).tck = s.tck ∧ (pollRank x0 x1 x2 s).arr = s.arr ∧ (pollRank x0 x1 x2 s).exe = s.exe
    ∧ (pollRank x0 x1 x2 s).pen = s.pen ∧ (pollRank x0 x1 x2 s).integ = s.integ ∧ (pollRank x0 x1 x2 s).shed = s.shed
    ∧ (pollRank x0 x1 x2 s).dmc = s.dmc ∧ (pollRank x0 x1 x2 s).lnk = s.lnk ∧ (pollRank x0 x1 x2 s).rls = s.rls ∧
    (pollRank x0 x1 x2 s).yms = s.yms ∧ (pollRank x0 x1 x2 s).grm = s.grm ∧ (pollRank x0 x1 x2 s).pdk = s.pdk ∧
    (pollRank x0 x1 x2 s).ldr = s.ldr ∧ (pollRank x0 x1 x2 s).sec = s.sec ∧ (pollRank x0 x1 x2 s).trg = s.trg ∧
    (pollRank x0 x1 x2 s).ptp = s.ptp ∧ (pollRank x0 x1 x2 s).dbg = s.dbg ∧ (pollRank x0 x1 x2 s).pwr = s.pwr ∧
    (pollRank x0 x1 x2 s).ckpt = s.ckpt := by
  unfold pollRank; split <;> simp

@[simp] theorem pollRanks_frame (x0 x1 s) : (pollRanks x0 x1 s).pending = s.pending ∧ (pollRanks x0 x1 s).clk = s.clk
    ∧ (pollRanks x0 x1 s).tck = s.tck ∧ (pollRanks x0 x1 s).arr = s.arr ∧ (pollRanks x0 x1 s).exe = s.exe ∧ (pollRanks
    x0 x1 s).pen = s.pen ∧ (pollRanks x0 x1 s).integ = s.integ ∧ (pollRanks x0 x1 s).shed = s.shed ∧ (pollRanks x0 x1
    s).dmc = s.dmc ∧ (pollRanks x0 x1 s).lnk = s.lnk ∧ (pollRanks x0 x1 s).rls = s.rls ∧ (pollRanks x0 x1 s).yms =
    s.yms ∧ (pollRanks x0 x1 s).grm = s.grm ∧ (pollRanks x0 x1 s).pdk = s.pdk ∧ (pollRanks x0 x1 s).ldr = s.ldr ∧
    (pollRanks x0 x1 s).sec = s.sec ∧ (pollRanks x0 x1 s).trg = s.trg ∧ (pollRanks x0 x1 s).ptp = s.ptp ∧ (pollRanks
    x0 x1 s).dbg = s.dbg ∧ (pollRanks x0 x1 s).pwr = s.pwr ∧ (pollRanks x0 x1 s).ckpt = s.ckpt := by
  fun_induction pollRanks <;> simp_all

@[simp] theorem doTempPoll_frame (x0 s) : (doTempPoll x0 s).pending = s.pending ∧ (doTempPoll x0 s).tck = s.tck ∧
    (doTempPoll x0 s).arr = s.arr ∧ (doTempPoll x0 s).exe = s.exe ∧ (doTempPoll x0 s).pen = s.pen ∧ (doTempPoll x0
    s).integ = s.integ ∧ (doTempPoll x0 s).lnk = s.lnk ∧ (doTempPoll x0 s).yms = s.yms ∧ (doTempPoll x0 s).grm = s.grm
    ∧ (doTempPoll x0 s).pdk = s.pdk ∧ (doTempPoll x0 s).ldr = s.ldr ∧ (doTempPoll x0 s).sec = s.sec ∧ (doTempPoll x0
    s).trg = s.trg ∧ (doTempPoll x0 s).dbg = s.dbg ∧ (doTempPoll x0 s).pwr = s.pwr ∧ (doTempPoll x0 s).ckpt = s.ckpt
    := by
  simp [doTempPoll]

@[simp] theorem allRefresh_frame (s) : (allRefresh s).pending = s.pending ∧ (allRefresh s).clk = s.clk ∧ (allRefresh
    s).tck = s.tck ∧ (allRefresh s).arr = s.arr ∧ (allRefresh s).exe = s.exe ∧ (allRefresh s).pen = s.pen ∧
    (allRefresh s).integ = s.integ ∧ (allRefresh s).shed = s.shed ∧ (allRefresh s).lnk = s.lnk ∧ (allRefresh s).rls =
    s.rls ∧ (allRefresh s).yms = s.yms ∧ (allRefresh s).grm = s.grm ∧ (allRefresh s).pdk = s.pdk ∧ (allRefresh s).ldr
    = s.ldr ∧ (allRefresh s).sec = s.sec ∧ (allRefresh s).trg = s.trg ∧ (allRefresh s).ptp = s.ptp ∧ (allRefresh
    s).dbg = s.dbg ∧ (allRefresh s).pwr = s.pwr ∧ (allRefresh s).hst = s.hst ∧ (allRefresh s).ckpt = s.ckpt := by
  simp [allRefresh]

@[simp] theorem exitRefresh_frame (s) : (exitRefresh s).pending = s.pending ∧ (exitRefresh s).clk = s.clk ∧
    (exitRefresh s).tck = s.tck ∧ (exitRefresh s).arr = s.arr ∧ (exitRefresh s).exe = s.exe ∧ (exitRefresh s).pen =
    s.pen ∧ (exitRefresh s).integ = s.integ ∧ (exitRefresh s).shed = s.shed ∧ (exitRefresh s).lnk = s.lnk ∧
    (exitRefresh s).rls = s.rls ∧ (exitRefresh s).yms = s.yms ∧ (exitRefresh s).grm = s.grm ∧ (exitRefresh s).pdk =
    s.pdk ∧ (exitRefresh s).ldr = s.ldr ∧ (exitRefresh s).sec = s.sec ∧ (exitRefresh s).trg = s.trg ∧ (exitRefresh
    s).ptp = s.ptp ∧ (exitRefresh s).dbg = s.dbg ∧ (exitRefresh s).pwr = s.pwr ∧ (exitRefresh s).hst = s.hst ∧
    (exitRefresh s).ckpt = s.ckpt := by
  simp [exitRefresh, ite_frame]

@[simp] theorem freqWrite_frame (x0 x1 s) : (freqWrite x0 x1 s).pending = s.pending ∧ (freqWrite x0 x1 s).clk = s.clk
    ∧ (freqWrite x0 x1 s).tck = s.tck ∧ (freqWrite x0 x1 s).arr = s.arr ∧ (freqWrite x0 x1 s).exe = s.exe ∧ (freqWrite
    x0 x1 s).pen = s.pen ∧ (freqWrite x0 x1 s).integ = s.integ ∧ (freqWrite x0 x1 s).shed = s.shed ∧ (freqWrite x0 x1
    s).lnk = s.lnk ∧ (freqWrite x0 x1 s).rls = s.rls ∧ (freqWrite x0 x1 s).yms = s.yms ∧ (freqWrite x0 x1 s).grm =
    s.grm ∧ (freqWrite x0 x1 s).pdk = s.pdk ∧ (freqWrite x0 x1 s).ldr = s.ldr ∧ (freqWrite x0 x1 s).sec = s.sec ∧
    (freqWrite x0 x1 s).trg = s.trg ∧ (freqWrite x0 x1 s).ptp = s.ptp ∧ (freqWrite x0 x1 s).ckpt = s.ckpt := by
  simp only [freqWrite]; (repeat' split) <;> simp_all

@[simp] theorem doFreqChange_frame (x0 x1 s) : (doFreqChange x0 x1 s).pending = s.pending ∧ (doFreqChange x0 x1 s).tck
    = s.tck ∧ (doFreqChange x0 x1 s).exe = s.exe ∧ (doFreqChange x0 x1 s).yms = s.yms ∧ (doFreqChange x0 x1 s).ldr =
    s.ldr ∧ (doFreqChange x0 x1 s).sec = s.sec ∧ (doFreqChange x0 x1 s).ckpt = s.ckpt := by
  simp [doFreqChange]

@[simp] theorem doFreqChangeDone_frame (s) : (doFreqChangeDone s).pending = s.pending ∧ (doFreqChangeDone s).tck =
    s.tck ∧ (doFreqChangeDone s).arr = s.arr ∧ (doFreqChangeDone s).exe = s.exe ∧ (doFreqChangeDone s).pen = s.pen ∧
    (doFreqChangeDone s).integ = s.integ ∧ (doFreqChangeDone s).shed = s.shed ∧ (doFreqChangeDone s).lnk = s.lnk ∧
    (doFreqChangeDone s).yms = s.yms ∧ (doFreqChangeDone s).grm = s.grm ∧ (doFreqChangeDone s).pdk = s.pdk ∧
    (doFreqChangeDone s).ldr = s.ldr ∧ (doFreqChangeDone s).sec = s.sec ∧ (doFreqChangeDone s).trg = s.trg ∧
    (doFreqChangeDone s).ptp = s.ptp ∧ (doFreqChangeDone s).dbg = s.dbg ∧ (doFreqChangeDone s).pwr = s.pwr ∧
    (doFreqChangeDone s).ckpt = s.ckpt := by
  simp [doFreqChangeDone]

@[simp] theorem trainWrite_frame (x0 s) : (trainWrite x0 s).pending = s.pending ∧ (trainWrite x0 s).clk = s.clk ∧
    (trainWrite x0 s).tck = s.tck ∧ (trainWrite x0 s).arr = s.arr ∧ (trainWrite x0 s).exe = s.exe ∧ (trainWrite x0
    s).pen = s.pen ∧ (trainWrite x0 s).integ = s.integ ∧ (trainWrite x0 s).shed = s.shed ∧ (trainWrite x0 s).dmc =
    s.dmc ∧ (trainWrite x0 s).lnk = s.lnk ∧ (trainWrite x0 s).rls = s.rls ∧ (trainWrite x0 s).yms = s.yms ∧
    (trainWrite x0 s).grm = s.grm ∧ (trainWrite x0 s).pdk = s.pdk ∧ (trainWrite x0 s).ldr = s.ldr ∧ (trainWrite x0
    s).sec = s.sec ∧ (trainWrite x0 s).trg = s.trg ∧ (trainWrite x0 s).ptp = s.ptp ∧ (trainWrite x0 s).dbg = s.dbg ∧
    (trainWrite x0 s).pwr = s.pwr ∧ (trainWrite x0 s).ckpt = s.ckpt := by
  unfold trainWrite; split <;> simp

@[simp] theorem doTrain_frame (x0 x1 s) : (doTrain x0 x1 s).pending = s.pending ∧ (doTrain x0 x1 s).tck = s.tck ∧
    (doTrain x0 x1 s).exe = s.exe ∧ (doTrain x0 x1 s).yms = s.yms ∧ (doTrain x0 x1 s).ldr = s.ldr ∧ (doTrain x0 x1
    s).sec = s.sec ∧ (doTrain x0 x1 s).ckpt = s.ckpt := by
  simp [doTrain]

@[simp] theorem doTrainingDone_frame (x0 x1 x2 x3 x4 x5 s) : (doTrainingDone x0 x1 x2 x3 x4 x5 s).pending = s.pending
    ∧ (doTrainingDone x0 x1 x2 x3 x4 x5 s).tck = s.tck ∧ (doTrainingDone x0 x1 x2 x3 x4 x5 s).arr = s.arr ∧
    (doTrainingDone x0 x1 x2 x3 x4 x5 s).exe = s.exe ∧ (doTrainingDone x0 x1 x2 x3 x4 x5 s).pen = s.pen ∧
    (doTrainingDone x0 x1 x2 x3 x4 x5 s).integ = s.integ ∧ (doTrainingDone x0 x1 x2 x3 x4 x5 s).shed = s.shed ∧
    (doTrainingDone x0 x1 x2 x3 x4 x5 s).lnk = s.lnk ∧ (doTrainingDone x0 x1 x2 x3 x4 x5 s).yms = s.yms ∧
    (doTrainingDone x0 x1 x2 x3 x4 x5 s).grm = s.grm ∧ (doTrainingDone x0 x1 x2 x3 x4 x5 s).pdk = s.pdk ∧
    (doTrainingDone x0 x1 x2 x3 x4 x5 s).ldr = s.ldr ∧ (doTrainingDone x0 x1 x2 x3 x4 x5 s).sec = s.sec ∧
    (doTrainingDone x0 x1 x2 x3 x4 x5 s).trg = s.trg ∧ (doTrainingDone x0 x1 x2 x3 x4 x5 s).ptp = s.ptp ∧
    (doTrainingDone x0 x1 x2 x3 x4 x5 s).dbg = s.dbg ∧ (doTrainingDone x0 x1 x2 x3 x4 x5 s).pwr = s.pwr ∧
    (doTrainingDone x0 x1 x2 x3 x4 x5 s).ckpt = s.ckpt := by
  simp [doTrainingDone]

@[simp] theorem failWrites_frame (x0 s) : (failWrites x0 s).pending = s.pending ∧ (failWrites x0 s).clk = s.clk ∧
    (failWrites x0 s).arr = s.arr ∧ (failWrites x0 s).pen = s.pen ∧ (failWrites x0 s).shed = s.shed ∧ (failWrites x0
    s).dmc = s.dmc ∧ (failWrites x0 s).lnk = s.lnk ∧ (failWrites x0 s).rls = s.rls ∧ (failWrites x0 s).yms = s.yms ∧
    (failWrites x0 s).grm = s.grm ∧ (failWrites x0 s).pdk = s.pdk ∧ (failWrites x0 s).ldr = s.ldr ∧ (failWrites x0
    s).sec = s.sec ∧ (failWrites x0 s).trg = s.trg ∧ (failWrites x0 s).ptp = s.ptp ∧ (failWrites x0 s).dbg = s.dbg ∧
    (failWrites x0 s).pwr = s.pwr ∧ (failWrites x0 s).ckpt = s.ckpt := by
  simp only [failWrites]; (repeat' split) <;> simp

@[simp] theorem drainEnds_frame (s) : (drainEnds s).pending = s.pending ∧ (drainEnds s).regs = s.regs ∧ (drainEnds
    s).clk = s.clk ∧ (drainEnds s).arr = s.arr ∧ (drainEnds s).exe = s.exe ∧ (drainEnds s).pen = s.pen ∧ (drainEnds
    s).integ = s.integ ∧ (drainEnds s).shed = s.shed ∧ (drainEnds s).dmc = s.dmc ∧ (drainEnds s).lnk = s.lnk ∧
    (drainEnds s).rls = s.rls ∧ (drainEnds s).yms = s.yms ∧ (drainEnds s).grm = s.grm ∧ (drainEnds s).pdk = s.pdk ∧
    (drainEnds s).ldr = s.ldr ∧ (drainEnds s).sec = s.sec ∧ (drainEnds s).trg = s.trg ∧ (drainEnds s).ptp = s.ptp ∧
    (drainEnds s).dbg = s.dbg ∧ (drainEnds s).pwr = s.pwr ∧ (drainEnds s).hst = s.hst ∧ (drainEnds s).ckpt = s.ckpt :=
    by
  unfold drainEnds; split <;> simp

@[simp] theorem failChannel_frame (x0 s) : (failChannel x0 s).pending = s.pending ∧ (failChannel x0 s).arr = s.arr ∧
    (failChannel x0 s).pen = s.pen ∧ (failChannel x0 s).shed = s.shed ∧ (failChannel x0 s).lnk = s.lnk ∧ (failChannel
    x0 s).yms = s.yms ∧ (failChannel x0 s).grm = s.grm ∧ (failChannel x0 s).pdk = s.pdk ∧ (failChannel x0 s).ldr =
    s.ldr ∧ (failChannel x0 s).sec = s.sec ∧ (failChannel x0 s).trg = s.trg ∧ (failChannel x0 s).ptp = s.ptp ∧
    (failChannel x0 s).dbg = s.dbg ∧ (failChannel x0 s).pwr = s.pwr ∧ (failChannel x0 s).ckpt = s.ckpt := by
  simp [failChannel]

@[simp] theorem doAlert_frame (x0 x1 s) : (doAlert x0 x1 s).pending = s.pending ∧ (doAlert x0 x1 s).arr = s.arr ∧
    (doAlert x0 x1 s).pen = s.pen ∧ (doAlert x0 x1 s).shed = s.shed ∧ (doAlert x0 x1 s).lnk = s.lnk ∧ (doAlert x0 x1
    s).yms = s.yms ∧ (doAlert x0 x1 s).grm = s.grm ∧ (doAlert x0 x1 s).pdk = s.pdk ∧ (doAlert x0 x1 s).ldr = s.ldr ∧
    (doAlert x0 x1 s).sec = s.sec ∧ (doAlert x0 x1 s).trg = s.trg ∧ (doAlert x0 x1 s).ptp = s.ptp ∧ (doAlert x0 x1
    s).dbg = s.dbg ∧ (doAlert x0 x1 s).pwr = s.pwr ∧ (doAlert x0 x1 s).ckpt = s.ckpt := by
  simp only [doAlert]; (repeat' split) <;> simp_all

@[simp] theorem drainBurst_frame (x0 x1 s) : (drainBurst x0 x1 s).pending = s.pending ∧ (drainBurst x0 x1 s).clk =
    s.clk ∧ (drainBurst x0 x1 s).arr = s.arr ∧ (drainBurst x0 x1 s).pen = s.pen ∧ (drainBurst x0 x1 s).shed = s.shed ∧
    (drainBurst x0 x1 s).lnk = s.lnk ∧ (drainBurst x0 x1 s).rls = s.rls ∧ (drainBurst x0 x1 s).yms = s.yms ∧
    (drainBurst x0 x1 s).grm = s.grm ∧ (drainBurst x0 x1 s).pdk = s.pdk ∧ (drainBurst x0 x1 s).ldr = s.ldr ∧
    (drainBurst x0 x1 s).sec = s.sec ∧ (drainBurst x0 x1 s).trg = s.trg ∧ (drainBurst x0 x1 s).ptp = s.ptp ∧
    (drainBurst x0 x1 s).dbg = s.dbg ∧ (drainBurst x0 x1 s).pwr = s.pwr ∧ (drainBurst x0 x1 s).ckpt = s.ckpt := by
  simp only [drainBurst]; (repeat' split) <;> simp_all

@[simp] theorem doModelWriteDrain_frame (s) : (doModelWriteDrain s).pending = s.pending ∧ (doModelWriteDrain s).arr =
    s.arr ∧ (doModelWriteDrain s).pen = s.pen ∧ (doModelWriteDrain s).shed = s.shed ∧ (doModelWriteDrain s).lnk =
    s.lnk ∧ (doModelWriteDrain s).yms = s.yms ∧ (doModelWriteDrain s).grm = s.grm ∧ (doModelWriteDrain s).pdk = s.pdk
    ∧ (doModelWriteDrain s).ldr = s.ldr ∧ (doModelWriteDrain s).sec = s.sec ∧ (doModelWriteDrain s).trg = s.trg ∧
    (doModelWriteDrain s).ptp = s.ptp ∧ (doModelWriteDrain s).dbg = s.dbg ∧ (doModelWriteDrain s).pwr = s.pwr ∧
    (doModelWriteDrain s).ckpt = s.ckpt := by
  simp [doModelWriteDrain]

@[simp] theorem maskWrite_frame (x0 x1 x2 s) : (maskWrite x0 x1 x2 s).pending = s.pending ∧ (maskWrite x0 x1 x2 s).clk
    = s.clk ∧ (maskWrite x0 x1 x2 s).tck = s.tck ∧ (maskWrite x0 x1 x2 s).arr = s.arr ∧ (maskWrite x0 x1 x2 s).exe =
    s.exe ∧ (maskWrite x0 x1 x2 s).pen = s.pen ∧ (maskWrite x0 x1 x2 s).integ = s.integ ∧ (maskWrite x0 x1 x2 s).shed
    = s.shed ∧ (maskWrite x0 x1 x2 s).lnk = s.lnk ∧ (maskWrite x0 x1 x2 s).rls = s.rls ∧ (maskWrite x0 x1 x2 s).yms =
    s.yms ∧ (maskWrite x0 x1 x2 s).grm = s.grm ∧ (maskWrite x0 x1 x2 s).pdk = s.pdk ∧ (maskWrite x0 x1 x2 s).ldr =
    s.ldr ∧ (maskWrite x0 x1 x2 s).sec = s.sec ∧ (maskWrite x0 x1 x2 s).trg = s.trg ∧ (maskWrite x0 x1 x2 s).ptp =
    s.ptp ∧ (maskWrite x0 x1 x2 s).ckpt = s.ckpt := by
  unfold maskWrite; split <;> simp

@[simp] theorem doDmcMask_frame (x0 x1 x2 s) : (doDmcMask x0 x1 x2 s).pending = s.pending ∧ (doDmcMask x0 x1 x2 s).tck
    = s.tck ∧ (doDmcMask x0 x1 x2 s).exe = s.exe ∧ (doDmcMask x0 x1 x2 s).yms = s.yms ∧ (doDmcMask x0 x1 x2 s).ldr =
    s.ldr ∧ (doDmcMask x0 x1 x2 s).sec = s.sec ∧ (doDmcMask x0 x1 x2 s).ckpt = s.ckpt := by
  simp [doDmcMask]

/-! ### Trace -/

@[simp] theorem flushOne_frame (x0 s) : (flushOne x0 s).pending = s.pending ∧ (flushOne x0 s).regs = s.regs ∧
    (flushOne x0 s).tck = s.tck ∧ (flushOne x0 s).arr = s.arr ∧ (flushOne x0 s).exe = s.exe ∧ (flushOne x0 s).pen =
    s.pen ∧ (flushOne x0 s).integ = s.integ ∧ (flushOne x0 s).shed = s.shed ∧ (flushOne x0 s).dmc = s.dmc ∧ (flushOne
    x0 s).lnk = s.lnk ∧ (flushOne x0 s).yms = s.yms ∧ (flushOne x0 s).pdk = s.pdk ∧ (flushOne x0 s).ldr = s.ldr ∧
    (flushOne x0 s).sec = s.sec ∧ (flushOne x0 s).trg = s.trg ∧ (flushOne x0 s).ptp = s.ptp ∧ (flushOne x0 s).dbg =
    s.dbg ∧ (flushOne x0 s).pwr = s.pwr ∧ (flushOne x0 s).hst = s.hst ∧ (flushOne x0 s).ckpt = s.ckpt := by
  simp only [flushOne]; (repeat' split) <;> simp_all

@[simp] theorem doTraceFlush_frame (x0 s) : (doTraceFlush x0 s).pending = s.pending ∧ (doTraceFlush x0 s).tck = s.tck
    ∧ (doTraceFlush x0 s).arr = s.arr ∧ (doTraceFlush x0 s).exe = s.exe ∧ (doTraceFlush x0 s).pen = s.pen ∧
    (doTraceFlush x0 s).integ = s.integ ∧ (doTraceFlush x0 s).dmc = s.dmc ∧ (doTraceFlush x0 s).lnk = s.lnk ∧
    (doTraceFlush x0 s).yms = s.yms ∧ (doTraceFlush x0 s).pdk = s.pdk ∧ (doTraceFlush x0 s).ldr = s.ldr ∧
    (doTraceFlush x0 s).sec = s.sec ∧ (doTraceFlush x0 s).trg = s.trg ∧ (doTraceFlush x0 s).dbg = s.dbg ∧
    (doTraceFlush x0 s).pwr = s.pwr ∧ (doTraceFlush x0 s).ckpt = s.ckpt := by
  unfold doTraceFlush; split <;> simp

@[simp] theorem flushAll_frame (x0 x1 s) : (flushAll x0 x1 s).pending = s.pending ∧ (flushAll x0 x1 s).regs = s.regs ∧
    (flushAll x0 x1 s).tck = s.tck ∧ (flushAll x0 x1 s).arr = s.arr ∧ (flushAll x0 x1 s).exe = s.exe ∧ (flushAll x0 x1
    s).pen = s.pen ∧ (flushAll x0 x1 s).integ = s.integ ∧ (flushAll x0 x1 s).shed = s.shed ∧ (flushAll x0 x1 s).dmc =
    s.dmc ∧ (flushAll x0 x1 s).lnk = s.lnk ∧ (flushAll x0 x1 s).yms = s.yms ∧ (flushAll x0 x1 s).pdk = s.pdk ∧
    (flushAll x0 x1 s).ldr = s.ldr ∧ (flushAll x0 x1 s).sec = s.sec ∧ (flushAll x0 x1 s).trg = s.trg ∧ (flushAll x0 x1
    s).ptp = s.ptp ∧ (flushAll x0 x1 s).dbg = s.dbg ∧ (flushAll x0 x1 s).pwr = s.pwr ∧ (flushAll x0 x1 s).hst = s.hst
    ∧ (flushAll x0 x1 s).ckpt = s.ckpt := by
  fun_induction flushAll <;> simp_all

@[simp] theorem trcFlit_frame (x0 s) : (trcFlit x0 s).pending = s.pending ∧ (trcFlit x0 s).tck = s.tck ∧ (trcFlit x0
    s).exe = s.exe ∧ (trcFlit x0 s).yms = s.yms ∧ (trcFlit x0 s).ldr = s.ldr ∧ (trcFlit x0 s).sec = s.sec ∧ (trcFlit
    x0 s).ckpt = s.ckpt := by
  simp [trcFlit]

@[simp] theorem trcWrite_frame (x0 s) : (trcWrite x0 s).pending = s.pending ∧ (trcWrite x0 s).tck = s.tck ∧ (trcWrite
    x0 s).exe = s.exe ∧ (trcWrite x0 s).yms = s.yms ∧ (trcWrite x0 s).ldr = s.ldr ∧ (trcWrite x0 s).sec = s.sec ∧
    (trcWrite x0 s).ckpt = s.ckpt := by
  fun_induction trcWrite <;> simp_all

@[simp] theorem traceDeliver_frame (x0 s) : (traceDeliver x0 s).pending = s.pending ∧ (traceDeliver x0 s).tck = s.tck
    ∧ (traceDeliver x0 s).exe = s.exe ∧ (traceDeliver x0 s).yms = s.yms ∧ (traceDeliver x0 s).ldr = s.ldr ∧
    (traceDeliver x0 s).sec = s.sec ∧ (traceDeliver x0 s).ckpt = s.ckpt := by
  simp only [traceDeliver]; (repeat' split) <;> simp_all

@[simp] theorem doTrace_frame (x0 s) : (doTrace x0 s).pending = s.pending ∧ (doTrace x0 s).tck = s.tck ∧ (doTrace x0
    s).exe = s.exe ∧ (doTrace x0 s).yms = s.yms ∧ (doTrace x0 s).ldr = s.ldr ∧ (doTrace x0 s).sec = s.sec ∧ (doTrace
    x0 s).ckpt = s.ckpt := by
  unfold doTrace; split <;> simp

@[simp] theorem doStim_frame (x0 x1 x2 s) : (doStim x0 x1 x2 s).pending = s.pending ∧ (doStim x0 x1 x2 s).tck = s.tck
    ∧ (doStim x0 x1 x2 s).arr = s.arr ∧ (doStim x0 x1 x2 s).exe = s.exe ∧ (doStim x0 x1 x2 s).pen = s.pen ∧ (doStim x0
    x1 x2 s).integ = s.integ ∧ (doStim x0 x1 x2 s).shed = s.shed ∧ (doStim x0 x1 x2 s).dmc = s.dmc ∧ (doStim x0 x1 x2
    s).lnk = s.lnk ∧ (doStim x0 x1 x2 s).rls = s.rls ∧ (doStim x0 x1 x2 s).yms = s.yms ∧ (doStim x0 x1 x2 s).pdk =
    s.pdk ∧ (doStim x0 x1 x2 s).ldr = s.ldr ∧ (doStim x0 x1 x2 s).sec = s.sec ∧ (doStim x0 x1 x2 s).trg = s.trg ∧
    (doStim x0 x1 x2 s).ptp = s.ptp ∧ (doStim x0 x1 x2 s).dbg = s.dbg ∧ (doStim x0 x1 x2 s).pwr = s.pwr ∧ (doStim x0
    x1 x2 s).ckpt = s.ckpt := by
  simp only [doStim]; (repeat' split) <;> simp_all

/-! ### Yards -/

@[simp] theorem intakeEnds_frame (s) : (intakeEnds s).pending = s.pending ∧ (intakeEnds s).regs = s.regs ∧ (intakeEnds
    s).clk = s.clk ∧ (intakeEnds s).arr = s.arr ∧ (intakeEnds s).exe = s.exe ∧ (intakeEnds s).pen = s.pen ∧
    (intakeEnds s).integ = s.integ ∧ (intakeEnds s).shed = s.shed ∧ (intakeEnds s).dmc = s.dmc ∧ (intakeEnds s).lnk =
    s.lnk ∧ (intakeEnds s).rls = s.rls ∧ (intakeEnds s).yms = s.yms ∧ (intakeEnds s).grm = s.grm ∧ (intakeEnds s).pdk
    = s.pdk ∧ (intakeEnds s).ldr = s.ldr ∧ (intakeEnds s).sec = s.sec ∧ (intakeEnds s).trg = s.trg ∧ (intakeEnds
    s).ptp = s.ptp ∧ (intakeEnds s).dbg = s.dbg ∧ (intakeEnds s).pwr = s.pwr ∧ (intakeEnds s).hst = s.hst ∧
    (intakeEnds s).ckpt = s.ckpt := by
  unfold intakeEnds; split <;> simp

@[simp] theorem refused_frame (x0 s) : (refused x0 s).1.pending = s.pending ∧ (refused x0 s).1.clk = s.clk ∧ (refused
    x0 s).1.tck = s.tck ∧ (refused x0 s).1.arr = s.arr ∧ (refused x0 s).1.exe = s.exe ∧ (refused x0 s).1.pen = s.pen ∧
    (refused x0 s).1.integ = s.integ ∧ (refused x0 s).1.shed = s.shed ∧ (refused x0 s).1.dmc = s.dmc ∧ (refused x0
    s).1.lnk = s.lnk ∧ (refused x0 s).1.rls = s.rls ∧ (refused x0 s).1.yms = s.yms ∧ (refused x0 s).1.grm = s.grm ∧
    (refused x0 s).1.pdk = s.pdk ∧ (refused x0 s).1.ldr = s.ldr ∧ (refused x0 s).1.sec = s.sec ∧ (refused x0 s).1.trg
    = s.trg ∧ (refused x0 s).1.ptp = s.ptp ∧ (refused x0 s).1.dbg = s.dbg ∧ (refused x0 s).1.pwr = s.pwr ∧ (refused x0
    s).1.ckpt = s.ckpt := by
  simp [refused]

@[simp] theorem submitReady_frame (x0 x1 s) : (submitReady x0 x1 s).1.pending = s.pending ∧ (submitReady x0 x1
    s).1.clk = s.clk ∧ (submitReady x0 x1 s).1.tck = s.tck ∧ (submitReady x0 x1 s).1.arr = s.arr ∧ (submitReady x0 x1
    s).1.exe = s.exe ∧ (submitReady x0 x1 s).1.pen = s.pen ∧ (submitReady x0 x1 s).1.integ = s.integ ∧ (submitReady x0
    x1 s).1.shed = s.shed ∧ (submitReady x0 x1 s).1.dmc = s.dmc ∧ (submitReady x0 x1 s).1.lnk = s.lnk ∧ (submitReady
    x0 x1 s).1.rls = s.rls ∧ (submitReady x0 x1 s).1.grm = s.grm ∧ (submitReady x0 x1 s).1.pdk = s.pdk ∧ (submitReady
    x0 x1 s).1.ldr = s.ldr ∧ (submitReady x0 x1 s).1.sec = s.sec ∧ (submitReady x0 x1 s).1.trg = s.trg ∧ (submitReady
    x0 x1 s).1.ptp = s.ptp ∧ (submitReady x0 x1 s).1.dbg = s.dbg ∧ (submitReady x0 x1 s).1.pwr = s.pwr ∧ (submitReady
    x0 x1 s).1.ckpt = s.ckpt := by
  simp only [submitReady]; (repeat' split) <;> simp_all

@[simp] theorem submitWait_frame (x0 x1 s) : (submitWait x0 x1 s).1.pending = s.pending ∧ (submitWait x0 x1 s).1.regs
    = s.regs ∧ (submitWait x0 x1 s).1.tck = s.tck ∧ (submitWait x0 x1 s).1.arr = s.arr ∧ (submitWait x0 x1 s).1.exe =
    s.exe ∧ (submitWait x0 x1 s).1.pen = s.pen ∧ (submitWait x0 x1 s).1.integ = s.integ ∧ (submitWait x0 x1 s).1.shed
    = s.shed ∧ (submitWait x0 x1 s).1.dmc = s.dmc ∧ (submitWait x0 x1 s).1.lnk = s.lnk ∧ (submitWait x0 x1 s).1.rls =
    s.rls ∧ (submitWait x0 x1 s).1.grm = s.grm ∧ (submitWait x0 x1 s).1.pdk = s.pdk ∧ (submitWait x0 x1 s).1.ldr =
    s.ldr ∧ (submitWait x0 x1 s).1.sec = s.sec ∧ (submitWait x0 x1 s).1.trg = s.trg ∧ (submitWait x0 x1 s).1.ptp =
    s.ptp ∧ (submitWait x0 x1 s).1.dbg = s.dbg ∧ (submitWait x0 x1 s).1.pwr = s.pwr ∧ (submitWait x0 x1 s).1.hst =
    s.hst ∧ (submitWait x0 x1 s).1.ckpt = s.ckpt := by
  simp [submitWait]

@[simp] theorem submitItem_frame (x0 x1 s) : (submitItem x0 x1 s).1.pending = s.pending ∧ (submitItem x0 x1 s).1.tck =
    s.tck ∧ (submitItem x0 x1 s).1.arr = s.arr ∧ (submitItem x0 x1 s).1.exe = s.exe ∧ (submitItem x0 x1 s).1.pen =
    s.pen ∧ (submitItem x0 x1 s).1.integ = s.integ ∧ (submitItem x0 x1 s).1.shed = s.shed ∧ (submitItem x0 x1 s).1.dmc
    = s.dmc ∧ (submitItem x0 x1 s).1.lnk = s.lnk ∧ (submitItem x0 x1 s).1.rls = s.rls ∧ (submitItem x0 x1 s).1.grm =
    s.grm ∧ (submitItem x0 x1 s).1.pdk = s.pdk ∧ (submitItem x0 x1 s).1.ldr = s.ldr ∧ (submitItem x0 x1 s).1.sec =
    s.sec ∧ (submitItem x0 x1 s).1.trg = s.trg ∧ (submitItem x0 x1 s).1.ptp = s.ptp ∧ (submitItem x0 x1 s).1.dbg =
    s.dbg ∧ (submitItem x0 x1 s).1.pwr = s.pwr ∧ (submitItem x0 x1 s).1.ckpt = s.ckpt := by
  unfold submitItem; (repeat' split) <;> simp_all

@[simp] theorem submit_frame (x0 x1 x2 s) : (submit x0 x1 x2 s).1.pending = s.pending ∧ (submit x0 x1 x2 s).1.tck =
    s.tck ∧ (submit x0 x1 x2 s).1.arr = s.arr ∧ (submit x0 x1 x2 s).1.exe = s.exe ∧ (submit x0 x1 x2 s).1.pen = s.pen
    ∧ (submit x0 x1 x2 s).1.integ = s.integ ∧ (submit x0 x1 x2 s).1.shed = s.shed ∧ (submit x0 x1 x2 s).1.dmc = s.dmc
    ∧ (submit x0 x1 x2 s).1.lnk = s.lnk ∧ (submit x0 x1 x2 s).1.rls = s.rls ∧ (submit x0 x1 x2 s).1.grm = s.grm ∧
    (submit x0 x1 x2 s).1.pdk = s.pdk ∧ (submit x0 x1 x2 s).1.ldr = s.ldr ∧ (submit x0 x1 x2 s).1.sec = s.sec ∧
    (submit x0 x1 x2 s).1.trg = s.trg ∧ (submit x0 x1 x2 s).1.ptp = s.ptp ∧ (submit x0 x1 x2 s).1.dbg = s.dbg ∧
    (submit x0 x1 x2 s).1.pwr = s.pwr ∧ (submit x0 x1 x2 s).1.ckpt = s.ckpt := by
  unfold submit; split <;> simp

@[simp] theorem submitBinding_frame (x0 x1 s) : (submitBinding x0 x1 s).1.pending = s.pending ∧ (submitBinding x0 x1
    s).1.tck = s.tck ∧ (submitBinding x0 x1 s).1.arr = s.arr ∧ (submitBinding x0 x1 s).1.exe = s.exe ∧ (submitBinding
    x0 x1 s).1.pen = s.pen ∧ (submitBinding x0 x1 s).1.integ = s.integ ∧ (submitBinding x0 x1 s).1.shed = s.shed ∧
    (submitBinding x0 x1 s).1.dmc = s.dmc ∧ (submitBinding x0 x1 s).1.lnk = s.lnk ∧ (submitBinding x0 x1 s).1.rls =
    s.rls ∧ (submitBinding x0 x1 s).1.grm = s.grm ∧ (submitBinding x0 x1 s).1.pdk = s.pdk ∧ (submitBinding x0 x1
    s).1.ldr = s.ldr ∧ (submitBinding x0 x1 s).1.sec = s.sec ∧ (submitBinding x0 x1 s).1.trg = s.trg ∧ (submitBinding
    x0 x1 s).1.ptp = s.ptp ∧ (submitBinding x0 x1 s).1.dbg = s.dbg ∧ (submitBinding x0 x1 s).1.pwr = s.pwr ∧
    (submitBinding x0 x1 s).1.ckpt = s.ckpt := by
  simp only [submitBinding]; (repeat' split) <;> simp_all

@[simp] theorem ackTo_frame (x0 x1) (r : State × Answer) : (ackTo x0 x1 r).pending = r.1.pending ∧ (ackTo x0 x1 r).tck
    = r.1.tck ∧ (ackTo x0 x1 r).arr = r.1.arr ∧ (ackTo x0 x1 r).exe = r.1.exe ∧ (ackTo x0 x1 r).pen = r.1.pen ∧ (ackTo
    x0 x1 r).integ = r.1.integ ∧ (ackTo x0 x1 r).shed = r.1.shed ∧ (ackTo x0 x1 r).dmc = r.1.dmc ∧ (ackTo x0 x1 r).lnk
    = r.1.lnk ∧ (ackTo x0 x1 r).yms = r.1.yms ∧ (ackTo x0 x1 r).grm = r.1.grm ∧ (ackTo x0 x1 r).pdk = r.1.pdk ∧ (ackTo
    x0 x1 r).ldr = r.1.ldr ∧ (ackTo x0 x1 r).sec = r.1.sec ∧ (ackTo x0 x1 r).trg = r.1.trg ∧ (ackTo x0 x1 r).ptp =
    r.1.ptp ∧ (ackTo x0 x1 r).dbg = r.1.dbg ∧ (ackTo x0 x1 r).pwr = r.1.pwr ∧ (ackTo x0 x1 r).ckpt = r.1.ckpt := by
  unfold ackTo; split <;> simp

@[simp] theorem atSubmit_frame (x0 s) : (atSubmit x0 s).pending = s.pending ∧ (atSubmit x0 s).tck = s.tck ∧ (atSubmit
    x0 s).arr = s.arr ∧ (atSubmit x0 s).exe = s.exe ∧ (atSubmit x0 s).pen = s.pen ∧ (atSubmit x0 s).integ = s.integ ∧
    (atSubmit x0 s).shed = s.shed ∧ (atSubmit x0 s).dmc = s.dmc ∧ (atSubmit x0 s).lnk = s.lnk ∧ (atSubmit x0 s).grm =
    s.grm ∧ (atSubmit x0 s).pdk = s.pdk ∧ (atSubmit x0 s).ldr = s.ldr ∧ (atSubmit x0 s).sec = s.sec ∧ (atSubmit x0
    s).trg = s.trg ∧ (atSubmit x0 s).ptp = s.ptp ∧ (atSubmit x0 s).dbg = s.dbg ∧ (atSubmit x0 s).pwr = s.pwr ∧
    (atSubmit x0 s).ckpt = s.ckpt := by
  unfold atSubmit; split <;> simp

@[simp] theorem atYard_frame (x0 x1 x2 s) : ((∀ x, (x2 x).pending = x.pending) → (atYard x0 x1 x2 s).pending =
    s.pending) ∧ ((∀ x, (x2 x).tck = x.tck) → (atYard x0 x1 x2 s).tck = s.tck) ∧ ((∀ x, (x2 x).arr = x.arr) → (atYard
    x0 x1 x2 s).arr = s.arr) ∧ ((∀ x, (x2 x).exe = x.exe) → (atYard x0 x1 x2 s).exe = s.exe) ∧ ((∀ x, (x2 x).pen =
    x.pen) → (atYard x0 x1 x2 s).pen = s.pen) ∧ ((∀ x, (x2 x).integ = x.integ) → (atYard x0 x1 x2 s).integ = s.integ)
    ∧ ((∀ x, (x2 x).shed = x.shed) → (atYard x0 x1 x2 s).shed = s.shed) ∧ ((∀ x, (x2 x).dmc = x.dmc) → (atYard x0 x1
    x2 s).dmc = s.dmc) ∧ ((∀ x, (x2 x).lnk = x.lnk) → (atYard x0 x1 x2 s).lnk = s.lnk) ∧ ((∀ x, (x2 x).yms = x.yms) →
    (atYard x0 x1 x2 s).yms = s.yms) ∧ ((∀ x, (x2 x).grm = x.grm) → (atYard x0 x1 x2 s).grm = s.grm) ∧ ((∀ x, (x2
    x).pdk = x.pdk) → (atYard x0 x1 x2 s).pdk = s.pdk) ∧ ((∀ x, (x2 x).ldr = x.ldr) → (atYard x0 x1 x2 s).ldr = s.ldr)
    ∧ ((∀ x, (x2 x).sec = x.sec) → (atYard x0 x1 x2 s).sec = s.sec) ∧ ((∀ x, (x2 x).trg = x.trg) → (atYard x0 x1 x2
    s).trg = s.trg) ∧ ((∀ x, (x2 x).ptp = x.ptp) → (atYard x0 x1 x2 s).ptp = s.ptp) ∧ ((∀ x, (x2 x).dbg = x.dbg) →
    (atYard x0 x1 x2 s).dbg = s.dbg) ∧ ((∀ x, (x2 x).ckpt = x.ckpt) → (atYard x0 x1 x2 s).ckpt = s.ckpt) := by
  unfold atYard; (repeat' split) <;> simp_all

@[simp] theorem submitDeliver_frame (x0 s) : (submitDeliver x0 s).pending = s.pending ∧ (submitDeliver x0 s).tck =
    s.tck ∧ (submitDeliver x0 s).arr = s.arr ∧ (submitDeliver x0 s).exe = s.exe ∧ (submitDeliver x0 s).pen = s.pen ∧
    (submitDeliver x0 s).integ = s.integ ∧ (submitDeliver x0 s).shed = s.shed ∧ (submitDeliver x0 s).dmc = s.dmc ∧
    (submitDeliver x0 s).lnk = s.lnk ∧ (submitDeliver x0 s).grm = s.grm ∧ (submitDeliver x0 s).pdk = s.pdk ∧
    (submitDeliver x0 s).ldr = s.ldr ∧ (submitDeliver x0 s).sec = s.sec ∧ (submitDeliver x0 s).trg = s.trg ∧
    (submitDeliver x0 s).ptp = s.ptp ∧ (submitDeliver x0 s).dbg = s.dbg ∧ (submitDeliver x0 s).ckpt = s.ckpt := by
  simp [submitDeliver]

@[simp] theorem postedCmd_frame (x0 x1 x2 s) : ((∀ p x, (x2 p x).pending = x.pending) → (postedCmd x0 x1 x2 s).pending
    = s.pending) ∧ ((∀ p x, (x2 p x).tck = x.tck) → (postedCmd x0 x1 x2 s).tck = s.tck) ∧ ((∀ p x, (x2 p x).arr =
    x.arr) → (postedCmd x0 x1 x2 s).arr = s.arr) ∧ ((∀ p x, (x2 p x).exe = x.exe) → (postedCmd x0 x1 x2 s).exe =
    s.exe) ∧ ((∀ p x, (x2 p x).pen = x.pen) → (postedCmd x0 x1 x2 s).pen = s.pen) ∧ ((∀ p x, (x2 p x).integ = x.integ)
    → (postedCmd x0 x1 x2 s).integ = s.integ) ∧ ((∀ p x, (x2 p x).shed = x.shed) → (postedCmd x0 x1 x2 s).shed =
    s.shed) ∧ ((∀ p x, (x2 p x).dmc = x.dmc) → (postedCmd x0 x1 x2 s).dmc = s.dmc) ∧ ((∀ p x, (x2 p x).lnk = x.lnk) →
    (postedCmd x0 x1 x2 s).lnk = s.lnk) ∧ ((∀ p x, (x2 p x).yms = x.yms) → (postedCmd x0 x1 x2 s).yms = s.yms) ∧ ((∀ p
    x, (x2 p x).pdk = x.pdk) → (postedCmd x0 x1 x2 s).pdk = s.pdk) ∧ ((∀ p x, (x2 p x).ldr = x.ldr) → (postedCmd x0 x1
    x2 s).ldr = s.ldr) ∧ ((∀ p x, (x2 p x).sec = x.sec) → (postedCmd x0 x1 x2 s).sec = s.sec) ∧ ((∀ p x, (x2 p x).trg
    = x.trg) → (postedCmd x0 x1 x2 s).trg = s.trg) ∧ ((∀ p x, (x2 p x).ptp = x.ptp) → (postedCmd x0 x1 x2 s).ptp =
    s.ptp) ∧ ((∀ p x, (x2 p x).dbg = x.dbg) → (postedCmd x0 x1 x2 s).dbg = s.dbg) ∧ ((∀ p x, (x2 p x).pwr = x.pwr) →
    (postedCmd x0 x1 x2 s).pwr = s.pwr) ∧ ((∀ p x, (x2 p x).ckpt = x.ckpt) → (postedCmd x0 x1 x2 s).ckpt = s.ckpt) :=
    by
  simp only [postedCmd]; (repeat' split) <;> simp_all

@[simp] theorem doWorkSubmit_frame (x0 s) : (doWorkSubmit x0 s).pending = s.pending ∧ (doWorkSubmit x0 s).tck = s.tck
    ∧ (doWorkSubmit x0 s).arr = s.arr ∧ (doWorkSubmit x0 s).exe = s.exe ∧ (doWorkSubmit x0 s).pen = s.pen ∧
    (doWorkSubmit x0 s).integ = s.integ ∧ (doWorkSubmit x0 s).shed = s.shed ∧ (doWorkSubmit x0 s).dmc = s.dmc ∧
    (doWorkSubmit x0 s).lnk = s.lnk ∧ (doWorkSubmit x0 s).pdk = s.pdk ∧ (doWorkSubmit x0 s).ldr = s.ldr ∧
    (doWorkSubmit x0 s).sec = s.sec ∧ (doWorkSubmit x0 s).trg = s.trg ∧ (doWorkSubmit x0 s).ptp = s.ptp ∧
    (doWorkSubmit x0 s).dbg = s.dbg ∧ (doWorkSubmit x0 s).ckpt = s.ckpt := by
  simp [doWorkSubmit]

@[simp] theorem atDeposit_frame (x0 s) : (atDeposit x0 s).pending = s.pending ∧ (atDeposit x0 s).clk = s.clk ∧
    (atDeposit x0 s).tck = s.tck ∧ (atDeposit x0 s).arr = s.arr ∧ (atDeposit x0 s).exe = s.exe ∧ (atDeposit x0 s).pen
    = s.pen ∧ (atDeposit x0 s).integ = s.integ ∧ (atDeposit x0 s).shed = s.shed ∧ (atDeposit x0 s).dmc = s.dmc ∧
    (atDeposit x0 s).lnk = s.lnk ∧ (atDeposit x0 s).grm = s.grm ∧ (atDeposit x0 s).pdk = s.pdk ∧ (atDeposit x0 s).ldr
    = s.ldr ∧ (atDeposit x0 s).sec = s.sec ∧ (atDeposit x0 s).trg = s.trg ∧ (atDeposit x0 s).ptp = s.ptp ∧ (atDeposit
    x0 s).dbg = s.dbg ∧ (atDeposit x0 s).pwr = s.pwr ∧ (atDeposit x0 s).ckpt = s.ckpt := by
  simp only [atDeposit]; (repeat' split) <;> simp_all

@[simp] theorem msgAtUnit_frame (x0 s) : (msgAtUnit x0 s).pending = s.pending ∧ (msgAtUnit x0 s).regs = s.regs ∧
    (msgAtUnit x0 s).clk = s.clk ∧ (msgAtUnit x0 s).tck = s.tck ∧ (msgAtUnit x0 s).arr = s.arr ∧ (msgAtUnit x0 s).exe
    = s.exe ∧ (msgAtUnit x0 s).pen = s.pen ∧ (msgAtUnit x0 s).integ = s.integ ∧ (msgAtUnit x0 s).shed = s.shed ∧
    (msgAtUnit x0 s).dmc = s.dmc ∧ (msgAtUnit x0 s).lnk = s.lnk ∧ (msgAtUnit x0 s).rls = s.rls ∧ (msgAtUnit x0 s).yms
    = s.yms ∧ (msgAtUnit x0 s).grm = s.grm ∧ (msgAtUnit x0 s).ldr = s.ldr ∧ (msgAtUnit x0 s).sec = s.sec ∧ (msgAtUnit
    x0 s).trg = s.trg ∧ (msgAtUnit x0 s).ptp = s.ptp ∧ (msgAtUnit x0 s).dbg = s.dbg ∧ (msgAtUnit x0 s).pwr = s.pwr ∧
    (msgAtUnit x0 s).hst = s.hst ∧ (msgAtUnit x0 s).ckpt = s.ckpt := by
  unfold msgAtUnit; split <;> simp

@[simp] theorem msgDeliver_frame (x0 s) : (msgDeliver x0 s).pending = s.pending ∧ (msgDeliver x0 s).tck = s.tck ∧
    (msgDeliver x0 s).arr = s.arr ∧ (msgDeliver x0 s).exe = s.exe ∧ (msgDeliver x0 s).pen = s.pen ∧ (msgDeliver x0
    s).integ = s.integ ∧ (msgDeliver x0 s).shed = s.shed ∧ (msgDeliver x0 s).dmc = s.dmc ∧ (msgDeliver x0 s).lnk =
    s.lnk ∧ (msgDeliver x0 s).grm = s.grm ∧ (msgDeliver x0 s).ldr = s.ldr ∧ (msgDeliver x0 s).sec = s.sec ∧
    (msgDeliver x0 s).trg = s.trg ∧ (msgDeliver x0 s).ptp = s.ptp ∧ (msgDeliver x0 s).dbg = s.dbg ∧ (msgDeliver x0
    s).ckpt = s.ckpt := by
  unfold msgDeliver
  split
  · simp [ite_frame]
  · split <;> simp [ite_frame]

@[simp] theorem doMsg_frame (x0 s) : (doMsg x0 s).pending = s.pending ∧ (doMsg x0 s).tck = s.tck ∧ (doMsg x0 s).arr =
    s.arr ∧ (doMsg x0 s).exe = s.exe ∧ (doMsg x0 s).pen = s.pen ∧ (doMsg x0 s).integ = s.integ ∧ (doMsg x0 s).shed =
    s.shed ∧ (doMsg x0 s).dmc = s.dmc ∧ (doMsg x0 s).lnk = s.lnk ∧ (doMsg x0 s).ldr = s.ldr ∧ (doMsg x0 s).sec = s.sec
    ∧ (doMsg x0 s).trg = s.trg ∧ (doMsg x0 s).ptp = s.ptp ∧ (doMsg x0 s).dbg = s.dbg ∧ (doMsg x0 s).ckpt = s.ckpt :=
    by
  simp [doMsg]

@[simp] theorem doDeposit_frame (x0 s) : (doDeposit x0 s).pending = s.pending ∧ (doDeposit x0 s).tck = s.tck ∧
    (doDeposit x0 s).arr = s.arr ∧ (doDeposit x0 s).exe = s.exe ∧ (doDeposit x0 s).pen = s.pen ∧ (doDeposit x0
    s).integ = s.integ ∧ (doDeposit x0 s).shed = s.shed ∧ (doDeposit x0 s).dmc = s.dmc ∧ (doDeposit x0 s).lnk = s.lnk
    ∧ (doDeposit x0 s).ldr = s.ldr ∧ (doDeposit x0 s).sec = s.sec ∧ (doDeposit x0 s).trg = s.trg ∧ (doDeposit x0
    s).ptp = s.ptp ∧ (doDeposit x0 s).dbg = s.dbg ∧ (doDeposit x0 s).ckpt = s.ckpt := by
  simp [doDeposit]

@[simp] theorem doorbell_frame (x0 s) : (doorbell x0 s).pending = s.pending ∧ (doorbell x0 s).tck = s.tck ∧ (doorbell
    x0 s).arr = s.arr ∧ (doorbell x0 s).exe = s.exe ∧ (doorbell x0 s).pen = s.pen ∧ (doorbell x0 s).integ = s.integ ∧
    (doorbell x0 s).shed = s.shed ∧ (doorbell x0 s).dmc = s.dmc ∧ (doorbell x0 s).lnk = s.lnk ∧ (doorbell x0 s).rls =
    s.rls ∧ (doorbell x0 s).grm = s.grm ∧ (doorbell x0 s).pdk = s.pdk ∧ (doorbell x0 s).ldr = s.ldr ∧ (doorbell x0
    s).sec = s.sec ∧ (doorbell x0 s).trg = s.trg ∧ (doorbell x0 s).ptp = s.ptp ∧ (doorbell x0 s).dbg = s.dbg ∧
    (doorbell x0 s).pwr = s.pwr ∧ (doorbell x0 s).ckpt = s.ckpt := by
  simp [doorbell]

@[simp] theorem doYmsDoorbell_frame (x0 x1 s) : (doYmsDoorbell x0 x1 s).pending = s.pending ∧ (doYmsDoorbell x0 x1
    s).tck = s.tck ∧ (doYmsDoorbell x0 x1 s).exe = s.exe ∧ (doYmsDoorbell x0 x1 s).ldr = s.ldr ∧ (doYmsDoorbell x0 x1
    s).sec = s.sec ∧ (doYmsDoorbell x0 x1 s).ckpt = s.ckpt := by
  simp [doYmsDoorbell]

@[simp] theorem hwSubmit_frame (x0 x1 x2 s) : (hwSubmit x0 x1 x2 s).pending = s.pending ∧ (hwSubmit x0 x1 x2 s).tck =
    s.tck ∧ (hwSubmit x0 x1 x2 s).arr = s.arr ∧ (hwSubmit x0 x1 x2 s).exe = s.exe ∧ (hwSubmit x0 x1 x2 s).pen = s.pen
    ∧ (hwSubmit x0 x1 x2 s).integ = s.integ ∧ (hwSubmit x0 x1 x2 s).shed = s.shed ∧ (hwSubmit x0 x1 x2 s).dmc = s.dmc
    ∧ (hwSubmit x0 x1 x2 s).lnk = s.lnk ∧ (hwSubmit x0 x1 x2 s).rls = s.rls ∧ (hwSubmit x0 x1 x2 s).grm = s.grm ∧
    (hwSubmit x0 x1 x2 s).pdk = s.pdk ∧ (hwSubmit x0 x1 x2 s).ldr = s.ldr ∧ (hwSubmit x0 x1 x2 s).sec = s.sec ∧
    (hwSubmit x0 x1 x2 s).trg = s.trg ∧ (hwSubmit x0 x1 x2 s).ptp = s.ptp ∧ (hwSubmit x0 x1 x2 s).dbg = s.dbg ∧
    (hwSubmit x0 x1 x2 s).pwr = s.pwr ∧ (hwSubmit x0 x1 x2 s).ckpt = s.ckpt := by
  unfold hwSubmit; split <;> simp

@[simp] theorem convert_frame (x0 s) : (convert x0 s).pending = s.pending ∧ (convert x0 s).tck = s.tck ∧ (convert x0
    s).arr = s.arr ∧ (convert x0 s).exe = s.exe ∧ (convert x0 s).pen = s.pen ∧ (convert x0 s).integ = s.integ ∧
    (convert x0 s).shed = s.shed ∧ (convert x0 s).dmc = s.dmc ∧ (convert x0 s).lnk = s.lnk ∧ (convert x0 s).rls =
    s.rls ∧ (convert x0 s).grm = s.grm ∧ (convert x0 s).pdk = s.pdk ∧ (convert x0 s).ldr = s.ldr ∧ (convert x0 s).sec
    = s.sec ∧ (convert x0 s).trg = s.trg ∧ (convert x0 s).ptp = s.ptp ∧ (convert x0 s).dbg = s.dbg ∧ (convert x0
    s).pwr = s.pwr ∧ (convert x0 s).ckpt = s.ckpt := by
  simp only [convert]; (repeat' split) <;> simp_all

@[simp] theorem doCallIntake_frame (s) : (doCallIntake s).pending = s.pending ∧ (doCallIntake s).arr = s.arr ∧
    (doCallIntake s).exe = s.exe ∧ (doCallIntake s).pen = s.pen ∧ (doCallIntake s).integ = s.integ ∧ (doCallIntake
    s).shed = s.shed ∧ (doCallIntake s).dmc = s.dmc ∧ (doCallIntake s).lnk = s.lnk ∧ (doCallIntake s).rls = s.rls ∧
    (doCallIntake s).grm = s.grm ∧ (doCallIntake s).pdk = s.pdk ∧ (doCallIntake s).ldr = s.ldr ∧ (doCallIntake s).sec
    = s.sec ∧ (doCallIntake s).trg = s.trg ∧ (doCallIntake s).ptp = s.ptp ∧ (doCallIntake s).dbg = s.dbg ∧
    (doCallIntake s).pwr = s.pwr ∧ (doCallIntake s).ckpt = s.ckpt := by
  unfold doCallIntake; split <;> simp

@[simp] theorem giveItem_frame (x0 x1 s) : (giveItem x0 x1 s).pending = s.pending ∧ (giveItem x0 x1 s).clk = s.clk ∧
    (giveItem x0 x1 s).tck = s.tck ∧ (giveItem x0 x1 s).arr = s.arr ∧ (giveItem x0 x1 s).exe = s.exe ∧ (giveItem x0 x1
    s).pen = s.pen ∧ (giveItem x0 x1 s).integ = s.integ ∧ (giveItem x0 x1 s).shed = s.shed ∧ (giveItem x0 x1 s).dmc =
    s.dmc ∧ (giveItem x0 x1 s).lnk = s.lnk ∧ (giveItem x0 x1 s).rls = s.rls ∧ (giveItem x0 x1 s).yms = s.yms ∧
    (giveItem x0 x1 s).pdk = s.pdk ∧ (giveItem x0 x1 s).ldr = s.ldr ∧ (giveItem x0 x1 s).sec = s.sec ∧ (giveItem x0 x1
    s).trg = s.trg ∧ (giveItem x0 x1 s).ptp = s.ptp ∧ (giveItem x0 x1 s).dbg = s.dbg ∧ (giveItem x0 x1 s).pwr = s.pwr
    ∧ (giveItem x0 x1 s).hst = s.hst ∧ (giveItem x0 x1 s).ckpt = s.ckpt := by
  simp [giveItem]

@[simp] theorem wakeFor_frame (x0 s) : (wakeFor x0 s).pending = s.pending ∧ (wakeFor x0 s).tck = s.tck ∧ (wakeFor x0
    s).exe = s.exe ∧ (wakeFor x0 s).yms = s.yms ∧ (wakeFor x0 s).ldr = s.ldr ∧ (wakeFor x0 s).sec = s.sec ∧ (wakeFor
    x0 s).ckpt = s.ckpt := by
  unfold wakeFor; split <;> simp

@[simp] theorem doDispatch_frame (s) : (doDispatch s).pending = s.pending ∧ (doDispatch s).exe = s.exe ∧ (doDispatch
    s).ldr = s.ldr ∧ (doDispatch s).sec = s.sec ∧ (doDispatch s).ckpt = s.ckpt := by
  simp only [doDispatch]; (repeat' split) <;> simp_all

@[simp] theorem decrement_frame (x0 s) : (decrement x0 s).pending = s.pending ∧ (decrement x0 s).clk = s.clk ∧
    (decrement x0 s).tck = s.tck ∧ (decrement x0 s).arr = s.arr ∧ (decrement x0 s).exe = s.exe ∧ (decrement x0 s).pen
    = s.pen ∧ (decrement x0 s).integ = s.integ ∧ (decrement x0 s).shed = s.shed ∧ (decrement x0 s).dmc = s.dmc ∧
    (decrement x0 s).lnk = s.lnk ∧ (decrement x0 s).rls = s.rls ∧ (decrement x0 s).grm = s.grm ∧ (decrement x0 s).pdk
    = s.pdk ∧ (decrement x0 s).ldr = s.ldr ∧ (decrement x0 s).sec = s.sec ∧ (decrement x0 s).trg = s.trg ∧ (decrement
    x0 s).ptp = s.ptp ∧ (decrement x0 s).dbg = s.dbg ∧ (decrement x0 s).pwr = s.pwr ∧ (decrement x0 s).ckpt = s.ckpt
    := by
  simp only [decrement]; (repeat' split) <;> simp_all

@[simp] theorem decrements_frame (x0 s) : (decrements x0 s).pending = s.pending ∧ (decrements x0 s).clk = s.clk ∧
    (decrements x0 s).tck = s.tck ∧ (decrements x0 s).arr = s.arr ∧ (decrements x0 s).exe = s.exe ∧ (decrements x0
    s).pen = s.pen ∧ (decrements x0 s).integ = s.integ ∧ (decrements x0 s).shed = s.shed ∧ (decrements x0 s).dmc =
    s.dmc ∧ (decrements x0 s).lnk = s.lnk ∧ (decrements x0 s).rls = s.rls ∧ (decrements x0 s).grm = s.grm ∧
    (decrements x0 s).pdk = s.pdk ∧ (decrements x0 s).ldr = s.ldr ∧ (decrements x0 s).sec = s.sec ∧ (decrements x0
    s).trg = s.trg ∧ (decrements x0 s).ptp = s.ptp ∧ (decrements x0 s).dbg = s.dbg ∧ (decrements x0 s).pwr = s.pwr ∧
    (decrements x0 s).ckpt = s.ckpt := by
  fun_induction decrements <;> simp_all

@[simp] theorem deliverPkt_frame (x0 x1 s) : (deliverPkt x0 x1 s).pending = s.pending ∧ (deliverPkt x0 x1 s).tck =
    s.tck ∧ (deliverPkt x0 x1 s).exe = s.exe ∧ (deliverPkt x0 x1 s).ldr = s.ldr ∧ (deliverPkt x0 x1 s).sec = s.sec ∧
    (deliverPkt x0 x1 s).ckpt = s.ckpt := by
  unfold deliverPkt; (repeat' split) <;> simp_all

@[simp] theorem drainOrdered_frame (x0 x1 s) : (drainOrdered x0 x1 s).pending = s.pending ∧ (drainOrdered x0 x1 s).tck
    = s.tck ∧ (drainOrdered x0 x1 s).exe = s.exe ∧ (drainOrdered x0 x1 s).ldr = s.ldr ∧ (drainOrdered x0 x1 s).sec =
    s.sec ∧ (drainOrdered x0 x1 s).ckpt = s.ckpt := by
  fun_induction drainOrdered <;> simp_all

@[simp] theorem streamAll_frame (x0 x1 s) : (streamAll x0 x1 s).pending = s.pending ∧ (streamAll x0 x1 s).tck = s.tck
    ∧ (streamAll x0 x1 s).exe = s.exe ∧ (streamAll x0 x1 s).ldr = s.ldr ∧ (streamAll x0 x1 s).sec = s.sec ∧ (streamAll
    x0 x1 s).ckpt = s.ckpt := by
  fun_induction streamAll <;> simp_all

@[simp] theorem releaseFlow_frame (x0 x1 s) : (releaseFlow x0 x1 s).pending = s.pending ∧ (releaseFlow x0 x1 s).tck =
    s.tck ∧ (releaseFlow x0 x1 s).exe = s.exe ∧ (releaseFlow x0 x1 s).ldr = s.ldr ∧ (releaseFlow x0 x1 s).sec = s.sec
    ∧ (releaseFlow x0 x1 s).ckpt = s.ckpt := by
  induction x1 generalizing s with
  | zero => simp [releaseFlow]
  | succ n ih => simp only [releaseFlow]; (repeat' split) <;> simp [ih]

@[simp] theorem releaseAll_frame (s) : (releaseAll s).pending = s.pending ∧ (releaseAll s).tck = s.tck ∧ (releaseAll
    s).exe = s.exe ∧ (releaseAll s).ldr = s.ldr ∧ (releaseAll s).sec = s.sec ∧ (releaseAll s).ckpt = s.ckpt := by
  simp [releaseAll]

@[simp] theorem complete_frame (x0 x1 x2 x3 s) : (complete x0 x1 x2 x3 s).pending = s.pending ∧ (complete x0 x1 x2 x3
    s).exe = s.exe ∧ (complete x0 x1 x2 x3 s).ldr = s.ldr ∧ (complete x0 x1 x2 x3 s).sec = s.sec ∧ (complete x0 x1 x2
    x3 s).ckpt = s.ckpt := by
  unfold complete; (repeat' split) <;> simp_all

@[simp] theorem atDone_frame (x0 s) : (atDone x0 s).pending = s.pending ∧ (atDone x0 s).exe = s.exe ∧ (atDone x0
    s).ldr = s.ldr ∧ (atDone x0 s).sec = s.sec ∧ (atDone x0 s).ckpt = s.ckpt := by
  simp only [atDone]; (repeat' split) <;> simp_all

@[simp] theorem doneDeliver_frame (x0 s) : (doneDeliver x0 s).pending = s.pending ∧ (doneDeliver x0 s).exe = s.exe ∧
    (doneDeliver x0 s).ldr = s.ldr ∧ (doneDeliver x0 s).sec = s.sec ∧ (doneDeliver x0 s).ckpt = s.ckpt := by
  simp [doneDeliver]

@[simp] theorem doWorkDone_frame (x0 s) : (doWorkDone x0 s).pending = s.pending ∧ (doWorkDone x0 s).exe = s.exe ∧
    (doWorkDone x0 s).ldr = s.ldr ∧ (doWorkDone x0 s).sec = s.sec ∧ (doWorkDone x0 s).ckpt = s.ckpt := by
  simp [doWorkDone]

@[simp] theorem endItem_frame (x0 x1 s) : (endItem x0 x1 s).pending = s.pending ∧ (endItem x0 x1 s).clk = s.clk ∧
    (endItem x0 x1 s).tck = s.tck ∧ (endItem x0 x1 s).arr = s.arr ∧ (endItem x0 x1 s).exe = s.exe ∧ (endItem x0 x1
    s).pen = s.pen ∧ (endItem x0 x1 s).integ = s.integ ∧ (endItem x0 x1 s).shed = s.shed ∧ (endItem x0 x1 s).dmc =
    s.dmc ∧ (endItem x0 x1 s).lnk = s.lnk ∧ (endItem x0 x1 s).yms = s.yms ∧ (endItem x0 x1 s).pdk = s.pdk ∧ (endItem
    x0 x1 s).ldr = s.ldr ∧ (endItem x0 x1 s).sec = s.sec ∧ (endItem x0 x1 s).trg = s.trg ∧ (endItem x0 x1 s).ptp =
    s.ptp ∧ (endItem x0 x1 s).dbg = s.dbg ∧ (endItem x0 x1 s).pwr = s.pwr ∧ (endItem x0 x1 s).hst = s.hst ∧ (endItem
    x0 x1 s).ckpt = s.ckpt := by
  simp only [endItem]; (repeat' split) <;> simp_all

@[simp] theorem doGrmDone_frame (x0 x1 x2 s) : (doGrmDone x0 x1 x2 s).pending = s.pending ∧ (doGrmDone x0 x1 x2 s).tck
    = s.tck ∧ (doGrmDone x0 x1 x2 s).exe = s.exe ∧ (doGrmDone x0 x1 x2 s).yms = s.yms ∧ (doGrmDone x0 x1 x2 s).ldr =
    s.ldr ∧ (doGrmDone x0 x1 x2 s).sec = s.sec ∧ (doGrmDone x0 x1 x2 s).ckpt = s.ckpt := by
  unfold doGrmDone; split <;> simp

@[simp] theorem doTimetableExpiry_frame (s) : (doTimetableExpiry s).pending = s.pending ∧ (doTimetableExpiry s).regs =
    s.regs ∧ (doTimetableExpiry s).clk = s.clk ∧ (doTimetableExpiry s).tck = s.tck ∧ (doTimetableExpiry s).arr = s.arr
    ∧ (doTimetableExpiry s).exe = s.exe ∧ (doTimetableExpiry s).pen = s.pen ∧ (doTimetableExpiry s).integ = s.integ ∧
    (doTimetableExpiry s).shed = s.shed ∧ (doTimetableExpiry s).dmc = s.dmc ∧ (doTimetableExpiry s).lnk = s.lnk ∧
    (doTimetableExpiry s).rls = s.rls ∧ (doTimetableExpiry s).grm = s.grm ∧ (doTimetableExpiry s).pdk = s.pdk ∧
    (doTimetableExpiry s).ldr = s.ldr ∧ (doTimetableExpiry s).sec = s.sec ∧ (doTimetableExpiry s).trg = s.trg ∧
    (doTimetableExpiry s).ptp = s.ptp ∧ (doTimetableExpiry s).dbg = s.dbg ∧ (doTimetableExpiry s).pwr = s.pwr ∧
    (doTimetableExpiry s).hst = s.hst ∧ (doTimetableExpiry s).ckpt = s.ckpt := by
  unfold doTimetableExpiry; split <;> simp

/-! ### Trigger -/

@[simp] theorem putRecord_frame (x0 x1 x2 x3 x4 x5 x6 s) : (putRecord x0 x1 x2 x3 x4 x5 x6 s).pending = s.pending ∧
    (putRecord x0 x1 x2 x3 x4 x5 x6 s).clk = s.clk ∧ (putRecord x0 x1 x2 x3 x4 x5 x6 s).tck = s.tck ∧ (putRecord x0 x1
    x2 x3 x4 x5 x6 s).arr = s.arr ∧ (putRecord x0 x1 x2 x3 x4 x5 x6 s).exe = s.exe ∧ (putRecord x0 x1 x2 x3 x4 x5 x6
    s).pen = s.pen ∧ (putRecord x0 x1 x2 x3 x4 x5 x6 s).integ = s.integ ∧ (putRecord x0 x1 x2 x3 x4 x5 x6 s).shed =
    s.shed ∧ (putRecord x0 x1 x2 x3 x4 x5 x6 s).dmc = s.dmc ∧ (putRecord x0 x1 x2 x3 x4 x5 x6 s).lnk = s.lnk ∧
    (putRecord x0 x1 x2 x3 x4 x5 x6 s).rls = s.rls ∧ (putRecord x0 x1 x2 x3 x4 x5 x6 s).yms = s.yms ∧ (putRecord x0 x1
    x2 x3 x4 x5 x6 s).grm = s.grm ∧ (putRecord x0 x1 x2 x3 x4 x5 x6 s).pdk = s.pdk ∧ (putRecord x0 x1 x2 x3 x4 x5 x6
    s).ldr = s.ldr ∧ (putRecord x0 x1 x2 x3 x4 x5 x6 s).sec = s.sec ∧ (putRecord x0 x1 x2 x3 x4 x5 x6 s).ptp = s.ptp ∧
    (putRecord x0 x1 x2 x3 x4 x5 x6 s).dbg = s.dbg ∧ (putRecord x0 x1 x2 x3 x4 x5 x6 s).pwr = s.pwr ∧ (putRecord x0 x1
    x2 x3 x4 x5 x6 s).ckpt = s.ckpt := by
  simp only [putRecord]; (repeat' split) <;> simp_all

@[simp] theorem spill_frame (x0 x1 x2 s) : (spill x0 x1 x2 s).pending = s.pending ∧ (spill x0 x1 x2 s).tck = s.tck ∧
    (spill x0 x1 x2 s).exe = s.exe ∧ (spill x0 x1 x2 s).yms = s.yms ∧ (spill x0 x1 x2 s).ldr = s.ldr ∧ (spill x0 x1 x2
    s).sec = s.sec ∧ (spill x0 x1 x2 s).ckpt = s.ckpt := by
  fun_induction spill <;> simp_all

@[simp] theorem placeRec_frame (x0 x1 s) : (placeRec x0 x1 s).pending = s.pending ∧ (placeRec x0 x1 s).tck = s.tck ∧
    (placeRec x0 x1 s).exe = s.exe ∧ (placeRec x0 x1 s).yms = s.yms ∧ (placeRec x0 x1 s).ldr = s.ldr ∧ (placeRec x0 x1
    s).sec = s.sec ∧ (placeRec x0 x1 s).ckpt = s.ckpt := by
  simp [placeRec]

@[simp] theorem acqStopped_frame (s) : (acqStopped s).pending = s.pending ∧ (acqStopped s).clk = s.clk ∧ (acqStopped
    s).tck = s.tck ∧ (acqStopped s).arr = s.arr ∧ (acqStopped s).exe = s.exe ∧ (acqStopped s).pen = s.pen ∧
    (acqStopped s).integ = s.integ ∧ (acqStopped s).shed = s.shed ∧ (acqStopped s).dmc = s.dmc ∧ (acqStopped s).lnk =
    s.lnk ∧ (acqStopped s).rls = s.rls ∧ (acqStopped s).yms = s.yms ∧ (acqStopped s).grm = s.grm ∧ (acqStopped s).pdk
    = s.pdk ∧ (acqStopped s).ldr = s.ldr ∧ (acqStopped s).sec = s.sec ∧ (acqStopped s).ptp = s.ptp ∧ (acqStopped
    s).dbg = s.dbg ∧ (acqStopped s).pwr = s.pwr ∧ (acqStopped s).ckpt = s.ckpt := by
  simp [acqStopped]

@[simp] theorem placePad_frame (x0 s) : (placePad x0 s).pending = s.pending ∧ (placePad x0 s).tck = s.tck ∧ (placePad
    x0 s).exe = s.exe ∧ (placePad x0 s).yms = s.yms ∧ (placePad x0 s).ldr = s.ldr ∧ (placePad x0 s).sec = s.sec ∧
    (placePad x0 s).ckpt = s.ckpt := by
  simp [placePad, ite_frame]

theorem drainOne_frame (x0) (s t) (h : drainOne x0 s = some t) : t.pending = s.pending ∧ t.tck = s.tck ∧ t.exe = s.exe
    ∧ t.yms = s.yms ∧ t.ldr = s.ldr ∧ t.sec = s.sec ∧ t.ckpt = s.ckpt := by
  revert h; simp only [drainOne]; (repeat' split) <;> intro h <;> cases h <;> simp

@[simp] theorem drainAcq_frame (x0 s) : (drainAcq x0 s).pending = s.pending ∧ (drainAcq x0 s).tck = s.tck ∧ (drainAcq
    x0 s).exe = s.exe ∧ (drainAcq x0 s).yms = s.yms ∧ (drainAcq x0 s).ldr = s.ldr ∧ (drainAcq x0 s).sec = s.sec ∧
    (drainAcq x0 s).ckpt = s.ckpt := by
  induction x0 generalizing s with
  | zero => simp [drainAcq]
  | succ n ih =>
    simp only [drainAcq]; split
    · simp
    · split
      · simp
      · rename_i h; simp [ih, drainOne_frame _ _ _ h]

@[simp] theorem drainBuf_frame (s) : (drainBuf s).pending = s.pending ∧ (drainBuf s).tck = s.tck ∧ (drainBuf s).exe =
    s.exe ∧ (drainBuf s).yms = s.yms ∧ (drainBuf s).ldr = s.ldr ∧ (drainBuf s).sec = s.sec ∧ (drainBuf s).ckpt =
    s.ckpt := by
  simp [drainBuf]

@[simp] theorem windowRecord_frame (x0 x1 s) : (windowRecord x0 x1 s).pending = s.pending ∧ (windowRecord x0 x1 s).clk
    = s.clk ∧ (windowRecord x0 x1 s).tck = s.tck ∧ (windowRecord x0 x1 s).arr = s.arr ∧ (windowRecord x0 x1 s).exe =
    s.exe ∧ (windowRecord x0 x1 s).pen = s.pen ∧ (windowRecord x0 x1 s).integ = s.integ ∧ (windowRecord x0 x1 s).shed
    = s.shed ∧ (windowRecord x0 x1 s).dmc = s.dmc ∧ (windowRecord x0 x1 s).lnk = s.lnk ∧ (windowRecord x0 x1 s).rls =
    s.rls ∧ (windowRecord x0 x1 s).yms = s.yms ∧ (windowRecord x0 x1 s).grm = s.grm ∧ (windowRecord x0 x1 s).pdk =
    s.pdk ∧ (windowRecord x0 x1 s).ldr = s.ldr ∧ (windowRecord x0 x1 s).sec = s.sec ∧ (windowRecord x0 x1 s).ptp =
    s.ptp ∧ (windowRecord x0 x1 s).dbg = s.dbg ∧ (windowRecord x0 x1 s).pwr = s.pwr ∧ (windowRecord x0 x1 s).ckpt =
    s.ckpt := by
  simp [windowRecord]

@[simp] theorem streamTick_frame (x0 x1 s x3) : (streamTick x0 x1 s x3).pending = s.pending ∧ (streamTick x0 x1 s
    x3).clk = s.clk ∧ (streamTick x0 x1 s x3).tck = s.tck ∧ (streamTick x0 x1 s x3).arr = s.arr ∧ (streamTick x0 x1 s
    x3).exe = s.exe ∧ (streamTick x0 x1 s x3).pen = s.pen ∧ (streamTick x0 x1 s x3).integ = s.integ ∧ (streamTick x0
    x1 s x3).shed = s.shed ∧ (streamTick x0 x1 s x3).dmc = s.dmc ∧ (streamTick x0 x1 s x3).lnk = s.lnk ∧ (streamTick
    x0 x1 s x3).rls = s.rls ∧ (streamTick x0 x1 s x3).yms = s.yms ∧ (streamTick x0 x1 s x3).grm = s.grm ∧ (streamTick
    x0 x1 s x3).pdk = s.pdk ∧ (streamTick x0 x1 s x3).ldr = s.ldr ∧ (streamTick x0 x1 s x3).sec = s.sec ∧ (streamTick
    x0 x1 s x3).ptp = s.ptp ∧ (streamTick x0 x1 s x3).dbg = s.dbg ∧ (streamTick x0 x1 s x3).pwr = s.pwr ∧ (streamTick
    x0 x1 s x3).ckpt = s.ckpt := by
  simp only [streamTick]; (repeat' split) <;> simp_all

@[simp] theorem streamsTick_frame (x0 x1 s) : (streamsTick x0 x1 s).pending = s.pending ∧ (streamsTick x0 x1 s).clk =
    s.clk ∧ (streamsTick x0 x1 s).tck = s.tck ∧ (streamsTick x0 x1 s).arr = s.arr ∧ (streamsTick x0 x1 s).exe = s.exe
    ∧ (streamsTick x0 x1 s).pen = s.pen ∧ (streamsTick x0 x1 s).integ = s.integ ∧ (streamsTick x0 x1 s).shed = s.shed
    ∧ (streamsTick x0 x1 s).dmc = s.dmc ∧ (streamsTick x0 x1 s).lnk = s.lnk ∧ (streamsTick x0 x1 s).rls = s.rls ∧
    (streamsTick x0 x1 s).yms = s.yms ∧ (streamsTick x0 x1 s).grm = s.grm ∧ (streamsTick x0 x1 s).pdk = s.pdk ∧
    (streamsTick x0 x1 s).ldr = s.ldr ∧ (streamsTick x0 x1 s).sec = s.sec ∧ (streamsTick x0 x1 s).ptp = s.ptp ∧
    (streamsTick x0 x1 s).dbg = s.dbg ∧ (streamsTick x0 x1 s).pwr = s.pwr ∧ (streamsTick x0 x1 s).ckpt = s.ckpt := by
  simp only [streamsTick]; (repeat' split) <;> simp_all

@[simp] theorem startStreams_frame (x0 s) : (startStreams x0 s).pending = s.pending ∧ (startStreams x0 s).regs =
    s.regs ∧ (startStreams x0 s).clk = s.clk ∧ (startStreams x0 s).tck = s.tck ∧ (startStreams x0 s).arr = s.arr ∧
    (startStreams x0 s).exe = s.exe ∧ (startStreams x0 s).pen = s.pen ∧ (startStreams x0 s).integ = s.integ ∧
    (startStreams x0 s).shed = s.shed ∧ (startStreams x0 s).dmc = s.dmc ∧ (startStreams x0 s).lnk = s.lnk ∧
    (startStreams x0 s).rls = s.rls ∧ (startStreams x0 s).yms = s.yms ∧ (startStreams x0 s).grm = s.grm ∧
    (startStreams x0 s).pdk = s.pdk ∧ (startStreams x0 s).ldr = s.ldr ∧ (startStreams x0 s).sec = s.sec ∧
    (startStreams x0 s).ptp = s.ptp ∧ (startStreams x0 s).dbg = s.dbg ∧ (startStreams x0 s).pwr = s.pwr ∧
    (startStreams x0 s).hst = s.hst ∧ (startStreams x0 s).ckpt = s.ckpt := by
  simp [startStreams]

@[simp] theorem stopStreams_frame (x0 s) : (stopStreams x0 s).pending = s.pending ∧ (stopStreams x0 s).regs = s.regs ∧
    (stopStreams x0 s).clk = s.clk ∧ (stopStreams x0 s).tck = s.tck ∧ (stopStreams x0 s).arr = s.arr ∧ (stopStreams x0
    s).exe = s.exe ∧ (stopStreams x0 s).pen = s.pen ∧ (stopStreams x0 s).integ = s.integ ∧ (stopStreams x0 s).shed =
    s.shed ∧ (stopStreams x0 s).dmc = s.dmc ∧ (stopStreams x0 s).lnk = s.lnk ∧ (stopStreams x0 s).rls = s.rls ∧
    (stopStreams x0 s).yms = s.yms ∧ (stopStreams x0 s).grm = s.grm ∧ (stopStreams x0 s).pdk = s.pdk ∧ (stopStreams x0
    s).ldr = s.ldr ∧ (stopStreams x0 s).sec = s.sec ∧ (stopStreams x0 s).ptp = s.ptp ∧ (stopStreams x0 s).dbg = s.dbg
    ∧ (stopStreams x0 s).pwr = s.pwr ∧ (stopStreams x0 s).hst = s.hst ∧ (stopStreams x0 s).ckpt = s.ckpt := by
  unfold stopStreams; split <;> simp

@[simp] theorem actTout_frame (s x1) : (actTout s x1).pending = s.pending ∧ (actTout s x1).regs = s.regs ∧ (actTout s
    x1).clk = s.clk ∧ (actTout s x1).tck = s.tck ∧ (actTout s x1).arr = s.arr ∧ (actTout s x1).exe = s.exe ∧ (actTout
    s x1).pen = s.pen ∧ (actTout s x1).integ = s.integ ∧ (actTout s x1).shed = s.shed ∧ (actTout s x1).dmc = s.dmc ∧
    (actTout s x1).lnk = s.lnk ∧ (actTout s x1).rls = s.rls ∧ (actTout s x1).yms = s.yms ∧ (actTout s x1).grm = s.grm
    ∧ (actTout s x1).pdk = s.pdk ∧ (actTout s x1).ldr = s.ldr ∧ (actTout s x1).sec = s.sec ∧ (actTout s x1).ptp =
    s.ptp ∧ (actTout s x1).dbg = s.dbg ∧ (actTout s x1).pwr = s.pwr ∧ (actTout s x1).hst = s.hst ∧ (actTout s x1).ckpt
    = s.ckpt := by
  simp [actTout]

@[simp] theorem driveLine_frame (x0 x1 s x3) : (driveLine x0 x1 s x3).pending = s.pending ∧ (driveLine x0 x1 s
    x3).regs = s.regs ∧ (driveLine x0 x1 s x3).clk = s.clk ∧ (driveLine x0 x1 s x3).tck = s.tck ∧ (driveLine x0 x1 s
    x3).arr = s.arr ∧ (driveLine x0 x1 s x3).exe = s.exe ∧ (driveLine x0 x1 s x3).pen = s.pen ∧ (driveLine x0 x1 s
    x3).integ = s.integ ∧ (driveLine x0 x1 s x3).shed = s.shed ∧ (driveLine x0 x1 s x3).dmc = s.dmc ∧ (driveLine x0 x1
    s x3).lnk = s.lnk ∧ (driveLine x0 x1 s x3).rls = s.rls ∧ (driveLine x0 x1 s x3).yms = s.yms ∧ (driveLine x0 x1 s
    x3).grm = s.grm ∧ (driveLine x0 x1 s x3).pdk = s.pdk ∧ (driveLine x0 x1 s x3).ldr = s.ldr ∧ (driveLine x0 x1 s
    x3).sec = s.sec ∧ (driveLine x0 x1 s x3).ptp = s.ptp ∧ (driveLine x0 x1 s x3).dbg = s.dbg ∧ (driveLine x0 x1 s
    x3).pwr = s.pwr ∧ (driveLine x0 x1 s x3).hst = s.hst ∧ (driveLine x0 x1 s x3).ckpt = s.ckpt := by
  simp [driveLine]

@[simp] theorem actXtrg_frame (s x1) : (actXtrg s x1).pending = s.pending ∧ (actXtrg s x1).regs = s.regs ∧ (actXtrg s
    x1).clk = s.clk ∧ (actXtrg s x1).tck = s.tck ∧ (actXtrg s x1).arr = s.arr ∧ (actXtrg s x1).exe = s.exe ∧ (actXtrg
    s x1).pen = s.pen ∧ (actXtrg s x1).integ = s.integ ∧ (actXtrg s x1).shed = s.shed ∧ (actXtrg s x1).dmc = s.dmc ∧
    (actXtrg s x1).lnk = s.lnk ∧ (actXtrg s x1).rls = s.rls ∧ (actXtrg s x1).yms = s.yms ∧ (actXtrg s x1).grm = s.grm
    ∧ (actXtrg s x1).pdk = s.pdk ∧ (actXtrg s x1).ldr = s.ldr ∧ (actXtrg s x1).sec = s.sec ∧ (actXtrg s x1).ptp =
    s.ptp ∧ (actXtrg s x1).dbg = s.dbg ∧ (actXtrg s x1).pwr = s.pwr ∧ (actXtrg s x1).hst = s.hst ∧ (actXtrg s x1).ckpt
    = s.ckpt := by
  simp [actXtrg]

@[simp] theorem requestBreak_frame (x0 s) : (requestBreak x0 s).pending = s.pending ∧ (requestBreak x0 s).regs =
    s.regs ∧ (requestBreak x0 s).clk = s.clk ∧ (requestBreak x0 s).arr = s.arr ∧ (requestBreak x0 s).exe = s.exe ∧
    (requestBreak x0 s).pen = s.pen ∧ (requestBreak x0 s).integ = s.integ ∧ (requestBreak x0 s).shed = s.shed ∧
    (requestBreak x0 s).dmc = s.dmc ∧ (requestBreak x0 s).lnk = s.lnk ∧ (requestBreak x0 s).rls = s.rls ∧
    (requestBreak x0 s).yms = s.yms ∧ (requestBreak x0 s).grm = s.grm ∧ (requestBreak x0 s).pdk = s.pdk ∧
    (requestBreak x0 s).ldr = s.ldr ∧ (requestBreak x0 s).sec = s.sec ∧ (requestBreak x0 s).trg = s.trg ∧
    (requestBreak x0 s).ptp = s.ptp ∧ (requestBreak x0 s).dbg = s.dbg ∧ (requestBreak x0 s).pwr = s.pwr ∧
    (requestBreak x0 s).hst = s.hst ∧ (requestBreak x0 s).ckpt = s.ckpt := by
  unfold requestBreak; split <;> simp

@[simp] theorem actBreak_frame (x0 s) : (actBreak x0 s).pending = s.pending ∧ (actBreak x0 s).regs = s.regs ∧
    (actBreak x0 s).clk = s.clk ∧ (actBreak x0 s).arr = s.arr ∧ (actBreak x0 s).exe = s.exe ∧ (actBreak x0 s).pen =
    s.pen ∧ (actBreak x0 s).integ = s.integ ∧ (actBreak x0 s).shed = s.shed ∧ (actBreak x0 s).dmc = s.dmc ∧ (actBreak
    x0 s).lnk = s.lnk ∧ (actBreak x0 s).rls = s.rls ∧ (actBreak x0 s).yms = s.yms ∧ (actBreak x0 s).grm = s.grm ∧
    (actBreak x0 s).pdk = s.pdk ∧ (actBreak x0 s).ldr = s.ldr ∧ (actBreak x0 s).sec = s.sec ∧ (actBreak x0 s).ptp =
    s.ptp ∧ (actBreak x0 s).dbg = s.dbg ∧ (actBreak x0 s).pwr = s.pwr ∧ (actBreak x0 s).hst = s.hst ∧ (actBreak x0
    s).ckpt = s.ckpt := by
  unfold actBreak; split <;> simp

@[simp] theorem actEvent_frame (x0 x1 x2 x3 s) : (actEvent x0 x1 x2 x3 s).pending = s.pending ∧ (actEvent x0 x1 x2 x3
    s).tck = s.tck ∧ (actEvent x0 x1 x2 x3 s).arr = s.arr ∧ (actEvent x0 x1 x2 x3 s).exe = s.exe ∧ (actEvent x0 x1 x2
    x3 s).pen = s.pen ∧ (actEvent x0 x1 x2 x3 s).integ = s.integ ∧ (actEvent x0 x1 x2 x3 s).shed = s.shed ∧ (actEvent
    x0 x1 x2 x3 s).dmc = s.dmc ∧ (actEvent x0 x1 x2 x3 s).lnk = s.lnk ∧ (actEvent x0 x1 x2 x3 s).rls = s.rls ∧
    (actEvent x0 x1 x2 x3 s).grm = s.grm ∧ (actEvent x0 x1 x2 x3 s).pdk = s.pdk ∧ (actEvent x0 x1 x2 x3 s).ldr = s.ldr
    ∧ (actEvent x0 x1 x2 x3 s).sec = s.sec ∧ (actEvent x0 x1 x2 x3 s).trg = s.trg ∧ (actEvent x0 x1 x2 x3 s).ptp =
    s.ptp ∧ (actEvent x0 x1 x2 x3 s).dbg = s.dbg ∧ (actEvent x0 x1 x2 x3 s).pwr = s.pwr ∧ (actEvent x0 x1 x2 x3
    s).ckpt = s.ckpt := by
  simp only [actEvent]; (repeat' split) <;> simp_all

@[simp] theorem markRecord_frame (x0 x1 x2 x3 s) : (markRecord x0 x1 x2 x3 s).pending = s.pending ∧ (markRecord x0 x1
    x2 x3 s).clk = s.clk ∧ (markRecord x0 x1 x2 x3 s).tck = s.tck ∧ (markRecord x0 x1 x2 x3 s).arr = s.arr ∧
    (markRecord x0 x1 x2 x3 s).exe = s.exe ∧ (markRecord x0 x1 x2 x3 s).pen = s.pen ∧ (markRecord x0 x1 x2 x3 s).integ
    = s.integ ∧ (markRecord x0 x1 x2 x3 s).shed = s.shed ∧ (markRecord x0 x1 x2 x3 s).dmc = s.dmc ∧ (markRecord x0 x1
    x2 x3 s).lnk = s.lnk ∧ (markRecord x0 x1 x2 x3 s).rls = s.rls ∧ (markRecord x0 x1 x2 x3 s).yms = s.yms ∧
    (markRecord x0 x1 x2 x3 s).grm = s.grm ∧ (markRecord x0 x1 x2 x3 s).pdk = s.pdk ∧ (markRecord x0 x1 x2 x3 s).ldr =
    s.ldr ∧ (markRecord x0 x1 x2 x3 s).sec = s.sec ∧ (markRecord x0 x1 x2 x3 s).ptp = s.ptp ∧ (markRecord x0 x1 x2 x3
    s).dbg = s.dbg ∧ (markRecord x0 x1 x2 x3 s).pwr = s.pwr ∧ (markRecord x0 x1 x2 x3 s).ckpt = s.ckpt := by
  unfold markRecord; split <;> simp

@[simp] theorem actTrigger_frame (x0 x1 x2 x3 s) : (actTrigger x0 x1 x2 x3 s).pending = s.pending ∧ (actTrigger x0 x1
    x2 x3 s).clk = s.clk ∧ (actTrigger x0 x1 x2 x3 s).tck = s.tck ∧ (actTrigger x0 x1 x2 x3 s).arr = s.arr ∧
    (actTrigger x0 x1 x2 x3 s).exe = s.exe ∧ (actTrigger x0 x1 x2 x3 s).pen = s.pen ∧ (actTrigger x0 x1 x2 x3 s).integ
    = s.integ ∧ (actTrigger x0 x1 x2 x3 s).shed = s.shed ∧ (actTrigger x0 x1 x2 x3 s).dmc = s.dmc ∧ (actTrigger x0 x1
    x2 x3 s).lnk = s.lnk ∧ (actTrigger x0 x1 x2 x3 s).rls = s.rls ∧ (actTrigger x0 x1 x2 x3 s).yms = s.yms ∧
    (actTrigger x0 x1 x2 x3 s).grm = s.grm ∧ (actTrigger x0 x1 x2 x3 s).pdk = s.pdk ∧ (actTrigger x0 x1 x2 x3 s).ldr =
    s.ldr ∧ (actTrigger x0 x1 x2 x3 s).sec = s.sec ∧ (actTrigger x0 x1 x2 x3 s).ptp = s.ptp ∧ (actTrigger x0 x1 x2 x3
    s).dbg = s.dbg ∧ (actTrigger x0 x1 x2 x3 s).pwr = s.pwr ∧ (actTrigger x0 x1 x2 x3 s).ckpt = s.ckpt := by
  simp only [actTrigger]; (repeat' split) <;> simp_all

@[simp] theorem entryActions_frame (x0 x1 x2 x3 s) : (entryActions x0 x1 x2 x3 s).pending = s.pending ∧ (entryActions
    x0 x1 x2 x3 s).arr = s.arr ∧ (entryActions x0 x1 x2 x3 s).exe = s.exe ∧ (entryActions x0 x1 x2 x3 s).pen = s.pen ∧
    (entryActions x0 x1 x2 x3 s).integ = s.integ ∧ (entryActions x0 x1 x2 x3 s).shed = s.shed ∧ (entryActions x0 x1 x2
    x3 s).dmc = s.dmc ∧ (entryActions x0 x1 x2 x3 s).lnk = s.lnk ∧ (entryActions x0 x1 x2 x3 s).rls = s.rls ∧
    (entryActions x0 x1 x2 x3 s).grm = s.grm ∧ (entryActions x0 x1 x2 x3 s).pdk = s.pdk ∧ (entryActions x0 x1 x2 x3
    s).ldr = s.ldr ∧ (entryActions x0 x1 x2 x3 s).sec = s.sec ∧ (entryActions x0 x1 x2 x3 s).ptp = s.ptp ∧
    (entryActions x0 x1 x2 x3 s).dbg = s.dbg ∧ (entryActions x0 x1 x2 x3 s).pwr = s.pwr ∧ (entryActions x0 x1 x2 x3
    s).ckpt = s.ckpt := by
  simp only [entryActions]; (repeat' split) <;> simp_all

@[simp] theorem eventRecord_frame (x0 x1 x2 x3 x4 s) : (eventRecord x0 x1 x2 x3 x4 s).pending = s.pending ∧
    (eventRecord x0 x1 x2 x3 x4 s).clk = s.clk ∧ (eventRecord x0 x1 x2 x3 x4 s).tck = s.tck ∧ (eventRecord x0 x1 x2 x3
    x4 s).arr = s.arr ∧ (eventRecord x0 x1 x2 x3 x4 s).exe = s.exe ∧ (eventRecord x0 x1 x2 x3 x4 s).pen = s.pen ∧
    (eventRecord x0 x1 x2 x3 x4 s).integ = s.integ ∧ (eventRecord x0 x1 x2 x3 x4 s).shed = s.shed ∧ (eventRecord x0 x1
    x2 x3 x4 s).dmc = s.dmc ∧ (eventRecord x0 x1 x2 x3 x4 s).lnk = s.lnk ∧ (eventRecord x0 x1 x2 x3 x4 s).rls = s.rls
    ∧ (eventRecord x0 x1 x2 x3 x4 s).yms = s.yms ∧ (eventRecord x0 x1 x2 x3 x4 s).grm = s.grm ∧ (eventRecord x0 x1 x2
    x3 x4 s).pdk = s.pdk ∧ (eventRecord x0 x1 x2 x3 x4 s).ldr = s.ldr ∧ (eventRecord x0 x1 x2 x3 x4 s).sec = s.sec ∧
    (eventRecord x0 x1 x2 x3 x4 s).ptp = s.ptp ∧ (eventRecord x0 x1 x2 x3 x4 s).dbg = s.dbg ∧ (eventRecord x0 x1 x2 x3
    x4 s).pwr = s.pwr ∧ (eventRecord x0 x1 x2 x3 x4 s).ckpt = s.ckpt := by
  simp [eventRecord]

@[simp] theorem eventRecords_frame (x0 s) : (eventRecords x0 s).pending = s.pending ∧ (eventRecords x0 s).clk = s.clk
    ∧ (eventRecords x0 s).tck = s.tck ∧ (eventRecords x0 s).arr = s.arr ∧ (eventRecords x0 s).exe = s.exe ∧
    (eventRecords x0 s).pen = s.pen ∧ (eventRecords x0 s).integ = s.integ ∧ (eventRecords x0 s).shed = s.shed ∧
    (eventRecords x0 s).dmc = s.dmc ∧ (eventRecords x0 s).lnk = s.lnk ∧ (eventRecords x0 s).rls = s.rls ∧
    (eventRecords x0 s).yms = s.yms ∧ (eventRecords x0 s).grm = s.grm ∧ (eventRecords x0 s).pdk = s.pdk ∧
    (eventRecords x0 s).ldr = s.ldr ∧ (eventRecords x0 s).sec = s.sec ∧ (eventRecords x0 s).ptp = s.ptp ∧
    (eventRecords x0 s).dbg = s.dbg ∧ (eventRecords x0 s).pwr = s.pwr ∧ (eventRecords x0 s).ckpt = s.ckpt := by
  unfold eventRecords; split <;> simp

@[simp] theorem countAsserts_frame (s) : (countAsserts s).pending = s.pending ∧ (countAsserts s).clk = s.clk ∧
    (countAsserts s).tck = s.tck ∧ (countAsserts s).arr = s.arr ∧ (countAsserts s).exe = s.exe ∧ (countAsserts s).pen
    = s.pen ∧ (countAsserts s).integ = s.integ ∧ (countAsserts s).shed = s.shed ∧ (countAsserts s).dmc = s.dmc ∧
    (countAsserts s).lnk = s.lnk ∧ (countAsserts s).rls = s.rls ∧ (countAsserts s).yms = s.yms ∧ (countAsserts s).grm
    = s.grm ∧ (countAsserts s).pdk = s.pdk ∧ (countAsserts s).ldr = s.ldr ∧ (countAsserts s).sec = s.sec ∧
    (countAsserts s).trg = s.trg ∧ (countAsserts s).ptp = s.ptp ∧ (countAsserts s).dbg = s.dbg ∧ (countAsserts s).pwr
    = s.pwr ∧ (countAsserts s).ckpt = s.ckpt := by
  simp [countAsserts]

@[simp] theorem nextInterval_frame (s) : (nextInterval s).pending = s.pending ∧ (nextInterval s).regs = s.regs ∧
    (nextInterval s).clk = s.clk ∧ (nextInterval s).tck = s.tck ∧ (nextInterval s).arr = s.arr ∧ (nextInterval s).exe
    = s.exe ∧ (nextInterval s).integ = s.integ ∧ (nextInterval s).shed = s.shed ∧ (nextInterval s).dmc = s.dmc ∧
    (nextInterval s).lnk = s.lnk ∧ (nextInterval s).rls = s.rls ∧ (nextInterval s).yms = s.yms ∧ (nextInterval s).grm
    = s.grm ∧ (nextInterval s).pdk = s.pdk ∧ (nextInterval s).ldr = s.ldr ∧ (nextInterval s).sec = s.sec ∧
    (nextInterval s).ptp = s.ptp ∧ (nextInterval s).dbg = s.dbg ∧ (nextInterval s).pwr = s.pwr ∧ (nextInterval s).hst
    = s.hst ∧ (nextInterval s).ckpt = s.ckpt := by
  simp [nextInterval]

@[simp] theorem sequence_frame (x0 x1 s) : (sequence x0 x1 s).1.pending = s.pending ∧ (sequence x0 x1 s).1.arr = s.arr
    ∧ (sequence x0 x1 s).1.exe = s.exe ∧ (sequence x0 x1 s).1.pen = s.pen ∧ (sequence x0 x1 s).1.integ = s.integ ∧
    (sequence x0 x1 s).1.shed = s.shed ∧ (sequence x0 x1 s).1.dmc = s.dmc ∧ (sequence x0 x1 s).1.lnk = s.lnk ∧
    (sequence x0 x1 s).1.rls = s.rls ∧ (sequence x0 x1 s).1.grm = s.grm ∧ (sequence x0 x1 s).1.pdk = s.pdk ∧ (sequence
    x0 x1 s).1.ldr = s.ldr ∧ (sequence x0 x1 s).1.sec = s.sec ∧ (sequence x0 x1 s).1.ptp = s.ptp ∧ (sequence x0 x1
    s).1.dbg = s.dbg ∧ (sequence x0 x1 s).1.pwr = s.pwr ∧ (sequence x0 x1 s).1.ckpt = s.ckpt := by
  simp only [sequence]; (repeat' split) <;> simp_all

@[simp] theorem lineBreak_frame (x0 x1 s) : (lineBreak x0 x1 s).pending = s.pending ∧ (lineBreak x0 x1 s).regs =
    s.regs ∧ (lineBreak x0 x1 s).clk = s.clk ∧ (lineBreak x0 x1 s).arr = s.arr ∧ (lineBreak x0 x1 s).exe = s.exe ∧
    (lineBreak x0 x1 s).pen = s.pen ∧ (lineBreak x0 x1 s).integ = s.integ ∧ (lineBreak x0 x1 s).shed = s.shed ∧
    (lineBreak x0 x1 s).dmc = s.dmc ∧ (lineBreak x0 x1 s).lnk = s.lnk ∧ (lineBreak x0 x1 s).rls = s.rls ∧ (lineBreak
    x0 x1 s).yms = s.yms ∧ (lineBreak x0 x1 s).grm = s.grm ∧ (lineBreak x0 x1 s).pdk = s.pdk ∧ (lineBreak x0 x1 s).ldr
    = s.ldr ∧ (lineBreak x0 x1 s).sec = s.sec ∧ (lineBreak x0 x1 s).trg = s.trg ∧ (lineBreak x0 x1 s).ptp = s.ptp ∧
    (lineBreak x0 x1 s).dbg = s.dbg ∧ (lineBreak x0 x1 s).pwr = s.pwr ∧ (lineBreak x0 x1 s).hst = s.hst ∧ (lineBreak
    x0 x1 s).ckpt = s.ckpt := by
  unfold lineBreak; split <;> simp

@[simp] theorem acqRequests_frame (x0 s) : (acqRequests x0 s).pending = s.pending ∧ (acqRequests x0 s).regs = s.regs ∧
    (acqRequests x0 s).clk = s.clk ∧ (acqRequests x0 s).tck = s.tck ∧ (acqRequests x0 s).arr = s.arr ∧ (acqRequests x0
    s).exe = s.exe ∧ (acqRequests x0 s).pen = s.pen ∧ (acqRequests x0 s).integ = s.integ ∧ (acqRequests x0 s).shed =
    s.shed ∧ (acqRequests x0 s).dmc = s.dmc ∧ (acqRequests x0 s).lnk = s.lnk ∧ (acqRequests x0 s).rls = s.rls ∧
    (acqRequests x0 s).yms = s.yms ∧ (acqRequests x0 s).grm = s.grm ∧ (acqRequests x0 s).pdk = s.pdk ∧ (acqRequests x0
    s).ldr = s.ldr ∧ (acqRequests x0 s).sec = s.sec ∧ (acqRequests x0 s).ptp = s.ptp ∧ (acqRequests x0 s).dbg = s.dbg
    ∧ (acqRequests x0 s).pwr = s.pwr ∧ (acqRequests x0 s).hst = s.hst ∧ (acqRequests x0 s).ckpt = s.ckpt := by
  simp only [acqRequests]; (repeat' split) <;> simp_all

@[simp] theorem doEvaluation_frame (s) : (doEvaluation s).pending = s.pending ∧ (doEvaluation s).exe = s.exe ∧
    (doEvaluation s).ldr = s.ldr ∧ (doEvaluation s).sec = s.sec ∧ (doEvaluation s).ckpt = s.ckpt := by
  simp [doEvaluation]

@[simp] theorem doTrigInEdge_frame (x0 x1 s) : (doTrigInEdge x0 x1 s).pending = s.pending ∧ (doTrigInEdge x0 x1
    s).regs = s.regs ∧ (doTrigInEdge x0 x1 s).clk = s.clk ∧ (doTrigInEdge x0 x1 s).tck = s.tck ∧ (doTrigInEdge x0 x1
    s).arr = s.arr ∧ (doTrigInEdge x0 x1 s).exe = s.exe ∧ (doTrigInEdge x0 x1 s).pen = s.pen ∧ (doTrigInEdge x0 x1
    s).integ = s.integ ∧ (doTrigInEdge x0 x1 s).shed = s.shed ∧ (doTrigInEdge x0 x1 s).dmc = s.dmc ∧ (doTrigInEdge x0
    x1 s).lnk = s.lnk ∧ (doTrigInEdge x0 x1 s).rls = s.rls ∧ (doTrigInEdge x0 x1 s).yms = s.yms ∧ (doTrigInEdge x0 x1
    s).grm = s.grm ∧ (doTrigInEdge x0 x1 s).pdk = s.pdk ∧ (doTrigInEdge x0 x1 s).ldr = s.ldr ∧ (doTrigInEdge x0 x1
    s).sec = s.sec ∧ (doTrigInEdge x0 x1 s).ptp = s.ptp ∧ (doTrigInEdge x0 x1 s).dbg = s.dbg ∧ (doTrigInEdge x0 x1
    s).pwr = s.pwr ∧ (doTrigInEdge x0 x1 s).hst = s.hst ∧ (doTrigInEdge x0 x1 s).ckpt = s.ckpt := by
  simp [doTrigInEdge]

@[simp] theorem doXtrgEdge_frame (x0 s) : (doXtrgEdge x0 s).pending = s.pending ∧ (doXtrgEdge x0 s).clk = s.clk ∧
    (doXtrgEdge x0 s).tck = s.tck ∧ (doXtrgEdge x0 s).arr = s.arr ∧ (doXtrgEdge x0 s).exe = s.exe ∧ (doXtrgEdge x0
    s).pen = s.pen ∧ (doXtrgEdge x0 s).integ = s.integ ∧ (doXtrgEdge x0 s).shed = s.shed ∧ (doXtrgEdge x0 s).dmc =
    s.dmc ∧ (doXtrgEdge x0 s).lnk = s.lnk ∧ (doXtrgEdge x0 s).rls = s.rls ∧ (doXtrgEdge x0 s).yms = s.yms ∧
    (doXtrgEdge x0 s).grm = s.grm ∧ (doXtrgEdge x0 s).pdk = s.pdk ∧ (doXtrgEdge x0 s).ldr = s.ldr ∧ (doXtrgEdge x0
    s).sec = s.sec ∧ (doXtrgEdge x0 s).ptp = s.ptp ∧ (doXtrgEdge x0 s).dbg = s.dbg ∧ (doXtrgEdge x0 s).pwr = s.pwr ∧
    (doXtrgEdge x0 s).hst = s.hst ∧ (doXtrgEdge x0 s).ckpt = s.ckpt := by
  simp [doXtrgEdge]

@[simp] theorem calWrite_frame (x0 x1 s) : (calWrite x0 x1 s).pending = s.pending ∧ (calWrite x0 x1 s).clk = s.clk ∧
    (calWrite x0 x1 s).tck = s.tck ∧ (calWrite x0 x1 s).arr = s.arr ∧ (calWrite x0 x1 s).exe = s.exe ∧ (calWrite x0 x1
    s).pen = s.pen ∧ (calWrite x0 x1 s).integ = s.integ ∧ (calWrite x0 x1 s).shed = s.shed ∧ (calWrite x0 x1 s).dmc =
    s.dmc ∧ (calWrite x0 x1 s).lnk = s.lnk ∧ (calWrite x0 x1 s).rls = s.rls ∧ (calWrite x0 x1 s).yms = s.yms ∧
    (calWrite x0 x1 s).grm = s.grm ∧ (calWrite x0 x1 s).pdk = s.pdk ∧ (calWrite x0 x1 s).ldr = s.ldr ∧ (calWrite x0 x1
    s).sec = s.sec ∧ (calWrite x0 x1 s).ptp = s.ptp ∧ (calWrite x0 x1 s).hst = s.hst ∧ (calWrite x0 x1 s).ckpt =
    s.ckpt := by
  simp only [calWrite]; (repeat' split) <;> simp_all

@[simp] theorem doTrgCal_frame (x0 x1 s) : (doTrgCal x0 x1 s).pending = s.pending ∧ (doTrgCal x0 x1 s).tck = s.tck ∧
    (doTrgCal x0 x1 s).exe = s.exe ∧ (doTrgCal x0 x1 s).yms = s.yms ∧ (doTrgCal x0 x1 s).ldr = s.ldr ∧ (doTrgCal x0 x1
    s).sec = s.sec ∧ (doTrgCal x0 x1 s).ckpt = s.ckpt := by
  simp [doTrgCal]

@[simp] theorem doCalDone_frame (x0 s) : (doCalDone x0 s).pending = s.pending ∧ (doCalDone x0 s).clk = s.clk ∧
    (doCalDone x0 s).tck = s.tck ∧ (doCalDone x0 s).arr = s.arr ∧ (doCalDone x0 s).exe = s.exe ∧ (doCalDone x0 s).pen
    = s.pen ∧ (doCalDone x0 s).integ = s.integ ∧ (doCalDone x0 s).shed = s.shed ∧ (doCalDone x0 s).dmc = s.dmc ∧
    (doCalDone x0 s).lnk = s.lnk ∧ (doCalDone x0 s).rls = s.rls ∧ (doCalDone x0 s).yms = s.yms ∧ (doCalDone x0 s).grm
    = s.grm ∧ (doCalDone x0 s).pdk = s.pdk ∧ (doCalDone x0 s).ldr = s.ldr ∧ (doCalDone x0 s).sec = s.sec ∧ (doCalDone
    x0 s).ptp = s.ptp ∧ (doCalDone x0 s).dbg = s.dbg ∧ (doCalDone x0 s).pwr = s.pwr ∧ (doCalDone x0 s).ckpt = s.ckpt
    := by
  simp [doCalDone]

@[simp] theorem testWrite_frame (x0 x1 s) : (testWrite x0 x1 s).pending = s.pending ∧ (testWrite x0 x1 s).clk = s.clk
    ∧ (testWrite x0 x1 s).tck = s.tck ∧ (testWrite x0 x1 s).arr = s.arr ∧ (testWrite x0 x1 s).exe = s.exe ∧ (testWrite
    x0 x1 s).pen = s.pen ∧ (testWrite x0 x1 s).integ = s.integ ∧ (testWrite x0 x1 s).shed = s.shed ∧ (testWrite x0 x1
    s).dmc = s.dmc ∧ (testWrite x0 x1 s).lnk = s.lnk ∧ (testWrite x0 x1 s).rls = s.rls ∧ (testWrite x0 x1 s).yms =
    s.yms ∧ (testWrite x0 x1 s).grm = s.grm ∧ (testWrite x0 x1 s).pdk = s.pdk ∧ (testWrite x0 x1 s).ldr = s.ldr ∧
    (testWrite x0 x1 s).sec = s.sec ∧ (testWrite x0 x1 s).ptp = s.ptp ∧ (testWrite x0 x1 s).hst = s.hst ∧ (testWrite
    x0 x1 s).ckpt = s.ckpt := by
  simp only [testWrite]; (repeat' split) <;> simp_all

@[simp] theorem doXtrgTest_frame (x0 x1 s) : (doXtrgTest x0 x1 s).pending = s.pending ∧ (doXtrgTest x0 x1 s).tck =
    s.tck ∧ (doXtrgTest x0 x1 s).exe = s.exe ∧ (doXtrgTest x0 x1 s).yms = s.yms ∧ (doXtrgTest x0 x1 s).ldr = s.ldr ∧
    (doXtrgTest x0 x1 s).sec = s.sec ∧ (doXtrgTest x0 x1 s).ckpt = s.ckpt := by
  simp [doXtrgTest]

@[simp] theorem seqResetNow_frame (s) : (seqResetNow s).pending = s.pending ∧ (seqResetNow s).regs = s.regs ∧
    (seqResetNow s).clk = s.clk ∧ (seqResetNow s).tck = s.tck ∧ (seqResetNow s).arr = s.arr ∧ (seqResetNow s).exe =
    s.exe ∧ (seqResetNow s).pen = s.pen ∧ (seqResetNow s).integ = s.integ ∧ (seqResetNow s).shed = s.shed ∧
    (seqResetNow s).dmc = s.dmc ∧ (seqResetNow s).lnk = s.lnk ∧ (seqResetNow s).rls = s.rls ∧ (seqResetNow s).yms =
    s.yms ∧ (seqResetNow s).grm = s.grm ∧ (seqResetNow s).pdk = s.pdk ∧ (seqResetNow s).ldr = s.ldr ∧ (seqResetNow
    s).sec = s.sec ∧ (seqResetNow s).ptp = s.ptp ∧ (seqResetNow s).dbg = s.dbg ∧ (seqResetNow s).pwr = s.pwr ∧
    (seqResetNow s).hst = s.hst ∧ (seqResetNow s).ckpt = s.ckpt := by
  simp [seqResetNow]

@[simp] theorem trgCtrlWrite_frame (x0 x1 s) : (trgCtrlWrite x0 x1 s).pending = s.pending ∧ (trgCtrlWrite x0 x1 s).clk
    = s.clk ∧ (trgCtrlWrite x0 x1 s).tck = s.tck ∧ (trgCtrlWrite x0 x1 s).arr = s.arr ∧ (trgCtrlWrite x0 x1 s).exe =
    s.exe ∧ (trgCtrlWrite x0 x1 s).integ = s.integ ∧ (trgCtrlWrite x0 x1 s).shed = s.shed ∧ (trgCtrlWrite x0 x1 s).dmc
    = s.dmc ∧ (trgCtrlWrite x0 x1 s).lnk = s.lnk ∧ (trgCtrlWrite x0 x1 s).rls = s.rls ∧ (trgCtrlWrite x0 x1 s).yms =
    s.yms ∧ (trgCtrlWrite x0 x1 s).grm = s.grm ∧ (trgCtrlWrite x0 x1 s).pdk = s.pdk ∧ (trgCtrlWrite x0 x1 s).ldr =
    s.ldr ∧ (trgCtrlWrite x0 x1 s).sec = s.sec ∧ (trgCtrlWrite x0 x1 s).ptp = s.ptp ∧ (trgCtrlWrite x0 x1 s).hst =
    s.hst ∧ (trgCtrlWrite x0 x1 s).ckpt = s.ckpt := by
  simp only [trgCtrlWrite]; (repeat' split) <;> simp_all

@[simp] theorem doSeqReset_frame (x0 s) : (doSeqReset x0 s).pending = s.pending ∧ (doSeqReset x0 s).tck = s.tck ∧
    (doSeqReset x0 s).exe = s.exe ∧ (doSeqReset x0 s).yms = s.yms ∧ (doSeqReset x0 s).ldr = s.ldr ∧ (doSeqReset x0
    s).sec = s.sec ∧ (doSeqReset x0 s).ckpt = s.ckpt := by
  simp [doSeqReset]

@[simp] theorem acqCtrlWrite_frame (x0 x1 s) : (acqCtrlWrite x0 x1 s).pending = s.pending ∧ (acqCtrlWrite x0 x1 s).clk
    = s.clk ∧ (acqCtrlWrite x0 x1 s).tck = s.tck ∧ (acqCtrlWrite x0 x1 s).arr = s.arr ∧ (acqCtrlWrite x0 x1 s).exe =
    s.exe ∧ (acqCtrlWrite x0 x1 s).pen = s.pen ∧ (acqCtrlWrite x0 x1 s).integ = s.integ ∧ (acqCtrlWrite x0 x1 s).shed
    = s.shed ∧ (acqCtrlWrite x0 x1 s).dmc = s.dmc ∧ (acqCtrlWrite x0 x1 s).lnk = s.lnk ∧ (acqCtrlWrite x0 x1 s).rls =
    s.rls ∧ (acqCtrlWrite x0 x1 s).yms = s.yms ∧ (acqCtrlWrite x0 x1 s).grm = s.grm ∧ (acqCtrlWrite x0 x1 s).pdk =
    s.pdk ∧ (acqCtrlWrite x0 x1 s).ldr = s.ldr ∧ (acqCtrlWrite x0 x1 s).sec = s.sec ∧ (acqCtrlWrite x0 x1 s).ptp =
    s.ptp ∧ (acqCtrlWrite x0 x1 s).hst = s.hst ∧ (acqCtrlWrite x0 x1 s).ckpt = s.ckpt := by
  simp [acqCtrlWrite]

@[simp] theorem doAcqCtrlStart_frame (x0 x1 s) : (doAcqCtrlStart x0 x1 s).pending = s.pending ∧ (doAcqCtrlStart x0 x1
    s).tck = s.tck ∧ (doAcqCtrlStart x0 x1 s).exe = s.exe ∧ (doAcqCtrlStart x0 x1 s).yms = s.yms ∧ (doAcqCtrlStart x0
    x1 s).ldr = s.ldr ∧ (doAcqCtrlStart x0 x1 s).sec = s.sec ∧ (doAcqCtrlStart x0 x1 s).ckpt = s.ckpt := by
  simp [doAcqCtrlStart]

@[simp] theorem doAcqCtrlStop_frame (x0 x1 s) : (doAcqCtrlStop x0 x1 s).pending = s.pending ∧ (doAcqCtrlStop x0 x1
    s).tck = s.tck ∧ (doAcqCtrlStop x0 x1 s).exe = s.exe ∧ (doAcqCtrlStop x0 x1 s).yms = s.yms ∧ (doAcqCtrlStop x0 x1
    s).ldr = s.ldr ∧ (doAcqCtrlStop x0 x1 s).sec = s.sec ∧ (doAcqCtrlStop x0 x1 s).ckpt = s.ckpt := by
  simp [doAcqCtrlStop]

/-! ### Ptp -/

@[simp] theorem setInst_frame (s x1 x2) : (setInst s x1 x2).pending = s.pending ∧ (setInst s x1 x2).regs = s.regs ∧
    (setInst s x1 x2).clk = s.clk ∧ (setInst s x1 x2).tck = s.tck ∧ (setInst s x1 x2).arr = s.arr ∧ (setInst s x1
    x2).exe = s.exe ∧ (setInst s x1 x2).pen = s.pen ∧ (setInst s x1 x2).integ = s.integ ∧ (setInst s x1 x2).shed =
    s.shed ∧ (setInst s x1 x2).dmc = s.dmc ∧ (setInst s x1 x2).lnk = s.lnk ∧ (setInst s x1 x2).rls = s.rls ∧ (setInst
    s x1 x2).yms = s.yms ∧ (setInst s x1 x2).grm = s.grm ∧ (setInst s x1 x2).pdk = s.pdk ∧ (setInst s x1 x2).ldr =
    s.ldr ∧ (setInst s x1 x2).sec = s.sec ∧ (setInst s x1 x2).trg = s.trg ∧ (setInst s x1 x2).dbg = s.dbg ∧ (setInst s
    x1 x2).pwr = s.pwr ∧ (setInst s x1 x2).hst = s.hst ∧ (setInst s x1 x2).ckpt = s.ckpt := by
  simp [setInst]

@[simp] theorem ptpRefuse_frame (x0 x1 s) : (ptpRefuse x0 x1 s).pending = s.pending ∧ (ptpRefuse x0 x1 s).clk = s.clk
    ∧ (ptpRefuse x0 x1 s).tck = s.tck ∧ (ptpRefuse x0 x1 s).arr = s.arr ∧ (ptpRefuse x0 x1 s).exe = s.exe ∧ (ptpRefuse
    x0 x1 s).pen = s.pen ∧ (ptpRefuse x0 x1 s).integ = s.integ ∧ (ptpRefuse x0 x1 s).shed = s.shed ∧ (ptpRefuse x0 x1
    s).dmc = s.dmc ∧ (ptpRefuse x0 x1 s).lnk = s.lnk ∧ (ptpRefuse x0 x1 s).rls = s.rls ∧ (ptpRefuse x0 x1 s).yms =
    s.yms ∧ (ptpRefuse x0 x1 s).grm = s.grm ∧ (ptpRefuse x0 x1 s).pdk = s.pdk ∧ (ptpRefuse x0 x1 s).ldr = s.ldr ∧
    (ptpRefuse x0 x1 s).sec = s.sec ∧ (ptpRefuse x0 x1 s).trg = s.trg ∧ (ptpRefuse x0 x1 s).dbg = s.dbg ∧ (ptpRefuse
    x0 x1 s).pwr = s.pwr ∧ (ptpRefuse x0 x1 s).ckpt = s.ckpt := by
  simp [ptpRefuse]

@[simp] theorem enterHoldover_frame (s) : (enterHoldover s).pending = s.pending ∧ (enterHoldover s).clk = s.clk ∧
    (enterHoldover s).tck = s.tck ∧ (enterHoldover s).arr = s.arr ∧ (enterHoldover s).exe = s.exe ∧ (enterHoldover
    s).pen = s.pen ∧ (enterHoldover s).integ = s.integ ∧ (enterHoldover s).shed = s.shed ∧ (enterHoldover s).dmc =
    s.dmc ∧ (enterHoldover s).lnk = s.lnk ∧ (enterHoldover s).rls = s.rls ∧ (enterHoldover s).yms = s.yms ∧
    (enterHoldover s).grm = s.grm ∧ (enterHoldover s).pdk = s.pdk ∧ (enterHoldover s).ldr = s.ldr ∧ (enterHoldover
    s).sec = s.sec ∧ (enterHoldover s).trg = s.trg ∧ (enterHoldover s).dbg = s.dbg ∧ (enterHoldover s).pwr = s.pwr ∧
    (enterHoldover s).ckpt = s.ckpt := by
  simp [enterHoldover]

@[simp] theorem servoExpire_frame (x0 s) : (servoExpire x0 s).pending = s.pending ∧ (servoExpire x0 s).clk = s.clk ∧
    (servoExpire x0 s).tck = s.tck ∧ (servoExpire x0 s).arr = s.arr ∧ (servoExpire x0 s).exe = s.exe ∧ (servoExpire x0
    s).pen = s.pen ∧ (servoExpire x0 s).integ = s.integ ∧ (servoExpire x0 s).shed = s.shed ∧ (servoExpire x0 s).dmc =
    s.dmc ∧ (servoExpire x0 s).lnk = s.lnk ∧ (servoExpire x0 s).rls = s.rls ∧ (servoExpire x0 s).yms = s.yms ∧
    (servoExpire x0 s).grm = s.grm ∧ (servoExpire x0 s).pdk = s.pdk ∧ (servoExpire x0 s).ldr = s.ldr ∧ (servoExpire x0
    s).sec = s.sec ∧ (servoExpire x0 s).trg = s.trg ∧ (servoExpire x0 s).dbg = s.dbg ∧ (servoExpire x0 s).pwr = s.pwr
    ∧ (servoExpire x0 s).ckpt = s.ckpt := by
  unfold servoExpire; split <;> simp

@[simp] theorem judged_frame (x0 s) : (judged x0 s).pending = s.pending ∧ (judged x0 s).clk = s.clk ∧ (judged x0
    s).tck = s.tck ∧ (judged x0 s).arr = s.arr ∧ (judged x0 s).exe = s.exe ∧ (judged x0 s).pen = s.pen ∧ (judged x0
    s).integ = s.integ ∧ (judged x0 s).shed = s.shed ∧ (judged x0 s).dmc = s.dmc ∧ (judged x0 s).lnk = s.lnk ∧ (judged
    x0 s).rls = s.rls ∧ (judged x0 s).yms = s.yms ∧ (judged x0 s).grm = s.grm ∧ (judged x0 s).pdk = s.pdk ∧ (judged x0
    s).ldr = s.ldr ∧ (judged x0 s).sec = s.sec ∧ (judged x0 s).trg = s.trg ∧ (judged x0 s).dbg = s.dbg ∧ (judged x0
    s).pwr = s.pwr ∧ (judged x0 s).ckpt = s.ckpt := by
  unfold judged; split <;> simp

@[simp] theorem servoRestart_frame (x0 s) : (servoRestart x0 s).pending = s.pending ∧ (servoRestart x0 s).regs =
    s.regs ∧ (servoRestart x0 s).clk = s.clk ∧ (servoRestart x0 s).tck = s.tck ∧ (servoRestart x0 s).arr = s.arr ∧
    (servoRestart x0 s).exe = s.exe ∧ (servoRestart x0 s).pen = s.pen ∧ (servoRestart x0 s).integ = s.integ ∧
    (servoRestart x0 s).shed = s.shed ∧ (servoRestart x0 s).dmc = s.dmc ∧ (servoRestart x0 s).lnk = s.lnk ∧
    (servoRestart x0 s).rls = s.rls ∧ (servoRestart x0 s).yms = s.yms ∧ (servoRestart x0 s).grm = s.grm ∧
    (servoRestart x0 s).pdk = s.pdk ∧ (servoRestart x0 s).ldr = s.ldr ∧ (servoRestart x0 s).sec = s.sec ∧
    (servoRestart x0 s).trg = s.trg ∧ (servoRestart x0 s).dbg = s.dbg ∧ (servoRestart x0 s).pwr = s.pwr ∧
    (servoRestart x0 s).hst = s.hst ∧ (servoRestart x0 s).ckpt = s.ckpt := by
  simp [servoRestart]

@[simp] theorem ptpAccept_frame (x0 x1 s) : (ptpAccept x0 x1 s).pending = s.pending ∧ (ptpAccept x0 x1 s).regs =
    s.regs ∧ (ptpAccept x0 x1 s).clk = s.clk ∧ (ptpAccept x0 x1 s).tck = s.tck ∧ (ptpAccept x0 x1 s).arr = s.arr ∧
    (ptpAccept x0 x1 s).exe = s.exe ∧ (ptpAccept x0 x1 s).pen = s.pen ∧ (ptpAccept x0 x1 s).integ = s.integ ∧
    (ptpAccept x0 x1 s).shed = s.shed ∧ (ptpAccept x0 x1 s).dmc = s.dmc ∧ (ptpAccept x0 x1 s).lnk = s.lnk ∧ (ptpAccept
    x0 x1 s).rls = s.rls ∧ (ptpAccept x0 x1 s).yms = s.yms ∧ (ptpAccept x0 x1 s).grm = s.grm ∧ (ptpAccept x0 x1 s).pdk
    = s.pdk ∧ (ptpAccept x0 x1 s).ldr = s.ldr ∧ (ptpAccept x0 x1 s).sec = s.sec ∧ (ptpAccept x0 x1 s).trg = s.trg ∧
    (ptpAccept x0 x1 s).dbg = s.dbg ∧ (ptpAccept x0 x1 s).pwr = s.pwr ∧ (ptpAccept x0 x1 s).hst = s.hst ∧ (ptpAccept
    x0 x1 s).ckpt = s.ckpt := by
  simp [ptpAccept]

@[simp] theorem ptpSetCmd_frame (x0 s) : (ptpSetCmd x0 s).pending = s.pending ∧ (ptpSetCmd x0 s).clk = s.clk ∧
    (ptpSetCmd x0 s).tck = s.tck ∧ (ptpSetCmd x0 s).arr = s.arr ∧ (ptpSetCmd x0 s).exe = s.exe ∧ (ptpSetCmd x0 s).pen
    = s.pen ∧ (ptpSetCmd x0 s).integ = s.integ ∧ (ptpSetCmd x0 s).shed = s.shed ∧ (ptpSetCmd x0 s).dmc = s.dmc ∧
    (ptpSetCmd x0 s).lnk = s.lnk ∧ (ptpSetCmd x0 s).rls = s.rls ∧ (ptpSetCmd x0 s).yms = s.yms ∧ (ptpSetCmd x0 s).grm
    = s.grm ∧ (ptpSetCmd x0 s).pdk = s.pdk ∧ (ptpSetCmd x0 s).ldr = s.ldr ∧ (ptpSetCmd x0 s).sec = s.sec ∧ (ptpSetCmd
    x0 s).trg = s.trg ∧ (ptpSetCmd x0 s).dbg = s.dbg ∧ (ptpSetCmd x0 s).pwr = s.pwr ∧ (ptpSetCmd x0 s).ckpt = s.ckpt
    := by
  unfold ptpSetCmd; (repeat' split) <;> simp_all

@[simp] theorem ptpStepCmd_frame (x0 s) : (ptpStepCmd x0 s).pending = s.pending ∧ (ptpStepCmd x0 s).clk = s.clk ∧
    (ptpStepCmd x0 s).tck = s.tck ∧ (ptpStepCmd x0 s).arr = s.arr ∧ (ptpStepCmd x0 s).exe = s.exe ∧ (ptpStepCmd x0
    s).pen = s.pen ∧ (ptpStepCmd x0 s).integ = s.integ ∧ (ptpStepCmd x0 s).shed = s.shed ∧ (ptpStepCmd x0 s).dmc =
    s.dmc ∧ (ptpStepCmd x0 s).lnk = s.lnk ∧ (ptpStepCmd x0 s).rls = s.rls ∧ (ptpStepCmd x0 s).yms = s.yms ∧
    (ptpStepCmd x0 s).grm = s.grm ∧ (ptpStepCmd x0 s).pdk = s.pdk ∧ (ptpStepCmd x0 s).ldr = s.ldr ∧ (ptpStepCmd x0
    s).sec = s.sec ∧ (ptpStepCmd x0 s).trg = s.trg ∧ (ptpStepCmd x0 s).dbg = s.dbg ∧ (ptpStepCmd x0 s).pwr = s.pwr ∧
    (ptpStepCmd x0 s).ckpt = s.ckpt := by
  simp only [ptpStepCmd]; (repeat' split) <;> simp_all

@[simp] theorem ptpHoldCmd_frame (x0 s) : (ptpHoldCmd x0 s).pending = s.pending ∧ (ptpHoldCmd x0 s).clk = s.clk ∧
    (ptpHoldCmd x0 s).tck = s.tck ∧ (ptpHoldCmd x0 s).arr = s.arr ∧ (ptpHoldCmd x0 s).exe = s.exe ∧ (ptpHoldCmd x0
    s).pen = s.pen ∧ (ptpHoldCmd x0 s).integ = s.integ ∧ (ptpHoldCmd x0 s).shed = s.shed ∧ (ptpHoldCmd x0 s).dmc =
    s.dmc ∧ (ptpHoldCmd x0 s).lnk = s.lnk ∧ (ptpHoldCmd x0 s).rls = s.rls ∧ (ptpHoldCmd x0 s).yms = s.yms ∧
    (ptpHoldCmd x0 s).grm = s.grm ∧ (ptpHoldCmd x0 s).pdk = s.pdk ∧ (ptpHoldCmd x0 s).ldr = s.ldr ∧ (ptpHoldCmd x0
    s).sec = s.sec ∧ (ptpHoldCmd x0 s).trg = s.trg ∧ (ptpHoldCmd x0 s).dbg = s.dbg ∧ (ptpHoldCmd x0 s).pwr = s.pwr ∧
    (ptpHoldCmd x0 s).ckpt = s.ckpt := by
  unfold ptpHoldCmd; split <;> simp

@[simp] theorem ptpResumeCmd_frame (x0 s) : (ptpResumeCmd x0 s).pending = s.pending ∧ (ptpResumeCmd x0 s).regs =
    s.regs ∧ (ptpResumeCmd x0 s).clk = s.clk ∧ (ptpResumeCmd x0 s).tck = s.tck ∧ (ptpResumeCmd x0 s).arr = s.arr ∧
    (ptpResumeCmd x0 s).exe = s.exe ∧ (ptpResumeCmd x0 s).pen = s.pen ∧ (ptpResumeCmd x0 s).integ = s.integ ∧
    (ptpResumeCmd x0 s).shed = s.shed ∧ (ptpResumeCmd x0 s).dmc = s.dmc ∧ (ptpResumeCmd x0 s).lnk = s.lnk ∧
    (ptpResumeCmd x0 s).rls = s.rls ∧ (ptpResumeCmd x0 s).yms = s.yms ∧ (ptpResumeCmd x0 s).grm = s.grm ∧
    (ptpResumeCmd x0 s).pdk = s.pdk ∧ (ptpResumeCmd x0 s).ldr = s.ldr ∧ (ptpResumeCmd x0 s).sec = s.sec ∧
    (ptpResumeCmd x0 s).trg = s.trg ∧ (ptpResumeCmd x0 s).dbg = s.dbg ∧ (ptpResumeCmd x0 s).pwr = s.pwr ∧
    (ptpResumeCmd x0 s).hst = s.hst ∧ (ptpResumeCmd x0 s).ckpt = s.ckpt := by
  unfold ptpResumeCmd; split <;> simp

@[simp] theorem ptpCmdWrite_frame (x0 x1 s) : (ptpCmdWrite x0 x1 s).pending = s.pending ∧ (ptpCmdWrite x0 x1 s).clk =
    s.clk ∧ (ptpCmdWrite x0 x1 s).tck = s.tck ∧ (ptpCmdWrite x0 x1 s).arr = s.arr ∧ (ptpCmdWrite x0 x1 s).exe = s.exe
    ∧ (ptpCmdWrite x0 x1 s).pen = s.pen ∧ (ptpCmdWrite x0 x1 s).integ = s.integ ∧ (ptpCmdWrite x0 x1 s).shed = s.shed
    ∧ (ptpCmdWrite x0 x1 s).dmc = s.dmc ∧ (ptpCmdWrite x0 x1 s).lnk = s.lnk ∧ (ptpCmdWrite x0 x1 s).rls = s.rls ∧
    (ptpCmdWrite x0 x1 s).yms = s.yms ∧ (ptpCmdWrite x0 x1 s).grm = s.grm ∧ (ptpCmdWrite x0 x1 s).pdk = s.pdk ∧
    (ptpCmdWrite x0 x1 s).ldr = s.ldr ∧ (ptpCmdWrite x0 x1 s).sec = s.sec ∧ (ptpCmdWrite x0 x1 s).trg = s.trg ∧
    (ptpCmdWrite x0 x1 s).dbg = s.dbg ∧ (ptpCmdWrite x0 x1 s).pwr = s.pwr ∧ (ptpCmdWrite x0 x1 s).ckpt = s.ckpt := by
  simp only [ptpCmdWrite]; (repeat' split) <;> simp_all

@[simp] theorem doPtpSet_frame (x0 x1 s) : (doPtpSet x0 x1 s).pending = s.pending ∧ (doPtpSet x0 x1 s).tck = s.tck ∧
    (doPtpSet x0 x1 s).exe = s.exe ∧ (doPtpSet x0 x1 s).yms = s.yms ∧ (doPtpSet x0 x1 s).ldr = s.ldr ∧ (doPtpSet x0 x1
    s).sec = s.sec ∧ (doPtpSet x0 x1 s).ckpt = s.ckpt := by
  simp [doPtpSet]

@[simp] theorem doPtpStep_frame (x0 x1 s) : (doPtpStep x0 x1 s).pending = s.pending ∧ (doPtpStep x0 x1 s).tck = s.tck
    ∧ (doPtpStep x0 x1 s).exe = s.exe ∧ (doPtpStep x0 x1 s).yms = s.yms ∧ (doPtpStep x0 x1 s).ldr = s.ldr ∧ (doPtpStep
    x0 x1 s).sec = s.sec ∧ (doPtpStep x0 x1 s).ckpt = s.ckpt := by
  simp [doPtpStep]

@[simp] theorem doPtpHoldover_frame (x0 x1 s) : (doPtpHoldover x0 x1 s).pending = s.pending ∧ (doPtpHoldover x0 x1
    s).tck = s.tck ∧ (doPtpHoldover x0 x1 s).exe = s.exe ∧ (doPtpHoldover x0 x1 s).yms = s.yms ∧ (doPtpHoldover x0 x1
    s).ldr = s.ldr ∧ (doPtpHoldover x0 x1 s).sec = s.sec ∧ (doPtpHoldover x0 x1 s).ckpt = s.ckpt := by
  simp [doPtpHoldover]

@[simp] theorem doPtpResume_frame (x0 x1 s) : (doPtpResume x0 x1 s).pending = s.pending ∧ (doPtpResume x0 x1 s).tck =
    s.tck ∧ (doPtpResume x0 x1 s).exe = s.exe ∧ (doPtpResume x0 x1 s).yms = s.yms ∧ (doPtpResume x0 x1 s).ldr = s.ldr
    ∧ (doPtpResume x0 x1 s).sec = s.sec ∧ (doPtpResume x0 x1 s).ckpt = s.ckpt := by
  simp [doPtpResume]

@[simp] theorem slewWrite_frame (x0 x1 x2 s) : (slewWrite x0 x1 x2 s).pending = s.pending ∧ (slewWrite x0 x1 x2 s).clk
    = s.clk ∧ (slewWrite x0 x1 x2 s).tck = s.tck ∧ (slewWrite x0 x1 x2 s).arr = s.arr ∧ (slewWrite x0 x1 x2 s).exe =
    s.exe ∧ (slewWrite x0 x1 x2 s).pen = s.pen ∧ (slewWrite x0 x1 x2 s).integ = s.integ ∧ (slewWrite x0 x1 x2 s).shed
    = s.shed ∧ (slewWrite x0 x1 x2 s).dmc = s.dmc ∧ (slewWrite x0 x1 x2 s).lnk = s.lnk ∧ (slewWrite x0 x1 x2 s).rls =
    s.rls ∧ (slewWrite x0 x1 x2 s).yms = s.yms ∧ (slewWrite x0 x1 x2 s).grm = s.grm ∧ (slewWrite x0 x1 x2 s).pdk =
    s.pdk ∧ (slewWrite x0 x1 x2 s).ldr = s.ldr ∧ (slewWrite x0 x1 x2 s).sec = s.sec ∧ (slewWrite x0 x1 x2 s).trg =
    s.trg ∧ (slewWrite x0 x1 x2 s).pwr = s.pwr ∧ (slewWrite x0 x1 x2 s).ckpt = s.ckpt := by
  simp only [slewWrite]; (repeat' split) <;> simp_all

@[simp] theorem doPtpSlew_frame (x0 x1 x2 s) : (doPtpSlew x0 x1 x2 s).pending = s.pending ∧ (doPtpSlew x0 x1 x2 s).tck
    = s.tck ∧ (doPtpSlew x0 x1 x2 s).exe = s.exe ∧ (doPtpSlew x0 x1 x2 s).yms = s.yms ∧ (doPtpSlew x0 x1 x2 s).ldr =
    s.ldr ∧ (doPtpSlew x0 x1 x2 s).sec = s.sec ∧ (doPtpSlew x0 x1 x2 s).ckpt = s.ckpt := by
  simp [doPtpSlew]

@[simp] theorem incrWrite_frame (x0 x1 x2 s) : (incrWrite x0 x1 x2 s).pending = s.pending ∧ (incrWrite x0 x1 x2 s).clk
    = s.clk ∧ (incrWrite x0 x1 x2 s).tck = s.tck ∧ (incrWrite x0 x1 x2 s).arr = s.arr ∧ (incrWrite x0 x1 x2 s).exe =
    s.exe ∧ (incrWrite x0 x1 x2 s).pen = s.pen ∧ (incrWrite x0 x1 x2 s).integ = s.integ ∧ (incrWrite x0 x1 x2 s).shed
    = s.shed ∧ (incrWrite x0 x1 x2 s).dmc = s.dmc ∧ (incrWrite x0 x1 x2 s).lnk = s.lnk ∧ (incrWrite x0 x1 x2 s).rls =
    s.rls ∧ (incrWrite x0 x1 x2 s).yms = s.yms ∧ (incrWrite x0 x1 x2 s).grm = s.grm ∧ (incrWrite x0 x1 x2 s).pdk =
    s.pdk ∧ (incrWrite x0 x1 x2 s).ldr = s.ldr ∧ (incrWrite x0 x1 x2 s).sec = s.sec ∧ (incrWrite x0 x1 x2 s).trg =
    s.trg ∧ (incrWrite x0 x1 x2 s).ckpt = s.ckpt := by
  unfold incrWrite; dsimp only; split <;> simp

@[simp] theorem doPtpIncrLo_frame (x0 x1 x2 s) : (doPtpIncrLo x0 x1 x2 s).pending = s.pending ∧ (doPtpIncrLo x0 x1 x2
    s).tck = s.tck ∧ (doPtpIncrLo x0 x1 x2 s).exe = s.exe ∧ (doPtpIncrLo x0 x1 x2 s).yms = s.yms ∧ (doPtpIncrLo x0 x1
    x2 s).ldr = s.ldr ∧ (doPtpIncrLo x0 x1 x2 s).sec = s.sec ∧ (doPtpIncrLo x0 x1 x2 s).ckpt = s.ckpt := by
  simp [doPtpIncrLo]

@[simp] theorem doServoWatchdog_frame (x0 s) : (doServoWatchdog x0 s).pending = s.pending ∧ (doServoWatchdog x0 s).tck
    = s.tck ∧ (doServoWatchdog x0 s).arr = s.arr ∧ (doServoWatchdog x0 s).exe = s.exe ∧ (doServoWatchdog x0 s).pen =
    s.pen ∧ (doServoWatchdog x0 s).integ = s.integ ∧ (doServoWatchdog x0 s).dmc = s.dmc ∧ (doServoWatchdog x0 s).lnk =
    s.lnk ∧ (doServoWatchdog x0 s).yms = s.yms ∧ (doServoWatchdog x0 s).grm = s.grm ∧ (doServoWatchdog x0 s).pdk =
    s.pdk ∧ (doServoWatchdog x0 s).ldr = s.ldr ∧ (doServoWatchdog x0 s).sec = s.sec ∧ (doServoWatchdog x0 s).trg =
    s.trg ∧ (doServoWatchdog x0 s).dbg = s.dbg ∧ (doServoWatchdog x0 s).pwr = s.pwr ∧ (doServoWatchdog x0 s).ckpt =
    s.ckpt := by
  simp [doServoWatchdog]

@[simp] theorem doSlewComplete_frame (x0 s) : (doSlewComplete x0 s).pending = s.pending ∧ (doSlewComplete x0 s).tck =
    s.tck ∧ (doSlewComplete x0 s).arr = s.arr ∧ (doSlewComplete x0 s).exe = s.exe ∧ (doSlewComplete x0 s).pen = s.pen
    ∧ (doSlewComplete x0 s).integ = s.integ ∧ (doSlewComplete x0 s).dmc = s.dmc ∧ (doSlewComplete x0 s).lnk = s.lnk ∧
    (doSlewComplete x0 s).yms = s.yms ∧ (doSlewComplete x0 s).grm = s.grm ∧ (doSlewComplete x0 s).pdk = s.pdk ∧
    (doSlewComplete x0 s).ldr = s.ldr ∧ (doSlewComplete x0 s).sec = s.sec ∧ (doSlewComplete x0 s).trg = s.trg ∧
    (doSlewComplete x0 s).dbg = s.dbg ∧ (doSlewComplete x0 s).pwr = s.pwr ∧ (doSlewComplete x0 s).ckpt = s.ckpt := by
  simp [doSlewComplete]

@[simp] theorem setPort_frame (s x1 x2) : (setPort s x1 x2).pending = s.pending ∧ (setPort s x1 x2).regs = s.regs ∧
    (setPort s x1 x2).clk = s.clk ∧ (setPort s x1 x2).tck = s.tck ∧ (setPort s x1 x2).arr = s.arr ∧ (setPort s x1
    x2).exe = s.exe ∧ (setPort s x1 x2).pen = s.pen ∧ (setPort s x1 x2).integ = s.integ ∧ (setPort s x1 x2).shed =
    s.shed ∧ (setPort s x1 x2).dmc = s.dmc ∧ (setPort s x1 x2).lnk = s.lnk ∧ (setPort s x1 x2).rls = s.rls ∧ (setPort
    s x1 x2).yms = s.yms ∧ (setPort s x1 x2).grm = s.grm ∧ (setPort s x1 x2).pdk = s.pdk ∧ (setPort s x1 x2).ldr =
    s.ldr ∧ (setPort s x1 x2).sec = s.sec ∧ (setPort s x1 x2).trg = s.trg ∧ (setPort s x1 x2).dbg = s.dbg ∧ (setPort s
    x1 x2).pwr = s.pwr ∧ (setPort s x1 x2).hst = s.hst ∧ (setPort s x1 x2).ckpt = s.ckpt := by
  simp [setPort]

@[simp] theorem portCount_frame (x0 x1 s) : (portCount x0 x1 s).pending = s.pending ∧ (portCount x0 x1 s).clk = s.clk
    ∧ (portCount x0 x1 s).tck = s.tck ∧ (portCount x0 x1 s).arr = s.arr ∧ (portCount x0 x1 s).exe = s.exe ∧ (portCount
    x0 x1 s).pen = s.pen ∧ (portCount x0 x1 s).integ = s.integ ∧ (portCount x0 x1 s).shed = s.shed ∧ (portCount x0 x1
    s).dmc = s.dmc ∧ (portCount x0 x1 s).lnk = s.lnk ∧ (portCount x0 x1 s).rls = s.rls ∧ (portCount x0 x1 s).yms =
    s.yms ∧ (portCount x0 x1 s).grm = s.grm ∧ (portCount x0 x1 s).pdk = s.pdk ∧ (portCount x0 x1 s).ldr = s.ldr ∧
    (portCount x0 x1 s).sec = s.sec ∧ (portCount x0 x1 s).trg = s.trg ∧ (portCount x0 x1 s).ptp = s.ptp ∧ (portCount
    x0 x1 s).dbg = s.dbg ∧ (portCount x0 x1 s).pwr = s.pwr ∧ (portCount x0 x1 s).hst = s.hst ∧ (portCount x0 x1
    s).ckpt = s.ckpt := by
  simp [portCount]

@[simp] theorem usedFree_frame (s) : (usedFree s).pending = s.pending ∧ (usedFree s).regs = s.regs ∧ (usedFree s).tck
    = s.tck ∧ (usedFree s).arr = s.arr ∧ (usedFree s).exe = s.exe ∧ (usedFree s).pen = s.pen ∧ (usedFree s).integ =
    s.integ ∧ (usedFree s).shed = s.shed ∧ (usedFree s).dmc = s.dmc ∧ (usedFree s).lnk = s.lnk ∧ (usedFree s).rls =
    s.rls ∧ (usedFree s).yms = s.yms ∧ (usedFree s).grm = s.grm ∧ (usedFree s).pdk = s.pdk ∧ (usedFree s).ldr = s.ldr
    ∧ (usedFree s).sec = s.sec ∧ (usedFree s).trg = s.trg ∧ (usedFree s).ptp = s.ptp ∧ (usedFree s).dbg = s.dbg ∧
    (usedFree s).pwr = s.pwr ∧ (usedFree s).hst = s.hst ∧ (usedFree s).ckpt = s.ckpt := by
  simp [usedFree]

@[simp] theorem toBuffer_frame (x0 x1 s) : (toBuffer x0 x1 s).pending = s.pending ∧ (toBuffer x0 x1 s).clk = s.clk ∧
    (toBuffer x0 x1 s).tck = s.tck ∧ (toBuffer x0 x1 s).arr = s.arr ∧ (toBuffer x0 x1 s).exe = s.exe ∧ (toBuffer x0 x1
    s).pen = s.pen ∧ (toBuffer x0 x1 s).integ = s.integ ∧ (toBuffer x0 x1 s).shed = s.shed ∧ (toBuffer x0 x1 s).dmc =
    s.dmc ∧ (toBuffer x0 x1 s).lnk = s.lnk ∧ (toBuffer x0 x1 s).rls = s.rls ∧ (toBuffer x0 x1 s).yms = s.yms ∧
    (toBuffer x0 x1 s).grm = s.grm ∧ (toBuffer x0 x1 s).pdk = s.pdk ∧ (toBuffer x0 x1 s).ldr = s.ldr ∧ (toBuffer x0 x1
    s).sec = s.sec ∧ (toBuffer x0 x1 s).trg = s.trg ∧ (toBuffer x0 x1 s).dbg = s.dbg ∧ (toBuffer x0 x1 s).pwr = s.pwr
    ∧ (toBuffer x0 x1 s).ckpt = s.ckpt := by
  simp only [toBuffer]; (repeat' split) <;> simp_all

@[simp] theorem toForward_frame (x0 x1 s) : (toForward x0 x1 s).pending = s.pending ∧ (toForward x0 x1 s).clk = s.clk
    ∧ (toForward x0 x1 s).tck = s.tck ∧ (toForward x0 x1 s).arr = s.arr ∧ (toForward x0 x1 s).exe = s.exe ∧ (toForward
    x0 x1 s).pen = s.pen ∧ (toForward x0 x1 s).integ = s.integ ∧ (toForward x0 x1 s).shed = s.shed ∧ (toForward x0 x1
    s).dmc = s.dmc ∧ (toForward x0 x1 s).lnk = s.lnk ∧ (toForward x0 x1 s).rls = s.rls ∧ (toForward x0 x1 s).yms =
    s.yms ∧ (toForward x0 x1 s).grm = s.grm ∧ (toForward x0 x1 s).pdk = s.pdk ∧ (toForward x0 x1 s).ldr = s.ldr ∧
    (toForward x0 x1 s).sec = s.sec ∧ (toForward x0 x1 s).trg = s.trg ∧ (toForward x0 x1 s).dbg = s.dbg ∧ (toForward
    x0 x1 s).pwr = s.pwr ∧ (toForward x0 x1 s).ckpt = s.ckpt := by
  simp only [toForward]; (repeat' split) <;> simp_all

@[simp] theorem acceptFrame_frame (x0 x1 s) : (acceptFrame x0 x1 s).pending = s.pending ∧ (acceptFrame x0 x1 s).tck =
    s.tck ∧ (acceptFrame x0 x1 s).arr = s.arr ∧ (acceptFrame x0 x1 s).exe = s.exe ∧ (acceptFrame x0 x1 s).pen = s.pen
    ∧ (acceptFrame x0 x1 s).integ = s.integ ∧ (acceptFrame x0 x1 s).shed = s.shed ∧ (acceptFrame x0 x1 s).dmc = s.dmc
    ∧ (acceptFrame x0 x1 s).lnk = s.lnk ∧ (acceptFrame x0 x1 s).rls = s.rls ∧ (acceptFrame x0 x1 s).yms = s.yms ∧
    (acceptFrame x0 x1 s).grm = s.grm ∧ (acceptFrame x0 x1 s).pdk = s.pdk ∧ (acceptFrame x0 x1 s).ldr = s.ldr ∧
    (acceptFrame x0 x1 s).sec = s.sec ∧ (acceptFrame x0 x1 s).trg = s.trg ∧ (acceptFrame x0 x1 s).dbg = s.dbg ∧
    (acceptFrame x0 x1 s).pwr = s.pwr ∧ (acceptFrame x0 x1 s).ckpt = s.ckpt := by
  unfold acceptFrame; (repeat' split) <;> simp_all

@[simp] theorem doEthFrameRx_frame (x0 x1 x2 s) : (doEthFrameRx x0 x1 x2 s).pending = s.pending ∧ (doEthFrameRx x0 x1
    x2 s).tck = s.tck ∧ (doEthFrameRx x0 x1 x2 s).arr = s.arr ∧ (doEthFrameRx x0 x1 x2 s).exe = s.exe ∧ (doEthFrameRx
    x0 x1 x2 s).pen = s.pen ∧ (doEthFrameRx x0 x1 x2 s).integ = s.integ ∧ (doEthFrameRx x0 x1 x2 s).shed = s.shed ∧
    (doEthFrameRx x0 x1 x2 s).dmc = s.dmc ∧ (doEthFrameRx x0 x1 x2 s).lnk = s.lnk ∧ (doEthFrameRx x0 x1 x2 s).rls =
    s.rls ∧ (doEthFrameRx x0 x1 x2 s).yms = s.yms ∧ (doEthFrameRx x0 x1 x2 s).grm = s.grm ∧ (doEthFrameRx x0 x1 x2
    s).pdk = s.pdk ∧ (doEthFrameRx x0 x1 x2 s).ldr = s.ldr ∧ (doEthFrameRx x0 x1 x2 s).sec = s.sec ∧ (doEthFrameRx x0
    x1 x2 s).trg = s.trg ∧ (doEthFrameRx x0 x1 x2 s).dbg = s.dbg ∧ (doEthFrameRx x0 x1 x2 s).pwr = s.pwr ∧
    (doEthFrameRx x0 x1 x2 s).ckpt = s.ckpt := by
  simp only [doEthFrameRx]; (repeat' split) <;> simp_all

@[simp] theorem popWrite_frame (x0 x1 s) : (popWrite x0 x1 s).pending = s.pending ∧ (popWrite x0 x1 s).regs = s.regs ∧
    (popWrite x0 x1 s).clk = s.clk ∧ (popWrite x0 x1 s).tck = s.tck ∧ (popWrite x0 x1 s).arr = s.arr ∧ (popWrite x0 x1
    s).exe = s.exe ∧ (popWrite x0 x1 s).pen = s.pen ∧ (popWrite x0 x1 s).integ = s.integ ∧ (popWrite x0 x1 s).shed =
    s.shed ∧ (popWrite x0 x1 s).dmc = s.dmc ∧ (popWrite x0 x1 s).lnk = s.lnk ∧ (popWrite x0 x1 s).rls = s.rls ∧
    (popWrite x0 x1 s).yms = s.yms ∧ (popWrite x0 x1 s).grm = s.grm ∧ (popWrite x0 x1 s).pdk = s.pdk ∧ (popWrite x0 x1
    s).ldr = s.ldr ∧ (popWrite x0 x1 s).sec = s.sec ∧ (popWrite x0 x1 s).trg = s.trg ∧ (popWrite x0 x1 s).dbg = s.dbg
    ∧ (popWrite x0 x1 s).pwr = s.pwr ∧ (popWrite x0 x1 s).hst = s.hst ∧ (popWrite x0 x1 s).ckpt = s.ckpt := by
  unfold popWrite; split <;> simp

@[simp] theorem doRxPop_frame (x0 x1 s) : (doRxPop x0 x1 s).pending = s.pending ∧ (doRxPop x0 x1 s).tck = s.tck ∧
    (doRxPop x0 x1 s).exe = s.exe ∧ (doRxPop x0 x1 s).yms = s.yms ∧ (doRxPop x0 x1 s).ldr = s.ldr ∧ (doRxPop x0 x1
    s).sec = s.sec ∧ (doRxPop x0 x1 s).ckpt = s.ckpt := by
  simp [doRxPop]

@[simp] theorem txWrite_frame (x0 x1 x2 s) : (txWrite x0 x1 x2 s).pending = s.pending ∧ (txWrite x0 x1 x2 s).clk =
    s.clk ∧ (txWrite x0 x1 x2 s).tck = s.tck ∧ (txWrite x0 x1 x2 s).arr = s.arr ∧ (txWrite x0 x1 x2 s).exe = s.exe ∧
    (txWrite x0 x1 x2 s).pen = s.pen ∧ (txWrite x0 x1 x2 s).integ = s.integ ∧ (txWrite x0 x1 x2 s).shed = s.shed ∧
    (txWrite x0 x1 x2 s).dmc = s.dmc ∧ (txWrite x0 x1 x2 s).lnk = s.lnk ∧ (txWrite x0 x1 x2 s).rls = s.rls ∧ (txWrite
    x0 x1 x2 s).yms = s.yms ∧ (txWrite x0 x1 x2 s).grm = s.grm ∧ (txWrite x0 x1 x2 s).pdk = s.pdk ∧ (txWrite x0 x1 x2
    s).ldr = s.ldr ∧ (txWrite x0 x1 x2 s).sec = s.sec ∧ (txWrite x0 x1 x2 s).trg = s.trg ∧ (txWrite x0 x1 x2 s).ckpt =
    s.ckpt := by
  simp only [txWrite]; (repeat' split) <;> simp_all

@[simp] theorem doTxGo_frame (x0 x1 x2 s) : (doTxGo x0 x1 x2 s).pending = s.pending ∧ (doTxGo x0 x1 x2 s).tck = s.tck
    ∧ (doTxGo x0 x1 x2 s).exe = s.exe ∧ (doTxGo x0 x1 x2 s).yms = s.yms ∧ (doTxGo x0 x1 x2 s).ldr = s.ldr ∧ (doTxGo x0
    x1 x2 s).sec = s.sec ∧ (doTxGo x0 x1 x2 s).ckpt = s.ckpt := by
  simp [doTxGo]

@[simp] theorem sendForward_frame (x0 x1 s) : (sendForward x0 x1 s).pending = s.pending ∧ (sendForward x0 x1 s).regs =
    s.regs ∧ (sendForward x0 x1 s).tck = s.tck ∧ (sendForward x0 x1 s).arr = s.arr ∧ (sendForward x0 x1 s).exe = s.exe
    ∧ (sendForward x0 x1 s).pen = s.pen ∧ (sendForward x0 x1 s).integ = s.integ ∧ (sendForward x0 x1 s).shed = s.shed
    ∧ (sendForward x0 x1 s).dmc = s.dmc ∧ (sendForward x0 x1 s).lnk = s.lnk ∧ (sendForward x0 x1 s).rls = s.rls ∧
    (sendForward x0 x1 s).yms = s.yms ∧ (sendForward x0 x1 s).grm = s.grm ∧ (sendForward x0 x1 s).pdk = s.pdk ∧
    (sendForward x0 x1 s).ldr = s.ldr ∧ (sendForward x0 x1 s).sec = s.sec ∧ (sendForward x0 x1 s).trg = s.trg ∧
    (sendForward x0 x1 s).dbg = s.dbg ∧ (sendForward x0 x1 s).pwr = s.pwr ∧ (sendForward x0 x1 s).hst = s.hst ∧
    (sendForward x0 x1 s).ckpt = s.ckpt := by
  simp only [sendForward]; (repeat' split) <;> simp_all

@[simp] theorem sendOwn_frame (x0 x1 s) : (sendOwn x0 x1 s).pending = s.pending ∧ (sendOwn x0 x1 s).tck = s.tck ∧
    (sendOwn x0 x1 s).arr = s.arr ∧ (sendOwn x0 x1 s).exe = s.exe ∧ (sendOwn x0 x1 s).pen = s.pen ∧ (sendOwn x0 x1
    s).integ = s.integ ∧ (sendOwn x0 x1 s).shed = s.shed ∧ (sendOwn x0 x1 s).dmc = s.dmc ∧ (sendOwn x0 x1 s).lnk =
    s.lnk ∧ (sendOwn x0 x1 s).rls = s.rls ∧ (sendOwn x0 x1 s).yms = s.yms ∧ (sendOwn x0 x1 s).grm = s.grm ∧ (sendOwn
    x0 x1 s).pdk = s.pdk ∧ (sendOwn x0 x1 s).ldr = s.ldr ∧ (sendOwn x0 x1 s).sec = s.sec ∧ (sendOwn x0 x1 s).trg =
    s.trg ∧ (sendOwn x0 x1 s).dbg = s.dbg ∧ (sendOwn x0 x1 s).pwr = s.pwr ∧ (sendOwn x0 x1 s).ckpt = s.ckpt := by
  simp only [sendOwn]; (repeat' split) <;> simp_all

@[simp] theorem doEthTransmit_frame (x0 s) : (doEthTransmit x0 s).pending = s.pending ∧ (doEthTransmit x0 s).tck =
    s.tck ∧ (doEthTransmit x0 s).arr = s.arr ∧ (doEthTransmit x0 s).exe = s.exe ∧ (doEthTransmit x0 s).pen = s.pen ∧
    (doEthTransmit x0 s).integ = s.integ ∧ (doEthTransmit x0 s).shed = s.shed ∧ (doEthTransmit x0 s).dmc = s.dmc ∧
    (doEthTransmit x0 s).lnk = s.lnk ∧ (doEthTransmit x0 s).rls = s.rls ∧ (doEthTransmit x0 s).yms = s.yms ∧
    (doEthTransmit x0 s).grm = s.grm ∧ (doEthTransmit x0 s).pdk = s.pdk ∧ (doEthTransmit x0 s).ldr = s.ldr ∧
    (doEthTransmit x0 s).sec = s.sec ∧ (doEthTransmit x0 s).trg = s.trg ∧ (doEthTransmit x0 s).dbg = s.dbg ∧
    (doEthTransmit x0 s).pwr = s.pwr ∧ (doEthTransmit x0 s).ckpt = s.ckpt := by
  simp only [doEthTransmit]; (repeat' split) <;> simp_all

@[simp] theorem doTxDonePop_frame (x0 x1 s) : (doTxDonePop x0 x1 s).pending = s.pending ∧ (doTxDonePop x0 x1 s).tck =
    s.tck ∧ (doTxDonePop x0 x1 s).exe = s.exe ∧ (doTxDonePop x0 x1 s).yms = s.yms ∧ (doTxDonePop x0 x1 s).ldr = s.ldr
    ∧ (doTxDonePop x0 x1 s).sec = s.sec ∧ (doTxDonePop x0 x1 s).ckpt = s.ckpt := by
  simp [doTxDonePop]

@[simp] theorem portCfgWrite_frame (x0 x1 x2 s) : (portCfgWrite x0 x1 x2 s).pending = s.pending ∧ (portCfgWrite x0 x1
    x2 s).clk = s.clk ∧ (portCfgWrite x0 x1 x2 s).tck = s.tck ∧ (portCfgWrite x0 x1 x2 s).arr = s.arr ∧ (portCfgWrite
    x0 x1 x2 s).exe = s.exe ∧ (portCfgWrite x0 x1 x2 s).pen = s.pen ∧ (portCfgWrite x0 x1 x2 s).integ = s.integ ∧
    (portCfgWrite x0 x1 x2 s).shed = s.shed ∧ (portCfgWrite x0 x1 x2 s).dmc = s.dmc ∧ (portCfgWrite x0 x1 x2 s).lnk =
    s.lnk ∧ (portCfgWrite x0 x1 x2 s).rls = s.rls ∧ (portCfgWrite x0 x1 x2 s).yms = s.yms ∧ (portCfgWrite x0 x1 x2
    s).grm = s.grm ∧ (portCfgWrite x0 x1 x2 s).pdk = s.pdk ∧ (portCfgWrite x0 x1 x2 s).ldr = s.ldr ∧ (portCfgWrite x0
    x1 x2 s).sec = s.sec ∧ (portCfgWrite x0 x1 x2 s).trg = s.trg ∧ (portCfgWrite x0 x1 x2 s).ptp = s.ptp ∧
    (portCfgWrite x0 x1 x2 s).hst = s.hst ∧ (portCfgWrite x0 x1 x2 s).ckpt = s.ckpt := by
  simp [portCfgWrite]

@[simp] theorem doPortFec_frame (x0 x1 x2 s) : (doPortFec x0 x1 x2 s).pending = s.pending ∧ (doPortFec x0 x1 x2 s).tck
    = s.tck ∧ (doPortFec x0 x1 x2 s).exe = s.exe ∧ (doPortFec x0 x1 x2 s).yms = s.yms ∧ (doPortFec x0 x1 x2 s).ldr =
    s.ldr ∧ (doPortFec x0 x1 x2 s).sec = s.sec ∧ (doPortFec x0 x1 x2 s).ckpt = s.ckpt := by
  simp [doPortFec]

@[simp] theorem doLinkChange_frame (x0 x1 s) : (doLinkChange x0 x1 s).pending = s.pending ∧ (doLinkChange x0 x1 s).clk
    = s.clk ∧ (doLinkChange x0 x1 s).tck = s.tck ∧ (doLinkChange x0 x1 s).arr = s.arr ∧ (doLinkChange x0 x1 s).exe =
    s.exe ∧ (doLinkChange x0 x1 s).pen = s.pen ∧ (doLinkChange x0 x1 s).integ = s.integ ∧ (doLinkChange x0 x1 s).shed
    = s.shed ∧ (doLinkChange x0 x1 s).dmc = s.dmc ∧ (doLinkChange x0 x1 s).lnk = s.lnk ∧ (doLinkChange x0 x1 s).rls =
    s.rls ∧ (doLinkChange x0 x1 s).yms = s.yms ∧ (doLinkChange x0 x1 s).grm = s.grm ∧ (doLinkChange x0 x1 s).pdk =
    s.pdk ∧ (doLinkChange x0 x1 s).ldr = s.ldr ∧ (doLinkChange x0 x1 s).sec = s.sec ∧ (doLinkChange x0 x1 s).trg =
    s.trg ∧ (doLinkChange x0 x1 s).ptp = s.ptp ∧ (doLinkChange x0 x1 s).dbg = s.dbg ∧ (doLinkChange x0 x1 s).pwr =
    s.pwr ∧ (doLinkChange x0 x1 s).ckpt = s.ckpt := by
  simp [doLinkChange]

@[simp] theorem doPpsIn_frame (s) : (doPpsIn s).pending = s.pending ∧ (doPpsIn s).clk = s.clk ∧ (doPpsIn s).tck =
    s.tck ∧ (doPpsIn s).arr = s.arr ∧ (doPpsIn s).exe = s.exe ∧ (doPpsIn s).pen = s.pen ∧ (doPpsIn s).integ = s.integ
    ∧ (doPpsIn s).shed = s.shed ∧ (doPpsIn s).dmc = s.dmc ∧ (doPpsIn s).lnk = s.lnk ∧ (doPpsIn s).rls = s.rls ∧
    (doPpsIn s).yms = s.yms ∧ (doPpsIn s).grm = s.grm ∧ (doPpsIn s).pdk = s.pdk ∧ (doPpsIn s).ldr = s.ldr ∧ (doPpsIn
    s).sec = s.sec ∧ (doPpsIn s).trg = s.trg ∧ (doPpsIn s).dbg = s.dbg ∧ (doPpsIn s).pwr = s.pwr ∧ (doPpsIn s).ckpt =
    s.ckpt := by
  simp [doPpsIn]

@[simp] theorem doPpsOut_frame (s) : (doPpsOut s).pending = s.pending ∧ (doPpsOut s).regs = s.regs ∧ (doPpsOut s).clk
    = s.clk ∧ (doPpsOut s).tck = s.tck ∧ (doPpsOut s).arr = s.arr ∧ (doPpsOut s).exe = s.exe ∧ (doPpsOut s).pen =
    s.pen ∧ (doPpsOut s).integ = s.integ ∧ (doPpsOut s).shed = s.shed ∧ (doPpsOut s).dmc = s.dmc ∧ (doPpsOut s).lnk =
    s.lnk ∧ (doPpsOut s).rls = s.rls ∧ (doPpsOut s).yms = s.yms ∧ (doPpsOut s).grm = s.grm ∧ (doPpsOut s).pdk = s.pdk
    ∧ (doPpsOut s).ldr = s.ldr ∧ (doPpsOut s).sec = s.sec ∧ (doPpsOut s).trg = s.trg ∧ (doPpsOut s).dbg = s.dbg ∧
    (doPpsOut s).pwr = s.pwr ∧ (doPpsOut s).hst = s.hst ∧ (doPpsOut s).ckpt = s.ckpt := by
  simp [doPpsOut]

@[simp] theorem ppsWrite_frame (x0 x1 s) : (ppsWrite x0 x1 s).pending = s.pending ∧ (ppsWrite x0 x1 s).clk = s.clk ∧
    (ppsWrite x0 x1 s).tck = s.tck ∧ (ppsWrite x0 x1 s).arr = s.arr ∧ (ppsWrite x0 x1 s).exe = s.exe ∧ (ppsWrite x0 x1
    s).pen = s.pen ∧ (ppsWrite x0 x1 s).integ = s.integ ∧ (ppsWrite x0 x1 s).shed = s.shed ∧ (ppsWrite x0 x1 s).dmc =
    s.dmc ∧ (ppsWrite x0 x1 s).lnk = s.lnk ∧ (ppsWrite x0 x1 s).rls = s.rls ∧ (ppsWrite x0 x1 s).yms = s.yms ∧
    (ppsWrite x0 x1 s).grm = s.grm ∧ (ppsWrite x0 x1 s).pdk = s.pdk ∧ (ppsWrite x0 x1 s).ldr = s.ldr ∧ (ppsWrite x0 x1
    s).sec = s.sec ∧ (ppsWrite x0 x1 s).trg = s.trg ∧ (ppsWrite x0 x1 s).hst = s.hst ∧ (ppsWrite x0 x1 s).ckpt =
    s.ckpt := by
  simp [ppsWrite]

/-! ### Grooms -/

@[simp] theorem grmCtrlWrite_frame (x0 x1 x2 s) : (grmCtrlWrite x0 x1 x2 s).pending = s.pending ∧ (grmCtrlWrite x0 x1
    x2 s).clk = s.clk ∧ (grmCtrlWrite x0 x1 x2 s).tck = s.tck ∧ (grmCtrlWrite x0 x1 x2 s).arr = s.arr ∧ (grmCtrlWrite
    x0 x1 x2 s).exe = s.exe ∧ (grmCtrlWrite x0 x1 x2 s).pen = s.pen ∧ (grmCtrlWrite x0 x1 x2 s).integ = s.integ ∧
    (grmCtrlWrite x0 x1 x2 s).shed = s.shed ∧ (grmCtrlWrite x0 x1 x2 s).dmc = s.dmc ∧ (grmCtrlWrite x0 x1 x2 s).lnk =
    s.lnk ∧ (grmCtrlWrite x0 x1 x2 s).rls = s.rls ∧ (grmCtrlWrite x0 x1 x2 s).yms = s.yms ∧ (grmCtrlWrite x0 x1 x2
    s).pdk = s.pdk ∧ (grmCtrlWrite x0 x1 x2 s).ldr = s.ldr ∧ (grmCtrlWrite x0 x1 x2 s).sec = s.sec ∧ (grmCtrlWrite x0
    x1 x2 s).trg = s.trg ∧ (grmCtrlWrite x0 x1 x2 s).ptp = s.ptp ∧ (grmCtrlWrite x0 x1 x2 s).hst = s.hst ∧
    (grmCtrlWrite x0 x1 x2 s).ckpt = s.ckpt := by
  simp [grmCtrlWrite]

@[simp] theorem doGroomRun_frame (x0 x1 x2 s) : (doGroomRun x0 x1 x2 s).pending = s.pending ∧ (doGroomRun x0 x1 x2
    s).tck = s.tck ∧ (doGroomRun x0 x1 x2 s).exe = s.exe ∧ (doGroomRun x0 x1 x2 s).yms = s.yms ∧ (doGroomRun x0 x1 x2
    s).ldr = s.ldr ∧ (doGroomRun x0 x1 x2 s).sec = s.sec ∧ (doGroomRun x0 x1 x2 s).ckpt = s.ckpt := by
  simp [doGroomRun]

@[simp] theorem doInvD_frame (x0 x1 x2 s) : (doInvD x0 x1 x2 s).pending = s.pending ∧ (doInvD x0 x1 x2 s).tck = s.tck
    ∧ (doInvD x0 x1 x2 s).exe = s.exe ∧ (doInvD x0 x1 x2 s).yms = s.yms ∧ (doInvD x0 x1 x2 s).ldr = s.ldr ∧ (doInvD x0
    x1 x2 s).sec = s.sec ∧ (doInvD x0 x1 x2 s).ckpt = s.ckpt := by
  simp [doInvD]

@[simp] theorem doGroomWatchdog_frame (x0 s) : (doGroomWatchdog x0 s).pending = s.pending ∧ (doGroomWatchdog x0 s).tck
    = s.tck ∧ (doGroomWatchdog x0 s).arr = s.arr ∧ (doGroomWatchdog x0 s).exe = s.exe ∧ (doGroomWatchdog x0 s).pen =
    s.pen ∧ (doGroomWatchdog x0 s).integ = s.integ ∧ (doGroomWatchdog x0 s).dmc = s.dmc ∧ (doGroomWatchdog x0 s).lnk =
    s.lnk ∧ (doGroomWatchdog x0 s).yms = s.yms ∧ (doGroomWatchdog x0 s).pdk = s.pdk ∧ (doGroomWatchdog x0 s).ldr =
    s.ldr ∧ (doGroomWatchdog x0 s).sec = s.sec ∧ (doGroomWatchdog x0 s).trg = s.trg ∧ (doGroomWatchdog x0 s).dbg =
    s.dbg ∧ (doGroomWatchdog x0 s).pwr = s.pwr ∧ (doGroomWatchdog x0 s).ckpt = s.ckpt := by
  simp [doGroomWatchdog]

@[simp] theorem doCheckpoint_frame (s) : (doCheckpoint s).pending = s.pending ∧ (doCheckpoint s).tck = s.tck ∧
    (doCheckpoint s).arr = s.arr ∧ (doCheckpoint s).exe = s.exe ∧ (doCheckpoint s).pen = s.pen ∧ (doCheckpoint
    s).integ = s.integ ∧ (doCheckpoint s).shed = s.shed ∧ (doCheckpoint s).lnk = s.lnk ∧ (doCheckpoint s).rls = s.rls
    ∧ (doCheckpoint s).yms = s.yms ∧ (doCheckpoint s).grm = s.grm ∧ (doCheckpoint s).pdk = s.pdk ∧ (doCheckpoint
    s).ldr = s.ldr ∧ (doCheckpoint s).sec = s.sec ∧ (doCheckpoint s).trg = s.trg ∧ (doCheckpoint s).ptp = s.ptp ∧
    (doCheckpoint s).dbg = s.dbg ∧ (doCheckpoint s).pwr = s.pwr := by
  simp only [doCheckpoint]; (repeat' split) <;> simp_all

@[simp] theorem noteBursts_frame (x0 s) : (noteBursts x0 s).pending = s.pending ∧ (noteBursts x0 s).regs = s.regs ∧
    (noteBursts x0 s).clk = s.clk ∧ (noteBursts x0 s).tck = s.tck ∧ (noteBursts x0 s).arr = s.arr ∧ (noteBursts x0
    s).exe = s.exe ∧ (noteBursts x0 s).pen = s.pen ∧ (noteBursts x0 s).integ = s.integ ∧ (noteBursts x0 s).shed =
    s.shed ∧ (noteBursts x0 s).lnk = s.lnk ∧ (noteBursts x0 s).rls = s.rls ∧ (noteBursts x0 s).yms = s.yms ∧
    (noteBursts x0 s).grm = s.grm ∧ (noteBursts x0 s).pdk = s.pdk ∧ (noteBursts x0 s).ldr = s.ldr ∧ (noteBursts x0
    s).sec = s.sec ∧ (noteBursts x0 s).trg = s.trg ∧ (noteBursts x0 s).ptp = s.ptp ∧ (noteBursts x0 s).dbg = s.dbg ∧
    (noteBursts x0 s).pwr = s.pwr ∧ (noteBursts x0 s).hst = s.hst ∧ (noteBursts x0 s).ckpt = s.ckpt := by
  simp [noteBursts]

@[simp] theorem restored_frame (x0 s) : (restored x0 s).pending = s.pending ∧ (restored x0 s).regs = s.regs ∧
    (restored x0 s).clk = s.clk ∧ (restored x0 s).lnk = s.lnk ∧ (restored x0 s).rls = s.rls ∧ (restored x0 s).yms =
    s.yms ∧ (restored x0 s).grm = s.grm ∧ (restored x0 s).pdk = s.pdk ∧ (restored x0 s).ldr = s.ldr ∧ (restored x0
    s).sec = s.sec ∧ (restored x0 s).trg = s.trg ∧ (restored x0 s).ptp = s.ptp ∧ (restored x0 s).dbg = s.dbg ∧
    (restored x0 s).pwr = s.pwr ∧ (restored x0 s).hst = s.hst ∧ (restored x0 s).ckpt = s.ckpt := by
  simp [restored]

@[simp] theorem doRestore_frame (s) : (doRestore s).pending = s.pending ∧ (doRestore s).clk = s.clk ∧ (doRestore
    s).lnk = s.lnk ∧ (doRestore s).rls = s.rls ∧ (doRestore s).yms = s.yms ∧ (doRestore s).grm = s.grm ∧ (doRestore
    s).pdk = s.pdk ∧ (doRestore s).ldr = s.ldr ∧ (doRestore s).sec = s.sec ∧ (doRestore s).trg = s.trg ∧ (doRestore
    s).ptp = s.ptp ∧ (doRestore s).dbg = s.dbg ∧ (doRestore s).pwr = s.pwr ∧ (doRestore s).ckpt = s.ckpt := by
  simp only [doRestore]; (repeat' split) <;> simp_all

/-! ### Halts -/

@[simp] theorem haltGroom_frame (x0 x1 x2 x3 s) : (haltGroom x0 x1 x2 x3 s).pending = s.pending ∧ (haltGroom x0 x1 x2
    x3 s).tck = s.tck ∧ (haltGroom x0 x1 x2 x3 s).arr = s.arr ∧ (haltGroom x0 x1 x2 x3 s).exe = s.exe ∧ (haltGroom x0
    x1 x2 x3 s).pen = s.pen ∧ (haltGroom x0 x1 x2 x3 s).integ = s.integ ∧ (haltGroom x0 x1 x2 x3 s).shed = s.shed ∧
    (haltGroom x0 x1 x2 x3 s).dmc = s.dmc ∧ (haltGroom x0 x1 x2 x3 s).lnk = s.lnk ∧ (haltGroom x0 x1 x2 x3 s).yms =
    s.yms ∧ (haltGroom x0 x1 x2 x3 s).pdk = s.pdk ∧ (haltGroom x0 x1 x2 x3 s).ldr = s.ldr ∧ (haltGroom x0 x1 x2 x3
    s).sec = s.sec ∧ (haltGroom x0 x1 x2 x3 s).trg = s.trg ∧ (haltGroom x0 x1 x2 x3 s).ptp = s.ptp ∧ (haltGroom x0 x1
    x2 x3 s).dbg = s.dbg ∧ (haltGroom x0 x1 x2 x3 s).pwr = s.pwr ∧ (haltGroom x0 x1 x2 x3 s).ckpt = s.ckpt := by
  simp [haltGroom]

@[simp] theorem haltSoon_frame (x0 x1 x2 s) : (haltSoon x0 x1 x2 s).pending = s.pending ∧ (haltSoon x0 x1 x2 s).tck =
    s.tck ∧ (haltSoon x0 x1 x2 s).arr = s.arr ∧ (haltSoon x0 x1 x2 s).exe = s.exe ∧ (haltSoon x0 x1 x2 s).pen = s.pen
    ∧ (haltSoon x0 x1 x2 s).integ = s.integ ∧ (haltSoon x0 x1 x2 s).shed = s.shed ∧ (haltSoon x0 x1 x2 s).dmc = s.dmc
    ∧ (haltSoon x0 x1 x2 s).lnk = s.lnk ∧ (haltSoon x0 x1 x2 s).yms = s.yms ∧ (haltSoon x0 x1 x2 s).pdk = s.pdk ∧
    (haltSoon x0 x1 x2 s).ldr = s.ldr ∧ (haltSoon x0 x1 x2 s).sec = s.sec ∧ (haltSoon x0 x1 x2 s).trg = s.trg ∧
    (haltSoon x0 x1 x2 s).ptp = s.ptp ∧ (haltSoon x0 x1 x2 s).dbg = s.dbg ∧ (haltSoon x0 x1 x2 s).pwr = s.pwr ∧
    (haltSoon x0 x1 x2 s).ckpt = s.ckpt := by
  simp only [haltSoon]; (repeat' split) <;> simp_all

@[simp] theorem haltOthers_frame (x0 s) : (haltOthers x0 s).pending = s.pending ∧ (haltOthers x0 s).tck = s.tck ∧
    (haltOthers x0 s).arr = s.arr ∧ (haltOthers x0 s).exe = s.exe ∧ (haltOthers x0 s).pen = s.pen ∧ (haltOthers x0
    s).integ = s.integ ∧ (haltOthers x0 s).shed = s.shed ∧ (haltOthers x0 s).dmc = s.dmc ∧ (haltOthers x0 s).lnk =
    s.lnk ∧ (haltOthers x0 s).yms = s.yms ∧ (haltOthers x0 s).pdk = s.pdk ∧ (haltOthers x0 s).ldr = s.ldr ∧
    (haltOthers x0 s).sec = s.sec ∧ (haltOthers x0 s).trg = s.trg ∧ (haltOthers x0 s).ptp = s.ptp ∧ (haltOthers x0
    s).dbg = s.dbg ∧ (haltOthers x0 s).pwr = s.pwr ∧ (haltOthers x0 s).ckpt = s.ckpt := by
  simp [haltOthers, ite_frame]

@[simp] theorem haltDue_frame (x0 s) : (haltDue x0 s).pending = s.pending ∧ (haltDue x0 s).tck = s.tck ∧ (haltDue x0
    s).arr = s.arr ∧ (haltDue x0 s).exe = s.exe ∧ (haltDue x0 s).pen = s.pen ∧ (haltDue x0 s).integ = s.integ ∧
    (haltDue x0 s).shed = s.shed ∧ (haltDue x0 s).dmc = s.dmc ∧ (haltDue x0 s).lnk = s.lnk ∧ (haltDue x0 s).yms =
    s.yms ∧ (haltDue x0 s).pdk = s.pdk ∧ (haltDue x0 s).ldr = s.ldr ∧ (haltDue x0 s).sec = s.sec ∧ (haltDue x0 s).trg
    = s.trg ∧ (haltDue x0 s).ptp = s.ptp ∧ (haltDue x0 s).dbg = s.dbg ∧ (haltDue x0 s).pwr = s.pwr ∧ (haltDue x0
    s).ckpt = s.ckpt := by
  induction x0 generalizing s with
  | zero => simp [haltDue]
  | succ n ih =>
    simp only [haltDue]
    (repeat' split) <;> simp [ih]

@[simp] theorem haltWith_frame (x0 x1 x2 x3 s) : (haltWith x0 x1 x2 x3 s).pending = s.pending ∧ (haltWith x0 x1 x2 x3
    s).tck = s.tck ∧ (haltWith x0 x1 x2 x3 s).arr = s.arr ∧ (haltWith x0 x1 x2 x3 s).exe = s.exe ∧ (haltWith x0 x1 x2
    x3 s).pen = s.pen ∧ (haltWith x0 x1 x2 x3 s).integ = s.integ ∧ (haltWith x0 x1 x2 x3 s).shed = s.shed ∧ (haltWith
    x0 x1 x2 x3 s).dmc = s.dmc ∧ (haltWith x0 x1 x2 x3 s).lnk = s.lnk ∧ (haltWith x0 x1 x2 x3 s).yms = s.yms ∧
    (haltWith x0 x1 x2 x3 s).pdk = s.pdk ∧ (haltWith x0 x1 x2 x3 s).ldr = s.ldr ∧ (haltWith x0 x1 x2 x3 s).sec = s.sec
    ∧ (haltWith x0 x1 x2 x3 s).trg = s.trg ∧ (haltWith x0 x1 x2 x3 s).ptp = s.ptp ∧ (haltWith x0 x1 x2 x3 s).dbg =
    s.dbg ∧ (haltWith x0 x1 x2 x3 s).pwr = s.pwr ∧ (haltWith x0 x1 x2 x3 s).ckpt = s.ckpt := by
  simp [haltWith]

/-! ### Network -/

@[simp] theorem netDeliver_frame (x0 x1 s) : (netDeliver x0 x1 s).pending = s.pending ∧ (netDeliver x0 x1 s).exe =
    s.exe ∧ (netDeliver x0 x1 s).ldr = s.ldr ∧ (netDeliver x0 x1 s).sec = s.sec ∧ (netDeliver x0 x1 s).ckpt = s.ckpt
    := by
  unfold netDeliver; split <;> simp

@[simp] theorem ejectOne_frame (x0 x1 s) : (ejectOne x0 x1 s).pending = s.pending ∧ (ejectOne x0 x1 s).exe = s.exe ∧
    (ejectOne x0 x1 s).ldr = s.ldr ∧ (ejectOne x0 x1 s).sec = s.sec ∧ (ejectOne x0 x1 s).ckpt = s.ckpt := by
  simp [ejectOne]

@[simp] theorem deliverDue_frame (x0 x1 s) : (deliverDue x0 x1 s).pending = s.pending ∧ (deliverDue x0 x1 s).exe =
    s.exe ∧ (deliverDue x0 x1 s).ldr = s.ldr ∧ (deliverDue x0 x1 s).sec = s.sec ∧ (deliverDue x0 x1 s).ckpt = s.ckpt
    := by
  fun_induction deliverDue <;> simp_all

@[simp] theorem noteWait_frame (x0 s) : (noteWait x0 s).pending = s.pending ∧ (noteWait x0 s).clk = s.clk ∧ (noteWait
    x0 s).tck = s.tck ∧ (noteWait x0 s).arr = s.arr ∧ (noteWait x0 s).exe = s.exe ∧ (noteWait x0 s).pen = s.pen ∧
    (noteWait x0 s).integ = s.integ ∧ (noteWait x0 s).shed = s.shed ∧ (noteWait x0 s).dmc = s.dmc ∧ (noteWait x0
    s).lnk = s.lnk ∧ (noteWait x0 s).yms = s.yms ∧ (noteWait x0 s).grm = s.grm ∧ (noteWait x0 s).pdk = s.pdk ∧
    (noteWait x0 s).ldr = s.ldr ∧ (noteWait x0 s).sec = s.sec ∧ (noteWait x0 s).trg = s.trg ∧ (noteWait x0 s).ptp =
    s.ptp ∧ (noteWait x0 s).dbg = s.dbg ∧ (noteWait x0 s).ckpt = s.ckpt := by
  unfold noteWait; split <;> simp

@[simp] theorem noteWaits_frame (x0 s) : (noteWaits x0 s).pending = s.pending ∧ (noteWaits x0 s).clk = s.clk ∧
    (noteWaits x0 s).tck = s.tck ∧ (noteWaits x0 s).arr = s.arr ∧ (noteWaits x0 s).exe = s.exe ∧ (noteWaits x0 s).pen
    = s.pen ∧ (noteWaits x0 s).integ = s.integ ∧ (noteWaits x0 s).shed = s.shed ∧ (noteWaits x0 s).dmc = s.dmc ∧
    (noteWaits x0 s).lnk = s.lnk ∧ (noteWaits x0 s).yms = s.yms ∧ (noteWaits x0 s).grm = s.grm ∧ (noteWaits x0 s).pdk
    = s.pdk ∧ (noteWaits x0 s).ldr = s.ldr ∧ (noteWaits x0 s).sec = s.sec ∧ (noteWaits x0 s).trg = s.trg ∧ (noteWaits
    x0 s).ptp = s.ptp ∧ (noteWaits x0 s).dbg = s.dbg ∧ (noteWaits x0 s).ckpt = s.ckpt := by
  simp [noteWaits]

@[simp] theorem retryFly_frame (s) : (retryFly s).pending = s.pending ∧ (retryFly s).exe = s.exe ∧ (retryFly s).ldr =
    s.ldr ∧ (retryFly s).sec = s.sec ∧ (retryFly s).ckpt = s.ckpt := by
  unfold retryFly; split <;> simp

@[simp] theorem netCycle_frame (x0 s) : (netCycle x0 s).pending = s.pending ∧ (netCycle x0 s).exe = s.exe ∧ (netCycle
    x0 s).ldr = s.ldr ∧ (netCycle x0 s).sec = s.sec ∧ (netCycle x0 s).ckpt = s.ckpt := by
  simp [netCycle]

@[simp] theorem netCycles_frame (x0 s) : (netCycles x0 s).pending = s.pending ∧ (netCycles x0 s).exe = s.exe ∧
    (netCycles x0 s).ldr = s.ldr ∧ (netCycles x0 s).sec = s.sec ∧ (netCycles x0 s).ckpt = s.ckpt := by
  fun_induction netCycles <;> simp_all

@[simp] theorem runNet_frame (s) : (runNet s).pending = s.pending ∧ (runNet s).exe = s.exe ∧ (runNet s).ldr = s.ldr ∧
    (runNet s).sec = s.sec ∧ (runNet s).ckpt = s.ckpt := by
  simp [runNet]

/-! ### Paddock -/

@[simp] theorem doGatewayCapture_frame (x0 x1 s) : (doGatewayCapture x0 x1 s).pending = s.pending ∧ (doGatewayCapture
    x0 x1 s).regs = s.regs ∧ (doGatewayCapture x0 x1 s).clk = s.clk ∧ (doGatewayCapture x0 x1 s).tck = s.tck ∧
    (doGatewayCapture x0 x1 s).arr = s.arr ∧ (doGatewayCapture x0 x1 s).exe = s.exe ∧ (doGatewayCapture x0 x1 s).integ
    = s.integ ∧ (doGatewayCapture x0 x1 s).shed = s.shed ∧ (doGatewayCapture x0 x1 s).dmc = s.dmc ∧ (doGatewayCapture
    x0 x1 s).lnk = s.lnk ∧ (doGatewayCapture x0 x1 s).rls = s.rls ∧ (doGatewayCapture x0 x1 s).yms = s.yms ∧
    (doGatewayCapture x0 x1 s).grm = s.grm ∧ (doGatewayCapture x0 x1 s).pdk = s.pdk ∧ (doGatewayCapture x0 x1 s).ldr =
    s.ldr ∧ (doGatewayCapture x0 x1 s).sec = s.sec ∧ (doGatewayCapture x0 x1 s).trg = s.trg ∧ (doGatewayCapture x0 x1
    s).ptp = s.ptp ∧ (doGatewayCapture x0 x1 s).dbg = s.dbg ∧ (doGatewayCapture x0 x1 s).pwr = s.pwr ∧
    (doGatewayCapture x0 x1 s).hst = s.hst ∧ (doGatewayCapture x0 x1 s).ckpt = s.ckpt := by
  simp [doGatewayCapture]

@[simp] theorem rclkWrite_frame (x0 x1 s) : (rclkWrite x0 x1 s).pending = s.pending ∧ (rclkWrite x0 x1 s).clk = s.clk
    ∧ (rclkWrite x0 x1 s).tck = s.tck ∧ (rclkWrite x0 x1 s).arr = s.arr ∧ (rclkWrite x0 x1 s).exe = s.exe ∧ (rclkWrite
    x0 x1 s).pen = s.pen ∧ (rclkWrite x0 x1 s).integ = s.integ ∧ (rclkWrite x0 x1 s).shed = s.shed ∧ (rclkWrite x0 x1
    s).dmc = s.dmc ∧ (rclkWrite x0 x1 s).lnk = s.lnk ∧ (rclkWrite x0 x1 s).rls = s.rls ∧ (rclkWrite x0 x1 s).yms =
    s.yms ∧ (rclkWrite x0 x1 s).grm = s.grm ∧ (rclkWrite x0 x1 s).ldr = s.ldr ∧ (rclkWrite x0 x1 s).sec = s.sec ∧
    (rclkWrite x0 x1 s).trg = s.trg ∧ (rclkWrite x0 x1 s).ptp = s.ptp ∧ (rclkWrite x0 x1 s).hst = s.hst ∧ (rclkWrite
    x0 x1 s).ckpt = s.ckpt := by
  simp only [rclkWrite]; (repeat' split) <;> simp_all

@[simp] theorem doRclkSwitch_frame (x0 x1 s) : (doRclkSwitch x0 x1 s).pending = s.pending ∧ (doRclkSwitch x0 x1 s).tck
    = s.tck ∧ (doRclkSwitch x0 x1 s).exe = s.exe ∧ (doRclkSwitch x0 x1 s).yms = s.yms ∧ (doRclkSwitch x0 x1 s).ldr =
    s.ldr ∧ (doRclkSwitch x0 x1 s).sec = s.sec ∧ (doRclkSwitch x0 x1 s).ckpt = s.ckpt := by
  simp [doRclkSwitch]

@[simp] theorem doRclkAbandon_frame (x0 s) : (doRclkAbandon x0 s).pending = s.pending ∧ (doRclkAbandon x0 s).clk =
    s.clk ∧ (doRclkAbandon x0 s).tck = s.tck ∧ (doRclkAbandon x0 s).arr = s.arr ∧ (doRclkAbandon x0 s).exe = s.exe ∧
    (doRclkAbandon x0 s).pen = s.pen ∧ (doRclkAbandon x0 s).integ = s.integ ∧ (doRclkAbandon x0 s).shed = s.shed ∧
    (doRclkAbandon x0 s).dmc = s.dmc ∧ (doRclkAbandon x0 s).lnk = s.lnk ∧ (doRclkAbandon x0 s).rls = s.rls ∧
    (doRclkAbandon x0 s).yms = s.yms ∧ (doRclkAbandon x0 s).grm = s.grm ∧ (doRclkAbandon x0 s).ldr = s.ldr ∧
    (doRclkAbandon x0 s).sec = s.sec ∧ (doRclkAbandon x0 s).trg = s.trg ∧ (doRclkAbandon x0 s).ptp = s.ptp ∧
    (doRclkAbandon x0 s).dbg = s.dbg ∧ (doRclkAbandon x0 s).pwr = s.pwr ∧ (doRclkAbandon x0 s).ckpt = s.ckpt := by
  simp [doRclkAbandon]

@[simp] theorem setQueue_frame (s x1 x2) : (setQueue s x1 x2).pending = s.pending ∧ (setQueue s x1 x2).regs = s.regs ∧
    (setQueue s x1 x2).tck = s.tck ∧ (setQueue s x1 x2).arr = s.arr ∧ (setQueue s x1 x2).exe = s.exe ∧ (setQueue s x1
    x2).pen = s.pen ∧ (setQueue s x1 x2).integ = s.integ ∧ (setQueue s x1 x2).shed = s.shed ∧ (setQueue s x1 x2).dmc =
    s.dmc ∧ (setQueue s x1 x2).lnk = s.lnk ∧ (setQueue s x1 x2).rls = s.rls ∧ (setQueue s x1 x2).yms = s.yms ∧
    (setQueue s x1 x2).grm = s.grm ∧ (setQueue s x1 x2).ldr = s.ldr ∧ (setQueue s x1 x2).sec = s.sec ∧ (setQueue s x1
    x2).trg = s.trg ∧ (setQueue s x1 x2).ptp = s.ptp ∧ (setQueue s x1 x2).dbg = s.dbg ∧ (setQueue s x1 x2).pwr = s.pwr
    ∧ (setQueue s x1 x2).hst = s.hst ∧ (setQueue s x1 x2).ckpt = s.ckpt := by
  simp [setQueue]

@[simp] theorem doQueueWrite_frame (x0 x1 s) : (doQueueWrite x0 x1 s).pending = s.pending ∧ (doQueueWrite x0 x1 s).tck
    = s.tck ∧ (doQueueWrite x0 x1 s).arr = s.arr ∧ (doQueueWrite x0 x1 s).exe = s.exe ∧ (doQueueWrite x0 x1 s).pen =
    s.pen ∧ (doQueueWrite x0 x1 s).integ = s.integ ∧ (doQueueWrite x0 x1 s).shed = s.shed ∧ (doQueueWrite x0 x1 s).dmc
    = s.dmc ∧ (doQueueWrite x0 x1 s).lnk = s.lnk ∧ (doQueueWrite x0 x1 s).rls = s.rls ∧ (doQueueWrite x0 x1 s).yms =
    s.yms ∧ (doQueueWrite x0 x1 s).grm = s.grm ∧ (doQueueWrite x0 x1 s).ldr = s.ldr ∧ (doQueueWrite x0 x1 s).sec =
    s.sec ∧ (doQueueWrite x0 x1 s).trg = s.trg ∧ (doQueueWrite x0 x1 s).ptp = s.ptp ∧ (doQueueWrite x0 x1 s).dbg =
    s.dbg ∧ (doQueueWrite x0 x1 s).pwr = s.pwr ∧ (doQueueWrite x0 x1 s).ckpt = s.ckpt := by
  simp [doQueueWrite]

@[simp] theorem doQueueRead_frame (x0 s) : (doQueueRead x0 s).pending = s.pending ∧ (doQueueRead x0 s).tck = s.tck ∧
    (doQueueRead x0 s).arr = s.arr ∧ (doQueueRead x0 s).exe = s.exe ∧ (doQueueRead x0 s).pen = s.pen ∧ (doQueueRead x0
    s).integ = s.integ ∧ (doQueueRead x0 s).shed = s.shed ∧ (doQueueRead x0 s).dmc = s.dmc ∧ (doQueueRead x0 s).lnk =
    s.lnk ∧ (doQueueRead x0 s).rls = s.rls ∧ (doQueueRead x0 s).yms = s.yms ∧ (doQueueRead x0 s).grm = s.grm ∧
    (doQueueRead x0 s).ldr = s.ldr ∧ (doQueueRead x0 s).sec = s.sec ∧ (doQueueRead x0 s).trg = s.trg ∧ (doQueueRead x0
    s).ptp = s.ptp ∧ (doQueueRead x0 s).dbg = s.dbg ∧ (doQueueRead x0 s).pwr = s.pwr ∧ (doQueueRead x0 s).ckpt =
    s.ckpt := by
  simp [doQueueRead]

@[simp] theorem doQrst_frame (x0 s) : (doQrst x0 s).pending = s.pending ∧ (doQrst x0 s).regs = s.regs ∧ (doQrst x0
    s).tck = s.tck ∧ (doQrst x0 s).arr = s.arr ∧ (doQrst x0 s).exe = s.exe ∧ (doQrst x0 s).pen = s.pen ∧ (doQrst x0
    s).integ = s.integ ∧ (doQrst x0 s).shed = s.shed ∧ (doQrst x0 s).dmc = s.dmc ∧ (doQrst x0 s).lnk = s.lnk ∧ (doQrst
    x0 s).rls = s.rls ∧ (doQrst x0 s).yms = s.yms ∧ (doQrst x0 s).grm = s.grm ∧ (doQrst x0 s).ldr = s.ldr ∧ (doQrst x0
    s).sec = s.sec ∧ (doQrst x0 s).trg = s.trg ∧ (doQrst x0 s).ptp = s.ptp ∧ (doQrst x0 s).dbg = s.dbg ∧ (doQrst x0
    s).pwr = s.pwr ∧ (doQrst x0 s).hst = s.hst ∧ (doQrst x0 s).ckpt = s.ckpt := by
  simp [doQrst]

@[simp] theorem ffHeld_frame (s) : (ffHeld s).pending = s.pending ∧ (ffHeld s).regs = s.regs ∧ (ffHeld s).clk = s.clk
    ∧ (ffHeld s).tck = s.tck ∧ (ffHeld s).arr = s.arr ∧ (ffHeld s).exe = s.exe ∧ (ffHeld s).pen = s.pen ∧ (ffHeld
    s).integ = s.integ ∧ (ffHeld s).shed = s.shed ∧ (ffHeld s).dmc = s.dmc ∧ (ffHeld s).lnk = s.lnk ∧ (ffHeld s).rls =
    s.rls ∧ (ffHeld s).yms = s.yms ∧ (ffHeld s).grm = s.grm ∧ (ffHeld s).ldr = s.ldr ∧ (ffHeld s).sec = s.sec ∧
    (ffHeld s).trg = s.trg ∧ (ffHeld s).ptp = s.ptp ∧ (ffHeld s).dbg = s.dbg ∧ (ffHeld s).pwr = s.pwr ∧ (ffHeld s).hst
    = s.hst ∧ (ffHeld s).ckpt = s.ckpt := by
  unfold ffHeld; split <;> simp

@[simp] theorem pdkCtrlWrite_frame (x0 x1 s) : (pdkCtrlWrite x0 x1 s).pending = s.pending ∧ (pdkCtrlWrite x0 x1 s).clk
    = s.clk ∧ (pdkCtrlWrite x0 x1 s).tck = s.tck ∧ (pdkCtrlWrite x0 x1 s).arr = s.arr ∧ (pdkCtrlWrite x0 x1 s).exe =
    s.exe ∧ (pdkCtrlWrite x0 x1 s).pen = s.pen ∧ (pdkCtrlWrite x0 x1 s).integ = s.integ ∧ (pdkCtrlWrite x0 x1 s).shed
    = s.shed ∧ (pdkCtrlWrite x0 x1 s).dmc = s.dmc ∧ (pdkCtrlWrite x0 x1 s).lnk = s.lnk ∧ (pdkCtrlWrite x0 x1 s).rls =
    s.rls ∧ (pdkCtrlWrite x0 x1 s).yms = s.yms ∧ (pdkCtrlWrite x0 x1 s).grm = s.grm ∧ (pdkCtrlWrite x0 x1 s).ldr =
    s.ldr ∧ (pdkCtrlWrite x0 x1 s).sec = s.sec ∧ (pdkCtrlWrite x0 x1 s).trg = s.trg ∧ (pdkCtrlWrite x0 x1 s).ptp =
    s.ptp ∧ (pdkCtrlWrite x0 x1 s).hst = s.hst ∧ (pdkCtrlWrite x0 x1 s).ckpt = s.ckpt := by
  simp [pdkCtrlWrite]

@[simp] theorem doFfreset_frame (x0 x1 s) : (doFfreset x0 x1 s).pending = s.pending ∧ (doFfreset x0 x1 s).tck = s.tck
    ∧ (doFfreset x0 x1 s).exe = s.exe ∧ (doFfreset x0 x1 s).yms = s.yms ∧ (doFfreset x0 x1 s).ldr = s.ldr ∧ (doFfreset
    x0 x1 s).sec = s.sec ∧ (doFfreset x0 x1 s).ckpt = s.ckpt := by
  simp [doFfreset]

/-! ### Debug -/

@[simp] theorem challengeCmd_frame (x0 s) : (challengeCmd x0 s).pending = s.pending ∧ (challengeCmd x0 s).regs =
    s.regs ∧ (challengeCmd x0 s).tck = s.tck ∧ (challengeCmd x0 s).arr = s.arr ∧ (challengeCmd x0 s).exe = s.exe ∧
    (challengeCmd x0 s).pen = s.pen ∧ (challengeCmd x0 s).integ = s.integ ∧ (challengeCmd x0 s).shed = s.shed ∧
    (challengeCmd x0 s).dmc = s.dmc ∧ (challengeCmd x0 s).lnk = s.lnk ∧ (challengeCmd x0 s).rls = s.rls ∧
    (challengeCmd x0 s).yms = s.yms ∧ (challengeCmd x0 s).grm = s.grm ∧ (challengeCmd x0 s).pdk = s.pdk ∧
    (challengeCmd x0 s).ldr = s.ldr ∧ (challengeCmd x0 s).sec = s.sec ∧ (challengeCmd x0 s).trg = s.trg ∧
    (challengeCmd x0 s).ptp = s.ptp ∧ (challengeCmd x0 s).pwr = s.pwr ∧ (challengeCmd x0 s).hst = s.hst ∧
    (challengeCmd x0 s).ckpt = s.ckpt := by
  simp [challengeCmd]

@[simp] theorem verifyCmd_frame (x0 x1 s) : (verifyCmd x0 x1 s).pending = s.pending ∧ (verifyCmd x0 x1 s).clk = s.clk
    ∧ (verifyCmd x0 x1 s).tck = s.tck ∧ (verifyCmd x0 x1 s).arr = s.arr ∧ (verifyCmd x0 x1 s).exe = s.exe ∧ (verifyCmd
    x0 x1 s).pen = s.pen ∧ (verifyCmd x0 x1 s).integ = s.integ ∧ (verifyCmd x0 x1 s).shed = s.shed ∧ (verifyCmd x0 x1
    s).dmc = s.dmc ∧ (verifyCmd x0 x1 s).lnk = s.lnk ∧ (verifyCmd x0 x1 s).rls = s.rls ∧ (verifyCmd x0 x1 s).yms =
    s.yms ∧ (verifyCmd x0 x1 s).grm = s.grm ∧ (verifyCmd x0 x1 s).pdk = s.pdk ∧ (verifyCmd x0 x1 s).ldr = s.ldr ∧
    (verifyCmd x0 x1 s).sec = s.sec ∧ (verifyCmd x0 x1 s).trg = s.trg ∧ (verifyCmd x0 x1 s).ptp = s.ptp ∧ (verifyCmd
    x0 x1 s).pwr = s.pwr ∧ (verifyCmd x0 x1 s).ckpt = s.ckpt := by
  simp only [verifyCmd]; (repeat' split) <;> simp_all

@[simp] theorem dropCmd_frame (x0 s) : (dropCmd x0 s).pending = s.pending ∧ (dropCmd x0 s).regs = s.regs ∧ (dropCmd x0
    s).clk = s.clk ∧ (dropCmd x0 s).tck = s.tck ∧ (dropCmd x0 s).arr = s.arr ∧ (dropCmd x0 s).exe = s.exe ∧ (dropCmd
    x0 s).pen = s.pen ∧ (dropCmd x0 s).integ = s.integ ∧ (dropCmd x0 s).shed = s.shed ∧ (dropCmd x0 s).dmc = s.dmc ∧
    (dropCmd x0 s).lnk = s.lnk ∧ (dropCmd x0 s).rls = s.rls ∧ (dropCmd x0 s).yms = s.yms ∧ (dropCmd x0 s).grm = s.grm
    ∧ (dropCmd x0 s).pdk = s.pdk ∧ (dropCmd x0 s).ldr = s.ldr ∧ (dropCmd x0 s).sec = s.sec ∧ (dropCmd x0 s).trg =
    s.trg ∧ (dropCmd x0 s).ptp = s.ptp ∧ (dropCmd x0 s).pwr = s.pwr ∧ (dropCmd x0 s).hst = s.hst ∧ (dropCmd x0 s).ckpt
    = s.ckpt := by
  simp [dropCmd]

@[simp] theorem authWrite_frame (x0 x1 s) : (authWrite x0 x1 s).pending = s.pending ∧ (authWrite x0 x1 s).tck = s.tck
    ∧ (authWrite x0 x1 s).arr = s.arr ∧ (authWrite x0 x1 s).exe = s.exe ∧ (authWrite x0 x1 s).pen = s.pen ∧ (authWrite
    x0 x1 s).integ = s.integ ∧ (authWrite x0 x1 s).shed = s.shed ∧ (authWrite x0 x1 s).dmc = s.dmc ∧ (authWrite x0 x1
    s).lnk = s.lnk ∧ (authWrite x0 x1 s).rls = s.rls ∧ (authWrite x0 x1 s).yms = s.yms ∧ (authWrite x0 x1 s).grm =
    s.grm ∧ (authWrite x0 x1 s).pdk = s.pdk ∧ (authWrite x0 x1 s).ldr = s.ldr ∧ (authWrite x0 x1 s).sec = s.sec ∧
    (authWrite x0 x1 s).trg = s.trg ∧ (authWrite x0 x1 s).ptp = s.ptp ∧ (authWrite x0 x1 s).pwr = s.pwr ∧ (authWrite
    x0 x1 s).ckpt = s.ckpt := by
  simp only [authWrite]; (repeat' split) <;> simp_all

@[simp] theorem doChallenge_frame (x0 s) : (doChallenge x0 s).pending = s.pending ∧ (doChallenge x0 s).tck = s.tck ∧
    (doChallenge x0 s).exe = s.exe ∧ (doChallenge x0 s).yms = s.yms ∧ (doChallenge x0 s).ldr = s.ldr ∧ (doChallenge x0
    s).sec = s.sec ∧ (doChallenge x0 s).ckpt = s.ckpt := by
  simp [doChallenge]

@[simp] theorem doVerify_frame (x0 x1 s) : (doVerify x0 x1 s).pending = s.pending ∧ (doVerify x0 x1 s).tck = s.tck ∧
    (doVerify x0 x1 s).exe = s.exe ∧ (doVerify x0 x1 s).yms = s.yms ∧ (doVerify x0 x1 s).ldr = s.ldr ∧ (doVerify x0 x1
    s).sec = s.sec ∧ (doVerify x0 x1 s).ckpt = s.ckpt := by
  simp [doVerify]

@[simp] theorem doDrop_frame (x0 s) : (doDrop x0 s).pending = s.pending ∧ (doDrop x0 s).tck = s.tck ∧ (doDrop x0
    s).exe = s.exe ∧ (doDrop x0 s).yms = s.yms ∧ (doDrop x0 s).ldr = s.ldr ∧ (doDrop x0 s).sec = s.sec ∧ (doDrop x0
    s).ckpt = s.ckpt := by
  simp [doDrop]

@[simp] theorem doNonceLapse_frame (x0 s) : (doNonceLapse x0 s).pending = s.pending ∧ (doNonceLapse x0 s).tck = s.tck
    ∧ (doNonceLapse x0 s).arr = s.arr ∧ (doNonceLapse x0 s).exe = s.exe ∧ (doNonceLapse x0 s).pen = s.pen ∧
    (doNonceLapse x0 s).integ = s.integ ∧ (doNonceLapse x0 s).dmc = s.dmc ∧ (doNonceLapse x0 s).lnk = s.lnk ∧
    (doNonceLapse x0 s).yms = s.yms ∧ (doNonceLapse x0 s).grm = s.grm ∧ (doNonceLapse x0 s).pdk = s.pdk ∧
    (doNonceLapse x0 s).ldr = s.ldr ∧ (doNonceLapse x0 s).sec = s.sec ∧ (doNonceLapse x0 s).trg = s.trg ∧
    (doNonceLapse x0 s).pwr = s.pwr ∧ (doNonceLapse x0 s).ckpt = s.ckpt := by
  simp [doNonceLapse]

@[simp] theorem doLockoutEnd_frame (x0 s) : (doLockoutEnd x0 s).pending = s.pending ∧ (doLockoutEnd x0 s).tck = s.tck
    ∧ (doLockoutEnd x0 s).arr = s.arr ∧ (doLockoutEnd x0 s).exe = s.exe ∧ (doLockoutEnd x0 s).pen = s.pen ∧
    (doLockoutEnd x0 s).integ = s.integ ∧ (doLockoutEnd x0 s).dmc = s.dmc ∧ (doLockoutEnd x0 s).lnk = s.lnk ∧
    (doLockoutEnd x0 s).yms = s.yms ∧ (doLockoutEnd x0 s).grm = s.grm ∧ (doLockoutEnd x0 s).pdk = s.pdk ∧
    (doLockoutEnd x0 s).ldr = s.ldr ∧ (doLockoutEnd x0 s).sec = s.sec ∧ (doLockoutEnd x0 s).trg = s.trg ∧
    (doLockoutEnd x0 s).pwr = s.pwr ∧ (doLockoutEnd x0 s).ckpt = s.ckpt := by
  simp [doLockoutEnd]

@[simp] theorem doTestLogicReset_frame (s) : (doTestLogicReset s).pending = s.pending ∧ (doTestLogicReset s).regs =
    s.regs ∧ (doTestLogicReset s).clk = s.clk ∧ (doTestLogicReset s).tck = s.tck ∧ (doTestLogicReset s).arr = s.arr ∧
    (doTestLogicReset s).exe = s.exe ∧ (doTestLogicReset s).pen = s.pen ∧ (doTestLogicReset s).integ = s.integ ∧
    (doTestLogicReset s).shed = s.shed ∧ (doTestLogicReset s).dmc = s.dmc ∧ (doTestLogicReset s).lnk = s.lnk ∧
    (doTestLogicReset s).rls = s.rls ∧ (doTestLogicReset s).yms = s.yms ∧ (doTestLogicReset s).grm = s.grm ∧
    (doTestLogicReset s).pdk = s.pdk ∧ (doTestLogicReset s).ldr = s.ldr ∧ (doTestLogicReset s).sec = s.sec ∧
    (doTestLogicReset s).trg = s.trg ∧ (doTestLogicReset s).ptp = s.ptp ∧ (doTestLogicReset s).pwr = s.pwr ∧
    (doTestLogicReset s).hst = s.hst ∧ (doTestLogicReset s).ckpt = s.ckpt := by
  simp [doTestLogicReset]

@[simp] theorem doExtest_frame (x0 x1 s) : (doExtest x0 x1 s).pending = s.pending ∧ (doExtest x0 x1 s).regs = s.regs ∧
    (doExtest x0 x1 s).clk = s.clk ∧ (doExtest x0 x1 s).tck = s.tck ∧ (doExtest x0 x1 s).arr = s.arr ∧ (doExtest x0 x1
    s).exe = s.exe ∧ (doExtest x0 x1 s).pen = s.pen ∧ (doExtest x0 x1 s).integ = s.integ ∧ (doExtest x0 x1 s).shed =
    s.shed ∧ (doExtest x0 x1 s).dmc = s.dmc ∧ (doExtest x0 x1 s).lnk = s.lnk ∧ (doExtest x0 x1 s).rls = s.rls ∧
    (doExtest x0 x1 s).yms = s.yms ∧ (doExtest x0 x1 s).grm = s.grm ∧ (doExtest x0 x1 s).pdk = s.pdk ∧ (doExtest x0 x1
    s).ldr = s.ldr ∧ (doExtest x0 x1 s).sec = s.sec ∧ (doExtest x0 x1 s).trg = s.trg ∧ (doExtest x0 x1 s).ptp = s.ptp
    ∧ (doExtest x0 x1 s).pwr = s.pwr ∧ (doExtest x0 x1 s).hst = s.hst ∧ (doExtest x0 x1 s).ckpt = s.ckpt := by
  simp [doExtest]

@[simp] theorem aqWrite_frame (x0 x1 s) : (aqWrite x0 x1 s).pending = s.pending ∧ (aqWrite x0 x1 s).regs = s.regs ∧
    (aqWrite x0 x1 s).clk = s.clk ∧ (aqWrite x0 x1 s).tck = s.tck ∧ (aqWrite x0 x1 s).arr = s.arr ∧ (aqWrite x0 x1
    s).exe = s.exe ∧ (aqWrite x0 x1 s).pen = s.pen ∧ (aqWrite x0 x1 s).integ = s.integ ∧ (aqWrite x0 x1 s).shed =
    s.shed ∧ (aqWrite x0 x1 s).dmc = s.dmc ∧ (aqWrite x0 x1 s).lnk = s.lnk ∧ (aqWrite x0 x1 s).rls = s.rls ∧ (aqWrite
    x0 x1 s).yms = s.yms ∧ (aqWrite x0 x1 s).grm = s.grm ∧ (aqWrite x0 x1 s).pdk = s.pdk ∧ (aqWrite x0 x1 s).ldr =
    s.ldr ∧ (aqWrite x0 x1 s).sec = s.sec ∧ (aqWrite x0 x1 s).trg = s.trg ∧ (aqWrite x0 x1 s).ptp = s.ptp ∧ (aqWrite
    x0 x1 s).pwr = s.pwr ∧ (aqWrite x0 x1 s).hst = s.hst ∧ (aqWrite x0 x1 s).ckpt = s.ckpt := by
  unfold aqWrite; split <;> simp

@[simp] theorem doAqGo_frame (x0 s) : (doAqGo x0 s).pending = s.pending ∧ (doAqGo x0 s).tck = s.tck ∧ (doAqGo x0
    s).exe = s.exe ∧ (doAqGo x0 s).yms = s.yms ∧ (doAqGo x0 s).ldr = s.ldr ∧ (doAqGo x0 s).sec = s.sec ∧ (doAqGo x0
    s).ckpt = s.ckpt := by
  simp [doAqGo]

@[simp] theorem reachBarn_frame (x0 s) : (reachBarn x0 s).pending = s.pending ∧ (reachBarn x0 s).tck = s.tck ∧
    (reachBarn x0 s).exe = s.exe ∧ (reachBarn x0 s).yms = s.yms ∧ (reachBarn x0 s).ldr = s.ldr ∧ (reachBarn x0 s).sec
    = s.sec ∧ (reachBarn x0 s).ckpt = s.ckpt := by
  unfold reachBarn; split <;> simp

@[simp] theorem aqEnd_frame (x0 x1 x2 s) : (aqEnd x0 x1 x2 s).pending = s.pending ∧ (aqEnd x0 x1 x2 s).clk = s.clk ∧
    (aqEnd x0 x1 x2 s).tck = s.tck ∧ (aqEnd x0 x1 x2 s).arr = s.arr ∧ (aqEnd x0 x1 x2 s).exe = s.exe ∧ (aqEnd x0 x1 x2
    s).pen = s.pen ∧ (aqEnd x0 x1 x2 s).integ = s.integ ∧ (aqEnd x0 x1 x2 s).shed = s.shed ∧ (aqEnd x0 x1 x2 s).dmc =
    s.dmc ∧ (aqEnd x0 x1 x2 s).lnk = s.lnk ∧ (aqEnd x0 x1 x2 s).rls = s.rls ∧ (aqEnd x0 x1 x2 s).yms = s.yms ∧ (aqEnd
    x0 x1 x2 s).grm = s.grm ∧ (aqEnd x0 x1 x2 s).pdk = s.pdk ∧ (aqEnd x0 x1 x2 s).ldr = s.ldr ∧ (aqEnd x0 x1 x2 s).sec
    = s.sec ∧ (aqEnd x0 x1 x2 s).trg = s.trg ∧ (aqEnd x0 x1 x2 s).ptp = s.ptp ∧ (aqEnd x0 x1 x2 s).pwr = s.pwr ∧
    (aqEnd x0 x1 x2 s).ckpt = s.ckpt := by
  simp [aqEnd]

@[simp] theorem doAqCapture_frame (x0 s) : (doAqCapture x0 s).pending = s.pending ∧ (doAqCapture x0 s).tck = s.tck ∧
    (doAqCapture x0 s).yms = s.yms ∧ (doAqCapture x0 s).ldr = s.ldr ∧ (doAqCapture x0 s).sec = s.sec ∧ (doAqCapture x0
    s).ckpt = s.ckpt := by
  simp only [doAqCapture]; (repeat' split) <;> simp_all

@[simp] theorem dbgRefused_frame (s) : (dbgRefused s).pending = s.pending ∧ (dbgRefused s).clk = s.clk ∧ (dbgRefused
    s).tck = s.tck ∧ (dbgRefused s).arr = s.arr ∧ (dbgRefused s).exe = s.exe ∧ (dbgRefused s).pen = s.pen ∧
    (dbgRefused s).integ = s.integ ∧ (dbgRefused s).shed = s.shed ∧ (dbgRefused s).dmc = s.dmc ∧ (dbgRefused s).lnk =
    s.lnk ∧ (dbgRefused s).rls = s.rls ∧ (dbgRefused s).yms = s.yms ∧ (dbgRefused s).grm = s.grm ∧ (dbgRefused s).pdk
    = s.pdk ∧ (dbgRefused s).ldr = s.ldr ∧ (dbgRefused s).sec = s.sec ∧ (dbgRefused s).trg = s.trg ∧ (dbgRefused
    s).ptp = s.ptp ∧ (dbgRefused s).dbg = s.dbg ∧ (dbgRefused s).pwr = s.pwr ∧ (dbgRefused s).ckpt = s.ckpt := by
  simp [dbgRefused]

@[simp] theorem pokeBit_frame (x0 x1 s) : (pokeBit x0 x1 s).pending = s.pending ∧ (pokeBit x0 x1 s).regs = s.regs ∧
    (pokeBit x0 x1 s).clk = s.clk ∧ (pokeBit x0 x1 s).tck = s.tck ∧ (pokeBit x0 x1 s).exe = s.exe ∧ (pokeBit x0 x1
    s).pen = s.pen ∧ (pokeBit x0 x1 s).integ = s.integ ∧ (pokeBit x0 x1 s).shed = s.shed ∧ (pokeBit x0 x1 s).dmc =
    s.dmc ∧ (pokeBit x0 x1 s).lnk = s.lnk ∧ (pokeBit x0 x1 s).rls = s.rls ∧ (pokeBit x0 x1 s).yms = s.yms ∧ (pokeBit
    x0 x1 s).grm = s.grm ∧ (pokeBit x0 x1 s).pdk = s.pdk ∧ (pokeBit x0 x1 s).ldr = s.ldr ∧ (pokeBit x0 x1 s).sec =
    s.sec ∧ (pokeBit x0 x1 s).trg = s.trg ∧ (pokeBit x0 x1 s).ptp = s.ptp ∧ (pokeBit x0 x1 s).dbg = s.dbg ∧ (pokeBit
    x0 x1 s).pwr = s.pwr ∧ (pokeBit x0 x1 s).hst = s.hst ∧ (pokeBit x0 x1 s).ckpt = s.ckpt := by
  simp [pokeBit]

@[simp] theorem depWrite_frame (x0 x1 s) : (depWrite x0 x1 s).pending = s.pending ∧ (depWrite x0 x1 s).tck = s.tck ∧
    (depWrite x0 x1 s).exe = s.exe ∧ (depWrite x0 x1 s).yms = s.yms ∧ (depWrite x0 x1 s).ldr = s.ldr ∧ (depWrite x0 x1
    s).sec = s.sec ∧ (depWrite x0 x1 s).ckpt = s.ckpt := by
  simp only [depWrite]; (repeat' split) <;> simp_all

@[simp] theorem doDepGo_frame (x0 x1 s) : (doDepGo x0 x1 s).pending = s.pending ∧ (doDepGo x0 x1 s).tck = s.tck ∧
    (doDepGo x0 x1 s).exe = s.exe ∧ (doDepGo x0 x1 s).yms = s.yms ∧ (doDepGo x0 x1 s).ldr = s.ldr ∧ (doDepGo x0 x1
    s).sec = s.sec ∧ (doDepGo x0 x1 s).ckpt = s.ckpt := by
  simp [doDepGo]

@[simp] theorem forceEntry_frame (x0 x1 s) : (forceEntry x0 x1 s).pending = s.pending ∧ (forceEntry x0 x1 s).tck =
    s.tck ∧ (forceEntry x0 x1 s).exe = s.exe ∧ (forceEntry x0 x1 s).yms = s.yms ∧ (forceEntry x0 x1 s).ldr = s.ldr ∧
    (forceEntry x0 x1 s).sec = s.sec ∧ (forceEntry x0 x1 s).ckpt = s.ckpt := by
  simp only [forceEntry]; (repeat' split) <;> simp_all

@[simp] theorem forceWrite_frame (x0 x1 s) : (forceWrite x0 x1 s).pending = s.pending ∧ (forceWrite x0 x1 s).tck =
    s.tck ∧ (forceWrite x0 x1 s).exe = s.exe ∧ (forceWrite x0 x1 s).yms = s.yms ∧ (forceWrite x0 x1 s).ldr = s.ldr ∧
    (forceWrite x0 x1 s).sec = s.sec ∧ (forceWrite x0 x1 s).ckpt = s.ckpt := by
  simp only [forceWrite]; (repeat' split) <;> simp_all

@[simp] theorem doForceWrite_frame (x0 x1 s) : (doForceWrite x0 x1 s).pending = s.pending ∧ (doForceWrite x0 x1 s).tck
    = s.tck ∧ (doForceWrite x0 x1 s).exe = s.exe ∧ (doForceWrite x0 x1 s).yms = s.yms ∧ (doForceWrite x0 x1 s).ldr =
    s.ldr ∧ (doForceWrite x0 x1 s).sec = s.sec ∧ (doForceWrite x0 x1 s).ckpt = s.ckpt := by
  simp [doForceWrite]

@[simp] theorem bmScratch_frame (x0 x1 x2 s) : (bmScratch x0 x1 x2 s).pending = s.pending ∧ (bmScratch x0 x1 x2 s).clk
    = s.clk ∧ (bmScratch x0 x1 x2 s).tck = s.tck ∧ (bmScratch x0 x1 x2 s).arr = s.arr ∧ (bmScratch x0 x1 x2 s).exe =
    s.exe ∧ (bmScratch x0 x1 x2 s).pen = s.pen ∧ (bmScratch x0 x1 x2 s).integ = s.integ ∧ (bmScratch x0 x1 x2 s).shed
    = s.shed ∧ (bmScratch x0 x1 x2 s).dmc = s.dmc ∧ (bmScratch x0 x1 x2 s).lnk = s.lnk ∧ (bmScratch x0 x1 x2 s).rls =
    s.rls ∧ (bmScratch x0 x1 x2 s).yms = s.yms ∧ (bmScratch x0 x1 x2 s).pdk = s.pdk ∧ (bmScratch x0 x1 x2 s).ldr =
    s.ldr ∧ (bmScratch x0 x1 x2 s).sec = s.sec ∧ (bmScratch x0 x1 x2 s).trg = s.trg ∧ (bmScratch x0 x1 x2 s).ptp =
    s.ptp ∧ (bmScratch x0 x1 x2 s).pwr = s.pwr ∧ (bmScratch x0 x1 x2 s).hst = s.hst ∧ (bmScratch x0 x1 x2 s).ckpt =
    s.ckpt := by
  simp only [bmScratch]; (repeat' split) <;> simp_all

@[simp] theorem bmDram_frame (x0 x1 s) : (bmDram x0 x1 s).pending = s.pending ∧ (bmDram x0 x1 s).tck = s.tck ∧ (bmDram
    x0 x1 s).arr = s.arr ∧ (bmDram x0 x1 s).exe = s.exe ∧ (bmDram x0 x1 s).pen = s.pen ∧ (bmDram x0 x1 s).integ =
    s.integ ∧ (bmDram x0 x1 s).shed = s.shed ∧ (bmDram x0 x1 s).lnk = s.lnk ∧ (bmDram x0 x1 s).yms = s.yms ∧ (bmDram
    x0 x1 s).grm = s.grm ∧ (bmDram x0 x1 s).pdk = s.pdk ∧ (bmDram x0 x1 s).ldr = s.ldr ∧ (bmDram x0 x1 s).sec = s.sec
    ∧ (bmDram x0 x1 s).trg = s.trg ∧ (bmDram x0 x1 s).ptp = s.ptp ∧ (bmDram x0 x1 s).dbg = s.dbg ∧ (bmDram x0 x1
    s).ckpt = s.ckpt := by
  simp only [bmDram]; (repeat' split) <;> simp_all

@[simp] theorem bmShed_frame (x0 x1 x2 s) : (bmShed x0 x1 x2 s).pending = s.pending ∧ (bmShed x0 x1 x2 s).tck = s.tck
    ∧ (bmShed x0 x1 x2 s).arr = s.arr ∧ (bmShed x0 x1 x2 s).exe = s.exe ∧ (bmShed x0 x1 x2 s).pen = s.pen ∧ (bmShed x0
    x1 x2 s).integ = s.integ ∧ (bmShed x0 x1 x2 s).dmc = s.dmc ∧ (bmShed x0 x1 x2 s).lnk = s.lnk ∧ (bmShed x0 x1 x2
    s).yms = s.yms ∧ (bmShed x0 x1 x2 s).grm = s.grm ∧ (bmShed x0 x1 x2 s).pdk = s.pdk ∧ (bmShed x0 x1 x2 s).ldr =
    s.ldr ∧ (bmShed x0 x1 x2 s).sec = s.sec ∧ (bmShed x0 x1 x2 s).trg = s.trg ∧ (bmShed x0 x1 x2 s).ptp = s.ptp ∧
    (bmShed x0 x1 x2 s).dbg = s.dbg ∧ (bmShed x0 x1 x2 s).ckpt = s.ckpt := by
  simp only [bmShed]; (repeat' split) <;> simp_all

@[simp] theorem bmWrite_frame (x0 x1 s) : (bmWrite x0 x1 s).pending = s.pending ∧ (bmWrite x0 x1 s).tck = s.tck ∧
    (bmWrite x0 x1 s).arr = s.arr ∧ (bmWrite x0 x1 s).exe = s.exe ∧ (bmWrite x0 x1 s).pen = s.pen ∧ (bmWrite x0 x1
    s).integ = s.integ ∧ (bmWrite x0 x1 s).lnk = s.lnk ∧ (bmWrite x0 x1 s).yms = s.yms ∧ (bmWrite x0 x1 s).pdk = s.pdk
    ∧ (bmWrite x0 x1 s).ldr = s.ldr ∧ (bmWrite x0 x1 s).sec = s.sec ∧ (bmWrite x0 x1 s).trg = s.trg ∧ (bmWrite x0 x1
    s).ptp = s.ptp ∧ (bmWrite x0 x1 s).ckpt = s.ckpt := by
  simp only [bmWrite]; (repeat' split) <;> simp_all

@[simp] theorem doBmGo_frame (x0 x1 s) : (doBmGo x0 x1 s).pending = s.pending ∧ (doBmGo x0 x1 s).tck = s.tck ∧ (doBmGo
    x0 x1 s).exe = s.exe ∧ (doBmGo x0 x1 s).yms = s.yms ∧ (doBmGo x0 x1 s).ldr = s.ldr ∧ (doBmGo x0 x1 s).sec = s.sec
    ∧ (doBmGo x0 x1 s).ckpt = s.ckpt := by
  simp [doBmGo]

@[simp] theorem resumeGroom_frame (x0 s) : (resumeGroom x0 s).pending = s.pending ∧ (resumeGroom x0 s).tck = s.tck ∧
    (resumeGroom x0 s).arr = s.arr ∧ (resumeGroom x0 s).exe = s.exe ∧ (resumeGroom x0 s).pen = s.pen ∧ (resumeGroom x0
    s).integ = s.integ ∧ (resumeGroom x0 s).shed = s.shed ∧ (resumeGroom x0 s).dmc = s.dmc ∧ (resumeGroom x0 s).lnk =
    s.lnk ∧ (resumeGroom x0 s).rls = s.rls ∧ (resumeGroom x0 s).yms = s.yms ∧ (resumeGroom x0 s).pdk = s.pdk ∧
    (resumeGroom x0 s).ldr = s.ldr ∧ (resumeGroom x0 s).sec = s.sec ∧ (resumeGroom x0 s).trg = s.trg ∧ (resumeGroom x0
    s).ptp = s.ptp ∧ (resumeGroom x0 s).dbg = s.dbg ∧ (resumeGroom x0 s).pwr = s.pwr ∧ (resumeGroom x0 s).ckpt =
    s.ckpt := by
  simp [resumeGroom]

@[simp] theorem stepGroom_frame (x0 s) : (stepGroom x0 s).pending = s.pending ∧ (stepGroom x0 s).tck = s.tck ∧
    (stepGroom x0 s).arr = s.arr ∧ (stepGroom x0 s).exe = s.exe ∧ (stepGroom x0 s).pen = s.pen ∧ (stepGroom x0
    s).integ = s.integ ∧ (stepGroom x0 s).shed = s.shed ∧ (stepGroom x0 s).dmc = s.dmc ∧ (stepGroom x0 s).lnk = s.lnk
    ∧ (stepGroom x0 s).yms = s.yms ∧ (stepGroom x0 s).pdk = s.pdk ∧ (stepGroom x0 s).ldr = s.ldr ∧ (stepGroom x0
    s).sec = s.sec ∧ (stepGroom x0 s).trg = s.trg ∧ (stepGroom x0 s).ptp = s.ptp ∧ (stepGroom x0 s).dbg = s.dbg ∧
    (stepGroom x0 s).pwr = s.pwr ∧ (stepGroom x0 s).ckpt = s.ckpt := by
  simp [stepGroom]

@[simp] theorem gctrlWrite_frame (x0 x1 x2 s) : (gctrlWrite x0 x1 x2 s).pending = s.pending ∧ (gctrlWrite x0 x1 x2
    s).tck = s.tck ∧ (gctrlWrite x0 x1 x2 s).arr = s.arr ∧ (gctrlWrite x0 x1 x2 s).exe = s.exe ∧ (gctrlWrite x0 x1 x2
    s).pen = s.pen ∧ (gctrlWrite x0 x1 x2 s).integ = s.integ ∧ (gctrlWrite x0 x1 x2 s).shed = s.shed ∧ (gctrlWrite x0
    x1 x2 s).dmc = s.dmc ∧ (gctrlWrite x0 x1 x2 s).lnk = s.lnk ∧ (gctrlWrite x0 x1 x2 s).yms = s.yms ∧ (gctrlWrite x0
    x1 x2 s).pdk = s.pdk ∧ (gctrlWrite x0 x1 x2 s).ldr = s.ldr ∧ (gctrlWrite x0 x1 x2 s).sec = s.sec ∧ (gctrlWrite x0
    x1 x2 s).trg = s.trg ∧ (gctrlWrite x0 x1 x2 s).ptp = s.ptp ∧ (gctrlWrite x0 x1 x2 s).ckpt = s.ckpt := by
  simp only [gctrlWrite]; (repeat' split) <;> simp_all

@[simp] theorem gctrlBit_frame (x0 x1 x2 s) : (gctrlBit x0 x1 x2 s).pending = s.pending ∧ (gctrlBit x0 x1 x2 s).tck =
    s.tck ∧ (gctrlBit x0 x1 x2 s).exe = s.exe ∧ (gctrlBit x0 x1 x2 s).yms = s.yms ∧ (gctrlBit x0 x1 x2 s).ldr = s.ldr
    ∧ (gctrlBit x0 x1 x2 s).sec = s.sec ∧ (gctrlBit x0 x1 x2 s).ckpt = s.ckpt := by
  simp [gctrlBit]

@[simp] theorem doGctrlHalt_frame (x0 x1 s) : (doGctrlHalt x0 x1 s).pending = s.pending ∧ (doGctrlHalt x0 x1 s).tck =
    s.tck ∧ (doGctrlHalt x0 x1 s).exe = s.exe ∧ (doGctrlHalt x0 x1 s).yms = s.yms ∧ (doGctrlHalt x0 x1 s).ldr = s.ldr
    ∧ (doGctrlHalt x0 x1 s).sec = s.sec ∧ (doGctrlHalt x0 x1 s).ckpt = s.ckpt := by
  simp [doGctrlHalt]

@[simp] theorem doGctrlResume_frame (x0 x1 s) : (doGctrlResume x0 x1 s).pending = s.pending ∧ (doGctrlResume x0 x1
    s).tck = s.tck ∧ (doGctrlResume x0 x1 s).exe = s.exe ∧ (doGctrlResume x0 x1 s).yms = s.yms ∧ (doGctrlResume x0 x1
    s).ldr = s.ldr ∧ (doGctrlResume x0 x1 s).sec = s.sec ∧ (doGctrlResume x0 x1 s).ckpt = s.ckpt := by
  simp [doGctrlResume]

@[simp] theorem doGctrlStep_frame (x0 x1 s) : (doGctrlStep x0 x1 s).pending = s.pending ∧ (doGctrlStep x0 x1 s).tck =
    s.tck ∧ (doGctrlStep x0 x1 s).exe = s.exe ∧ (doGctrlStep x0 x1 s).yms = s.yms ∧ (doGctrlStep x0 x1 s).ldr = s.ldr
    ∧ (doGctrlStep x0 x1 s).sec = s.sec ∧ (doGctrlStep x0 x1 s).ckpt = s.ckpt := by
  simp [doGctrlStep]

@[simp] theorem groupWrite_frame (x0 x1 s) : (groupWrite x0 x1 s).pending = s.pending ∧ (groupWrite x0 x1 s).tck =
    s.tck ∧ (groupWrite x0 x1 s).arr = s.arr ∧ (groupWrite x0 x1 s).exe = s.exe ∧ (groupWrite x0 x1 s).pen = s.pen ∧
    (groupWrite x0 x1 s).integ = s.integ ∧ (groupWrite x0 x1 s).shed = s.shed ∧ (groupWrite x0 x1 s).dmc = s.dmc ∧
    (groupWrite x0 x1 s).lnk = s.lnk ∧ (groupWrite x0 x1 s).rls = s.rls ∧ (groupWrite x0 x1 s).yms = s.yms ∧
    (groupWrite x0 x1 s).pdk = s.pdk ∧ (groupWrite x0 x1 s).ldr = s.ldr ∧ (groupWrite x0 x1 s).sec = s.sec ∧
    (groupWrite x0 x1 s).trg = s.trg ∧ (groupWrite x0 x1 s).ptp = s.ptp ∧ (groupWrite x0 x1 s).ckpt = s.ckpt := by
  simp [groupWrite, ite_frame]

@[simp] theorem doResumeAll_frame (x0 s) : (doResumeAll x0 s).pending = s.pending ∧ (doResumeAll x0 s).tck = s.tck ∧
    (doResumeAll x0 s).exe = s.exe ∧ (doResumeAll x0 s).yms = s.yms ∧ (doResumeAll x0 s).ldr = s.ldr ∧ (doResumeAll x0
    s).sec = s.sec ∧ (doResumeAll x0 s).ckpt = s.ckpt := by
  simp [doResumeAll]

@[simp] theorem doComparatorMatch_frame (x0 x1 x2 s) : (doComparatorMatch x0 x1 x2 s).pending = s.pending ∧
    (doComparatorMatch x0 x1 x2 s).tck = s.tck ∧ (doComparatorMatch x0 x1 x2 s).arr = s.arr ∧ (doComparatorMatch x0 x1
    x2 s).exe = s.exe ∧ (doComparatorMatch x0 x1 x2 s).pen = s.pen ∧ (doComparatorMatch x0 x1 x2 s).integ = s.integ ∧
    (doComparatorMatch x0 x1 x2 s).shed = s.shed ∧ (doComparatorMatch x0 x1 x2 s).dmc = s.dmc ∧ (doComparatorMatch x0
    x1 x2 s).lnk = s.lnk ∧ (doComparatorMatch x0 x1 x2 s).yms = s.yms ∧ (doComparatorMatch x0 x1 x2 s).pdk = s.pdk ∧
    (doComparatorMatch x0 x1 x2 s).ldr = s.ldr ∧ (doComparatorMatch x0 x1 x2 s).sec = s.sec ∧ (doComparatorMatch x0 x1
    x2 s).trg = s.trg ∧ (doComparatorMatch x0 x1 x2 s).ptp = s.ptp ∧ (doComparatorMatch x0 x1 x2 s).dbg = s.dbg ∧
    (doComparatorMatch x0 x1 x2 s).pwr = s.pwr ∧ (doComparatorMatch x0 x1 x2 s).ckpt = s.ckpt := by
  simp only [doComparatorMatch]; (repeat' split) <;> simp_all

@[simp] theorem doEbreak_frame (x0 s) : (doEbreak x0 s).pending = s.pending ∧ (doEbreak x0 s).tck = s.tck ∧ (doEbreak
    x0 s).arr = s.arr ∧ (doEbreak x0 s).exe = s.exe ∧ (doEbreak x0 s).pen = s.pen ∧ (doEbreak x0 s).integ = s.integ ∧
    (doEbreak x0 s).shed = s.shed ∧ (doEbreak x0 s).dmc = s.dmc ∧ (doEbreak x0 s).lnk = s.lnk ∧ (doEbreak x0 s).yms =
    s.yms ∧ (doEbreak x0 s).pdk = s.pdk ∧ (doEbreak x0 s).ldr = s.ldr ∧ (doEbreak x0 s).sec = s.sec ∧ (doEbreak x0
    s).trg = s.trg ∧ (doEbreak x0 s).ptp = s.ptp ∧ (doEbreak x0 s).dbg = s.dbg ∧ (doEbreak x0 s).pwr = s.pwr ∧
    (doEbreak x0 s).ckpt = s.ckpt := by
  simp [doEbreak]

@[simp] theorem gregPut_frame (x0 x1 s) : (gregPut x0 x1 s).pending = s.pending ∧ (gregPut x0 x1 s).tck = s.tck ∧
    (gregPut x0 x1 s).arr = s.arr ∧ (gregPut x0 x1 s).exe = s.exe ∧ (gregPut x0 x1 s).pen = s.pen ∧ (gregPut x0 x1
    s).integ = s.integ ∧ (gregPut x0 x1 s).shed = s.shed ∧ (gregPut x0 x1 s).dmc = s.dmc ∧ (gregPut x0 x1 s).lnk =
    s.lnk ∧ (gregPut x0 x1 s).rls = s.rls ∧ (gregPut x0 x1 s).yms = s.yms ∧ (gregPut x0 x1 s).pdk = s.pdk ∧ (gregPut
    x0 x1 s).ldr = s.ldr ∧ (gregPut x0 x1 s).sec = s.sec ∧ (gregPut x0 x1 s).trg = s.trg ∧ (gregPut x0 x1 s).ptp =
    s.ptp ∧ (gregPut x0 x1 s).dbg = s.dbg ∧ (gregPut x0 x1 s).pwr = s.pwr ∧ (gregPut x0 x1 s).ckpt = s.ckpt := by
  simp only [gregPut]; (repeat' split) <;> simp_all

@[simp] theorem notHalted_frame (x0 s) : (notHalted x0 s).pending = s.pending ∧ (notHalted x0 s).clk = s.clk ∧
    (notHalted x0 s).tck = s.tck ∧ (notHalted x0 s).arr = s.arr ∧ (notHalted x0 s).exe = s.exe ∧ (notHalted x0 s).pen
    = s.pen ∧ (notHalted x0 s).integ = s.integ ∧ (notHalted x0 s).shed = s.shed ∧ (notHalted x0 s).dmc = s.dmc ∧
    (notHalted x0 s).lnk = s.lnk ∧ (notHalted x0 s).rls = s.rls ∧ (notHalted x0 s).yms = s.yms ∧ (notHalted x0 s).grm
    = s.grm ∧ (notHalted x0 s).pdk = s.pdk ∧ (notHalted x0 s).ldr = s.ldr ∧ (notHalted x0 s).sec = s.sec ∧ (notHalted
    x0 s).trg = s.trg ∧ (notHalted x0 s).ptp = s.ptp ∧ (notHalted x0 s).dbg = s.dbg ∧ (notHalted x0 s).pwr = s.pwr ∧
    (notHalted x0 s).ckpt = s.ckpt := by
  simp [notHalted]

@[simp] theorem gregWrite_frame (x0 x1 x2 s) : (gregWrite x0 x1 x2 s).pending = s.pending ∧ (gregWrite x0 x1 x2 s).tck
    = s.tck ∧ (gregWrite x0 x1 x2 s).arr = s.arr ∧ (gregWrite x0 x1 x2 s).exe = s.exe ∧ (gregWrite x0 x1 x2 s).pen =
    s.pen ∧ (gregWrite x0 x1 x2 s).integ = s.integ ∧ (gregWrite x0 x1 x2 s).shed = s.shed ∧ (gregWrite x0 x1 x2 s).dmc
    = s.dmc ∧ (gregWrite x0 x1 x2 s).lnk = s.lnk ∧ (gregWrite x0 x1 x2 s).rls = s.rls ∧ (gregWrite x0 x1 x2 s).yms =
    s.yms ∧ (gregWrite x0 x1 x2 s).pdk = s.pdk ∧ (gregWrite x0 x1 x2 s).ldr = s.ldr ∧ (gregWrite x0 x1 x2 s).sec =
    s.sec ∧ (gregWrite x0 x1 x2 s).trg = s.trg ∧ (gregWrite x0 x1 x2 s).ptp = s.ptp ∧ (gregWrite x0 x1 x2 s).dbg =
    s.dbg ∧ (gregWrite x0 x1 x2 s).pwr = s.pwr ∧ (gregWrite x0 x1 x2 s).ckpt = s.ckpt := by
  simp only [gregWrite]; (repeat' split) <;> simp_all

end Sys2Proof.Machine
end

