-- ==== Sys2Proof/Laws/FramesHost.lean ====
section
/-!
SUPPORT. Frames of the operations of the links, the loader, security, bring-up, power, the host interface, the
register file and the bridge: for each operation, the parts of `State` that it leaves as they were. An operation that
takes an operation leaves a part alone if that operation does.
-/

namespace Sys2Proof.Machine

set_option linter.unusedVariables false
set_option linter.unusedSimpArgs false

/-! ### Links -/

@[simp] theorem raiseLnk_frame (x0 x1 s) : (raiseLnk x0 x1 s).pending = s.pending ∧ (raiseLnk x0 x1 s).tck = s.tck ∧
    (raiseLnk x0 x1 s).arr = s.arr ∧ (raiseLnk x0 x1 s).exe = s.exe ∧ (raiseLnk x0 x1 s).pen = s.pen ∧ (raiseLnk x0 x1
    s).integ = s.integ ∧ (raiseLnk x0 x1 s).shed = s.shed ∧ (raiseLnk x0 x1 s).dmc = s.dmc ∧ (raiseLnk x0 x1 s).lnk =
    s.lnk ∧ (raiseLnk x0 x1 s).rls = s.rls ∧ (raiseLnk x0 x1 s).grm = s.grm ∧ (raiseLnk x0 x1 s).pdk = s.pdk ∧
    (raiseLnk x0 x1 s).ldr = s.ldr ∧ (raiseLnk x0 x1 s).sec = s.sec ∧ (raiseLnk x0 x1 s).trg = s.trg ∧ (raiseLnk x0 x1
    s).ptp = s.ptp ∧ (raiseLnk x0 x1 s).dbg = s.dbg ∧ (raiseLnk x0 x1 s).pwr = s.pwr ∧ (raiseLnk x0 x1 s).ckpt =
    s.ckpt := by
  simp [raiseLnk]

@[simp] theorem raiseLnkIf_frame (x0 x1 x2 s) : (raiseLnkIf x0 x1 x2 s).pending = s.pending ∧ (raiseLnkIf x0 x1 x2
    s).tck = s.tck ∧ (raiseLnkIf x0 x1 x2 s).arr = s.arr ∧ (raiseLnkIf x0 x1 x2 s).exe = s.exe ∧ (raiseLnkIf x0 x1 x2
    s).pen = s.pen ∧ (raiseLnkIf x0 x1 x2 s).integ = s.integ ∧ (raiseLnkIf x0 x1 x2 s).shed = s.shed ∧ (raiseLnkIf x0
    x1 x2 s).dmc = s.dmc ∧ (raiseLnkIf x0 x1 x2 s).lnk = s.lnk ∧ (raiseLnkIf x0 x1 x2 s).rls = s.rls ∧ (raiseLnkIf x0
    x1 x2 s).grm = s.grm ∧ (raiseLnkIf x0 x1 x2 s).pdk = s.pdk ∧ (raiseLnkIf x0 x1 x2 s).ldr = s.ldr ∧ (raiseLnkIf x0
    x1 x2 s).sec = s.sec ∧ (raiseLnkIf x0 x1 x2 s).trg = s.trg ∧ (raiseLnkIf x0 x1 x2 s).ptp = s.ptp ∧ (raiseLnkIf x0
    x1 x2 s).dbg = s.dbg ∧ (raiseLnkIf x0 x1 x2 s).pwr = s.pwr ∧ (raiseLnkIf x0 x1 x2 s).ckpt = s.ckpt := by
  unfold raiseLnkIf; split <;> simp

@[simp] theorem unlock_frame (x0 s) : (unlock x0 s).pending = s.pending ∧ (unlock x0 s).clk = s.clk ∧ (unlock x0
    s).tck = s.tck ∧ (unlock x0 s).arr = s.arr ∧ (unlock x0 s).exe = s.exe ∧ (unlock x0 s).pen = s.pen ∧ (unlock x0
    s).integ = s.integ ∧ (unlock x0 s).shed = s.shed ∧ (unlock x0 s).dmc = s.dmc ∧ (unlock x0 s).rls = s.rls ∧ (unlock
    x0 s).yms = s.yms ∧ (unlock x0 s).grm = s.grm ∧ (unlock x0 s).pdk = s.pdk ∧ (unlock x0 s).ldr = s.ldr ∧ (unlock x0
    s).sec = s.sec ∧ (unlock x0 s).trg = s.trg ∧ (unlock x0 s).ptp = s.ptp ∧ (unlock x0 s).dbg = s.dbg ∧ (unlock x0
    s).pwr = s.pwr ∧ (unlock x0 s).hst = s.hst ∧ (unlock x0 s).ckpt = s.ckpt := by
  simp [unlock]

@[simp] theorem upRelease_frame (x0 s) : (upRelease x0 s).pending = s.pending ∧ (upRelease x0 s).regs = s.regs ∧
    (upRelease x0 s).clk = s.clk ∧ (upRelease x0 s).tck = s.tck ∧ (upRelease x0 s).arr = s.arr ∧ (upRelease x0 s).exe
    = s.exe ∧ (upRelease x0 s).pen = s.pen ∧ (upRelease x0 s).integ = s.integ ∧ (upRelease x0 s).shed = s.shed ∧
    (upRelease x0 s).dmc = s.dmc ∧ (upRelease x0 s).rls = s.rls ∧ (upRelease x0 s).yms = s.yms ∧ (upRelease x0 s).grm
    = s.grm ∧ (upRelease x0 s).pdk = s.pdk ∧ (upRelease x0 s).ldr = s.ldr ∧ (upRelease x0 s).sec = s.sec ∧ (upRelease
    x0 s).trg = s.trg ∧ (upRelease x0 s).ptp = s.ptp ∧ (upRelease x0 s).dbg = s.dbg ∧ (upRelease x0 s).pwr = s.pwr ∧
    (upRelease x0 s).hst = s.hst ∧ (upRelease x0 s).ckpt = s.ckpt := by
  unfold upRelease; split <;> simp

@[simp] theorem dueReleases_frame (x0 s) : (dueReleases x0 s).pending = s.pending ∧ (dueReleases x0 s).regs = s.regs ∧
    (dueReleases x0 s).clk = s.clk ∧ (dueReleases x0 s).arr = s.arr ∧ (dueReleases x0 s).exe = s.exe ∧ (dueReleases x0
    s).pen = s.pen ∧ (dueReleases x0 s).integ = s.integ ∧ (dueReleases x0 s).shed = s.shed ∧ (dueReleases x0 s).dmc =
    s.dmc ∧ (dueReleases x0 s).rls = s.rls ∧ (dueReleases x0 s).yms = s.yms ∧ (dueReleases x0 s).grm = s.grm ∧
    (dueReleases x0 s).pdk = s.pdk ∧ (dueReleases x0 s).ldr = s.ldr ∧ (dueReleases x0 s).sec = s.sec ∧ (dueReleases x0
    s).trg = s.trg ∧ (dueReleases x0 s).ptp = s.ptp ∧ (dueReleases x0 s).dbg = s.dbg ∧ (dueReleases x0 s).pwr = s.pwr
    ∧ (dueReleases x0 s).hst = s.hst ∧ (dueReleases x0 s).ckpt = s.ckpt := by
  unfold dueReleases; split <;> simp

@[simp] theorem dueEvents_frame (x0 s) : (dueEvents x0 s).pending = s.pending ∧ (dueEvents x0 s).regs = s.regs ∧
    (dueEvents x0 s).clk = s.clk ∧ (dueEvents x0 s).arr = s.arr ∧ (dueEvents x0 s).exe = s.exe ∧ (dueEvents x0 s).pen
    = s.pen ∧ (dueEvents x0 s).integ = s.integ ∧ (dueEvents x0 s).shed = s.shed ∧ (dueEvents x0 s).dmc = s.dmc ∧
    (dueEvents x0 s).rls = s.rls ∧ (dueEvents x0 s).yms = s.yms ∧ (dueEvents x0 s).grm = s.grm ∧ (dueEvents x0 s).pdk
    = s.pdk ∧ (dueEvents x0 s).ldr = s.ldr ∧ (dueEvents x0 s).sec = s.sec ∧ (dueEvents x0 s).trg = s.trg ∧ (dueEvents
    x0 s).ptp = s.ptp ∧ (dueEvents x0 s).dbg = s.dbg ∧ (dueEvents x0 s).pwr = s.pwr ∧ (dueEvents x0 s).hst = s.hst ∧
    (dueEvents x0 s).ckpt = s.ckpt := by
  simp only [dueEvents]; (repeat' split) <;> simp_all

@[simp] theorem emitFrame_frame (x0 s) : (emitFrame x0 s).pending = s.pending ∧ (emitFrame x0 s).tck = s.tck ∧
    (emitFrame x0 s).arr = s.arr ∧ (emitFrame x0 s).exe = s.exe ∧ (emitFrame x0 s).pen = s.pen ∧ (emitFrame x0
    s).integ = s.integ ∧ (emitFrame x0 s).shed = s.shed ∧ (emitFrame x0 s).dmc = s.dmc ∧ (emitFrame x0 s).rls = s.rls
    ∧ (emitFrame x0 s).yms = s.yms ∧ (emitFrame x0 s).grm = s.grm ∧ (emitFrame x0 s).pdk = s.pdk ∧ (emitFrame x0
    s).ldr = s.ldr ∧ (emitFrame x0 s).sec = s.sec ∧ (emitFrame x0 s).trg = s.trg ∧ (emitFrame x0 s).ptp = s.ptp ∧
    (emitFrame x0 s).dbg = s.dbg ∧ (emitFrame x0 s).pwr = s.pwr ∧ (emitFrame x0 s).hst = s.hst ∧ (emitFrame x0 s).ckpt
    = s.ckpt := by
  simp [emitFrame]

@[simp] theorem sendFrame_frame (x0 s) : (sendFrame x0 s).pending = s.pending ∧ (sendFrame x0 s).arr = s.arr ∧
    (sendFrame x0 s).exe = s.exe ∧ (sendFrame x0 s).integ = s.integ ∧ (sendFrame x0 s).dmc = s.dmc ∧ (sendFrame x0
    s).yms = s.yms ∧ (sendFrame x0 s).grm = s.grm ∧ (sendFrame x0 s).pdk = s.pdk ∧ (sendFrame x0 s).ldr = s.ldr ∧
    (sendFrame x0 s).sec = s.sec ∧ (sendFrame x0 s).dbg = s.dbg ∧ (sendFrame x0 s).ckpt = s.ckpt := by
  simp only [sendFrame]; (repeat' split) <;> simp_all

@[simp] theorem atCutoff_frame (s x1) : (atCutoff s x1).pending = s.pending ∧ (atCutoff s x1).tck = s.tck ∧ (atCutoff
    s x1).arr = s.arr ∧ (atCutoff s x1).exe = s.exe ∧ (atCutoff s x1).pen = s.pen ∧ (atCutoff s x1).integ = s.integ ∧
    (atCutoff s x1).dmc = s.dmc ∧ (atCutoff s x1).lnk = s.lnk ∧ (atCutoff s x1).yms = s.yms ∧ (atCutoff s x1).grm =
    s.grm ∧ (atCutoff s x1).pdk = s.pdk ∧ (atCutoff s x1).ldr = s.ldr ∧ (atCutoff s x1).sec = s.sec ∧ (atCutoff s
    x1).trg = s.trg ∧ (atCutoff s x1).dbg = s.dbg ∧ (atCutoff s x1).pwr = s.pwr ∧ (atCutoff s x1).ckpt = s.ckpt := by
  unfold atCutoff; split <;> simp

@[simp] theorem doFrameTx_frame (x0 s) : (doFrameTx x0 s).pending = s.pending ∧ (doFrameTx x0 s).arr = s.arr ∧
    (doFrameTx x0 s).exe = s.exe ∧ (doFrameTx x0 s).integ = s.integ ∧ (doFrameTx x0 s).dmc = s.dmc ∧ (doFrameTx x0
    s).yms = s.yms ∧ (doFrameTx x0 s).grm = s.grm ∧ (doFrameTx x0 s).pdk = s.pdk ∧ (doFrameTx x0 s).ldr = s.ldr ∧
    (doFrameTx x0 s).sec = s.sec ∧ (doFrameTx x0 s).dbg = s.dbg ∧ (doFrameTx x0 s).ckpt = s.ckpt := by
  unfold doFrameTx; split <;> simp

@[simp] theorem keepLine_frame (x0 x1 s) : (keepLine x0 x1 s).pending = s.pending ∧ (keepLine x0 x1 s).regs = s.regs ∧
    (keepLine x0 x1 s).clk = s.clk ∧ (keepLine x0 x1 s).tck = s.tck ∧ (keepLine x0 x1 s).arr = s.arr ∧ (keepLine x0 x1
    s).exe = s.exe ∧ (keepLine x0 x1 s).pen = s.pen ∧ (keepLine x0 x1 s).integ = s.integ ∧ (keepLine x0 x1 s).shed =
    s.shed ∧ (keepLine x0 x1 s).dmc = s.dmc ∧ (keepLine x0 x1 s).rls = s.rls ∧ (keepLine x0 x1 s).yms = s.yms ∧
    (keepLine x0 x1 s).grm = s.grm ∧ (keepLine x0 x1 s).pdk = s.pdk ∧ (keepLine x0 x1 s).ldr = s.ldr ∧ (keepLine x0 x1
    s).sec = s.sec ∧ (keepLine x0 x1 s).trg = s.trg ∧ (keepLine x0 x1 s).ptp = s.ptp ∧ (keepLine x0 x1 s).dbg = s.dbg
    ∧ (keepLine x0 x1 s).pwr = s.pwr ∧ (keepLine x0 x1 s).hst = s.hst ∧ (keepLine x0 x1 s).ckpt = s.ckpt := by
  simp [keepLine]

@[simp] theorem rxLock_frame (x0 x1 s) : (rxLock x0 x1 s).pending = s.pending ∧ (rxLock x0 x1 s).tck = s.tck ∧ (rxLock
    x0 x1 s).arr = s.arr ∧ (rxLock x0 x1 s).exe = s.exe ∧ (rxLock x0 x1 s).pen = s.pen ∧ (rxLock x0 x1 s).integ =
    s.integ ∧ (rxLock x0 x1 s).shed = s.shed ∧ (rxLock x0 x1 s).dmc = s.dmc ∧ (rxLock x0 x1 s).rls = s.rls ∧ (rxLock
    x0 x1 s).grm = s.grm ∧ (rxLock x0 x1 s).pdk = s.pdk ∧ (rxLock x0 x1 s).ldr = s.ldr ∧ (rxLock x0 x1 s).sec = s.sec
    ∧ (rxLock x0 x1 s).trg = s.trg ∧ (rxLock x0 x1 s).ptp = s.ptp ∧ (rxLock x0 x1 s).dbg = s.dbg ∧ (rxLock x0 x1
    s).pwr = s.pwr ∧ (rxLock x0 x1 s).ckpt = s.ckpt := by
  simp [rxLock]

@[simp] theorem rxRun_frame (x0 x1 x2 s) : (rxRun x0 x1 x2 s).pending = s.pending ∧ (rxRun x0 x1 x2 s).regs = s.regs ∧
    (rxRun x0 x1 x2 s).clk = s.clk ∧ (rxRun x0 x1 x2 s).tck = s.tck ∧ (rxRun x0 x1 x2 s).arr = s.arr ∧ (rxRun x0 x1 x2
    s).pen = s.pen ∧ (rxRun x0 x1 x2 s).integ = s.integ ∧ (rxRun x0 x1 x2 s).shed = s.shed ∧ (rxRun x0 x1 x2 s).dmc =
    s.dmc ∧ (rxRun x0 x1 x2 s).rls = s.rls ∧ (rxRun x0 x1 x2 s).yms = s.yms ∧ (rxRun x0 x1 x2 s).grm = s.grm ∧ (rxRun
    x0 x1 x2 s).pdk = s.pdk ∧ (rxRun x0 x1 x2 s).ldr = s.ldr ∧ (rxRun x0 x1 x2 s).sec = s.sec ∧ (rxRun x0 x1 x2 s).trg
    = s.trg ∧ (rxRun x0 x1 x2 s).ptp = s.ptp ∧ (rxRun x0 x1 x2 s).dbg = s.dbg ∧ (rxRun x0 x1 x2 s).pwr = s.pwr ∧
    (rxRun x0 x1 x2 s).hst = s.hst ∧ (rxRun x0 x1 x2 s).ckpt = s.ckpt := by
  simp [rxRun]

@[simp] theorem holdAt_frame (x0 s) : (holdAt x0 s).pending = s.pending ∧ (holdAt x0 s).regs = s.regs ∧ (holdAt x0
    s).clk = s.clk ∧ (holdAt x0 s).arr = s.arr ∧ (holdAt x0 s).exe = s.exe ∧ (holdAt x0 s).pen = s.pen ∧ (holdAt x0
    s).integ = s.integ ∧ (holdAt x0 s).shed = s.shed ∧ (holdAt x0 s).dmc = s.dmc ∧ (holdAt x0 s).lnk = s.lnk ∧ (holdAt
    x0 s).rls = s.rls ∧ (holdAt x0 s).yms = s.yms ∧ (holdAt x0 s).grm = s.grm ∧ (holdAt x0 s).pdk = s.pdk ∧ (holdAt x0
    s).ldr = s.ldr ∧ (holdAt x0 s).sec = s.sec ∧ (holdAt x0 s).trg = s.trg ∧ (holdAt x0 s).ptp = s.ptp ∧ (holdAt x0
    s).dbg = s.dbg ∧ (holdAt x0 s).pwr = s.pwr ∧ (holdAt x0 s).hst = s.hst ∧ (holdAt x0 s).ckpt = s.ckpt := by
  simp only [holdAt]; (repeat' split) <;> simp_all

@[simp] theorem drainNow_frame (s) : (drainNow s).pending = s.pending ∧ (drainNow s).grm = s.grm ∧ (drainNow s).pdk =
    s.pdk ∧ (drainNow s).ldr = s.ldr ∧ (drainNow s).sec = s.sec ∧ (drainNow s).trg = s.trg ∧ (drainNow s).dbg = s.dbg
    ∧ (drainNow s).pwr = s.pwr ∧ (drainNow s).ckpt = s.ckpt := by
  unfold drainNow; split <;> simp

@[simp] theorem childVoted_frame (x0 x1 x2 x3 s) : (childVoted x0 x1 x2 x3 s).pending = s.pending ∧ (childVoted x0 x1
    x2 x3 s).grm = s.grm ∧ (childVoted x0 x1 x2 x3 s).pdk = s.pdk ∧ (childVoted x0 x1 x2 x3 s).ldr = s.ldr ∧
    (childVoted x0 x1 x2 x3 s).sec = s.sec ∧ (childVoted x0 x1 x2 x3 s).trg = s.trg ∧ (childVoted x0 x1 x2 x3 s).dbg =
    s.dbg ∧ (childVoted x0 x1 x2 x3 s).pwr = s.pwr ∧ (childVoted x0 x1 x2 x3 s).ckpt = s.ckpt := by
  unfold childVoted; (repeat' split) <;> simp_all

@[simp] theorem childAsked_frame (x0 x1 s) : (childAsked x0 x1 s).pending = s.pending ∧ (childAsked x0 x1 s).regs =
    s.regs ∧ (childAsked x0 x1 s).clk = s.clk ∧ (childAsked x0 x1 s).arr = s.arr ∧ (childAsked x0 x1 s).pen = s.pen ∧
    (childAsked x0 x1 s).integ = s.integ ∧ (childAsked x0 x1 s).shed = s.shed ∧ (childAsked x0 x1 s).dmc = s.dmc ∧
    (childAsked x0 x1 s).rls = s.rls ∧ (childAsked x0 x1 s).yms = s.yms ∧ (childAsked x0 x1 s).grm = s.grm ∧
    (childAsked x0 x1 s).pdk = s.pdk ∧ (childAsked x0 x1 s).ldr = s.ldr ∧ (childAsked x0 x1 s).sec = s.sec ∧
    (childAsked x0 x1 s).trg = s.trg ∧ (childAsked x0 x1 s).ptp = s.ptp ∧ (childAsked x0 x1 s).dbg = s.dbg ∧
    (childAsked x0 x1 s).pwr = s.pwr ∧ (childAsked x0 x1 s).hst = s.hst ∧ (childAsked x0 x1 s).ckpt = s.ckpt := by
  simp [childAsked]

@[simp] theorem childReleased_frame (x0 x1 s) : (childReleased x0 x1 s).pending = s.pending ∧ (childReleased x0 x1
    s).regs = s.regs ∧ (childReleased x0 x1 s).clk = s.clk ∧ (childReleased x0 x1 s).tck = s.tck ∧ (childReleased x0
    x1 s).arr = s.arr ∧ (childReleased x0 x1 s).exe = s.exe ∧ (childReleased x0 x1 s).pen = s.pen ∧ (childReleased x0
    x1 s).integ = s.integ ∧ (childReleased x0 x1 s).shed = s.shed ∧ (childReleased x0 x1 s).dmc = s.dmc ∧
    (childReleased x0 x1 s).rls = s.rls ∧ (childReleased x0 x1 s).yms = s.yms ∧ (childReleased x0 x1 s).grm = s.grm ∧
    (childReleased x0 x1 s).pdk = s.pdk ∧ (childReleased x0 x1 s).ldr = s.ldr ∧ (childReleased x0 x1 s).sec = s.sec ∧
    (childReleased x0 x1 s).trg = s.trg ∧ (childReleased x0 x1 s).ptp = s.ptp ∧ (childReleased x0 x1 s).dbg = s.dbg ∧
    (childReleased x0 x1 s).pwr = s.pwr ∧ (childReleased x0 x1 s).hst = s.hst ∧ (childReleased x0 x1 s).ckpt = s.ckpt
    := by
  unfold childReleased; split <;> simp

@[simp] theorem childHolds_frame (x0 x1 s) : (childHolds x0 x1 s).pending = s.pending ∧ (childHolds x0 x1 s).regs =
    s.regs ∧ (childHolds x0 x1 s).clk = s.clk ∧ (childHolds x0 x1 s).arr = s.arr ∧ (childHolds x0 x1 s).pen = s.pen ∧
    (childHolds x0 x1 s).integ = s.integ ∧ (childHolds x0 x1 s).shed = s.shed ∧ (childHolds x0 x1 s).dmc = s.dmc ∧
    (childHolds x0 x1 s).rls = s.rls ∧ (childHolds x0 x1 s).yms = s.yms ∧ (childHolds x0 x1 s).grm = s.grm ∧
    (childHolds x0 x1 s).pdk = s.pdk ∧ (childHolds x0 x1 s).ldr = s.ldr ∧ (childHolds x0 x1 s).sec = s.sec ∧
    (childHolds x0 x1 s).trg = s.trg ∧ (childHolds x0 x1 s).ptp = s.ptp ∧ (childHolds x0 x1 s).dbg = s.dbg ∧
    (childHolds x0 x1 s).pwr = s.pwr ∧ (childHolds x0 x1 s).hst = s.hst ∧ (childHolds x0 x1 s).ckpt = s.ckpt := by
  simp only [childHolds]; (repeat' split) <;> simp_all

@[simp] theorem decided_frame (x0 x1 s) : (decided x0 x1 s).pending = s.pending ∧ (decided x0 x1 s).grm = s.grm ∧
    (decided x0 x1 s).pdk = s.pdk ∧ (decided x0 x1 s).ldr = s.ldr ∧ (decided x0 x1 s).sec = s.sec ∧ (decided x0 x1
    s).trg = s.trg ∧ (decided x0 x1 s).dbg = s.dbg ∧ (decided x0 x1 s).pwr = s.pwr ∧ (decided x0 x1 s).ckpt = s.ckpt
    := by
  unfold decided; (repeat' split) <;> simp_all

@[simp] theorem parentHolds_frame (x0 x1 s) : (parentHolds x0 x1 s).pending = s.pending ∧ (parentHolds x0 x1 s).regs =
    s.regs ∧ (parentHolds x0 x1 s).clk = s.clk ∧ (parentHolds x0 x1 s).arr = s.arr ∧ (parentHolds x0 x1 s).exe = s.exe
    ∧ (parentHolds x0 x1 s).pen = s.pen ∧ (parentHolds x0 x1 s).integ = s.integ ∧ (parentHolds x0 x1 s).shed = s.shed
    ∧ (parentHolds x0 x1 s).dmc = s.dmc ∧ (parentHolds x0 x1 s).rls = s.rls ∧ (parentHolds x0 x1 s).yms = s.yms ∧
    (parentHolds x0 x1 s).grm = s.grm ∧ (parentHolds x0 x1 s).pdk = s.pdk ∧ (parentHolds x0 x1 s).ldr = s.ldr ∧
    (parentHolds x0 x1 s).sec = s.sec ∧ (parentHolds x0 x1 s).trg = s.trg ∧ (parentHolds x0 x1 s).ptp = s.ptp ∧
    (parentHolds x0 x1 s).dbg = s.dbg ∧ (parentHolds x0 x1 s).pwr = s.pwr ∧ (parentHolds x0 x1 s).hst = s.hst ∧
    (parentHolds x0 x1 s).ckpt = s.ckpt := by
  simp only [parentHolds]; (repeat' split) <;> simp_all

@[simp] theorem rxTree_frame (x0 x1 s) : (rxTree x0 x1 s).pending = s.pending ∧ (rxTree x0 x1 s).grm = s.grm ∧ (rxTree
    x0 x1 s).pdk = s.pdk ∧ (rxTree x0 x1 s).ldr = s.ldr ∧ (rxTree x0 x1 s).sec = s.sec ∧ (rxTree x0 x1 s).trg = s.trg
    ∧ (rxTree x0 x1 s).dbg = s.dbg ∧ (rxTree x0 x1 s).pwr = s.pwr ∧ (rxTree x0 x1 s).ckpt = s.ckpt := by
  unfold rxTree; (repeat' split) <;> simp_all

@[simp] theorem treeLoss_frame (x0 x1 s) : (treeLoss x0 x1 s).pending = s.pending ∧ (treeLoss x0 x1 s).exe = s.exe ∧
    (treeLoss x0 x1 s).pen = s.pen ∧ (treeLoss x0 x1 s).shed = s.shed ∧ (treeLoss x0 x1 s).dmc = s.dmc ∧ (treeLoss x0
    x1 s).rls = s.rls ∧ (treeLoss x0 x1 s).grm = s.grm ∧ (treeLoss x0 x1 s).pdk = s.pdk ∧ (treeLoss x0 x1 s).ldr =
    s.ldr ∧ (treeLoss x0 x1 s).sec = s.sec ∧ (treeLoss x0 x1 s).trg = s.trg ∧ (treeLoss x0 x1 s).ptp = s.ptp ∧
    (treeLoss x0 x1 s).dbg = s.dbg ∧ (treeLoss x0 x1 s).pwr = s.pwr ∧ (treeLoss x0 x1 s).ckpt = s.ckpt := by
  simp only [treeLoss]; (repeat' split) <;> simp_all

@[simp] theorem rxFail_frame (x0 x1 s) : (rxFail x0 x1 s).pending = s.pending ∧ (rxFail x0 x1 s).grm = s.grm ∧ (rxFail
    x0 x1 s).pdk = s.pdk ∧ (rxFail x0 x1 s).ldr = s.ldr ∧ (rxFail x0 x1 s).sec = s.sec ∧ (rxFail x0 x1 s).trg = s.trg
    ∧ (rxFail x0 x1 s).dbg = s.dbg ∧ (rxFail x0 x1 s).pwr = s.pwr ∧ (rxFail x0 x1 s).ckpt = s.ckpt := by
  simp only [rxFail]; (repeat' split) <;> simp_all

@[simp] theorem rxFrame_frame (x0 x1 s) : (rxFrame x0 x1 s).pending = s.pending ∧ (rxFrame x0 x1 s).grm = s.grm ∧
    (rxFrame x0 x1 s).pdk = s.pdk ∧ (rxFrame x0 x1 s).ldr = s.ldr ∧ (rxFrame x0 x1 s).sec = s.sec ∧ (rxFrame x0 x1
    s).trg = s.trg ∧ (rxFrame x0 x1 s).dbg = s.dbg ∧ (rxFrame x0 x1 s).pwr = s.pwr ∧ (rxFrame x0 x1 s).ckpt = s.ckpt
    := by
  simp only [rxFrame]; (repeat' split) <;> simp_all

@[simp] theorem doRunFrame_frame (x0 x1 s) : (doRunFrame x0 x1 s).pending = s.pending ∧ (doRunFrame x0 x1 s).grm =
    s.grm ∧ (doRunFrame x0 x1 s).pdk = s.pdk ∧ (doRunFrame x0 x1 s).ldr = s.ldr ∧ (doRunFrame x0 x1 s).sec = s.sec ∧
    (doRunFrame x0 x1 s).trg = s.trg ∧ (doRunFrame x0 x1 s).dbg = s.dbg ∧ (doRunFrame x0 x1 s).pwr = s.pwr ∧
    (doRunFrame x0 x1 s).ckpt = s.ckpt := by
  simp [doRunFrame]

@[simp] theorem fromRoot_frame (x0 x1 s) : (fromRoot x0 x1 s).pending = s.pending ∧ (fromRoot x0 x1 s).arr = s.arr ∧
    (fromRoot x0 x1 s).exe = s.exe ∧ (fromRoot x0 x1 s).integ = s.integ ∧ (fromRoot x0 x1 s).dmc = s.dmc ∧ (fromRoot
    x0 x1 s).yms = s.yms ∧ (fromRoot x0 x1 s).grm = s.grm ∧ (fromRoot x0 x1 s).pdk = s.pdk ∧ (fromRoot x0 x1 s).ldr =
    s.ldr ∧ (fromRoot x0 x1 s).sec = s.sec ∧ (fromRoot x0 x1 s).dbg = s.dbg ∧ (fromRoot x0 x1 s).ckpt = s.ckpt := by
  simp [fromRoot]

@[simp] theorem doRunHalt_frame (x0 x1 s) : (doRunHalt x0 x1 s).pending = s.pending ∧ (doRunHalt x0 x1 s).grm = s.grm
    ∧ (doRunHalt x0 x1 s).pdk = s.pdk ∧ (doRunHalt x0 x1 s).ldr = s.ldr ∧ (doRunHalt x0 x1 s).sec = s.sec ∧ (doRunHalt
    x0 x1 s).dbg = s.dbg ∧ (doRunHalt x0 x1 s).ckpt = s.ckpt := by
  unfold doRunHalt; split <;> simp

@[simp] theorem doCmdFrame_frame (x0 x1 s) : (doCmdFrame x0 x1 s).pending = s.pending ∧ (doCmdFrame x0 x1 s).grm =
    s.grm ∧ (doCmdFrame x0 x1 s).pdk = s.pdk ∧ (doCmdFrame x0 x1 s).ldr = s.ldr ∧ (doCmdFrame x0 x1 s).sec = s.sec ∧
    (doCmdFrame x0 x1 s).dbg = s.dbg ∧ (doCmdFrame x0 x1 s).ckpt = s.ckpt := by
  simp only [doCmdFrame]; (repeat' split) <;> simp_all

@[simp] theorem marked_frame (x0 x1 s) : (marked x0 x1 s).pending = s.pending ∧ (marked x0 x1 s).tck = s.tck ∧ (marked
    x0 x1 s).arr = s.arr ∧ (marked x0 x1 s).exe = s.exe ∧ (marked x0 x1 s).pen = s.pen ∧ (marked x0 x1 s).integ =
    s.integ ∧ (marked x0 x1 s).shed = s.shed ∧ (marked x0 x1 s).dmc = s.dmc ∧ (marked x0 x1 s).rls = s.rls ∧ (marked
    x0 x1 s).grm = s.grm ∧ (marked x0 x1 s).pdk = s.pdk ∧ (marked x0 x1 s).ldr = s.ldr ∧ (marked x0 x1 s).sec = s.sec
    ∧ (marked x0 x1 s).trg = s.trg ∧ (marked x0 x1 s).ptp = s.ptp ∧ (marked x0 x1 s).dbg = s.dbg ∧ (marked x0 x1
    s).pwr = s.pwr ∧ (marked x0 x1 s).ckpt = s.ckpt := by
  simp [marked]

@[simp] theorem doMark_frame (x0 x1 s) : (doMark x0 x1 s).pending = s.pending ∧ (doMark x0 x1 s).grm = s.grm ∧ (doMark
    x0 x1 s).pdk = s.pdk ∧ (doMark x0 x1 s).ldr = s.ldr ∧ (doMark x0 x1 s).sec = s.sec ∧ (doMark x0 x1 s).trg = s.trg
    ∧ (doMark x0 x1 s).dbg = s.dbg ∧ (doMark x0 x1 s).pwr = s.pwr ∧ (doMark x0 x1 s).ckpt = s.ckpt := by
  unfold doMark; split <;> simp

@[simp] theorem resent_frame (x0 x1 s) : (resent x0 x1 s).pending = s.pending ∧ (resent x0 x1 s).regs = s.regs ∧
    (resent x0 x1 s).clk = s.clk ∧ (resent x0 x1 s).arr = s.arr ∧ (resent x0 x1 s).pen = s.pen ∧ (resent x0 x1
    s).integ = s.integ ∧ (resent x0 x1 s).shed = s.shed ∧ (resent x0 x1 s).dmc = s.dmc ∧ (resent x0 x1 s).rls = s.rls
    ∧ (resent x0 x1 s).yms = s.yms ∧ (resent x0 x1 s).grm = s.grm ∧ (resent x0 x1 s).pdk = s.pdk ∧ (resent x0 x1
    s).ldr = s.ldr ∧ (resent x0 x1 s).sec = s.sec ∧ (resent x0 x1 s).trg = s.trg ∧ (resent x0 x1 s).ptp = s.ptp ∧
    (resent x0 x1 s).dbg = s.dbg ∧ (resent x0 x1 s).pwr = s.pwr ∧ (resent x0 x1 s).hst = s.hst ∧ (resent x0 x1 s).ckpt
    = s.ckpt := by
  simp [resent]

@[simp] theorem doResend_frame (x0 x1 s) : (doResend x0 x1 s).pending = s.pending ∧ (doResend x0 x1 s).grm = s.grm ∧
    (doResend x0 x1 s).pdk = s.pdk ∧ (doResend x0 x1 s).ldr = s.ldr ∧ (doResend x0 x1 s).sec = s.sec ∧ (doResend x0 x1
    s).trg = s.trg ∧ (doResend x0 x1 s).dbg = s.dbg ∧ (doResend x0 x1 s).pwr = s.pwr ∧ (doResend x0 x1 s).ckpt =
    s.ckpt := by
  unfold doResend; split <;> simp

@[simp] theorem doPeer_frame (x0 x1 s) : (doPeer x0 x1 s).pending = s.pending ∧ (doPeer x0 x1 s).grm = s.grm ∧ (doPeer
    x0 x1 s).pdk = s.pdk ∧ (doPeer x0 x1 s).ldr = s.ldr ∧ (doPeer x0 x1 s).sec = s.sec ∧ (doPeer x0 x1 s).trg = s.trg
    ∧ (doPeer x0 x1 s).dbg = s.dbg ∧ (doPeer x0 x1 s).pwr = s.pwr ∧ (doPeer x0 x1 s).ckpt = s.ckpt := by
  unfold doPeer; split <;> simp

@[simp] theorem doIdleFrame_frame (x0 x1 s) : (doIdleFrame x0 x1 s).pending = s.pending ∧ (doIdleFrame x0 x1 s).grm =
    s.grm ∧ (doIdleFrame x0 x1 s).pdk = s.pdk ∧ (doIdleFrame x0 x1 s).ldr = s.ldr ∧ (doIdleFrame x0 x1 s).sec = s.sec
    ∧ (doIdleFrame x0 x1 s).trg = s.trg ∧ (doIdleFrame x0 x1 s).dbg = s.dbg ∧ (doIdleFrame x0 x1 s).pwr = s.pwr ∧
    (doIdleFrame x0 x1 s).ckpt = s.ckpt := by
  simp [doIdleFrame]

@[simp] theorem doLateGroup_frame (x0 x1 s) : (doLateGroup x0 x1 s).pending = s.pending ∧ (doLateGroup x0 x1 s).grm =
    s.grm ∧ (doLateGroup x0 x1 s).pdk = s.pdk ∧ (doLateGroup x0 x1 s).ldr = s.ldr ∧ (doLateGroup x0 x1 s).sec = s.sec
    ∧ (doLateGroup x0 x1 s).trg = s.trg ∧ (doLateGroup x0 x1 s).dbg = s.dbg ∧ (doLateGroup x0 x1 s).pwr = s.pwr ∧
    (doLateGroup x0 x1 s).ckpt = s.ckpt := by
  simp [doLateGroup]

@[simp] theorem slipWrite_frame (x0 x1 s) : (slipWrite x0 x1 s).pending = s.pending ∧ (slipWrite x0 x1 s).regs =
    s.regs ∧ (slipWrite x0 x1 s).clk = s.clk ∧ (slipWrite x0 x1 s).tck = s.tck ∧ (slipWrite x0 x1 s).arr = s.arr ∧
    (slipWrite x0 x1 s).exe = s.exe ∧ (slipWrite x0 x1 s).pen = s.pen ∧ (slipWrite x0 x1 s).integ = s.integ ∧
    (slipWrite x0 x1 s).shed = s.shed ∧ (slipWrite x0 x1 s).dmc = s.dmc ∧ (slipWrite x0 x1 s).rls = s.rls ∧ (slipWrite
    x0 x1 s).yms = s.yms ∧ (slipWrite x0 x1 s).grm = s.grm ∧ (slipWrite x0 x1 s).pdk = s.pdk ∧ (slipWrite x0 x1 s).ldr
    = s.ldr ∧ (slipWrite x0 x1 s).sec = s.sec ∧ (slipWrite x0 x1 s).trg = s.trg ∧ (slipWrite x0 x1 s).ptp = s.ptp ∧
    (slipWrite x0 x1 s).dbg = s.dbg ∧ (slipWrite x0 x1 s).pwr = s.pwr ∧ (slipWrite x0 x1 s).hst = s.hst ∧ (slipWrite
    x0 x1 s).ckpt = s.ckpt := by
  simp [slipWrite]

@[simp] theorem doLnkSlip_frame (x0 x1 x2 s) : (doLnkSlip x0 x1 x2 s).pending = s.pending ∧ (doLnkSlip x0 x1 x2 s).tck
    = s.tck ∧ (doLnkSlip x0 x1 x2 s).exe = s.exe ∧ (doLnkSlip x0 x1 x2 s).yms = s.yms ∧ (doLnkSlip x0 x1 x2 s).ldr =
    s.ldr ∧ (doLnkSlip x0 x1 x2 s).sec = s.sec ∧ (doLnkSlip x0 x1 x2 s).ckpt = s.ckpt := by
  simp [doLnkSlip]

@[simp] theorem linkCtrlWrite_frame (x0 x1 x2 s) : (linkCtrlWrite x0 x1 x2 s).pending = s.pending ∧ (linkCtrlWrite x0
    x1 x2 s).tck = s.tck ∧ (linkCtrlWrite x0 x1 x2 s).arr = s.arr ∧ (linkCtrlWrite x0 x1 x2 s).exe = s.exe ∧
    (linkCtrlWrite x0 x1 x2 s).pen = s.pen ∧ (linkCtrlWrite x0 x1 x2 s).integ = s.integ ∧ (linkCtrlWrite x0 x1 x2
    s).shed = s.shed ∧ (linkCtrlWrite x0 x1 x2 s).dmc = s.dmc ∧ (linkCtrlWrite x0 x1 x2 s).rls = s.rls ∧
    (linkCtrlWrite x0 x1 x2 s).grm = s.grm ∧ (linkCtrlWrite x0 x1 x2 s).pdk = s.pdk ∧ (linkCtrlWrite x0 x1 x2 s).ldr =
    s.ldr ∧ (linkCtrlWrite x0 x1 x2 s).sec = s.sec ∧ (linkCtrlWrite x0 x1 x2 s).trg = s.trg ∧ (linkCtrlWrite x0 x1 x2
    s).ptp = s.ptp ∧ (linkCtrlWrite x0 x1 x2 s).ckpt = s.ckpt := by
  simp only [linkCtrlWrite]; (repeat' split) <;> simp_all

@[simp] theorem doRecal_frame (x0 x1 x2 s) : (doRecal x0 x1 x2 s).pending = s.pending ∧ (doRecal x0 x1 x2 s).tck =
    s.tck ∧ (doRecal x0 x1 x2 s).exe = s.exe ∧ (doRecal x0 x1 x2 s).ldr = s.ldr ∧ (doRecal x0 x1 x2 s).sec = s.sec ∧
    (doRecal x0 x1 x2 s).ckpt = s.ckpt := by
  simp [doRecal]

@[simp] theorem doRecalDone_frame (x0 s) : (doRecalDone x0 s).pending = s.pending ∧ (doRecalDone x0 s).tck = s.tck ∧
    (doRecalDone x0 s).arr = s.arr ∧ (doRecalDone x0 s).exe = s.exe ∧ (doRecalDone x0 s).pen = s.pen ∧ (doRecalDone x0
    s).integ = s.integ ∧ (doRecalDone x0 s).shed = s.shed ∧ (doRecalDone x0 s).dmc = s.dmc ∧ (doRecalDone x0 s).rls =
    s.rls ∧ (doRecalDone x0 s).grm = s.grm ∧ (doRecalDone x0 s).pdk = s.pdk ∧ (doRecalDone x0 s).ldr = s.ldr ∧
    (doRecalDone x0 s).sec = s.sec ∧ (doRecalDone x0 s).trg = s.trg ∧ (doRecalDone x0 s).ptp = s.ptp ∧ (doRecalDone x0
    s).dbg = s.dbg ∧ (doRecalDone x0 s).pwr = s.pwr ∧ (doRecalDone x0 s).ckpt = s.ckpt := by
  simp [doRecalDone]

@[simp] theorem measGo_frame (x0 s) : (measGo x0 s).pending = s.pending ∧ (measGo x0 s).clk = s.clk ∧ (measGo x0
    s).tck = s.tck ∧ (measGo x0 s).arr = s.arr ∧ (measGo x0 s).exe = s.exe ∧ (measGo x0 s).pen = s.pen ∧ (measGo x0
    s).integ = s.integ ∧ (measGo x0 s).shed = s.shed ∧ (measGo x0 s).dmc = s.dmc ∧ (measGo x0 s).rls = s.rls ∧ (measGo
    x0 s).yms = s.yms ∧ (measGo x0 s).grm = s.grm ∧ (measGo x0 s).pdk = s.pdk ∧ (measGo x0 s).ldr = s.ldr ∧ (measGo x0
    s).sec = s.sec ∧ (measGo x0 s).trg = s.trg ∧ (measGo x0 s).ptp = s.ptp ∧ (measGo x0 s).dbg = s.dbg ∧ (measGo x0
    s).pwr = s.pwr ∧ (measGo x0 s).hst = s.hst ∧ (measGo x0 s).ckpt = s.ckpt := by
  simp [measGo]

@[simp] theorem doLnkMeas_frame (x0 x1 s) : (doLnkMeas x0 x1 s).pending = s.pending ∧ (doLnkMeas x0 x1 s).tck = s.tck
    ∧ (doLnkMeas x0 x1 s).exe = s.exe ∧ (doLnkMeas x0 x1 s).yms = s.yms ∧ (doLnkMeas x0 x1 s).ldr = s.ldr ∧ (doLnkMeas
    x0 x1 s).sec = s.sec ∧ (doLnkMeas x0 x1 s).ckpt = s.ckpt := by
  simp [doLnkMeas]

@[simp] theorem padWrite_frame (x0 x1 x2 s) : (padWrite x0 x1 x2 s).pending = s.pending ∧ (padWrite x0 x1 x2 s).clk =
    s.clk ∧ (padWrite x0 x1 x2 s).tck = s.tck ∧ (padWrite x0 x1 x2 s).arr = s.arr ∧ (padWrite x0 x1 x2 s).exe = s.exe
    ∧ (padWrite x0 x1 x2 s).pen = s.pen ∧ (padWrite x0 x1 x2 s).integ = s.integ ∧ (padWrite x0 x1 x2 s).shed = s.shed
    ∧ (padWrite x0 x1 x2 s).dmc = s.dmc ∧ (padWrite x0 x1 x2 s).lnk = s.lnk ∧ (padWrite x0 x1 x2 s).rls = s.rls ∧
    (padWrite x0 x1 x2 s).yms = s.yms ∧ (padWrite x0 x1 x2 s).grm = s.grm ∧ (padWrite x0 x1 x2 s).pdk = s.pdk ∧
    (padWrite x0 x1 x2 s).ldr = s.ldr ∧ (padWrite x0 x1 x2 s).sec = s.sec ∧ (padWrite x0 x1 x2 s).trg = s.trg ∧
    (padWrite x0 x1 x2 s).ptp = s.ptp ∧ (padWrite x0 x1 x2 s).hst = s.hst ∧ (padWrite x0 x1 x2 s).ckpt = s.ckpt := by
  simp only [padWrite]; (repeat' split) <;> simp_all

@[simp] theorem doLnkPad_frame (x0 x1 x2 s) : (doLnkPad x0 x1 x2 s).pending = s.pending ∧ (doLnkPad x0 x1 x2 s).tck =
    s.tck ∧ (doLnkPad x0 x1 x2 s).exe = s.exe ∧ (doLnkPad x0 x1 x2 s).yms = s.yms ∧ (doLnkPad x0 x1 x2 s).ldr = s.ldr
    ∧ (doLnkPad x0 x1 x2 s).sec = s.sec ∧ (doLnkPad x0 x1 x2 s).ckpt = s.ckpt := by
  simp [doLnkPad]

@[simp] theorem adjWrite_frame (x0 s) : (adjWrite x0 s).pending = s.pending ∧ (adjWrite x0 s).tck = s.tck ∧ (adjWrite
    x0 s).arr = s.arr ∧ (adjWrite x0 s).exe = s.exe ∧ (adjWrite x0 s).pen = s.pen ∧ (adjWrite x0 s).integ = s.integ ∧
    (adjWrite x0 s).shed = s.shed ∧ (adjWrite x0 s).dmc = s.dmc ∧ (adjWrite x0 s).lnk = s.lnk ∧ (adjWrite x0 s).rls =
    s.rls ∧ (adjWrite x0 s).yms = s.yms ∧ (adjWrite x0 s).grm = s.grm ∧ (adjWrite x0 s).pdk = s.pdk ∧ (adjWrite x0
    s).ldr = s.ldr ∧ (adjWrite x0 s).sec = s.sec ∧ (adjWrite x0 s).trg = s.trg ∧ (adjWrite x0 s).ptp = s.ptp ∧
    (adjWrite x0 s).dbg = s.dbg ∧ (adjWrite x0 s).pwr = s.pwr ∧ (adjWrite x0 s).ckpt = s.ckpt := by
  unfold adjWrite; split <;> simp

@[simp] theorem doLnkPeriodAdj_frame (x0 x1 s) : (doLnkPeriodAdj x0 x1 s).pending = s.pending ∧ (doLnkPeriodAdj x0 x1
    s).tck = s.tck ∧ (doLnkPeriodAdj x0 x1 s).exe = s.exe ∧ (doLnkPeriodAdj x0 x1 s).yms = s.yms ∧ (doLnkPeriodAdj x0
    x1 s).ldr = s.ldr ∧ (doLnkPeriodAdj x0 x1 s).sec = s.sec ∧ (doLnkPeriodAdj x0 x1 s).ckpt = s.ckpt := by
  simp [doLnkPeriodAdj]

@[simp] theorem prbsWrite_frame (x0 x1 x2 s) : (prbsWrite x0 x1 x2 s).pending = s.pending ∧ (prbsWrite x0 x1 x2 s).clk
    = s.clk ∧ (prbsWrite x0 x1 x2 s).tck = s.tck ∧ (prbsWrite x0 x1 x2 s).arr = s.arr ∧ (prbsWrite x0 x1 x2 s).exe =
    s.exe ∧ (prbsWrite x0 x1 x2 s).pen = s.pen ∧ (prbsWrite x0 x1 x2 s).integ = s.integ ∧ (prbsWrite x0 x1 x2 s).shed
    = s.shed ∧ (prbsWrite x0 x1 x2 s).dmc = s.dmc ∧ (prbsWrite x0 x1 x2 s).rls = s.rls ∧ (prbsWrite x0 x1 x2 s).yms =
    s.yms ∧ (prbsWrite x0 x1 x2 s).grm = s.grm ∧ (prbsWrite x0 x1 x2 s).pdk = s.pdk ∧ (prbsWrite x0 x1 x2 s).ldr =
    s.ldr ∧ (prbsWrite x0 x1 x2 s).sec = s.sec ∧ (prbsWrite x0 x1 x2 s).trg = s.trg ∧ (prbsWrite x0 x1 x2 s).ptp =
    s.ptp ∧ (prbsWrite x0 x1 x2 s).hst = s.hst ∧ (prbsWrite x0 x1 x2 s).ckpt = s.ckpt := by
  simp [prbsWrite]

@[simp] theorem doInjGo_frame (x0 x1 x2 s) : (doInjGo x0 x1 x2 s).pending = s.pending ∧ (doInjGo x0 x1 x2 s).tck =
    s.tck ∧ (doInjGo x0 x1 x2 s).exe = s.exe ∧ (doInjGo x0 x1 x2 s).yms = s.yms ∧ (doInjGo x0 x1 x2 s).ldr = s.ldr ∧
    (doInjGo x0 x1 x2 s).sec = s.sec ∧ (doInjGo x0 x1 x2 s).ckpt = s.ckpt := by
  simp [doInjGo]

@[simp] theorem doPrbsCheck_frame (x0 x1 x2 s) : (doPrbsCheck x0 x1 x2 s).pending = s.pending ∧ (doPrbsCheck x0 x1 x2
    s).tck = s.tck ∧ (doPrbsCheck x0 x1 x2 s).arr = s.arr ∧ (doPrbsCheck x0 x1 x2 s).exe = s.exe ∧ (doPrbsCheck x0 x1
    x2 s).pen = s.pen ∧ (doPrbsCheck x0 x1 x2 s).integ = s.integ ∧ (doPrbsCheck x0 x1 x2 s).shed = s.shed ∧
    (doPrbsCheck x0 x1 x2 s).dmc = s.dmc ∧ (doPrbsCheck x0 x1 x2 s).rls = s.rls ∧ (doPrbsCheck x0 x1 x2 s).grm = s.grm
    ∧ (doPrbsCheck x0 x1 x2 s).pdk = s.pdk ∧ (doPrbsCheck x0 x1 x2 s).ldr = s.ldr ∧ (doPrbsCheck x0 x1 x2 s).sec =
    s.sec ∧ (doPrbsCheck x0 x1 x2 s).trg = s.trg ∧ (doPrbsCheck x0 x1 x2 s).ptp = s.ptp ∧ (doPrbsCheck x0 x1 x2 s).dbg
    = s.dbg ∧ (doPrbsCheck x0 x1 x2 s).pwr = s.pwr ∧ (doPrbsCheck x0 x1 x2 s).ckpt = s.ckpt := by
  simp only [doPrbsCheck]; (repeat' split) <;> simp_all

/-! ### Loader -/

@[simp] theorem reportOk_frame (x0 s) : (reportOk x0 s).pending = s.pending ∧ (reportOk x0 s).clk = s.clk ∧ (reportOk
    x0 s).tck = s.tck ∧ (reportOk x0 s).arr = s.arr ∧ (reportOk x0 s).exe = s.exe ∧ (reportOk x0 s).pen = s.pen ∧
    (reportOk x0 s).integ = s.integ ∧ (reportOk x0 s).shed = s.shed ∧ (reportOk x0 s).dmc = s.dmc ∧ (reportOk x0
    s).lnk = s.lnk ∧ (reportOk x0 s).rls = s.rls ∧ (reportOk x0 s).yms = s.yms ∧ (reportOk x0 s).grm = s.grm ∧
    (reportOk x0 s).pdk = s.pdk ∧ (reportOk x0 s).ldr = s.ldr ∧ (reportOk x0 s).sec = s.sec ∧ (reportOk x0 s).trg =
    s.trg ∧ (reportOk x0 s).ptp = s.ptp ∧ (reportOk x0 s).dbg = s.dbg ∧ (reportOk x0 s).pwr = s.pwr ∧ (reportOk x0
    s).ckpt = s.ckpt := by
  simp [reportOk]

@[simp] theorem failLoad_frame (x0 x1 s) : (failLoad x0 x1 s).pending = s.pending ∧ (failLoad x0 x1 s).clk = s.clk ∧
    (failLoad x0 x1 s).tck = s.tck ∧ (failLoad x0 x1 s).arr = s.arr ∧ (failLoad x0 x1 s).exe = s.exe ∧ (failLoad x0 x1
    s).pen = s.pen ∧ (failLoad x0 x1 s).shed = s.shed ∧ (failLoad x0 x1 s).dmc = s.dmc ∧ (failLoad x0 x1 s).lnk =
    s.lnk ∧ (failLoad x0 x1 s).rls = s.rls ∧ (failLoad x0 x1 s).yms = s.yms ∧ (failLoad x0 x1 s).grm = s.grm ∧
    (failLoad x0 x1 s).pdk = s.pdk ∧ (failLoad x0 x1 s).ldr = s.ldr ∧ (failLoad x0 x1 s).sec = s.sec ∧ (failLoad x0 x1
    s).trg = s.trg ∧ (failLoad x0 x1 s).ptp = s.ptp ∧ (failLoad x0 x1 s).dbg = s.dbg ∧ (failLoad x0 x1 s).pwr = s.pwr
    ∧ (failLoad x0 x1 s).ckpt = s.ckpt := by
  unfold failLoad; (repeat' split) <;> simp_all

@[simp] theorem goldenPut_frame (x0 s) : (goldenPut x0 s).pending = s.pending ∧ (goldenPut x0 s).clk = s.clk ∧
    (goldenPut x0 s).tck = s.tck ∧ (goldenPut x0 s).arr = s.arr ∧ (goldenPut x0 s).exe = s.exe ∧ (goldenPut x0 s).pen
    = s.pen ∧ (goldenPut x0 s).integ = s.integ ∧ (goldenPut x0 s).shed = s.shed ∧ (goldenPut x0 s).lnk = s.lnk ∧
    (goldenPut x0 s).rls = s.rls ∧ (goldenPut x0 s).yms = s.yms ∧ (goldenPut x0 s).grm = s.grm ∧ (goldenPut x0 s).pdk
    = s.pdk ∧ (goldenPut x0 s).ldr = s.ldr ∧ (goldenPut x0 s).sec = s.sec ∧ (goldenPut x0 s).trg = s.trg ∧ (goldenPut
    x0 s).ptp = s.ptp ∧ (goldenPut x0 s).dbg = s.dbg ∧ (goldenPut x0 s).pwr = s.pwr ∧ (goldenPut x0 s).ckpt = s.ckpt
    := by
  simp only [goldenPut]; (repeat' split) <;> simp_all

@[simp] theorem goldenPuts_frame (x0 s) : (goldenPuts x0 s).pending = s.pending ∧ (goldenPuts x0 s).clk = s.clk ∧
    (goldenPuts x0 s).tck = s.tck ∧ (goldenPuts x0 s).arr = s.arr ∧ (goldenPuts x0 s).exe = s.exe ∧ (goldenPuts x0
    s).pen = s.pen ∧ (goldenPuts x0 s).integ = s.integ ∧ (goldenPuts x0 s).shed = s.shed ∧ (goldenPuts x0 s).lnk =
    s.lnk ∧ (goldenPuts x0 s).rls = s.rls ∧ (goldenPuts x0 s).yms = s.yms ∧ (goldenPuts x0 s).grm = s.grm ∧
    (goldenPuts x0 s).pdk = s.pdk ∧ (goldenPuts x0 s).ldr = s.ldr ∧ (goldenPuts x0 s).sec = s.sec ∧ (goldenPuts x0
    s).trg = s.trg ∧ (goldenPuts x0 s).ptp = s.ptp ∧ (goldenPuts x0 s).dbg = s.dbg ∧ (goldenPuts x0 s).pwr = s.pwr ∧
    (goldenPuts x0 s).ckpt = s.ckpt := by
  simp [goldenPuts]

@[simp] theorem wakePdk_frame (s) : (wakePdk s).pending = s.pending ∧ (wakePdk s).tck = s.tck ∧ (wakePdk s).exe =
    s.exe ∧ (wakePdk s).yms = s.yms ∧ (wakePdk s).ldr = s.ldr ∧ (wakePdk s).sec = s.sec ∧ (wakePdk s).ckpt = s.ckpt :=
    by
  unfold wakePdk; split <;> simp

@[simp] theorem afterChange_frame (s) : (afterChange s).pending = s.pending ∧ (afterChange s).tck = s.tck ∧
    (afterChange s).arr = s.arr ∧ (afterChange s).exe = s.exe ∧ (afterChange s).pen = s.pen ∧ (afterChange s).integ =
    s.integ ∧ (afterChange s).shed = s.shed ∧ (afterChange s).lnk = s.lnk ∧ (afterChange s).yms = s.yms ∧ (afterChange
    s).grm = s.grm ∧ (afterChange s).pdk = s.pdk ∧ (afterChange s).ldr = s.ldr ∧ (afterChange s).sec = s.sec ∧
    (afterChange s).trg = s.trg ∧ (afterChange s).ptp = s.ptp ∧ (afterChange s).dbg = s.dbg ∧ (afterChange s).pwr =
    s.pwr ∧ (afterChange s).ckpt = s.ckpt := by
  unfold afterChange; split <;> simp

@[simp] theorem wakeFill_frame (x0 s) : (wakeFill x0 s).pending = s.pending ∧ (wakeFill x0 s).tck = s.tck ∧ (wakeFill
    x0 s).exe = s.exe ∧ (wakeFill x0 s).yms = s.yms ∧ (wakeFill x0 s).ldr = s.ldr ∧ (wakeFill x0 s).sec = s.sec ∧
    (wakeFill x0 s).ckpt = s.ckpt := by
  simp [wakeFill, ite_frame]

@[simp] theorem wakeSource_frame (x0 s) : (wakeSource x0 s).pending = s.pending ∧ (wakeSource x0 s).tck = s.tck ∧
    (wakeSource x0 s).exe = s.exe ∧ (wakeSource x0 s).yms = s.yms ∧ (wakeSource x0 s).ldr = s.ldr ∧ (wakeSource x0
    s).sec = s.sec ∧ (wakeSource x0 s).ckpt = s.ckpt := by
  simp only [wakeSource]; (repeat' split) <;> simp_all

@[simp] theorem wakePlace_frame (s) : (wakePlace s).pending = s.pending ∧ (wakePlace s).tck = s.tck ∧ (wakePlace
    s).exe = s.exe ∧ (wakePlace s).yms = s.yms ∧ (wakePlace s).ldr = s.ldr ∧ (wakePlace s).sec = s.sec ∧ (wakePlace
    s).ckpt = s.ckpt := by
  unfold wakePlace; split <;> simp

@[simp] theorem acceptLoad_frame (s) : (acceptLoad s).pending = s.pending ∧ (acceptLoad s).clk = s.clk ∧ (acceptLoad
    s).arr = s.arr ∧ (acceptLoad s).shed = s.shed ∧ (acceptLoad s).dmc = s.dmc ∧ (acceptLoad s).lnk = s.lnk ∧
    (acceptLoad s).rls = s.rls ∧ (acceptLoad s).yms = s.yms ∧ (acceptLoad s).grm = s.grm ∧ (acceptLoad s).sec = s.sec
    ∧ (acceptLoad s).trg = s.trg ∧ (acceptLoad s).ptp = s.ptp ∧ (acceptLoad s).dbg = s.dbg ∧ (acceptLoad s).pwr =
    s.pwr ∧ (acceptLoad s).hst = s.hst ∧ (acceptLoad s).ckpt = s.ckpt := by
  simp [acceptLoad]

@[simp] theorem installFull_frame (x0 x1 s) : (installFull x0 x1 s).pending = s.pending ∧ (installFull x0 x1 s).exe =
    s.exe ∧ (installFull x0 x1 s).yms = s.yms ∧ (installFull x0 x1 s).sec = s.sec ∧ (installFull x0 x1 s).ckpt =
    s.ckpt := by
  unfold installFull; split <;> simp

@[simp] theorem looseLoad_frame (x0 s) : (looseLoad x0 s).pending = s.pending ∧ (looseLoad x0 s).regs = s.regs ∧
    (looseLoad x0 s).tck = s.tck ∧ (looseLoad x0 s).exe = s.exe ∧ (looseLoad x0 s).pen = s.pen ∧ (looseLoad x0
    s).integ = s.integ ∧ (looseLoad x0 s).dmc = s.dmc ∧ (looseLoad x0 s).lnk = s.lnk ∧ (looseLoad x0 s).rls = s.rls ∧
    (looseLoad x0 s).yms = s.yms ∧ (looseLoad x0 s).grm = s.grm ∧ (looseLoad x0 s).pdk = s.pdk ∧ (looseLoad x0 s).ldr
    = s.ldr ∧ (looseLoad x0 s).sec = s.sec ∧ (looseLoad x0 s).trg = s.trg ∧ (looseLoad x0 s).ptp = s.ptp ∧ (looseLoad
    x0 s).dbg = s.dbg ∧ (looseLoad x0 s).pwr = s.pwr ∧ (looseLoad x0 s).hst = s.hst ∧ (looseLoad x0 s).ckpt = s.ckpt
    := by
  simp [looseLoad]

@[simp] theorem runLoad_frame (x0 x1 x2 s) : (runLoad x0 x1 x2 s).pending = s.pending ∧ (runLoad x0 x1 x2 s).yms =
    s.yms ∧ (runLoad x0 x1 x2 s).sec = s.sec ∧ (runLoad x0 x1 x2 s).ckpt = s.ckpt := by
  simp only [runLoad]; (repeat' split) <;> simp_all

@[simp] theorem stageBurst_frame (x0 x1 s) : (stageBurst x0 x1 s).pending = s.pending ∧ (stageBurst x0 x1 s).clk =
    s.clk ∧ (stageBurst x0 x1 s).tck = s.tck ∧ (stageBurst x0 x1 s).arr = s.arr ∧ (stageBurst x0 x1 s).exe = s.exe ∧
    (stageBurst x0 x1 s).pen = s.pen ∧ (stageBurst x0 x1 s).integ = s.integ ∧ (stageBurst x0 x1 s).shed = s.shed ∧
    (stageBurst x0 x1 s).lnk = s.lnk ∧ (stageBurst x0 x1 s).rls = s.rls ∧ (stageBurst x0 x1 s).yms = s.yms ∧
    (stageBurst x0 x1 s).grm = s.grm ∧ (stageBurst x0 x1 s).pdk = s.pdk ∧ (stageBurst x0 x1 s).ldr = s.ldr ∧
    (stageBurst x0 x1 s).sec = s.sec ∧ (stageBurst x0 x1 s).trg = s.trg ∧ (stageBurst x0 x1 s).ptp = s.ptp ∧
    (stageBurst x0 x1 s).dbg = s.dbg ∧ (stageBurst x0 x1 s).pwr = s.pwr ∧ (stageBurst x0 x1 s).ckpt = s.ckpt := by
  simp only [stageBurst]; (repeat' split) <;> simp_all

@[simp] theorem stageStream_frame (x0 s) : (stageStream x0 s).pending = s.pending ∧ (stageStream x0 s).tck = s.tck ∧
    (stageStream x0 s).exe = s.exe ∧ (stageStream x0 s).yms = s.yms ∧ (stageStream x0 s).ldr = s.ldr ∧ (stageStream x0
    s).sec = s.sec ∧ (stageStream x0 s).ckpt = s.ckpt := by
  simp [stageStream]

@[simp] theorem runPart_frame (x0 x1 s) : (runPart x0 x1 s).pending = s.pending ∧ (runPart x0 x1 s).tck = s.tck ∧
    (runPart x0 x1 s).exe = s.exe ∧ (runPart x0 x1 s).yms = s.yms ∧ (runPart x0 x1 s).sec = s.sec ∧ (runPart x0 x1
    s).ckpt = s.ckpt := by
  simp only [runPart]; (repeat' split) <;> simp_all

@[simp] theorem commitArr_frame (x0 x1 s) : (commitArr x0 x1 s).pending = s.pending ∧ (commitArr x0 x1 s).tck = s.tck
    ∧ (commitArr x0 x1 s).exe = s.exe ∧ (commitArr x0 x1 s).yms = s.yms ∧ (commitArr x0 x1 s).sec = s.sec ∧ (commitArr
    x0 x1 s).ckpt = s.ckpt := by
  simp [commitArr]

@[simp] theorem commitPdk_frame (x0 s) : (commitPdk x0 s).pending = s.pending ∧ (commitPdk x0 s).tck = s.tck ∧
    (commitPdk x0 s).exe = s.exe ∧ (commitPdk x0 s).yms = s.yms ∧ (commitPdk x0 s).ldr = s.ldr ∧ (commitPdk x0 s).sec
    = s.sec ∧ (commitPdk x0 s).ckpt = s.ckpt := by
  simp [commitPdk]

@[simp] theorem doPartialCommit_frame (s) : (doPartialCommit s).pending = s.pending ∧ (doPartialCommit s).tck = s.tck
    ∧ (doPartialCommit s).exe = s.exe ∧ (doPartialCommit s).yms = s.yms ∧ (doPartialCommit s).sec = s.sec ∧
    (doPartialCommit s).ckpt = s.ckpt := by
  simp only [doPartialCommit]; (repeat' split) <;> simp_all

@[simp] theorem patchGold_frame (x0 x1 x2 s) : (patchGold x0 x1 x2 s).pending = s.pending ∧ (patchGold x0 x1 x2 s).clk
    = s.clk ∧ (patchGold x0 x1 x2 s).tck = s.tck ∧ (patchGold x0 x1 x2 s).arr = s.arr ∧ (patchGold x0 x1 x2 s).exe =
    s.exe ∧ (patchGold x0 x1 x2 s).pen = s.pen ∧ (patchGold x0 x1 x2 s).shed = s.shed ∧ (patchGold x0 x1 x2 s).lnk =
    s.lnk ∧ (patchGold x0 x1 x2 s).rls = s.rls ∧ (patchGold x0 x1 x2 s).yms = s.yms ∧ (patchGold x0 x1 x2 s).grm =
    s.grm ∧ (patchGold x0 x1 x2 s).pdk = s.pdk ∧ (patchGold x0 x1 x2 s).ldr = s.ldr ∧ (patchGold x0 x1 x2 s).sec =
    s.sec ∧ (patchGold x0 x1 x2 s).trg = s.trg ∧ (patchGold x0 x1 x2 s).ptp = s.ptp ∧ (patchGold x0 x1 x2 s).dbg =
    s.dbg ∧ (patchGold x0 x1 x2 s).pwr = s.pwr ∧ (patchGold x0 x1 x2 s).ckpt = s.ckpt := by
  simp only [patchGold]; (repeat' split) <;> simp_all

@[simp] theorem applyPatch_frame (s x1) : (applyPatch s x1).pending = s.pending ∧ (applyPatch s x1).clk = s.clk ∧
    (applyPatch s x1).tck = s.tck ∧ (applyPatch s x1).exe = s.exe ∧ (applyPatch s x1).pen = s.pen ∧ (applyPatch s
    x1).shed = s.shed ∧ (applyPatch s x1).lnk = s.lnk ∧ (applyPatch s x1).rls = s.rls ∧ (applyPatch s x1).yms = s.yms
    ∧ (applyPatch s x1).grm = s.grm ∧ (applyPatch s x1).pdk = s.pdk ∧ (applyPatch s x1).ldr = s.ldr ∧ (applyPatch s
    x1).sec = s.sec ∧ (applyPatch s x1).trg = s.trg ∧ (applyPatch s x1).ptp = s.ptp ∧ (applyPatch s x1).dbg = s.dbg ∧
    (applyPatch s x1).pwr = s.pwr ∧ (applyPatch s x1).ckpt = s.ckpt := by
  unfold applyPatch; (repeat' split) <;> simp_all

@[simp] theorem runPatch_frame (x0 x1 s) : (runPatch x0 x1 s).pending = s.pending ∧ (runPatch x0 x1 s).tck = s.tck ∧
    (runPatch x0 x1 s).exe = s.exe ∧ (runPatch x0 x1 s).yms = s.yms ∧ (runPatch x0 x1 s).sec = s.sec ∧ (runPatch x0 x1
    s).ckpt = s.ckpt := by
  simp only [runPatch]; (repeat' split) <;> simp_all

@[simp] theorem ldrCommand_frame (x0 x1 x2 s) : (ldrCommand x0 x1 x2 s).pending = s.pending ∧ (ldrCommand x0 x1 x2
    s).yms = s.yms ∧ (ldrCommand x0 x1 x2 s).sec = s.sec ∧ (ldrCommand x0 x1 x2 s).ckpt = s.ckpt := by
  simp only [ldrCommand]; (repeat' split) <;> simp_all

@[simp] theorem ldrCmdWrite_frame (x0 x1 x2 x3 s) : (ldrCmdWrite x0 x1 x2 x3 s).pending = s.pending ∧ (ldrCmdWrite x0
    x1 x2 x3 s).yms = s.yms ∧ (ldrCmdWrite x0 x1 x2 x3 s).sec = s.sec ∧ (ldrCmdWrite x0 x1 x2 x3 s).ckpt = s.ckpt :=
    by
  simp [ldrCmdWrite]

@[simp] theorem doLoad_frame (x0 x1 x2 x3 s) : (doLoad x0 x1 x2 x3 s).pending = s.pending ∧ (doLoad x0 x1 x2 x3 s).yms
    = s.yms ∧ (doLoad x0 x1 x2 x3 s).sec = s.sec ∧ (doLoad x0 x1 x2 x3 s).ckpt = s.ckpt := by
  simp [doLoad]

@[simp] theorem doPartialImg_frame (x0 x1 x2 s) : (doPartialImg x0 x1 x2 s).pending = s.pending ∧ (doPartialImg x0 x1
    x2 s).yms = s.yms ∧ (doPartialImg x0 x1 x2 s).sec = s.sec ∧ (doPartialImg x0 x1 x2 s).ckpt = s.ckpt := by
  simp [doPartialImg]

@[simp] theorem doPatch_frame (x0 x1 x2 s) : (doPatch x0 x1 x2 s).pending = s.pending ∧ (doPatch x0 x1 x2 s).yms =
    s.yms ∧ (doPatch x0 x1 x2 s).sec = s.sec ∧ (doPatch x0 x1 x2 s).ckpt = s.ckpt := by
  simp [doPatch]

@[simp] theorem doAbort_frame (x0 s) : (doAbort x0 s).pending = s.pending ∧ (doAbort x0 s).yms = s.yms ∧ (doAbort x0
    s).sec = s.sec ∧ (doAbort x0 s).ckpt = s.ckpt := by
  simp [doAbort]

@[simp] theorem doDoneRise_frame (s) : (doDoneRise s).pending = s.pending ∧ (doDoneRise s).clk = s.clk ∧ (doDoneRise
    s).tck = s.tck ∧ (doDoneRise s).exe = s.exe ∧ (doDoneRise s).integ = s.integ ∧ (doDoneRise s).shed = s.shed ∧
    (doDoneRise s).dmc = s.dmc ∧ (doDoneRise s).lnk = s.lnk ∧ (doDoneRise s).rls = s.rls ∧ (doDoneRise s).yms = s.yms
    ∧ (doDoneRise s).grm = s.grm ∧ (doDoneRise s).sec = s.sec ∧ (doDoneRise s).trg = s.trg ∧ (doDoneRise s).ptp =
    s.ptp ∧ (doDoneRise s).dbg = s.dbg ∧ (doDoneRise s).pwr = s.pwr ∧ (doDoneRise s).ckpt = s.ckpt := by
  unfold doDoneRise; split <;> simp

@[simp] theorem doDoneFall_frame (s) : (doDoneFall s).pending = s.pending ∧ (doDoneFall s).clk = s.clk ∧ (doDoneFall
    s).tck = s.tck ∧ (doDoneFall s).arr = s.arr ∧ (doDoneFall s).exe = s.exe ∧ (doDoneFall s).pen = s.pen ∧
    (doDoneFall s).integ = s.integ ∧ (doDoneFall s).shed = s.shed ∧ (doDoneFall s).dmc = s.dmc ∧ (doDoneFall s).lnk =
    s.lnk ∧ (doDoneFall s).rls = s.rls ∧ (doDoneFall s).yms = s.yms ∧ (doDoneFall s).grm = s.grm ∧ (doDoneFall s).sec
    = s.sec ∧ (doDoneFall s).trg = s.trg ∧ (doDoneFall s).ptp = s.ptp ∧ (doDoneFall s).dbg = s.dbg ∧ (doDoneFall
    s).pwr = s.pwr ∧ (doDoneFall s).ckpt = s.ckpt := by
  unfold doDoneFall; split <;> simp

/-! ### Security -/

@[simp] theorem copyFw_frame (x0 x1 s) : (copyFw x0 x1 s).pending = s.pending ∧ (copyFw x0 x1 s).regs = s.regs ∧
    (copyFw x0 x1 s).clk = s.clk ∧ (copyFw x0 x1 s).tck = s.tck ∧ (copyFw x0 x1 s).arr = s.arr ∧ (copyFw x0 x1 s).exe
    = s.exe ∧ (copyFw x0 x1 s).pen = s.pen ∧ (copyFw x0 x1 s).integ = s.integ ∧ (copyFw x0 x1 s).shed = s.shed ∧
    (copyFw x0 x1 s).dmc = s.dmc ∧ (copyFw x0 x1 s).lnk = s.lnk ∧ (copyFw x0 x1 s).rls = s.rls ∧ (copyFw x0 x1 s).yms
    = s.yms ∧ (copyFw x0 x1 s).pdk = s.pdk ∧ (copyFw x0 x1 s).ldr = s.ldr ∧ (copyFw x0 x1 s).sec = s.sec ∧ (copyFw x0
    x1 s).trg = s.trg ∧ (copyFw x0 x1 s).ptp = s.ptp ∧ (copyFw x0 x1 s).dbg = s.dbg ∧ (copyFw x0 x1 s).pwr = s.pwr ∧
    (copyFw x0 x1 s).hst = s.hst ∧ (copyFw x0 x1 s).ckpt = s.ckpt := by
  simp [copyFw]

@[simp] theorem startFw_frame (x0 x1 s) : (startFw x0 x1 s).pending = s.pending ∧ (startFw x0 x1 s).clk = s.clk ∧
    (startFw x0 x1 s).tck = s.tck ∧ (startFw x0 x1 s).arr = s.arr ∧ (startFw x0 x1 s).exe = s.exe ∧ (startFw x0 x1
    s).pen = s.pen ∧ (startFw x0 x1 s).integ = s.integ ∧ (startFw x0 x1 s).shed = s.shed ∧ (startFw x0 x1 s).dmc =
    s.dmc ∧ (startFw x0 x1 s).lnk = s.lnk ∧ (startFw x0 x1 s).rls = s.rls ∧ (startFw x0 x1 s).yms = s.yms ∧ (startFw
    x0 x1 s).pdk = s.pdk ∧ (startFw x0 x1 s).ldr = s.ldr ∧ (startFw x0 x1 s).trg = s.trg ∧ (startFw x0 x1 s).ptp =
    s.ptp ∧ (startFw x0 x1 s).dbg = s.dbg ∧ (startFw x0 x1 s).pwr = s.pwr ∧ (startFw x0 x1 s).hst = s.hst ∧ (startFw
    x0 x1 s).ckpt = s.ckpt := by
  simp [startFw]

@[simp] theorem trySlot_frame (x0 x1 x2 s) : ((∀ p x, (x2 p x).pending = x.pending) → (trySlot x0 x1 x2 s).pending =
    s.pending) ∧ ((∀ p x, (x2 p x).clk = x.clk) → (trySlot x0 x1 x2 s).clk = s.clk) ∧ ((∀ p x, (x2 p x).tck = x.tck) →
    (trySlot x0 x1 x2 s).tck = s.tck) ∧ ((∀ p x, (x2 p x).arr = x.arr) → (trySlot x0 x1 x2 s).arr = s.arr) ∧ ((∀ p x,
    (x2 p x).exe = x.exe) → (trySlot x0 x1 x2 s).exe = s.exe) ∧ ((∀ p x, (x2 p x).pen = x.pen) → (trySlot x0 x1 x2
    s).pen = s.pen) ∧ ((∀ p x, (x2 p x).integ = x.integ) → (trySlot x0 x1 x2 s).integ = s.integ) ∧ ((∀ p x, (x2 p
    x).shed = x.shed) → (trySlot x0 x1 x2 s).shed = s.shed) ∧ ((∀ p x, (x2 p x).dmc = x.dmc) → (trySlot x0 x1 x2
    s).dmc = s.dmc) ∧ ((∀ p x, (x2 p x).lnk = x.lnk) → (trySlot x0 x1 x2 s).lnk = s.lnk) ∧ ((∀ p x, (x2 p x).rls =
    x.rls) → (trySlot x0 x1 x2 s).rls = s.rls) ∧ ((∀ p x, (x2 p x).yms = x.yms) → (trySlot x0 x1 x2 s).yms = s.yms) ∧
    ((∀ p x, (x2 p x).pdk = x.pdk) → (trySlot x0 x1 x2 s).pdk = s.pdk) ∧ ((∀ p x, (x2 p x).ldr = x.ldr) → (trySlot x0
    x1 x2 s).ldr = s.ldr) ∧ ((∀ p x, (x2 p x).trg = x.trg) → (trySlot x0 x1 x2 s).trg = s.trg) ∧ ((∀ p x, (x2 p x).ptp
    = x.ptp) → (trySlot x0 x1 x2 s).ptp = s.ptp) ∧ ((∀ p x, (x2 p x).dbg = x.dbg) → (trySlot x0 x1 x2 s).dbg = s.dbg)
    ∧ ((∀ p x, (x2 p x).pwr = x.pwr) → (trySlot x0 x1 x2 s).pwr = s.pwr) ∧ ((∀ p x, (x2 p x).hst = x.hst) → (trySlot
    x0 x1 x2 s).hst = s.hst) ∧ ((∀ p x, (x2 p x).ckpt = x.ckpt) → (trySlot x0 x1 x2 s).ckpt = s.ckpt) := by
  simp only [trySlot]; (repeat' split) <;> simp_all

@[simp] theorem bootWaits_frame (x0 x1 s) : (bootWaits x0 x1 s).pending = s.pending ∧ (bootWaits x0 x1 s).clk = s.clk
    ∧ (bootWaits x0 x1 s).tck = s.tck ∧ (bootWaits x0 x1 s).arr = s.arr ∧ (bootWaits x0 x1 s).exe = s.exe ∧ (bootWaits
    x0 x1 s).pen = s.pen ∧ (bootWaits x0 x1 s).integ = s.integ ∧ (bootWaits x0 x1 s).shed = s.shed ∧ (bootWaits x0 x1
    s).dmc = s.dmc ∧ (bootWaits x0 x1 s).lnk = s.lnk ∧ (bootWaits x0 x1 s).rls = s.rls ∧ (bootWaits x0 x1 s).yms =
    s.yms ∧ (bootWaits x0 x1 s).grm = s.grm ∧ (bootWaits x0 x1 s).pdk = s.pdk ∧ (bootWaits x0 x1 s).ldr = s.ldr ∧
    (bootWaits x0 x1 s).trg = s.trg ∧ (bootWaits x0 x1 s).ptp = s.ptp ∧ (bootWaits x0 x1 s).dbg = s.dbg ∧ (bootWaits
    x0 x1 s).pwr = s.pwr ∧ (bootWaits x0 x1 s).hst = s.hst ∧ (bootWaits x0 x1 s).ckpt = s.ckpt := by
  simp [bootWaits]

@[simp] theorem bootWakes_frame (s) : (bootWakes s).pending = s.pending ∧ (bootWakes s).tck = s.tck ∧ (bootWakes
    s).exe = s.exe ∧ (bootWakes s).yms = s.yms ∧ (bootWakes s).ldr = s.ldr ∧ (bootWakes s).sec = s.sec ∧ (bootWakes
    s).ckpt = s.ckpt := by
  simp [bootWakes, ite_frame]

@[simp] theorem doBoot_frame (x0 x1 s) : (doBoot x0 x1 s).pending = s.pending ∧ (doBoot x0 x1 s).tck = s.tck ∧ (doBoot
    x0 x1 s).exe = s.exe ∧ (doBoot x0 x1 s).yms = s.yms ∧ (doBoot x0 x1 s).ldr = s.ldr ∧ (doBoot x0 x1 s).ckpt =
    s.ckpt := by
  unfold doBoot; split <;> simp

@[simp] theorem retryWrite_frame (s) : (retryWrite s).pending = s.pending ∧ (retryWrite s).clk = s.clk ∧ (retryWrite
    s).tck = s.tck ∧ (retryWrite s).arr = s.arr ∧ (retryWrite s).exe = s.exe ∧ (retryWrite s).pen = s.pen ∧
    (retryWrite s).integ = s.integ ∧ (retryWrite s).shed = s.shed ∧ (retryWrite s).dmc = s.dmc ∧ (retryWrite s).lnk =
    s.lnk ∧ (retryWrite s).rls = s.rls ∧ (retryWrite s).yms = s.yms ∧ (retryWrite s).pdk = s.pdk ∧ (retryWrite s).ldr
    = s.ldr ∧ (retryWrite s).trg = s.trg ∧ (retryWrite s).ptp = s.ptp ∧ (retryWrite s).dbg = s.dbg ∧ (retryWrite
    s).pwr = s.pwr ∧ (retryWrite s).hst = s.hst ∧ (retryWrite s).ckpt = s.ckpt := by
  unfold retryWrite; split <;> simp

@[simp] theorem doRetry_frame (x0 s) : (doRetry x0 s).pending = s.pending ∧ (doRetry x0 s).tck = s.tck ∧ (doRetry x0
    s).exe = s.exe ∧ (doRetry x0 s).yms = s.yms ∧ (doRetry x0 s).ldr = s.ldr ∧ (doRetry x0 s).ckpt = s.ckpt := by
  simp [doRetry]

@[simp] theorem secDone_frame (x0 s) : (secDone x0 s).pending = s.pending ∧ (secDone x0 s).clk = s.clk ∧ (secDone x0
    s).tck = s.tck ∧ (secDone x0 s).arr = s.arr ∧ (secDone x0 s).exe = s.exe ∧ (secDone x0 s).pen = s.pen ∧ (secDone
    x0 s).integ = s.integ ∧ (secDone x0 s).shed = s.shed ∧ (secDone x0 s).dmc = s.dmc ∧ (secDone x0 s).lnk = s.lnk ∧
    (secDone x0 s).rls = s.rls ∧ (secDone x0 s).yms = s.yms ∧ (secDone x0 s).grm = s.grm ∧ (secDone x0 s).pdk = s.pdk
    ∧ (secDone x0 s).ldr = s.ldr ∧ (secDone x0 s).sec = s.sec ∧ (secDone x0 s).trg = s.trg ∧ (secDone x0 s).ptp =
    s.ptp ∧ (secDone x0 s).dbg = s.dbg ∧ (secDone x0 s).pwr = s.pwr ∧ (secDone x0 s).ckpt = s.ckpt := by
  simp [secDone]

@[simp] theorem reachBuf_frame (x0 s) : (reachBuf x0 s).pending = s.pending ∧ (reachBuf x0 s).tck = s.tck ∧ (reachBuf
    x0 s).exe = s.exe ∧ (reachBuf x0 s).yms = s.yms ∧ (reachBuf x0 s).ldr = s.ldr ∧ (reachBuf x0 s).sec = s.sec ∧
    (reachBuf x0 s).ckpt = s.ckpt := by
  simp [reachBuf]

@[simp] theorem secWrite_frame (x0 s) : (secWrite x0 s).pending = s.pending ∧ (secWrite x0 s).clk = s.clk ∧ (secWrite
    x0 s).tck = s.tck ∧ (secWrite x0 s).arr = s.arr ∧ (secWrite x0 s).exe = s.exe ∧ (secWrite x0 s).pen = s.pen ∧
    (secWrite x0 s).integ = s.integ ∧ (secWrite x0 s).shed = s.shed ∧ (secWrite x0 s).lnk = s.lnk ∧ (secWrite x0
    s).rls = s.rls ∧ (secWrite x0 s).yms = s.yms ∧ (secWrite x0 s).grm = s.grm ∧ (secWrite x0 s).pdk = s.pdk ∧
    (secWrite x0 s).ldr = s.ldr ∧ (secWrite x0 s).sec = s.sec ∧ (secWrite x0 s).trg = s.trg ∧ (secWrite x0 s).ptp =
    s.ptp ∧ (secWrite x0 s).dbg = s.dbg ∧ (secWrite x0 s).pwr = s.pwr ∧ (secWrite x0 s).ckpt = s.ckpt := by
  unfold secWrite; split <;> simp

@[simp] theorem runAttest_frame (s) : (runAttest s).pending = s.pending ∧ (runAttest s).clk = s.clk ∧ (runAttest
    s).tck = s.tck ∧ (runAttest s).arr = s.arr ∧ (runAttest s).exe = s.exe ∧ (runAttest s).pen = s.pen ∧ (runAttest
    s).integ = s.integ ∧ (runAttest s).shed = s.shed ∧ (runAttest s).lnk = s.lnk ∧ (runAttest s).rls = s.rls ∧
    (runAttest s).yms = s.yms ∧ (runAttest s).grm = s.grm ∧ (runAttest s).pdk = s.pdk ∧ (runAttest s).ldr = s.ldr ∧
    (runAttest s).sec = s.sec ∧ (runAttest s).trg = s.trg ∧ (runAttest s).ptp = s.ptp ∧ (runAttest s).dbg = s.dbg ∧
    (runAttest s).pwr = s.pwr ∧ (runAttest s).ckpt = s.ckpt := by
  simp only [runAttest]; (repeat' split) <;> simp_all

@[simp] theorem runOtp_frame (s) : (runOtp s).pending = s.pending ∧ (runOtp s).clk = s.clk ∧ (runOtp s).tck = s.tck ∧
    (runOtp s).arr = s.arr ∧ (runOtp s).exe = s.exe ∧ (runOtp s).pen = s.pen ∧ (runOtp s).integ = s.integ ∧ (runOtp
    s).shed = s.shed ∧ (runOtp s).lnk = s.lnk ∧ (runOtp s).rls = s.rls ∧ (runOtp s).yms = s.yms ∧ (runOtp s).grm =
    s.grm ∧ (runOtp s).pdk = s.pdk ∧ (runOtp s).ldr = s.ldr ∧ (runOtp s).trg = s.trg ∧ (runOtp s).ptp = s.ptp ∧
    (runOtp s).dbg = s.dbg ∧ (runOtp s).pwr = s.pwr ∧ (runOtp s).ckpt = s.ckpt := by
  unfold runOtp; (repeat' split) <;> simp_all

@[simp] theorem runRollback_frame (s) : (runRollback s).pending = s.pending ∧ (runRollback s).clk = s.clk ∧
    (runRollback s).tck = s.tck ∧ (runRollback s).arr = s.arr ∧ (runRollback s).exe = s.exe ∧ (runRollback s).pen =
    s.pen ∧ (runRollback s).integ = s.integ ∧ (runRollback s).shed = s.shed ∧ (runRollback s).dmc = s.dmc ∧
    (runRollback s).lnk = s.lnk ∧ (runRollback s).rls = s.rls ∧ (runRollback s).yms = s.yms ∧ (runRollback s).grm =
    s.grm ∧ (runRollback s).pdk = s.pdk ∧ (runRollback s).ldr = s.ldr ∧ (runRollback s).trg = s.trg ∧ (runRollback
    s).ptp = s.ptp ∧ (runRollback s).dbg = s.dbg ∧ (runRollback s).pwr = s.pwr ∧ (runRollback s).ckpt = s.ckpt := by
  simp [runRollback]

@[simp] theorem secCommand_frame (x0 s) : (secCommand x0 s).pending = s.pending ∧ (secCommand x0 s).tck = s.tck ∧
    (secCommand x0 s).exe = s.exe ∧ (secCommand x0 s).yms = s.yms ∧ (secCommand x0 s).ldr = s.ldr ∧ (secCommand x0
    s).ckpt = s.ckpt := by
  unfold secCommand; split <;> simp [ite_frame]

@[simp] theorem doIdentity_frame (x0 s) : (doIdentity x0 s).pending = s.pending ∧ (doIdentity x0 s).tck = s.tck ∧
    (doIdentity x0 s).exe = s.exe ∧ (doIdentity x0 s).yms = s.yms ∧ (doIdentity x0 s).ldr = s.ldr ∧ (doIdentity x0
    s).ckpt = s.ckpt := by
  simp [doIdentity]

@[simp] theorem doAttest_frame (x0 s) : (doAttest x0 s).pending = s.pending ∧ (doAttest x0 s).tck = s.tck ∧ (doAttest
    x0 s).exe = s.exe ∧ (doAttest x0 s).yms = s.yms ∧ (doAttest x0 s).ldr = s.ldr ∧ (doAttest x0 s).ckpt = s.ckpt :=
    by
  simp [doAttest]

@[simp] theorem doOtpProg_frame (x0 s) : (doOtpProg x0 s).pending = s.pending ∧ (doOtpProg x0 s).tck = s.tck ∧
    (doOtpProg x0 s).exe = s.exe ∧ (doOtpProg x0 s).yms = s.yms ∧ (doOtpProg x0 s).ldr = s.ldr ∧ (doOtpProg x0 s).ckpt
    = s.ckpt := by
  simp [doOtpProg]

@[simp] theorem doRollbackAdvance_frame (x0 s) : (doRollbackAdvance x0 s).pending = s.pending ∧ (doRollbackAdvance x0
    s).tck = s.tck ∧ (doRollbackAdvance x0 s).exe = s.exe ∧ (doRollbackAdvance x0 s).yms = s.yms ∧ (doRollbackAdvance
    x0 s).ldr = s.ldr ∧ (doRollbackAdvance x0 s).ckpt = s.ckpt := by
  simp [doRollbackAdvance]

/-! ### BringUp -/

@[simp] theorem bringLink_frame (x0 s x2) : (bringLink x0 s x2).pending = s.pending ∧ (bringLink x0 s x2).tck = s.tck
    ∧ (bringLink x0 s x2).exe = s.exe ∧ (bringLink x0 s x2).ldr = s.ldr ∧ (bringLink x0 s x2).sec = s.sec ∧ (bringLink
    x0 s x2).ckpt = s.ckpt := by
  unfold bringLink; (repeat' split) <;> simp_all

@[simp] theorem bringLinks_frame (x0 s) : (bringLinks x0 s).pending = s.pending ∧ (bringLinks x0 s).tck = s.tck ∧
    (bringLinks x0 s).exe = s.exe ∧ (bringLinks x0 s).ldr = s.ldr ∧ (bringLinks x0 s).sec = s.sec ∧ (bringLinks x0
    s).ckpt = s.ckpt := by
  simp [bringLinks]

@[simp] theorem bringTree_frame (x0 x1 s) : (bringTree x0 x1 s).pending = s.pending ∧ (bringTree x0 x1 s).arr = s.arr
    ∧ (bringTree x0 x1 s).exe = s.exe ∧ (bringTree x0 x1 s).pen = s.pen ∧ (bringTree x0 x1 s).integ = s.integ ∧
    (bringTree x0 x1 s).shed = s.shed ∧ (bringTree x0 x1 s).dmc = s.dmc ∧ (bringTree x0 x1 s).lnk = s.lnk ∧ (bringTree
    x0 x1 s).rls = s.rls ∧ (bringTree x0 x1 s).yms = s.yms ∧ (bringTree x0 x1 s).grm = s.grm ∧ (bringTree x0 x1 s).pdk
    = s.pdk ∧ (bringTree x0 x1 s).ldr = s.ldr ∧ (bringTree x0 x1 s).sec = s.sec ∧ (bringTree x0 x1 s).trg = s.trg ∧
    (bringTree x0 x1 s).ptp = s.ptp ∧ (bringTree x0 x1 s).dbg = s.dbg ∧ (bringTree x0 x1 s).pwr = s.pwr ∧ (bringTree
    x0 x1 s).hst = s.hst ∧ (bringTree x0 x1 s).ckpt = s.ckpt := by
  simp [bringTree]

@[simp] theorem tuneLink_frame (x0 x1 s x3) : (tuneLink x0 x1 s x3).pending = s.pending ∧ (tuneLink x0 x1 s x3).tck =
    s.tck ∧ (tuneLink x0 x1 s x3).arr = s.arr ∧ (tuneLink x0 x1 s x3).exe = s.exe ∧ (tuneLink x0 x1 s x3).pen = s.pen
    ∧ (tuneLink x0 x1 s x3).integ = s.integ ∧ (tuneLink x0 x1 s x3).shed = s.shed ∧ (tuneLink x0 x1 s x3).dmc = s.dmc
    ∧ (tuneLink x0 x1 s x3).rls = s.rls ∧ (tuneLink x0 x1 s x3).grm = s.grm ∧ (tuneLink x0 x1 s x3).pdk = s.pdk ∧
    (tuneLink x0 x1 s x3).ldr = s.ldr ∧ (tuneLink x0 x1 s x3).sec = s.sec ∧ (tuneLink x0 x1 s x3).trg = s.trg ∧
    (tuneLink x0 x1 s x3).ptp = s.ptp ∧ (tuneLink x0 x1 s x3).dbg = s.dbg ∧ (tuneLink x0 x1 s x3).pwr = s.pwr ∧
    (tuneLink x0 x1 s x3).ckpt = s.ckpt := by
  unfold tuneLink; split <;> simp

@[simp] theorem bringDone_frame (x0 x1 s) : (bringDone x0 x1 s).pending = s.pending ∧ (bringDone x0 x1 s).regs =
    s.regs ∧ (bringDone x0 x1 s).clk = s.clk ∧ (bringDone x0 x1 s).exe = s.exe ∧ (bringDone x0 x1 s).pen = s.pen ∧
    (bringDone x0 x1 s).shed = s.shed ∧ (bringDone x0 x1 s).dmc = s.dmc ∧ (bringDone x0 x1 s).lnk = s.lnk ∧ (bringDone
    x0 x1 s).rls = s.rls ∧ (bringDone x0 x1 s).yms = s.yms ∧ (bringDone x0 x1 s).grm = s.grm ∧ (bringDone x0 x1 s).pdk
    = s.pdk ∧ (bringDone x0 x1 s).sec = s.sec ∧ (bringDone x0 x1 s).trg = s.trg ∧ (bringDone x0 x1 s).ptp = s.ptp ∧
    (bringDone x0 x1 s).dbg = s.dbg ∧ (bringDone x0 x1 s).pwr = s.pwr ∧ (bringDone x0 x1 s).hst = s.hst ∧ (bringDone
    x0 x1 s).ckpt = s.ckpt := by
  simp [bringDone]

@[simp] theorem doSystemBringUp_frame (x0 s) : (doSystemBringUp x0 s).pending = s.pending ∧ (doSystemBringUp x0 s).exe
    = s.exe ∧ (doSystemBringUp x0 s).sec = s.sec ∧ (doSystemBringUp x0 s).ckpt = s.ckpt := by
  simp only [doSystemBringUp]; (repeat' split) <;> simp_all

/-! ### Power -/

@[simp] theorem domResult_frame (x0 x1 x2 x3 s) : (domResult x0 x1 x2 x3 s).pending = s.pending ∧ (domResult x0 x1 x2
    x3 s).clk = s.clk ∧ (domResult x0 x1 x2 x3 s).tck = s.tck ∧ (domResult x0 x1 x2 x3 s).arr = s.arr ∧ (domResult x0
    x1 x2 x3 s).exe = s.exe ∧ (domResult x0 x1 x2 x3 s).pen = s.pen ∧ (domResult x0 x1 x2 x3 s).integ = s.integ ∧
    (domResult x0 x1 x2 x3 s).shed = s.shed ∧ (domResult x0 x1 x2 x3 s).dmc = s.dmc ∧ (domResult x0 x1 x2 x3 s).lnk =
    s.lnk ∧ (domResult x0 x1 x2 x3 s).rls = s.rls ∧ (domResult x0 x1 x2 x3 s).yms = s.yms ∧ (domResult x0 x1 x2 x3
    s).grm = s.grm ∧ (domResult x0 x1 x2 x3 s).pdk = s.pdk ∧ (domResult x0 x1 x2 x3 s).ldr = s.ldr ∧ (domResult x0 x1
    x2 x3 s).sec = s.sec ∧ (domResult x0 x1 x2 x3 s).trg = s.trg ∧ (domResult x0 x1 x2 x3 s).ptp = s.ptp ∧ (domResult
    x0 x1 x2 x3 s).dbg = s.dbg ∧ (domResult x0 x1 x2 x3 s).pwr = s.pwr ∧ (domResult x0 x1 x2 x3 s).hst = s.hst ∧
    (domResult x0 x1 x2 x3 s).ckpt = s.ckpt := by
  unfold domResult; (repeat' split) <;> simp_all

@[simp] theorem domRefuse_frame (x0 x1 x2 s) : (domRefuse x0 x1 x2 s).pending = s.pending ∧ (domRefuse x0 x1 x2 s).clk
    = s.clk ∧ (domRefuse x0 x1 x2 s).tck = s.tck ∧ (domRefuse x0 x1 x2 s).arr = s.arr ∧ (domRefuse x0 x1 x2 s).exe =
    s.exe ∧ (domRefuse x0 x1 x2 s).pen = s.pen ∧ (domRefuse x0 x1 x2 s).integ = s.integ ∧ (domRefuse x0 x1 x2 s).shed
    = s.shed ∧ (domRefuse x0 x1 x2 s).dmc = s.dmc ∧ (domRefuse x0 x1 x2 s).lnk = s.lnk ∧ (domRefuse x0 x1 x2 s).rls =
    s.rls ∧ (domRefuse x0 x1 x2 s).yms = s.yms ∧ (domRefuse x0 x1 x2 s).grm = s.grm ∧ (domRefuse x0 x1 x2 s).pdk =
    s.pdk ∧ (domRefuse x0 x1 x2 s).ldr = s.ldr ∧ (domRefuse x0 x1 x2 s).sec = s.sec ∧ (domRefuse x0 x1 x2 s).trg =
    s.trg ∧ (domRefuse x0 x1 x2 s).ptp = s.ptp ∧ (domRefuse x0 x1 x2 s).dbg = s.dbg ∧ (domRefuse x0 x1 x2 s).pwr =
    s.pwr ∧ (domRefuse x0 x1 x2 s).ckpt = s.ckpt := by
  simp [domRefuse]

@[simp] theorem domWakeRequest_frame (x0 s) : (domWakeRequest x0 s).pending = s.pending ∧ (domWakeRequest x0 s).clk =
    s.clk ∧ (domWakeRequest x0 s).tck = s.tck ∧ (domWakeRequest x0 s).arr = s.arr ∧ (domWakeRequest x0 s).exe = s.exe
    ∧ (domWakeRequest x0 s).pen = s.pen ∧ (domWakeRequest x0 s).integ = s.integ ∧ (domWakeRequest x0 s).shed = s.shed
    ∧ (domWakeRequest x0 s).dmc = s.dmc ∧ (domWakeRequest x0 s).lnk = s.lnk ∧ (domWakeRequest x0 s).rls = s.rls ∧
    (domWakeRequest x0 s).yms = s.yms ∧ (domWakeRequest x0 s).grm = s.grm ∧ (domWakeRequest x0 s).pdk = s.pdk ∧
    (domWakeRequest x0 s).ldr = s.ldr ∧ (domWakeRequest x0 s).sec = s.sec ∧ (domWakeRequest x0 s).trg = s.trg ∧
    (domWakeRequest x0 s).ptp = s.ptp ∧ (domWakeRequest x0 s).dbg = s.dbg ∧ (domWakeRequest x0 s).ckpt = s.ckpt := by
  unfold domWakeRequest; split <;> simp

@[simp] theorem restGrooms_frame (x0 x1 x2 s) : (restGrooms x0 x1 x2 s).pending = s.pending ∧ (restGrooms x0 x1 x2
    s).tck = s.tck ∧ (restGrooms x0 x1 x2 s).arr = s.arr ∧ (restGrooms x0 x1 x2 s).exe = s.exe ∧ (restGrooms x0 x1 x2
    s).pen = s.pen ∧ (restGrooms x0 x1 x2 s).integ = s.integ ∧ (restGrooms x0 x1 x2 s).shed = s.shed ∧ (restGrooms x0
    x1 x2 s).dmc = s.dmc ∧ (restGrooms x0 x1 x2 s).lnk = s.lnk ∧ (restGrooms x0 x1 x2 s).yms = s.yms ∧ (restGrooms x0
    x1 x2 s).pdk = s.pdk ∧ (restGrooms x0 x1 x2 s).ldr = s.ldr ∧ (restGrooms x0 x1 x2 s).sec = s.sec ∧ (restGrooms x0
    x1 x2 s).trg = s.trg ∧ (restGrooms x0 x1 x2 s).ptp = s.ptp ∧ (restGrooms x0 x1 x2 s).dbg = s.dbg ∧ (restGrooms x0
    x1 x2 s).pwr = s.pwr ∧ (restGrooms x0 x1 x2 s).ckpt = s.ckpt := by
  induction x2 generalizing s x1 with
  | zero => simp [restGrooms]
  | succ n ih => simp [restGrooms, ih]

@[simp] theorem beginClose_frame (x0 x1 x2 s) : (beginClose x0 x1 x2 s).pending = s.pending ∧ (beginClose x0 x1 x2
    s).tck = s.tck ∧ (beginClose x0 x1 x2 s).arr = s.arr ∧ (beginClose x0 x1 x2 s).exe = s.exe ∧ (beginClose x0 x1 x2
    s).pen = s.pen ∧ (beginClose x0 x1 x2 s).integ = s.integ ∧ (beginClose x0 x1 x2 s).shed = s.shed ∧ (beginClose x0
    x1 x2 s).dmc = s.dmc ∧ (beginClose x0 x1 x2 s).lnk = s.lnk ∧ (beginClose x0 x1 x2 s).yms = s.yms ∧ (beginClose x0
    x1 x2 s).pdk = s.pdk ∧ (beginClose x0 x1 x2 s).ldr = s.ldr ∧ (beginClose x0 x1 x2 s).sec = s.sec ∧ (beginClose x0
    x1 x2 s).trg = s.trg ∧ (beginClose x0 x1 x2 s).ptp = s.ptp ∧ (beginClose x0 x1 x2 s).dbg = s.dbg ∧ (beginClose x0
    x1 x2 s).ckpt = s.ckpt := by
  unfold beginClose; split <;> simp

@[simp] theorem domCloseRequest_frame (x0 x1 s) : (domCloseRequest x0 x1 s).pending = s.pending ∧ (domCloseRequest x0
    x1 s).tck = s.tck ∧ (domCloseRequest x0 x1 s).arr = s.arr ∧ (domCloseRequest x0 x1 s).exe = s.exe ∧
    (domCloseRequest x0 x1 s).pen = s.pen ∧ (domCloseRequest x0 x1 s).integ = s.integ ∧ (domCloseRequest x0 x1 s).shed
    = s.shed ∧ (domCloseRequest x0 x1 s).dmc = s.dmc ∧ (domCloseRequest x0 x1 s).lnk = s.lnk ∧ (domCloseRequest x0 x1
    s).yms = s.yms ∧ (domCloseRequest x0 x1 s).pdk = s.pdk ∧ (domCloseRequest x0 x1 s).ldr = s.ldr ∧ (domCloseRequest
    x0 x1 s).sec = s.sec ∧ (domCloseRequest x0 x1 s).trg = s.trg ∧ (domCloseRequest x0 x1 s).ptp = s.ptp ∧
    (domCloseRequest x0 x1 s).dbg = s.dbg ∧ (domCloseRequest x0 x1 s).ckpt = s.ckpt := by
  simp only [domCloseRequest]; (repeat' split) <;> simp_all

@[simp] theorem domCtrlWrite_frame (x0 s) : (domCtrlWrite x0 s).pending = s.pending ∧ (domCtrlWrite x0 s).tck = s.tck
    ∧ (domCtrlWrite x0 s).arr = s.arr ∧ (domCtrlWrite x0 s).exe = s.exe ∧ (domCtrlWrite x0 s).pen = s.pen ∧
    (domCtrlWrite x0 s).integ = s.integ ∧ (domCtrlWrite x0 s).shed = s.shed ∧ (domCtrlWrite x0 s).dmc = s.dmc ∧
    (domCtrlWrite x0 s).lnk = s.lnk ∧ (domCtrlWrite x0 s).yms = s.yms ∧ (domCtrlWrite x0 s).pdk = s.pdk ∧
    (domCtrlWrite x0 s).ldr = s.ldr ∧ (domCtrlWrite x0 s).sec = s.sec ∧ (domCtrlWrite x0 s).trg = s.trg ∧
    (domCtrlWrite x0 s).ptp = s.ptp ∧ (domCtrlWrite x0 s).dbg = s.dbg ∧ (domCtrlWrite x0 s).ckpt = s.ckpt := by
  unfold domCtrlWrite; split <;> simp

@[simp] theorem doPwrDomCtrl_frame (x0 x1 s) : (doPwrDomCtrl x0 x1 s).pending = s.pending ∧ (doPwrDomCtrl x0 x1 s).tck
    = s.tck ∧ (doPwrDomCtrl x0 x1 s).exe = s.exe ∧ (doPwrDomCtrl x0 x1 s).yms = s.yms ∧ (doPwrDomCtrl x0 x1 s).ldr =
    s.ldr ∧ (doPwrDomCtrl x0 x1 s).sec = s.sec ∧ (doPwrDomCtrl x0 x1 s).ckpt = s.ckpt := by
  simp [doPwrDomCtrl]

@[simp] theorem linkFalls_frame (s) : (linkFalls s).pending = s.pending ∧ (linkFalls s).regs = s.regs ∧ (linkFalls
    s).clk = s.clk ∧ (linkFalls s).tck = s.tck ∧ (linkFalls s).arr = s.arr ∧ (linkFalls s).exe = s.exe ∧ (linkFalls
    s).pen = s.pen ∧ (linkFalls s).integ = s.integ ∧ (linkFalls s).shed = s.shed ∧ (linkFalls s).dmc = s.dmc ∧
    (linkFalls s).lnk = s.lnk ∧ (linkFalls s).rls = s.rls ∧ (linkFalls s).yms = s.yms ∧ (linkFalls s).grm = s.grm ∧
    (linkFalls s).pdk = s.pdk ∧ (linkFalls s).ldr = s.ldr ∧ (linkFalls s).sec = s.sec ∧ (linkFalls s).trg = s.trg ∧
    (linkFalls s).ptp = s.ptp ∧ (linkFalls s).dbg = s.dbg ∧ (linkFalls s).pwr = s.pwr ∧ (linkFalls s).ckpt = s.ckpt :=
    by
  simp [linkFalls]

@[simp] theorem drainDomain_frame (x0 x1 s) : (drainDomain x0 x1 s).pending = s.pending ∧ (drainDomain x0 x1 s).arr =
    s.arr ∧ (drainDomain x0 x1 s).pen = s.pen ∧ (drainDomain x0 x1 s).shed = s.shed ∧ (drainDomain x0 x1 s).lnk =
    s.lnk ∧ (drainDomain x0 x1 s).yms = s.yms ∧ (drainDomain x0 x1 s).grm = s.grm ∧ (drainDomain x0 x1 s).pdk = s.pdk
    ∧ (drainDomain x0 x1 s).ldr = s.ldr ∧ (drainDomain x0 x1 s).sec = s.sec ∧ (drainDomain x0 x1 s).trg = s.trg ∧
    (drainDomain x0 x1 s).ptp = s.ptp ∧ (drainDomain x0 x1 s).dbg = s.dbg ∧ (drainDomain x0 x1 s).pwr = s.pwr ∧
    (drainDomain x0 x1 s).ckpt = s.ckpt := by
  induction x1 generalizing s with
  | zero => simp [drainDomain]
  | succ n ih => simp only [drainDomain]; (repeat' split) <;> simp [ih]

@[simp] theorem restDram_frame (x0 x1 s) : (restDram x0 x1 s).pending = s.pending ∧ (restDram x0 x1 s).arr = s.arr ∧
    (restDram x0 x1 s).pen = s.pen ∧ (restDram x0 x1 s).shed = s.shed ∧ (restDram x0 x1 s).lnk = s.lnk ∧ (restDram x0
    x1 s).yms = s.yms ∧ (restDram x0 x1 s).grm = s.grm ∧ (restDram x0 x1 s).pdk = s.pdk ∧ (restDram x0 x1 s).ldr =
    s.ldr ∧ (restDram x0 x1 s).sec = s.sec ∧ (restDram x0 x1 s).trg = s.trg ∧ (restDram x0 x1 s).ptp = s.ptp ∧
    (restDram x0 x1 s).dbg = s.dbg ∧ (restDram x0 x1 s).pwr = s.pwr ∧ (restDram x0 x1 s).ckpt = s.ckpt := by
  unfold restDram; split <;> simp

@[simp] theorem leaveOn_frame (x0 x1 s) : (leaveOn x0 x1 s).pending = s.pending ∧ (leaveOn x0 x1 s).arr = s.arr ∧
    (leaveOn x0 x1 s).pen = s.pen ∧ (leaveOn x0 x1 s).shed = s.shed ∧ (leaveOn x0 x1 s).yms = s.yms ∧ (leaveOn x0 x1
    s).grm = s.grm ∧ (leaveOn x0 x1 s).pdk = s.pdk ∧ (leaveOn x0 x1 s).ldr = s.ldr ∧ (leaveOn x0 x1 s).sec = s.sec ∧
    (leaveOn x0 x1 s).trg = s.trg ∧ (leaveOn x0 x1 s).ptp = s.ptp ∧ (leaveOn x0 x1 s).dbg = s.dbg ∧ (leaveOn x0 x1
    s).pwr = s.pwr ∧ (leaveOn x0 x1 s).ckpt = s.ckpt := by
  simp only [leaveOn]; (repeat' split) <;> simp_all

@[simp] theorem stableNext_frame (s) : (stableNext s).pending = s.pending ∧ (stableNext s).tck = s.tck ∧ (stableNext
    s).arr = s.arr ∧ (stableNext s).exe = s.exe ∧ (stableNext s).pen = s.pen ∧ (stableNext s).integ = s.integ ∧
    (stableNext s).shed = s.shed ∧ (stableNext s).dmc = s.dmc ∧ (stableNext s).lnk = s.lnk ∧ (stableNext s).yms =
    s.yms ∧ (stableNext s).pdk = s.pdk ∧ (stableNext s).ldr = s.ldr ∧ (stableNext s).sec = s.sec ∧ (stableNext s).trg
    = s.trg ∧ (stableNext s).ptp = s.ptp ∧ (stableNext s).dbg = s.dbg ∧ (stableNext s).ckpt = s.ckpt := by
  unfold stableNext; (repeat' split) <;> simp_all

@[simp] theorem closeNow_frame (x0 x1 s) : (closeNow x0 x1 s).pending = s.pending ∧ (closeNow x0 x1 s).arr = s.arr ∧
    (closeNow x0 x1 s).pen = s.pen ∧ (closeNow x0 x1 s).shed = s.shed ∧ (closeNow x0 x1 s).yms = s.yms ∧ (closeNow x0
    x1 s).pdk = s.pdk ∧ (closeNow x0 x1 s).ldr = s.ldr ∧ (closeNow x0 x1 s).sec = s.sec ∧ (closeNow x0 x1 s).trg =
    s.trg ∧ (closeNow x0 x1 s).ptp = s.ptp ∧ (closeNow x0 x1 s).dbg = s.dbg ∧ (closeNow x0 x1 s).ckpt = s.ckpt := by
  unfold closeNow; split <;> simp

@[simp] theorem doDomainClose_frame (x0 s) : (doDomainClose x0 s).pending = s.pending ∧ (doDomainClose x0 s).arr =
    s.arr ∧ (doDomainClose x0 s).pen = s.pen ∧ (doDomainClose x0 s).shed = s.shed ∧ (doDomainClose x0 s).yms = s.yms ∧
    (doDomainClose x0 s).pdk = s.pdk ∧ (doDomainClose x0 s).ldr = s.ldr ∧ (doDomainClose x0 s).sec = s.sec ∧
    (doDomainClose x0 s).trg = s.trg ∧ (doDomainClose x0 s).ptp = s.ptp ∧ (doDomainClose x0 s).dbg = s.dbg ∧
    (doDomainClose x0 s).ckpt = s.ckpt := by
  unfold doDomainClose; split <;> simp

@[simp] theorem doDomainWake_frame (x0 s) : (doDomainWake x0 s).pending = s.pending ∧ (doDomainWake x0 s).tck = s.tck
    ∧ (doDomainWake x0 s).exe = s.exe ∧ (doDomainWake x0 s).yms = s.yms ∧ (doDomainWake x0 s).ldr = s.ldr ∧
    (doDomainWake x0 s).sec = s.sec ∧ (doDomainWake x0 s).ckpt = s.ckpt := by
  simp [doDomainWake]

@[simp] theorem stableWrite_frame (s) : (stableWrite s).pending = s.pending ∧ (stableWrite s).tck = s.tck ∧
    (stableWrite s).arr = s.arr ∧ (stableWrite s).exe = s.exe ∧ (stableWrite s).pen = s.pen ∧ (stableWrite s).integ =
    s.integ ∧ (stableWrite s).shed = s.shed ∧ (stableWrite s).dmc = s.dmc ∧ (stableWrite s).lnk = s.lnk ∧ (stableWrite
    s).yms = s.yms ∧ (stableWrite s).pdk = s.pdk ∧ (stableWrite s).ldr = s.ldr ∧ (stableWrite s).sec = s.sec ∧
    (stableWrite s).trg = s.trg ∧ (stableWrite s).ptp = s.ptp ∧ (stableWrite s).dbg = s.dbg ∧ (stableWrite s).ckpt =
    s.ckpt := by
  unfold stableWrite; (repeat' split) <;> simp_all

@[simp] theorem doStable_frame (x0 s) : (doStable x0 s).pending = s.pending ∧ (doStable x0 s).tck = s.tck ∧ (doStable
    x0 s).exe = s.exe ∧ (doStable x0 s).yms = s.yms ∧ (doStable x0 s).ldr = s.ldr ∧ (doStable x0 s).sec = s.sec ∧
    (doStable x0 s).ckpt = s.ckpt := by
  simp [doStable]

@[simp] theorem returnDomain_frame (s x1) : (returnDomain s x1).pending = s.pending ∧ (returnDomain s x1).tck = s.tck
    ∧ (returnDomain s x1).exe = s.exe ∧ (returnDomain s x1).yms = s.yms ∧ (returnDomain s x1).ldr = s.ldr ∧
    (returnDomain s x1).sec = s.sec ∧ (returnDomain s x1).ckpt = s.ckpt := by
  simp only [returnDomain]; (repeat' split) <;> simp_all

@[simp] theorem leaveStabled_frame (s) : (leaveStabled s).pending = s.pending ∧ (leaveStabled s).tck = s.tck ∧
    (leaveStabled s).exe = s.exe ∧ (leaveStabled s).yms = s.yms ∧ (leaveStabled s).ldr = s.ldr ∧ (leaveStabled s).sec
    = s.sec ∧ (leaveStabled s).ckpt = s.ckpt := by
  simp [leaveStabled, -List.foldl_reverse]

@[simp] theorem doWakeBall_frame (x0 s) : (doWakeBall x0 s).pending = s.pending ∧ (doWakeBall x0 s).tck = s.tck ∧
    (doWakeBall x0 s).exe = s.exe ∧ (doWakeBall x0 s).yms = s.yms ∧ (doWakeBall x0 s).ldr = s.ldr ∧ (doWakeBall x0
    s).sec = s.sec ∧ (doWakeBall x0 s).ckpt = s.ckpt := by
  unfold doWakeBall; split <;> simp

@[simp] theorem forgetWrite_frame (s) : (forgetWrite s).pending = s.pending ∧ (forgetWrite s).regs = s.regs ∧
    (forgetWrite s).clk = s.clk ∧ (forgetWrite s).tck = s.tck ∧ (forgetWrite s).arr = s.arr ∧ (forgetWrite s).exe =
    s.exe ∧ (forgetWrite s).pen = s.pen ∧ (forgetWrite s).integ = s.integ ∧ (forgetWrite s).shed = s.shed ∧
    (forgetWrite s).dmc = s.dmc ∧ (forgetWrite s).lnk = s.lnk ∧ (forgetWrite s).rls = s.rls ∧ (forgetWrite s).yms =
    s.yms ∧ (forgetWrite s).grm = s.grm ∧ (forgetWrite s).pdk = s.pdk ∧ (forgetWrite s).ldr = s.ldr ∧ (forgetWrite
    s).sec = s.sec ∧ (forgetWrite s).trg = s.trg ∧ (forgetWrite s).ptp = s.ptp ∧ (forgetWrite s).dbg = s.dbg ∧
    (forgetWrite s).hst = s.hst ∧ (forgetWrite s).ckpt = s.ckpt := by
  simp [forgetWrite]

@[simp] theorem doForget_frame (x0 s) : (doForget x0 s).pending = s.pending ∧ (doForget x0 s).tck = s.tck ∧ (doForget
    x0 s).exe = s.exe ∧ (doForget x0 s).yms = s.yms ∧ (doForget x0 s).ldr = s.ldr ∧ (doForget x0 s).sec = s.sec ∧
    (doForget x0 s).ckpt = s.ckpt := by
  simp [doForget]

@[simp] theorem pwrCmdWrite_frame (x0 s) : (pwrCmdWrite x0 s).pending = s.pending ∧ (pwrCmdWrite x0 s).tck = s.tck ∧
    (pwrCmdWrite x0 s).arr = s.arr ∧ (pwrCmdWrite x0 s).exe = s.exe ∧ (pwrCmdWrite x0 s).pen = s.pen ∧ (pwrCmdWrite x0
    s).integ = s.integ ∧ (pwrCmdWrite x0 s).shed = s.shed ∧ (pwrCmdWrite x0 s).dmc = s.dmc ∧ (pwrCmdWrite x0 s).lnk =
    s.lnk ∧ (pwrCmdWrite x0 s).yms = s.yms ∧ (pwrCmdWrite x0 s).pdk = s.pdk ∧ (pwrCmdWrite x0 s).ldr = s.ldr ∧
    (pwrCmdWrite x0 s).sec = s.sec ∧ (pwrCmdWrite x0 s).trg = s.trg ∧ (pwrCmdWrite x0 s).ptp = s.ptp ∧ (pwrCmdWrite x0
    s).dbg = s.dbg ∧ (pwrCmdWrite x0 s).ckpt = s.ckpt := by
  unfold pwrCmdWrite; (repeat' split) <;> simp_all

@[simp] theorem modeStore_frame (x0 x1 s) : (modeStore x0 x1 s).pending = s.pending ∧ (modeStore x0 x1 s).clk = s.clk
    ∧ (modeStore x0 x1 s).tck = s.tck ∧ (modeStore x0 x1 s).arr = s.arr ∧ (modeStore x0 x1 s).exe = s.exe ∧ (modeStore
    x0 x1 s).pen = s.pen ∧ (modeStore x0 x1 s).integ = s.integ ∧ (modeStore x0 x1 s).shed = s.shed ∧ (modeStore x0 x1
    s).dmc = s.dmc ∧ (modeStore x0 x1 s).lnk = s.lnk ∧ (modeStore x0 x1 s).rls = s.rls ∧ (modeStore x0 x1 s).yms =
    s.yms ∧ (modeStore x0 x1 s).grm = s.grm ∧ (modeStore x0 x1 s).pdk = s.pdk ∧ (modeStore x0 x1 s).ldr = s.ldr ∧
    (modeStore x0 x1 s).sec = s.sec ∧ (modeStore x0 x1 s).trg = s.trg ∧ (modeStore x0 x1 s).ptp = s.ptp ∧ (modeStore
    x0 x1 s).hst = s.hst ∧ (modeStore x0 x1 s).ckpt = s.ckpt := by
  unfold modeStore; split <;> simp

@[simp] theorem modeDone_frame (x0 x1 s) : (modeDone x0 x1 s).pending = s.pending ∧ (modeDone x0 x1 s).clk = s.clk ∧
    (modeDone x0 x1 s).tck = s.tck ∧ (modeDone x0 x1 s).arr = s.arr ∧ (modeDone x0 x1 s).exe = s.exe ∧ (modeDone x0 x1
    s).pen = s.pen ∧ (modeDone x0 x1 s).integ = s.integ ∧ (modeDone x0 x1 s).shed = s.shed ∧ (modeDone x0 x1 s).dmc =
    s.dmc ∧ (modeDone x0 x1 s).lnk = s.lnk ∧ (modeDone x0 x1 s).rls = s.rls ∧ (modeDone x0 x1 s).yms = s.yms ∧
    (modeDone x0 x1 s).grm = s.grm ∧ (modeDone x0 x1 s).pdk = s.pdk ∧ (modeDone x0 x1 s).ldr = s.ldr ∧ (modeDone x0 x1
    s).sec = s.sec ∧ (modeDone x0 x1 s).trg = s.trg ∧ (modeDone x0 x1 s).ptp = s.ptp ∧ (modeDone x0 x1 s).dbg = s.dbg
    ∧ (modeDone x0 x1 s).ckpt = s.ckpt := by
  simp [modeDone]

@[simp] theorem modeWrite_frame (x0 x1 s) : (modeWrite x0 x1 s).pending = s.pending ∧ (modeWrite x0 x1 s).clk = s.clk
    ∧ (modeWrite x0 x1 s).tck = s.tck ∧ (modeWrite x0 x1 s).arr = s.arr ∧ (modeWrite x0 x1 s).exe = s.exe ∧ (modeWrite
    x0 x1 s).pen = s.pen ∧ (modeWrite x0 x1 s).integ = s.integ ∧ (modeWrite x0 x1 s).shed = s.shed ∧ (modeWrite x0 x1
    s).dmc = s.dmc ∧ (modeWrite x0 x1 s).lnk = s.lnk ∧ (modeWrite x0 x1 s).rls = s.rls ∧ (modeWrite x0 x1 s).yms =
    s.yms ∧ (modeWrite x0 x1 s).grm = s.grm ∧ (modeWrite x0 x1 s).pdk = s.pdk ∧ (modeWrite x0 x1 s).ldr = s.ldr ∧
    (modeWrite x0 x1 s).sec = s.sec ∧ (modeWrite x0 x1 s).trg = s.trg ∧ (modeWrite x0 x1 s).ptp = s.ptp ∧ (modeWrite
    x0 x1 s).ckpt = s.ckpt := by
  simp only [modeWrite]; (repeat' split) <;> simp_all

@[simp] theorem doPwrMode_frame (x0 x1 s) : (doPwrMode x0 x1 s).pending = s.pending ∧ (doPwrMode x0 x1 s).tck = s.tck
    ∧ (doPwrMode x0 x1 s).exe = s.exe ∧ (doPwrMode x0 x1 s).yms = s.yms ∧ (doPwrMode x0 x1 s).ldr = s.ldr ∧ (doPwrMode
    x0 x1 s).sec = s.sec ∧ (doPwrMode x0 x1 s).ckpt = s.ckpt := by
  simp [doPwrMode]

@[simp] theorem doClockRelockDone_frame (s) : (doClockRelockDone s).pending = s.pending ∧ (doClockRelockDone s).clk =
    s.clk ∧ (doClockRelockDone s).tck = s.tck ∧ (doClockRelockDone s).arr = s.arr ∧ (doClockRelockDone s).exe = s.exe
    ∧ (doClockRelockDone s).pen = s.pen ∧ (doClockRelockDone s).integ = s.integ ∧ (doClockRelockDone s).shed = s.shed
    ∧ (doClockRelockDone s).dmc = s.dmc ∧ (doClockRelockDone s).lnk = s.lnk ∧ (doClockRelockDone s).rls = s.rls ∧
    (doClockRelockDone s).yms = s.yms ∧ (doClockRelockDone s).grm = s.grm ∧ (doClockRelockDone s).pdk = s.pdk ∧
    (doClockRelockDone s).ldr = s.ldr ∧ (doClockRelockDone s).sec = s.sec ∧ (doClockRelockDone s).trg = s.trg ∧
    (doClockRelockDone s).ptp = s.ptp ∧ (doClockRelockDone s).dbg = s.dbg ∧ (doClockRelockDone s).ckpt = s.ckpt := by
  simp [doClockRelockDone]

@[simp] theorem settle_frame (s) : (settle s).pending = s.pending ∧ (settle s).clk = s.clk ∧ (settle s).tck = s.tck ∧
    (settle s).arr = s.arr ∧ (settle s).exe = s.exe ∧ (settle s).pen = s.pen ∧ (settle s).shed = s.shed ∧ (settle
    s).dmc = s.dmc ∧ (settle s).lnk = s.lnk ∧ (settle s).rls = s.rls ∧ (settle s).yms = s.yms ∧ (settle s).grm = s.grm
    ∧ (settle s).pdk = s.pdk ∧ (settle s).ldr = s.ldr ∧ (settle s).sec = s.sec ∧ (settle s).trg = s.trg ∧ (settle
    s).ptp = s.ptp ∧ (settle s).dbg = s.dbg ∧ (settle s).pwr = s.pwr ∧ (settle s).hst = s.hst ∧ (settle s).ckpt =
    s.ckpt := by
  simp [settle]

@[simp] theorem doAonSwitch_frame (x0 s) : (doAonSwitch x0 s).pending = s.pending ∧ (doAonSwitch x0 s).clk = s.clk ∧
    (doAonSwitch x0 s).tck = s.tck ∧ (doAonSwitch x0 s).arr = s.arr ∧ (doAonSwitch x0 s).exe = s.exe ∧ (doAonSwitch x0
    s).pen = s.pen ∧ (doAonSwitch x0 s).integ = s.integ ∧ (doAonSwitch x0 s).shed = s.shed ∧ (doAonSwitch x0 s).dmc =
    s.dmc ∧ (doAonSwitch x0 s).lnk = s.lnk ∧ (doAonSwitch x0 s).rls = s.rls ∧ (doAonSwitch x0 s).yms = s.yms ∧
    (doAonSwitch x0 s).grm = s.grm ∧ (doAonSwitch x0 s).pdk = s.pdk ∧ (doAonSwitch x0 s).ldr = s.ldr ∧ (doAonSwitch x0
    s).sec = s.sec ∧ (doAonSwitch x0 s).trg = s.trg ∧ (doAonSwitch x0 s).ptp = s.ptp ∧ (doAonSwitch x0 s).dbg = s.dbg
    ∧ (doAonSwitch x0 s).ckpt = s.ckpt := by
  simp [doAonSwitch]

/-! ### HostIf -/

@[simp] theorem endpointReset_frame (s) : (endpointReset s).pending = s.pending ∧ (endpointReset s).clk = s.clk ∧
    (endpointReset s).tck = s.tck ∧ (endpointReset s).arr = s.arr ∧ (endpointReset s).exe = s.exe ∧ (endpointReset
    s).pen = s.pen ∧ (endpointReset s).integ = s.integ ∧ (endpointReset s).shed = s.shed ∧ (endpointReset s).dmc =
    s.dmc ∧ (endpointReset s).lnk = s.lnk ∧ (endpointReset s).rls = s.rls ∧ (endpointReset s).yms = s.yms ∧
    (endpointReset s).grm = s.grm ∧ (endpointReset s).pdk = s.pdk ∧ (endpointReset s).ldr = s.ldr ∧ (endpointReset
    s).sec = s.sec ∧ (endpointReset s).trg = s.trg ∧ (endpointReset s).ptp = s.ptp ∧ (endpointReset s).dbg = s.dbg ∧
    (endpointReset s).pwr = s.pwr ∧ (endpointReset s).ckpt = s.ckpt := by
  simp [endpointReset]

@[simp] theorem doPerst_frame (s) : (doPerst s).pending = s.pending ∧ (doPerst s).clk = s.clk ∧ (doPerst s).tck =
    s.tck ∧ (doPerst s).arr = s.arr ∧ (doPerst s).exe = s.exe ∧ (doPerst s).pen = s.pen ∧ (doPerst s).integ = s.integ
    ∧ (doPerst s).shed = s.shed ∧ (doPerst s).dmc = s.dmc ∧ (doPerst s).lnk = s.lnk ∧ (doPerst s).rls = s.rls ∧
    (doPerst s).yms = s.yms ∧ (doPerst s).grm = s.grm ∧ (doPerst s).pdk = s.pdk ∧ (doPerst s).ldr = s.ldr ∧ (doPerst
    s).sec = s.sec ∧ (doPerst s).trg = s.trg ∧ (doPerst s).ptp = s.ptp ∧ (doPerst s).dbg = s.dbg ∧ (doPerst s).pwr =
    s.pwr ∧ (doPerst s).ckpt = s.ckpt := by
  simp [doPerst]

@[simp] theorem doPcieLinkUp_frame (x0 x1 s) : (doPcieLinkUp x0 x1 s).pending = s.pending ∧ (doPcieLinkUp x0 x1 s).clk
    = s.clk ∧ (doPcieLinkUp x0 x1 s).tck = s.tck ∧ (doPcieLinkUp x0 x1 s).arr = s.arr ∧ (doPcieLinkUp x0 x1 s).exe =
    s.exe ∧ (doPcieLinkUp x0 x1 s).pen = s.pen ∧ (doPcieLinkUp x0 x1 s).integ = s.integ ∧ (doPcieLinkUp x0 x1 s).shed
    = s.shed ∧ (doPcieLinkUp x0 x1 s).dmc = s.dmc ∧ (doPcieLinkUp x0 x1 s).lnk = s.lnk ∧ (doPcieLinkUp x0 x1 s).rls =
    s.rls ∧ (doPcieLinkUp x0 x1 s).yms = s.yms ∧ (doPcieLinkUp x0 x1 s).grm = s.grm ∧ (doPcieLinkUp x0 x1 s).pdk =
    s.pdk ∧ (doPcieLinkUp x0 x1 s).ldr = s.ldr ∧ (doPcieLinkUp x0 x1 s).sec = s.sec ∧ (doPcieLinkUp x0 x1 s).trg =
    s.trg ∧ (doPcieLinkUp x0 x1 s).ptp = s.ptp ∧ (doPcieLinkUp x0 x1 s).dbg = s.dbg ∧ (doPcieLinkUp x0 x1 s).pwr =
    s.pwr ∧ (doPcieLinkUp x0 x1 s).ckpt = s.ckpt := by
  simp [doPcieLinkUp]

@[simp] theorem doPcieLinkDown_frame (s) : (doPcieLinkDown s).pending = s.pending ∧ (doPcieLinkDown s).regs = s.regs ∧
    (doPcieLinkDown s).clk = s.clk ∧ (doPcieLinkDown s).tck = s.tck ∧ (doPcieLinkDown s).arr = s.arr ∧ (doPcieLinkDown
    s).exe = s.exe ∧ (doPcieLinkDown s).pen = s.pen ∧ (doPcieLinkDown s).integ = s.integ ∧ (doPcieLinkDown s).shed =
    s.shed ∧ (doPcieLinkDown s).dmc = s.dmc ∧ (doPcieLinkDown s).lnk = s.lnk ∧ (doPcieLinkDown s).rls = s.rls ∧
    (doPcieLinkDown s).yms = s.yms ∧ (doPcieLinkDown s).grm = s.grm ∧ (doPcieLinkDown s).pdk = s.pdk ∧ (doPcieLinkDown
    s).ldr = s.ldr ∧ (doPcieLinkDown s).sec = s.sec ∧ (doPcieLinkDown s).trg = s.trg ∧ (doPcieLinkDown s).ptp = s.ptp
    ∧ (doPcieLinkDown s).dbg = s.dbg ∧ (doPcieLinkDown s).pwr = s.pwr ∧ (doPcieLinkDown s).ckpt = s.ckpt := by
  simp [doPcieLinkDown]

@[simp] theorem doFlr_frame (s) : (doFlr s).pending = s.pending ∧ (doFlr s).clk = s.clk ∧ (doFlr s).tck = s.tck ∧
    (doFlr s).arr = s.arr ∧ (doFlr s).exe = s.exe ∧ (doFlr s).pen = s.pen ∧ (doFlr s).integ = s.integ ∧ (doFlr s).shed
    = s.shed ∧ (doFlr s).dmc = s.dmc ∧ (doFlr s).lnk = s.lnk ∧ (doFlr s).rls = s.rls ∧ (doFlr s).yms = s.yms ∧ (doFlr
    s).grm = s.grm ∧ (doFlr s).pdk = s.pdk ∧ (doFlr s).ldr = s.ldr ∧ (doFlr s).sec = s.sec ∧ (doFlr s).trg = s.trg ∧
    (doFlr s).ptp = s.ptp ∧ (doFlr s).dbg = s.dbg ∧ (doFlr s).pwr = s.pwr ∧ (doFlr s).ckpt = s.ckpt := by
  simp [doFlr]

@[simp] theorem bar2Write_frame (x0 x1 s) : (bar2Write x0 x1 s).pending = s.pending ∧ (bar2Write x0 x1 s).clk = s.clk
    ∧ (bar2Write x0 x1 s).tck = s.tck ∧ (bar2Write x0 x1 s).arr = s.arr ∧ (bar2Write x0 x1 s).exe = s.exe ∧ (bar2Write
    x0 x1 s).pen = s.pen ∧ (bar2Write x0 x1 s).integ = s.integ ∧ (bar2Write x0 x1 s).shed = s.shed ∧ (bar2Write x0 x1
    s).dmc = s.dmc ∧ (bar2Write x0 x1 s).lnk = s.lnk ∧ (bar2Write x0 x1 s).rls = s.rls ∧ (bar2Write x0 x1 s).yms =
    s.yms ∧ (bar2Write x0 x1 s).pdk = s.pdk ∧ (bar2Write x0 x1 s).ldr = s.ldr ∧ (bar2Write x0 x1 s).sec = s.sec ∧
    (bar2Write x0 x1 s).trg = s.trg ∧ (bar2Write x0 x1 s).ptp = s.ptp ∧ (bar2Write x0 x1 s).dbg = s.dbg ∧ (bar2Write
    x0 x1 s).pwr = s.pwr ∧ (bar2Write x0 x1 s).ckpt = s.ckpt := by
  unfold bar2Write; (repeat' split) <;> simp_all

@[simp] theorem bar2Writes_frame (x0 x1 x2 s) : (bar2Writes x0 x1 x2 s).pending = s.pending ∧ (bar2Writes x0 x1 x2
    s).clk = s.clk ∧ (bar2Writes x0 x1 x2 s).tck = s.tck ∧ (bar2Writes x0 x1 x2 s).arr = s.arr ∧ (bar2Writes x0 x1 x2
    s).exe = s.exe ∧ (bar2Writes x0 x1 x2 s).pen = s.pen ∧ (bar2Writes x0 x1 x2 s).integ = s.integ ∧ (bar2Writes x0 x1
    x2 s).shed = s.shed ∧ (bar2Writes x0 x1 x2 s).dmc = s.dmc ∧ (bar2Writes x0 x1 x2 s).lnk = s.lnk ∧ (bar2Writes x0
    x1 x2 s).rls = s.rls ∧ (bar2Writes x0 x1 x2 s).yms = s.yms ∧ (bar2Writes x0 x1 x2 s).pdk = s.pdk ∧ (bar2Writes x0
    x1 x2 s).ldr = s.ldr ∧ (bar2Writes x0 x1 x2 s).sec = s.sec ∧ (bar2Writes x0 x1 x2 s).trg = s.trg ∧ (bar2Writes x0
    x1 x2 s).ptp = s.ptp ∧ (bar2Writes x0 x1 x2 s).dbg = s.dbg ∧ (bar2Writes x0 x1 x2 s).pwr = s.pwr ∧ (bar2Writes x0
    x1 x2 s).ckpt = s.ckpt := by
  fun_induction bar2Writes <;> simp_all

@[simp] theorem doBar2Access_frame (x0 x1 x2 s) : (doBar2Access x0 x1 x2 s).pending = s.pending ∧ (doBar2Access x0 x1
    x2 s).clk = s.clk ∧ (doBar2Access x0 x1 x2 s).tck = s.tck ∧ (doBar2Access x0 x1 x2 s).arr = s.arr ∧ (doBar2Access
    x0 x1 x2 s).exe = s.exe ∧ (doBar2Access x0 x1 x2 s).pen = s.pen ∧ (doBar2Access x0 x1 x2 s).integ = s.integ ∧
    (doBar2Access x0 x1 x2 s).shed = s.shed ∧ (doBar2Access x0 x1 x2 s).dmc = s.dmc ∧ (doBar2Access x0 x1 x2 s).lnk =
    s.lnk ∧ (doBar2Access x0 x1 x2 s).rls = s.rls ∧ (doBar2Access x0 x1 x2 s).yms = s.yms ∧ (doBar2Access x0 x1 x2
    s).pdk = s.pdk ∧ (doBar2Access x0 x1 x2 s).ldr = s.ldr ∧ (doBar2Access x0 x1 x2 s).sec = s.sec ∧ (doBar2Access x0
    x1 x2 s).trg = s.trg ∧ (doBar2Access x0 x1 x2 s).ptp = s.ptp ∧ (doBar2Access x0 x1 x2 s).dbg = s.dbg ∧
    (doBar2Access x0 x1 x2 s).pwr = s.pwr ∧ (doBar2Access x0 x1 x2 s).ckpt = s.ckpt := by
  unfold doBar2Access; split <;> simp

@[simp] theorem doBadAccessTimeout_frame (x0 s) : (doBadAccessTimeout x0 s).pending = s.pending ∧ (doBadAccessTimeout
    x0 s).clk = s.clk ∧ (doBadAccessTimeout x0 s).tck = s.tck ∧ (doBadAccessTimeout x0 s).arr = s.arr ∧
    (doBadAccessTimeout x0 s).exe = s.exe ∧ (doBadAccessTimeout x0 s).pen = s.pen ∧ (doBadAccessTimeout x0 s).integ =
    s.integ ∧ (doBadAccessTimeout x0 s).shed = s.shed ∧ (doBadAccessTimeout x0 s).dmc = s.dmc ∧ (doBadAccessTimeout x0
    s).lnk = s.lnk ∧ (doBadAccessTimeout x0 s).rls = s.rls ∧ (doBadAccessTimeout x0 s).yms = s.yms ∧
    (doBadAccessTimeout x0 s).grm = s.grm ∧ (doBadAccessTimeout x0 s).pdk = s.pdk ∧ (doBadAccessTimeout x0 s).ldr =
    s.ldr ∧ (doBadAccessTimeout x0 s).sec = s.sec ∧ (doBadAccessTimeout x0 s).trg = s.trg ∧ (doBadAccessTimeout x0
    s).ptp = s.ptp ∧ (doBadAccessTimeout x0 s).dbg = s.dbg ∧ (doBadAccessTimeout x0 s).pwr = s.pwr ∧
    (doBadAccessTimeout x0 s).ckpt = s.ckpt := by
  simp [doBadAccessTimeout]

@[simp] theorem dmaBurstRead_frame (x0 s) : (dmaBurstRead x0 s).1.pending = s.pending ∧ (dmaBurstRead x0 s).1.tck =
    s.tck ∧ (dmaBurstRead x0 s).1.exe = s.exe ∧ (dmaBurstRead x0 s).1.yms = s.yms ∧ (dmaBurstRead x0 s).1.ldr = s.ldr
    ∧ (dmaBurstRead x0 s).1.sec = s.sec ∧ (dmaBurstRead x0 s).1.ckpt = s.ckpt := by
  simp only [dmaBurstRead]; (repeat' split) <;> simp_all

@[simp] theorem dmaBurstWrite_frame (x0 x1 s) : (dmaBurstWrite x0 x1 s).1.pending = s.pending ∧ (dmaBurstWrite x0 x1
    s).1.tck = s.tck ∧ (dmaBurstWrite x0 x1 s).1.exe = s.exe ∧ (dmaBurstWrite x0 x1 s).1.yms = s.yms ∧ (dmaBurstWrite
    x0 x1 s).1.ldr = s.ldr ∧ (dmaBurstWrite x0 x1 s).1.sec = s.sec ∧ (dmaBurstWrite x0 x1 s).1.ckpt = s.ckpt := by
  simp [dmaBurstWrite]

@[simp] theorem awaitFly_frame (x0 x1 x2 s) : (awaitFly x0 x1 x2 s).pending = s.pending ∧ (awaitFly x0 x1 x2 s).tck =
    s.tck ∧ (awaitFly x0 x1 x2 s).arr = s.arr ∧ (awaitFly x0 x1 x2 s).exe = s.exe ∧ (awaitFly x0 x1 x2 s).pen = s.pen
    ∧ (awaitFly x0 x1 x2 s).integ = s.integ ∧ (awaitFly x0 x1 x2 s).dmc = s.dmc ∧ (awaitFly x0 x1 x2 s).lnk = s.lnk ∧
    (awaitFly x0 x1 x2 s).yms = s.yms ∧ (awaitFly x0 x1 x2 s).grm = s.grm ∧ (awaitFly x0 x1 x2 s).pdk = s.pdk ∧
    (awaitFly x0 x1 x2 s).ldr = s.ldr ∧ (awaitFly x0 x1 x2 s).sec = s.sec ∧ (awaitFly x0 x1 x2 s).trg = s.trg ∧
    (awaitFly x0 x1 x2 s).dbg = s.dbg ∧ (awaitFly x0 x1 x2 s).pwr = s.pwr ∧ (awaitFly x0 x1 x2 s).ckpt = s.ckpt := by
  fun_induction awaitFly <;> simp_all

@[simp] theorem dmaShed_frame (x0 x1 x2 x3 s) : (dmaShed x0 x1 x2 x3 s).1.pending = s.pending ∧ (dmaShed x0 x1 x2 x3
    s).1.tck = s.tck ∧ (dmaShed x0 x1 x2 x3 s).1.exe = s.exe ∧ (dmaShed x0 x1 x2 x3 s).1.yms = s.yms ∧ (dmaShed x0 x1
    x2 x3 s).1.ldr = s.ldr ∧ (dmaShed x0 x1 x2 x3 s).1.sec = s.sec ∧ (dmaShed x0 x1 x2 x3 s).1.ckpt = s.ckpt := by
  simp only [dmaShed]; (repeat' split) <;> simp_all

@[simp] theorem toHost_frame (x0 x1 s) : (toHost x0 x1 s).pending = s.pending ∧ (toHost x0 x1 s).regs = s.regs ∧
    (toHost x0 x1 s).clk = s.clk ∧ (toHost x0 x1 s).tck = s.tck ∧ (toHost x0 x1 s).arr = s.arr ∧ (toHost x0 x1 s).exe
    = s.exe ∧ (toHost x0 x1 s).pen = s.pen ∧ (toHost x0 x1 s).integ = s.integ ∧ (toHost x0 x1 s).shed = s.shed ∧
    (toHost x0 x1 s).dmc = s.dmc ∧ (toHost x0 x1 s).lnk = s.lnk ∧ (toHost x0 x1 s).rls = s.rls ∧ (toHost x0 x1 s).yms
    = s.yms ∧ (toHost x0 x1 s).grm = s.grm ∧ (toHost x0 x1 s).pdk = s.pdk ∧ (toHost x0 x1 s).ldr = s.ldr ∧ (toHost x0
    x1 s).sec = s.sec ∧ (toHost x0 x1 s).trg = s.trg ∧ (toHost x0 x1 s).ptp = s.ptp ∧ (toHost x0 x1 s).dbg = s.dbg ∧
    (toHost x0 x1 s).pwr = s.pwr ∧ (toHost x0 x1 s).ckpt = s.ckpt := by
  simp [toHost]

@[simp] theorem dmaStep_frame (x0 x1 x2 x3 s) : (dmaStep x0 x1 x2 x3 s).1.pending = s.pending ∧ (dmaStep x0 x1 x2 x3
    s).1.tck = s.tck ∧ (dmaStep x0 x1 x2 x3 s).1.exe = s.exe ∧ (dmaStep x0 x1 x2 x3 s).1.yms = s.yms ∧ (dmaStep x0 x1
    x2 x3 s).1.ldr = s.ldr ∧ (dmaStep x0 x1 x2 x3 s).1.sec = s.sec ∧ (dmaStep x0 x1 x2 x3 s).1.ckpt = s.ckpt := by
  simp only [dmaStep]; (repeat' split) <;> simp_all

@[simp] theorem dmaMove_frame (x0 x1 x2 x3 s) : (dmaMove x0 x1 x2 x3 s).1.pending = s.pending ∧ (dmaMove x0 x1 x2 x3
    s).1.tck = s.tck ∧ (dmaMove x0 x1 x2 x3 s).1.exe = s.exe ∧ (dmaMove x0 x1 x2 x3 s).1.yms = s.yms ∧ (dmaMove x0 x1
    x2 x3 s).1.ldr = s.ldr ∧ (dmaMove x0 x1 x2 x3 s).1.sec = s.sec ∧ (dmaMove x0 x1 x2 x3 s).1.ckpt = s.ckpt := by
  induction x2 generalizing s x3 with
  | zero => simp [dmaMove]
  | succ n ih => simp only [dmaMove]; (repeat' split) <;> simp [ih]

@[simp] theorem dmaFetch_frame (x0 x1 x2 s) : (dmaFetch x0 x1 x2 s).1.pending = s.pending ∧ (dmaFetch x0 x1 x2
    s).1.tck = s.tck ∧ (dmaFetch x0 x1 x2 s).1.exe = s.exe ∧ (dmaFetch x0 x1 x2 s).1.yms = s.yms ∧ (dmaFetch x0 x1 x2
    s).1.ldr = s.ldr ∧ (dmaFetch x0 x1 x2 s).1.sec = s.sec ∧ (dmaFetch x0 x1 x2 s).1.ckpt = s.ckpt := by
  simp only [dmaFetch]; (repeat' split) <;> simp_all

@[simp] theorem addRun_frame (x0 x1 s) : (addRun x0 x1 s).pending = s.pending ∧ (addRun x0 x1 s).regs = s.regs ∧
    (addRun x0 x1 s).clk = s.clk ∧ (addRun x0 x1 s).tck = s.tck ∧ (addRun x0 x1 s).arr = s.arr ∧ (addRun x0 x1 s).exe
    = s.exe ∧ (addRun x0 x1 s).pen = s.pen ∧ (addRun x0 x1 s).integ = s.integ ∧ (addRun x0 x1 s).shed = s.shed ∧
    (addRun x0 x1 s).dmc = s.dmc ∧ (addRun x0 x1 s).lnk = s.lnk ∧ (addRun x0 x1 s).rls = s.rls ∧ (addRun x0 x1 s).yms
    = s.yms ∧ (addRun x0 x1 s).grm = s.grm ∧ (addRun x0 x1 s).pdk = s.pdk ∧ (addRun x0 x1 s).ldr = s.ldr ∧ (addRun x0
    x1 s).sec = s.sec ∧ (addRun x0 x1 s).trg = s.trg ∧ (addRun x0 x1 s).ptp = s.ptp ∧ (addRun x0 x1 s).dbg = s.dbg ∧
    (addRun x0 x1 s).pwr = s.pwr ∧ (addRun x0 x1 s).ckpt = s.ckpt := by
  simp [addRun]

@[simp] theorem dmaPerform_frame (x0 x1 x2 x3 s) : (dmaPerform x0 x1 x2 x3 s).pending = s.pending ∧ (dmaPerform x0 x1
    x2 x3 s).tck = s.tck ∧ (dmaPerform x0 x1 x2 x3 s).exe = s.exe ∧ (dmaPerform x0 x1 x2 x3 s).yms = s.yms ∧
    (dmaPerform x0 x1 x2 x3 s).ldr = s.ldr ∧ (dmaPerform x0 x1 x2 x3 s).sec = s.sec ∧ (dmaPerform x0 x1 x2 x3 s).ckpt
    = s.ckpt := by
  unfold dmaPerform; split <;> simp

@[simp] theorem doDmaDescriptor_frame (x0 x1 x2 s) : (doDmaDescriptor x0 x1 x2 s).pending = s.pending ∧
    (doDmaDescriptor x0 x1 x2 s).tck = s.tck ∧ (doDmaDescriptor x0 x1 x2 s).exe = s.exe ∧ (doDmaDescriptor x0 x1 x2
    s).yms = s.yms ∧ (doDmaDescriptor x0 x1 x2 s).ldr = s.ldr ∧ (doDmaDescriptor x0 x1 x2 s).sec = s.sec ∧
    (doDmaDescriptor x0 x1 x2 s).ckpt = s.ckpt := by
  simp only [doDmaDescriptor]; (repeat' split) <;> simp_all

@[simp] theorem dmaBack_frame (x0 x1 x2 s) : (dmaBack x0 x1 x2 s).pending = s.pending ∧ (dmaBack x0 x1 x2 s).tck =
    s.tck ∧ (dmaBack x0 x1 x2 s).exe = s.exe ∧ (dmaBack x0 x1 x2 s).yms = s.yms ∧ (dmaBack x0 x1 x2 s).ldr = s.ldr ∧
    (dmaBack x0 x1 x2 s).sec = s.sec ∧ (dmaBack x0 x1 x2 s).ckpt = s.ckpt := by
  simp only [dmaBack]; (repeat' split) <;> simp_all

@[simp] theorem dmaFinish_frame (x0 x1 x2 s) : (dmaFinish x0 x1 x2 s).pending = s.pending ∧ (dmaFinish x0 x1 x2 s).tck
    = s.tck ∧ (dmaFinish x0 x1 x2 s).exe = s.exe ∧ (dmaFinish x0 x1 x2 s).yms = s.yms ∧ (dmaFinish x0 x1 x2 s).ldr =
    s.ldr ∧ (dmaFinish x0 x1 x2 s).sec = s.sec ∧ (dmaFinish x0 x1 x2 s).ckpt = s.ckpt := by
  unfold dmaFinish; split <;> simp

@[simp] theorem doDmaComplete_frame (x0 s) : (doDmaComplete x0 s).pending = s.pending ∧ (doDmaComplete x0 s).tck =
    s.tck ∧ (doDmaComplete x0 s).exe = s.exe ∧ (doDmaComplete x0 s).yms = s.yms ∧ (doDmaComplete x0 s).ldr = s.ldr ∧
    (doDmaComplete x0 s).sec = s.sec ∧ (doDmaComplete x0 s).ckpt = s.ckpt := by
  unfold doDmaComplete; split <;> simp

/-! ### RegRead -/

@[simp] theorem readEffect_frame (x0 x1 x2 s) : (readEffect x0 x1 x2 s).pending = s.pending ∧ (readEffect x0 x1 x2
    s).clk = s.clk ∧ (readEffect x0 x1 x2 s).tck = s.tck ∧ (readEffect x0 x1 x2 s).arr = s.arr ∧ (readEffect x0 x1 x2
    s).exe = s.exe ∧ (readEffect x0 x1 x2 s).pen = s.pen ∧ (readEffect x0 x1 x2 s).shed = s.shed ∧ (readEffect x0 x1
    x2 s).dmc = s.dmc ∧ (readEffect x0 x1 x2 s).lnk = s.lnk ∧ (readEffect x0 x1 x2 s).rls = s.rls ∧ (readEffect x0 x1
    x2 s).yms = s.yms ∧ (readEffect x0 x1 x2 s).grm = s.grm ∧ (readEffect x0 x1 x2 s).pdk = s.pdk ∧ (readEffect x0 x1
    x2 s).ldr = s.ldr ∧ (readEffect x0 x1 x2 s).sec = s.sec ∧ (readEffect x0 x1 x2 s).trg = s.trg ∧ (readEffect x0 x1
    x2 s).dbg = s.dbg ∧ (readEffect x0 x1 x2 s).pwr = s.pwr ∧ (readEffect x0 x1 x2 s).hst = s.hst ∧ (readEffect x0 x1
    x2 s).ckpt = s.ckpt := by
  unfold readEffect; (repeat' split) <;> simp_all

@[simp] theorem passQc_frame (x0 s) : (passQc x0 s).pending = s.pending ∧ (passQc x0 s).regs = s.regs ∧ (passQc x0
    s).tck = s.tck ∧ (passQc x0 s).arr = s.arr ∧ (passQc x0 s).exe = s.exe ∧ (passQc x0 s).pen = s.pen ∧ (passQc x0
    s).integ = s.integ ∧ (passQc x0 s).shed = s.shed ∧ (passQc x0 s).dmc = s.dmc ∧ (passQc x0 s).lnk = s.lnk ∧ (passQc
    x0 s).rls = s.rls ∧ (passQc x0 s).yms = s.yms ∧ (passQc x0 s).grm = s.grm ∧ (passQc x0 s).pdk = s.pdk ∧ (passQc x0
    s).ldr = s.ldr ∧ (passQc x0 s).sec = s.sec ∧ (passQc x0 s).trg = s.trg ∧ (passQc x0 s).ptp = s.ptp ∧ (passQc x0
    s).dbg = s.dbg ∧ (passQc x0 s).pwr = s.pwr ∧ (passQc x0 s).hst = s.hst ∧ (passQc x0 s).ckpt = s.ckpt := by
  unfold passQc; split <;> simp

@[simp] theorem noteGreg_frame (x0 s) : (noteGreg x0 s).pending = s.pending ∧ (noteGreg x0 s).clk = s.clk ∧ (noteGreg
    x0 s).tck = s.tck ∧ (noteGreg x0 s).arr = s.arr ∧ (noteGreg x0 s).exe = s.exe ∧ (noteGreg x0 s).pen = s.pen ∧
    (noteGreg x0 s).integ = s.integ ∧ (noteGreg x0 s).shed = s.shed ∧ (noteGreg x0 s).dmc = s.dmc ∧ (noteGreg x0
    s).lnk = s.lnk ∧ (noteGreg x0 s).rls = s.rls ∧ (noteGreg x0 s).yms = s.yms ∧ (noteGreg x0 s).grm = s.grm ∧
    (noteGreg x0 s).pdk = s.pdk ∧ (noteGreg x0 s).ldr = s.ldr ∧ (noteGreg x0 s).sec = s.sec ∧ (noteGreg x0 s).trg =
    s.trg ∧ (noteGreg x0 s).ptp = s.ptp ∧ (noteGreg x0 s).dbg = s.dbg ∧ (noteGreg x0 s).pwr = s.pwr ∧ (noteGreg x0
    s).ckpt = s.ckpt := by
  unfold noteGreg; (repeat' split) <;> simp_all

@[simp] theorem readPlain_frame (x0 s) : (readPlain x0 s).pending = s.pending ∧ (readPlain x0 s).tck = s.tck ∧
    (readPlain x0 s).arr = s.arr ∧ (readPlain x0 s).exe = s.exe ∧ (readPlain x0 s).pen = s.pen ∧ (readPlain x0 s).shed
    = s.shed ∧ (readPlain x0 s).dmc = s.dmc ∧ (readPlain x0 s).lnk = s.lnk ∧ (readPlain x0 s).rls = s.rls ∧ (readPlain
    x0 s).yms = s.yms ∧ (readPlain x0 s).grm = s.grm ∧ (readPlain x0 s).pdk = s.pdk ∧ (readPlain x0 s).ldr = s.ldr ∧
    (readPlain x0 s).sec = s.sec ∧ (readPlain x0 s).trg = s.trg ∧ (readPlain x0 s).pwr = s.pwr ∧ (readPlain x0 s).ckpt
    = s.ckpt := by
  unfold readPlain; (repeat' split) <;> simp_all

@[simp] theorem readPeek_frame (x0 x1 s) : (readPeek x0 x1 s).pending = s.pending ∧ (readPeek x0 x1 s).regs = s.regs ∧
    (readPeek x0 x1 s).tck = s.tck ∧ (readPeek x0 x1 s).arr = s.arr ∧ (readPeek x0 x1 s).exe = s.exe ∧ (readPeek x0 x1
    s).pen = s.pen ∧ (readPeek x0 x1 s).integ = s.integ ∧ (readPeek x0 x1 s).shed = s.shed ∧ (readPeek x0 x1 s).dmc =
    s.dmc ∧ (readPeek x0 x1 s).lnk = s.lnk ∧ (readPeek x0 x1 s).rls = s.rls ∧ (readPeek x0 x1 s).yms = s.yms ∧
    (readPeek x0 x1 s).grm = s.grm ∧ (readPeek x0 x1 s).pdk = s.pdk ∧ (readPeek x0 x1 s).ldr = s.ldr ∧ (readPeek x0 x1
    s).sec = s.sec ∧ (readPeek x0 x1 s).trg = s.trg ∧ (readPeek x0 x1 s).ptp = s.ptp ∧ (readPeek x0 x1 s).pwr = s.pwr
    ∧ (readPeek x0 x1 s).ckpt = s.ckpt := by
  simp only [readPeek]; (repeat' split) <;> simp_all

@[simp] theorem debugRead_frame (x0 x1 s) : (debugRead x0 x1 s).pending = s.pending ∧ (debugRead x0 x1 s).tck = s.tck
    ∧ (debugRead x0 x1 s).exe = s.exe ∧ (debugRead x0 x1 s).yms = s.yms ∧ (debugRead x0 x1 s).ldr = s.ldr ∧ (debugRead
    x0 x1 s).sec = s.sec ∧ (debugRead x0 x1 s).ckpt = s.ckpt := by
  unfold debugRead; split <;> simp

@[simp] theorem hostRead_frame (x0 s) : (hostRead x0 s).pending = s.pending ∧ (hostRead x0 s).tck = s.tck ∧ (hostRead
    x0 s).arr = s.arr ∧ (hostRead x0 s).exe = s.exe ∧ (hostRead x0 s).pen = s.pen ∧ (hostRead x0 s).shed = s.shed ∧
    (hostRead x0 s).dmc = s.dmc ∧ (hostRead x0 s).lnk = s.lnk ∧ (hostRead x0 s).rls = s.rls ∧ (hostRead x0 s).yms =
    s.yms ∧ (hostRead x0 s).grm = s.grm ∧ (hostRead x0 s).pdk = s.pdk ∧ (hostRead x0 s).ldr = s.ldr ∧ (hostRead x0
    s).sec = s.sec ∧ (hostRead x0 s).trg = s.trg ∧ (hostRead x0 s).pwr = s.pwr ∧ (hostRead x0 s).ckpt = s.ckpt := by
  unfold hostRead; split <;> simp

@[simp] theorem readBy_frame (x0 x1 s) : (readBy x0 x1 s).pending = s.pending ∧ (readBy x0 x1 s).tck = s.tck ∧ (readBy
    x0 x1 s).exe = s.exe ∧ (readBy x0 x1 s).yms = s.yms ∧ (readBy x0 x1 s).ldr = s.ldr ∧ (readBy x0 x1 s).sec = s.sec
    ∧ (readBy x0 x1 s).ckpt = s.ckpt := by
  unfold readBy; split <;> simp

@[simp] theorem doTckCountLo_frame (x0 s) : (doTckCountLo x0 s).pending = s.pending ∧ (doTckCountLo x0 s).tck = s.tck
    ∧ (doTckCountLo x0 s).exe = s.exe ∧ (doTckCountLo x0 s).yms = s.yms ∧ (doTckCountLo x0 s).ldr = s.ldr ∧
    (doTckCountLo x0 s).sec = s.sec ∧ (doTckCountLo x0 s).ckpt = s.ckpt := by
  simp [doTckCountLo]

@[simp] theorem doPtpTimeNs_frame (x0 x1 s) : (doPtpTimeNs x0 x1 s).pending = s.pending ∧ (doPtpTimeNs x0 x1 s).tck =
    s.tck ∧ (doPtpTimeNs x0 x1 s).exe = s.exe ∧ (doPtpTimeNs x0 x1 s).yms = s.yms ∧ (doPtpTimeNs x0 x1 s).ldr = s.ldr
    ∧ (doPtpTimeNs x0 x1 s).sec = s.sec ∧ (doPtpTimeNs x0 x1 s).ckpt = s.ckpt := by
  simp [doPtpTimeNs]

@[simp] theorem doTckLogW3_frame (x0 s) : (doTckLogW3 x0 s).pending = s.pending ∧ (doTckLogW3 x0 s).tck = s.tck ∧
    (doTckLogW3 x0 s).exe = s.exe ∧ (doTckLogW3 x0 s).yms = s.yms ∧ (doTckLogW3 x0 s).ldr = s.ldr ∧ (doTckLogW3 x0
    s).sec = s.sec ∧ (doTckLogW3 x0 s).ckpt = s.ckpt := by
  simp [doTckLogW3]

@[simp] theorem doClampReport_frame (x0 x1 s) : (doClampReport x0 x1 s).pending = s.pending ∧ (doClampReport x0 x1
    s).tck = s.tck ∧ (doClampReport x0 x1 s).exe = s.exe ∧ (doClampReport x0 x1 s).yms = s.yms ∧ (doClampReport x0 x1
    s).ldr = s.ldr ∧ (doClampReport x0 x1 s).sec = s.sec ∧ (doClampReport x0 x1 s).ckpt = s.ckpt := by
  simp [doClampReport]

@[simp] theorem doPeekRead_frame (x0 x1 s) : (doPeekRead x0 x1 s).pending = s.pending ∧ (doPeekRead x0 x1 s).tck =
    s.tck ∧ (doPeekRead x0 x1 s).exe = s.exe ∧ (doPeekRead x0 x1 s).yms = s.yms ∧ (doPeekRead x0 x1 s).ldr = s.ldr ∧
    (doPeekRead x0 x1 s).sec = s.sec ∧ (doPeekRead x0 x1 s).ckpt = s.ckpt := by
  simp [doPeekRead]

@[simp] theorem doTelemetryRead_frame (x0 s) : (doTelemetryRead x0 s).pending = s.pending ∧ (doTelemetryRead x0 s).tck
    = s.tck ∧ (doTelemetryRead x0 s).exe = s.exe ∧ (doTelemetryRead x0 s).yms = s.yms ∧ (doTelemetryRead x0 s).ldr =
    s.ldr ∧ (doTelemetryRead x0 s).sec = s.sec ∧ (doTelemetryRead x0 s).ckpt = s.ckpt := by
  unfold doTelemetryRead; split <;> simp

/-! ### RegWrite -/

@[simp] theorem plainWrite_frame (x0 x1 x2 s) : (plainWrite x0 x1 x2 s).pending = s.pending ∧ (plainWrite x0 x1 x2
    s).clk = s.clk ∧ (plainWrite x0 x1 x2 s).tck = s.tck ∧ (plainWrite x0 x1 x2 s).arr = s.arr ∧ (plainWrite x0 x1 x2
    s).exe = s.exe ∧ (plainWrite x0 x1 x2 s).pen = s.pen ∧ (plainWrite x0 x1 x2 s).integ = s.integ ∧ (plainWrite x0 x1
    x2 s).shed = s.shed ∧ (plainWrite x0 x1 x2 s).dmc = s.dmc ∧ (plainWrite x0 x1 x2 s).lnk = s.lnk ∧ (plainWrite x0
    x1 x2 s).rls = s.rls ∧ (plainWrite x0 x1 x2 s).yms = s.yms ∧ (plainWrite x0 x1 x2 s).grm = s.grm ∧ (plainWrite x0
    x1 x2 s).pdk = s.pdk ∧ (plainWrite x0 x1 x2 s).ldr = s.ldr ∧ (plainWrite x0 x1 x2 s).sec = s.sec ∧ (plainWrite x0
    x1 x2 s).trg = s.trg ∧ (plainWrite x0 x1 x2 s).ptp = s.ptp ∧ (plainWrite x0 x1 x2 s).hst = s.hst ∧ (plainWrite x0
    x1 x2 s).ckpt = s.ckpt := by
  simp [plainWrite]

@[simp] theorem intWrite_frame (x0 x1 x2 s) : (intWrite x0 x1 x2 s).pending = s.pending ∧ (intWrite x0 x1 x2 s).clk =
    s.clk ∧ (intWrite x0 x1 x2 s).tck = s.tck ∧ (intWrite x0 x1 x2 s).arr = s.arr ∧ (intWrite x0 x1 x2 s).exe = s.exe
    ∧ (intWrite x0 x1 x2 s).pen = s.pen ∧ (intWrite x0 x1 x2 s).integ = s.integ ∧ (intWrite x0 x1 x2 s).shed = s.shed
    ∧ (intWrite x0 x1 x2 s).dmc = s.dmc ∧ (intWrite x0 x1 x2 s).lnk = s.lnk ∧ (intWrite x0 x1 x2 s).rls = s.rls ∧
    (intWrite x0 x1 x2 s).yms = s.yms ∧ (intWrite x0 x1 x2 s).grm = s.grm ∧ (intWrite x0 x1 x2 s).pdk = s.pdk ∧
    (intWrite x0 x1 x2 s).ldr = s.ldr ∧ (intWrite x0 x1 x2 s).sec = s.sec ∧ (intWrite x0 x1 x2 s).trg = s.trg ∧
    (intWrite x0 x1 x2 s).ptp = s.ptp ∧ (intWrite x0 x1 x2 s).ckpt = s.ckpt := by
  simp [intWrite]

@[simp] theorem errClear_frame (x0 s) : (errClear x0 s).pending = s.pending ∧ (errClear x0 s).clk = s.clk ∧ (errClear
    x0 s).tck = s.tck ∧ (errClear x0 s).arr = s.arr ∧ (errClear x0 s).exe = s.exe ∧ (errClear x0 s).pen = s.pen ∧
    (errClear x0 s).integ = s.integ ∧ (errClear x0 s).shed = s.shed ∧ (errClear x0 s).dmc = s.dmc ∧ (errClear x0
    s).lnk = s.lnk ∧ (errClear x0 s).rls = s.rls ∧ (errClear x0 s).yms = s.yms ∧ (errClear x0 s).grm = s.grm ∧
    (errClear x0 s).pdk = s.pdk ∧ (errClear x0 s).ldr = s.ldr ∧ (errClear x0 s).sec = s.sec ∧ (errClear x0 s).trg =
    s.trg ∧ (errClear x0 s).ptp = s.ptp ∧ (errClear x0 s).dbg = s.dbg ∧ (errClear x0 s).pwr = s.pwr ∧ (errClear x0
    s).hst = s.hst ∧ (errClear x0 s).ckpt = s.ckpt := by
  simp [errClear]

@[simp] theorem ctrlWrite_frame (x0 x1 s) : (ctrlWrite x0 x1 s).pending = s.pending ∧ (ctrlWrite x0 x1 s).clk = s.clk
    ∧ (ctrlWrite x0 x1 s).tck = s.tck ∧ (ctrlWrite x0 x1 s).arr = s.arr ∧ (ctrlWrite x0 x1 s).exe = s.exe ∧ (ctrlWrite
    x0 x1 s).pen = s.pen ∧ (ctrlWrite x0 x1 s).integ = s.integ ∧ (ctrlWrite x0 x1 s).shed = s.shed ∧ (ctrlWrite x0 x1
    s).dmc = s.dmc ∧ (ctrlWrite x0 x1 s).lnk = s.lnk ∧ (ctrlWrite x0 x1 s).rls = s.rls ∧ (ctrlWrite x0 x1 s).yms =
    s.yms ∧ (ctrlWrite x0 x1 s).grm = s.grm ∧ (ctrlWrite x0 x1 s).pdk = s.pdk ∧ (ctrlWrite x0 x1 s).ldr = s.ldr ∧
    (ctrlWrite x0 x1 s).sec = s.sec ∧ (ctrlWrite x0 x1 s).trg = s.trg ∧ (ctrlWrite x0 x1 s).ptp = s.ptp ∧ (ctrlWrite
    x0 x1 s).pwr = s.pwr ∧ (ctrlWrite x0 x1 s).hst = s.hst ∧ (ctrlWrite x0 x1 s).ckpt = s.ckpt := by
  unfold ctrlWrite; (repeat' split) <;> simp_all

@[simp] theorem doClrErr_frame (x0 x1 s) : (doClrErr x0 x1 s).pending = s.pending ∧ (doClrErr x0 x1 s).tck = s.tck ∧
    (doClrErr x0 x1 s).exe = s.exe ∧ (doClrErr x0 x1 s).yms = s.yms ∧ (doClrErr x0 x1 s).ldr = s.ldr ∧ (doClrErr x0 x1
    s).sec = s.sec ∧ (doClrErr x0 x1 s).ckpt = s.ckpt := by
  simp [doClrErr]

@[simp] theorem doClrClamp_frame (x0 x1 s) : (doClrClamp x0 x1 s).pending = s.pending ∧ (doClrClamp x0 x1 s).tck =
    s.tck ∧ (doClrClamp x0 x1 s).exe = s.exe ∧ (doClrClamp x0 x1 s).yms = s.yms ∧ (doClrClamp x0 x1 s).ldr = s.ldr ∧
    (doClrClamp x0 x1 s).sec = s.sec ∧ (doClrClamp x0 x1 s).ckpt = s.ckpt := by
  simp [doClrClamp]

@[simp] theorem tckCmdWrite_frame (x0 s) : (tckCmdWrite x0 s).pending = s.pending ∧ (tckCmdWrite x0 s).arr = s.arr ∧
    (tckCmdWrite x0 s).exe = s.exe ∧ (tckCmdWrite x0 s).integ = s.integ ∧ (tckCmdWrite x0 s).dmc = s.dmc ∧
    (tckCmdWrite x0 s).yms = s.yms ∧ (tckCmdWrite x0 s).grm = s.grm ∧ (tckCmdWrite x0 s).pdk = s.pdk ∧ (tckCmdWrite x0
    s).ldr = s.ldr ∧ (tckCmdWrite x0 s).sec = s.sec ∧ (tckCmdWrite x0 s).dbg = s.dbg ∧ (tckCmdWrite x0 s).ckpt =
    s.ckpt := by
  simp only [tckCmdWrite]; (repeat' split) <;> simp_all

@[simp] theorem replayCfgWrite_frame (x0 x1 s) : (replayCfgWrite x0 x1 s).pending = s.pending ∧ (replayCfgWrite x0 x1
    s).clk = s.clk ∧ (replayCfgWrite x0 x1 s).tck = s.tck ∧ (replayCfgWrite x0 x1 s).arr = s.arr ∧ (replayCfgWrite x0
    x1 s).exe = s.exe ∧ (replayCfgWrite x0 x1 s).pen = s.pen ∧ (replayCfgWrite x0 x1 s).integ = s.integ ∧
    (replayCfgWrite x0 x1 s).shed = s.shed ∧ (replayCfgWrite x0 x1 s).dmc = s.dmc ∧ (replayCfgWrite x0 x1 s).lnk =
    s.lnk ∧ (replayCfgWrite x0 x1 s).rls = s.rls ∧ (replayCfgWrite x0 x1 s).yms = s.yms ∧ (replayCfgWrite x0 x1 s).grm
    = s.grm ∧ (replayCfgWrite x0 x1 s).pdk = s.pdk ∧ (replayCfgWrite x0 x1 s).ldr = s.ldr ∧ (replayCfgWrite x0 x1
    s).sec = s.sec ∧ (replayCfgWrite x0 x1 s).trg = s.trg ∧ (replayCfgWrite x0 x1 s).ptp = s.ptp ∧ (replayCfgWrite x0
    x1 s).hst = s.hst ∧ (replayCfgWrite x0 x1 s).ckpt = s.ckpt := by
  unfold replayCfgWrite; split <;> simp

@[simp] theorem doClrCounts_frame (x0 x1 s) : (doClrCounts x0 x1 s).pending = s.pending ∧ (doClrCounts x0 x1 s).tck =
    s.tck ∧ (doClrCounts x0 x1 s).exe = s.exe ∧ (doClrCounts x0 x1 s).yms = s.yms ∧ (doClrCounts x0 x1 s).ldr = s.ldr
    ∧ (doClrCounts x0 x1 s).sec = s.sec ∧ (doClrCounts x0 x1 s).ckpt = s.ckpt := by
  simp [doClrCounts]

@[simp] theorem scbRestart_frame (x0 s) : (scbRestart x0 s).pending = s.pending ∧ (scbRestart x0 s).clk = s.clk ∧
    (scbRestart x0 s).tck = s.tck ∧ (scbRestart x0 s).arr = s.arr ∧ (scbRestart x0 s).exe = s.exe ∧ (scbRestart x0
    s).pen = s.pen ∧ (scbRestart x0 s).shed = s.shed ∧ (scbRestart x0 s).dmc = s.dmc ∧ (scbRestart x0 s).lnk = s.lnk ∧
    (scbRestart x0 s).rls = s.rls ∧ (scbRestart x0 s).yms = s.yms ∧ (scbRestart x0 s).grm = s.grm ∧ (scbRestart x0
    s).pdk = s.pdk ∧ (scbRestart x0 s).ldr = s.ldr ∧ (scbRestart x0 s).sec = s.sec ∧ (scbRestart x0 s).trg = s.trg ∧
    (scbRestart x0 s).ptp = s.ptp ∧ (scbRestart x0 s).dbg = s.dbg ∧ (scbRestart x0 s).pwr = s.pwr ∧ (scbRestart x0
    s).ckpt = s.ckpt := by
  unfold scbRestart; split <;> simp

@[simp] theorem scbWrite_frame (x0 x1 x2 s) : (scbWrite x0 x1 x2 s).pending = s.pending ∧ (scbWrite x0 x1 x2 s).clk =
    s.clk ∧ (scbWrite x0 x1 x2 s).tck = s.tck ∧ (scbWrite x0 x1 x2 s).arr = s.arr ∧ (scbWrite x0 x1 x2 s).exe = s.exe
    ∧ (scbWrite x0 x1 x2 s).pen = s.pen ∧ (scbWrite x0 x1 x2 s).shed = s.shed ∧ (scbWrite x0 x1 x2 s).dmc = s.dmc ∧
    (scbWrite x0 x1 x2 s).lnk = s.lnk ∧ (scbWrite x0 x1 x2 s).rls = s.rls ∧ (scbWrite x0 x1 x2 s).yms = s.yms ∧
    (scbWrite x0 x1 x2 s).grm = s.grm ∧ (scbWrite x0 x1 x2 s).pdk = s.pdk ∧ (scbWrite x0 x1 x2 s).ldr = s.ldr ∧
    (scbWrite x0 x1 x2 s).sec = s.sec ∧ (scbWrite x0 x1 x2 s).trg = s.trg ∧ (scbWrite x0 x1 x2 s).ptp = s.ptp ∧
    (scbWrite x0 x1 x2 s).ckpt = s.ckpt := by
  unfold scbWrite; split <;> simp

@[simp] theorem doScbRestart_frame (x0 x1 x2 s) : (doScbRestart x0 x1 x2 s).pending = s.pending ∧ (doScbRestart x0 x1
    x2 s).tck = s.tck ∧ (doScbRestart x0 x1 x2 s).exe = s.exe ∧ (doScbRestart x0 x1 x2 s).yms = s.yms ∧ (doScbRestart
    x0 x1 x2 s).ldr = s.ldr ∧ (doScbRestart x0 x1 x2 s).sec = s.sec ∧ (doScbRestart x0 x1 x2 s).ckpt = s.ckpt := by
  simp [doScbRestart]

@[simp] theorem dmcCtrlWrite_frame (x0 x1 s) : (dmcCtrlWrite x0 x1 s).pending = s.pending ∧ (dmcCtrlWrite x0 x1 s).tck
    = s.tck ∧ (dmcCtrlWrite x0 x1 s).arr = s.arr ∧ (dmcCtrlWrite x0 x1 s).exe = s.exe ∧ (dmcCtrlWrite x0 x1 s).pen =
    s.pen ∧ (dmcCtrlWrite x0 x1 s).integ = s.integ ∧ (dmcCtrlWrite x0 x1 s).shed = s.shed ∧ (dmcCtrlWrite x0 x1 s).lnk
    = s.lnk ∧ (dmcCtrlWrite x0 x1 s).yms = s.yms ∧ (dmcCtrlWrite x0 x1 s).grm = s.grm ∧ (dmcCtrlWrite x0 x1 s).pdk =
    s.pdk ∧ (dmcCtrlWrite x0 x1 s).ldr = s.ldr ∧ (dmcCtrlWrite x0 x1 s).sec = s.sec ∧ (dmcCtrlWrite x0 x1 s).trg =
    s.trg ∧ (dmcCtrlWrite x0 x1 s).ptp = s.ptp ∧ (dmcCtrlWrite x0 x1 s).ckpt = s.ckpt := by
  unfold dmcCtrlWrite; split <;> simp

@[simp] theorem ldrCmdBare_frame (x0 x1 s) : (ldrCmdBare x0 x1 s).pending = s.pending ∧ (ldrCmdBare x0 x1 s).yms =
    s.yms ∧ (ldrCmdBare x0 x1 s).sec = s.sec ∧ (ldrCmdBare x0 x1 s).ckpt = s.ckpt := by
  simp [ldrCmdBare]

@[simp] theorem qcWrite_frame (x0 s) : (qcWrite x0 s).pending = s.pending ∧ (qcWrite x0 s).regs = s.regs ∧ (qcWrite x0
    s).tck = s.tck ∧ (qcWrite x0 s).arr = s.arr ∧ (qcWrite x0 s).exe = s.exe ∧ (qcWrite x0 s).pen = s.pen ∧ (qcWrite
    x0 s).integ = s.integ ∧ (qcWrite x0 s).shed = s.shed ∧ (qcWrite x0 s).dmc = s.dmc ∧ (qcWrite x0 s).lnk = s.lnk ∧
    (qcWrite x0 s).rls = s.rls ∧ (qcWrite x0 s).yms = s.yms ∧ (qcWrite x0 s).grm = s.grm ∧ (qcWrite x0 s).ldr = s.ldr
    ∧ (qcWrite x0 s).sec = s.sec ∧ (qcWrite x0 s).trg = s.trg ∧ (qcWrite x0 s).ptp = s.ptp ∧ (qcWrite x0 s).dbg =
    s.dbg ∧ (qcWrite x0 s).pwr = s.pwr ∧ (qcWrite x0 s).hst = s.hst ∧ (qcWrite x0 s).ckpt = s.ckpt := by
  simp [qcWrite]

@[simp] theorem rptrWrite_frame (x0 x1 s) : (rptrWrite x0 x1 s).pending = s.pending ∧ (rptrWrite x0 x1 s).tck = s.tck
    ∧ (rptrWrite x0 x1 s).exe = s.exe ∧ (rptrWrite x0 x1 s).yms = s.yms ∧ (rptrWrite x0 x1 s).ldr = s.ldr ∧ (rptrWrite
    x0 x1 s).sec = s.sec ∧ (rptrWrite x0 x1 s).ckpt = s.ckpt := by
  simp [rptrWrite]

@[simp] theorem trcCtrlWrite_frame (x0 x1 s) : (trcCtrlWrite x0 x1 s).pending = s.pending ∧ (trcCtrlWrite x0 x1 s).clk
    = s.clk ∧ (trcCtrlWrite x0 x1 s).tck = s.tck ∧ (trcCtrlWrite x0 x1 s).arr = s.arr ∧ (trcCtrlWrite x0 x1 s).exe =
    s.exe ∧ (trcCtrlWrite x0 x1 s).pen = s.pen ∧ (trcCtrlWrite x0 x1 s).integ = s.integ ∧ (trcCtrlWrite x0 x1 s).shed
    = s.shed ∧ (trcCtrlWrite x0 x1 s).dmc = s.dmc ∧ (trcCtrlWrite x0 x1 s).lnk = s.lnk ∧ (trcCtrlWrite x0 x1 s).rls =
    s.rls ∧ (trcCtrlWrite x0 x1 s).yms = s.yms ∧ (trcCtrlWrite x0 x1 s).pdk = s.pdk ∧ (trcCtrlWrite x0 x1 s).ldr =
    s.ldr ∧ (trcCtrlWrite x0 x1 s).sec = s.sec ∧ (trcCtrlWrite x0 x1 s).trg = s.trg ∧ (trcCtrlWrite x0 x1 s).ptp =
    s.ptp ∧ (trcCtrlWrite x0 x1 s).hst = s.hst ∧ (trcCtrlWrite x0 x1 s).ckpt = s.ckpt := by
  simp only [trcCtrlWrite]; (repeat' split) <;> simp_all

@[simp] theorem winWrite_frame (x0 x1 x2 s) : (winWrite x0 x1 x2 s).pending = s.pending ∧ (winWrite x0 x1 x2 s).regs =
    s.regs ∧ (winWrite x0 x1 x2 s).clk = s.clk ∧ (winWrite x0 x1 x2 s).tck = s.tck ∧ (winWrite x0 x1 x2 s).arr = s.arr
    ∧ (winWrite x0 x1 x2 s).exe = s.exe ∧ (winWrite x0 x1 x2 s).pen = s.pen ∧ (winWrite x0 x1 x2 s).integ = s.integ ∧
    (winWrite x0 x1 x2 s).shed = s.shed ∧ (winWrite x0 x1 x2 s).dmc = s.dmc ∧ (winWrite x0 x1 x2 s).lnk = s.lnk ∧
    (winWrite x0 x1 x2 s).rls = s.rls ∧ (winWrite x0 x1 x2 s).yms = s.yms ∧ (winWrite x0 x1 x2 s).grm = s.grm ∧
    (winWrite x0 x1 x2 s).pdk = s.pdk ∧ (winWrite x0 x1 x2 s).ldr = s.ldr ∧ (winWrite x0 x1 x2 s).sec = s.sec ∧
    (winWrite x0 x1 x2 s).trg = s.trg ∧ (winWrite x0 x1 x2 s).dbg = s.dbg ∧ (winWrite x0 x1 x2 s).pwr = s.pwr ∧
    (winWrite x0 x1 x2 s).hst = s.hst ∧ (winWrite x0 x1 x2 s).ckpt = s.ckpt := by
  simp [winWrite]

@[simp] theorem dmaCtrlWrite_frame (x0 x1 s) : (dmaCtrlWrite x0 x1 s).pending = s.pending ∧ (dmaCtrlWrite x0 x1 s).clk
    = s.clk ∧ (dmaCtrlWrite x0 x1 s).tck = s.tck ∧ (dmaCtrlWrite x0 x1 s).arr = s.arr ∧ (dmaCtrlWrite x0 x1 s).exe =
    s.exe ∧ (dmaCtrlWrite x0 x1 s).pen = s.pen ∧ (dmaCtrlWrite x0 x1 s).integ = s.integ ∧ (dmaCtrlWrite x0 x1 s).shed
    = s.shed ∧ (dmaCtrlWrite x0 x1 s).dmc = s.dmc ∧ (dmaCtrlWrite x0 x1 s).lnk = s.lnk ∧ (dmaCtrlWrite x0 x1 s).rls =
    s.rls ∧ (dmaCtrlWrite x0 x1 s).yms = s.yms ∧ (dmaCtrlWrite x0 x1 s).grm = s.grm ∧ (dmaCtrlWrite x0 x1 s).pdk =
    s.pdk ∧ (dmaCtrlWrite x0 x1 s).ldr = s.ldr ∧ (dmaCtrlWrite x0 x1 s).sec = s.sec ∧ (dmaCtrlWrite x0 x1 s).trg =
    s.trg ∧ (dmaCtrlWrite x0 x1 s).ptp = s.ptp ∧ (dmaCtrlWrite x0 x1 s).hst = s.hst ∧ (dmaCtrlWrite x0 x1 s).ckpt =
    s.ckpt := by
  unfold dmaCtrlWrite; split <;> simp

@[simp] theorem vecMapWrite_frame (x0 x1 s) : (vecMapWrite x0 x1 s).pending = s.pending ∧ (vecMapWrite x0 x1 s).clk =
    s.clk ∧ (vecMapWrite x0 x1 s).tck = s.tck ∧ (vecMapWrite x0 x1 s).arr = s.arr ∧ (vecMapWrite x0 x1 s).exe = s.exe
    ∧ (vecMapWrite x0 x1 s).pen = s.pen ∧ (vecMapWrite x0 x1 s).integ = s.integ ∧ (vecMapWrite x0 x1 s).shed = s.shed
    ∧ (vecMapWrite x0 x1 s).dmc = s.dmc ∧ (vecMapWrite x0 x1 s).lnk = s.lnk ∧ (vecMapWrite x0 x1 s).rls = s.rls ∧
    (vecMapWrite x0 x1 s).yms = s.yms ∧ (vecMapWrite x0 x1 s).grm = s.grm ∧ (vecMapWrite x0 x1 s).pdk = s.pdk ∧
    (vecMapWrite x0 x1 s).ldr = s.ldr ∧ (vecMapWrite x0 x1 s).sec = s.sec ∧ (vecMapWrite x0 x1 s).trg = s.trg ∧
    (vecMapWrite x0 x1 s).ptp = s.ptp ∧ (vecMapWrite x0 x1 s).ckpt = s.ckpt := by
  simp only [vecMapWrite]; (repeat' split) <;> simp_all

@[simp] theorem msixWrite_frame (x0 x1 s) : (msixWrite x0 x1 s).pending = s.pending ∧ (msixWrite x0 x1 s).regs =
    s.regs ∧ (msixWrite x0 x1 s).clk = s.clk ∧ (msixWrite x0 x1 s).tck = s.tck ∧ (msixWrite x0 x1 s).arr = s.arr ∧
    (msixWrite x0 x1 s).exe = s.exe ∧ (msixWrite x0 x1 s).pen = s.pen ∧ (msixWrite x0 x1 s).integ = s.integ ∧
    (msixWrite x0 x1 s).shed = s.shed ∧ (msixWrite x0 x1 s).dmc = s.dmc ∧ (msixWrite x0 x1 s).lnk = s.lnk ∧ (msixWrite
    x0 x1 s).rls = s.rls ∧ (msixWrite x0 x1 s).yms = s.yms ∧ (msixWrite x0 x1 s).grm = s.grm ∧ (msixWrite x0 x1 s).pdk
    = s.pdk ∧ (msixWrite x0 x1 s).ldr = s.ldr ∧ (msixWrite x0 x1 s).sec = s.sec ∧ (msixWrite x0 x1 s).trg = s.trg ∧
    (msixWrite x0 x1 s).ptp = s.ptp ∧ (msixWrite x0 x1 s).dbg = s.dbg ∧ (msixWrite x0 x1 s).pwr = s.pwr ∧ (msixWrite
    x0 x1 s).ckpt = s.ckpt := by
  simp only [msixWrite]; (repeat' split) <;> simp_all

@[simp] theorem dbgPageWrite_frame (x0 x1 x2 s) : (dbgPageWrite x0 x1 x2 s).pending = s.pending ∧ (dbgPageWrite x0 x1
    x2 s).tck = s.tck ∧ (dbgPageWrite x0 x1 x2 s).exe = s.exe ∧ (dbgPageWrite x0 x1 x2 s).yms = s.yms ∧ (dbgPageWrite
    x0 x1 x2 s).ldr = s.ldr ∧ (dbgPageWrite x0 x1 x2 s).sec = s.sec ∧ (dbgPageWrite x0 x1 x2 s).ckpt = s.ckpt := by
  unfold dbgPageWrite; (repeat' split) <;> simp_all

@[simp] theorem lnkWrite_frame (x0 x1 x2 x3 s) : (lnkWrite x0 x1 x2 x3 s).pending = s.pending ∧ (lnkWrite x0 x1 x2 x3
    s).tck = s.tck ∧ (lnkWrite x0 x1 x2 x3 s).arr = s.arr ∧ (lnkWrite x0 x1 x2 x3 s).exe = s.exe ∧ (lnkWrite x0 x1 x2
    x3 s).pen = s.pen ∧ (lnkWrite x0 x1 x2 x3 s).integ = s.integ ∧ (lnkWrite x0 x1 x2 x3 s).shed = s.shed ∧ (lnkWrite
    x0 x1 x2 x3 s).dmc = s.dmc ∧ (lnkWrite x0 x1 x2 x3 s).rls = s.rls ∧ (lnkWrite x0 x1 x2 x3 s).grm = s.grm ∧
    (lnkWrite x0 x1 x2 x3 s).pdk = s.pdk ∧ (lnkWrite x0 x1 x2 x3 s).ldr = s.ldr ∧ (lnkWrite x0 x1 x2 x3 s).sec = s.sec
    ∧ (lnkWrite x0 x1 x2 x3 s).trg = s.trg ∧ (lnkWrite x0 x1 x2 x3 s).ptp = s.ptp ∧ (lnkWrite x0 x1 x2 x3 s).ckpt =
    s.ckpt := by
  unfold lnkWrite; (repeat' split) <;> simp_all

@[simp] theorem trgWrite_frame (x0 x1 x2 s) : (trgWrite x0 x1 x2 s).pending = s.pending ∧ (trgWrite x0 x1 x2 s).tck =
    s.tck ∧ (trgWrite x0 x1 x2 s).exe = s.exe ∧ (trgWrite x0 x1 x2 s).yms = s.yms ∧ (trgWrite x0 x1 x2 s).ldr = s.ldr
    ∧ (trgWrite x0 x1 x2 s).sec = s.sec ∧ (trgWrite x0 x1 x2 s).ckpt = s.ckpt := by
  simp only [trgWrite]; (repeat' split) <;> simp_all

@[simp] theorem ptpWrite_frame (x0 x1 x2 x3 s) : (ptpWrite x0 x1 x2 x3 s).pending = s.pending ∧ (ptpWrite x0 x1 x2 x3
    s).clk = s.clk ∧ (ptpWrite x0 x1 x2 x3 s).tck = s.tck ∧ (ptpWrite x0 x1 x2 x3 s).arr = s.arr ∧ (ptpWrite x0 x1 x2
    x3 s).exe = s.exe ∧ (ptpWrite x0 x1 x2 x3 s).pen = s.pen ∧ (ptpWrite x0 x1 x2 x3 s).integ = s.integ ∧ (ptpWrite x0
    x1 x2 x3 s).shed = s.shed ∧ (ptpWrite x0 x1 x2 x3 s).dmc = s.dmc ∧ (ptpWrite x0 x1 x2 x3 s).lnk = s.lnk ∧
    (ptpWrite x0 x1 x2 x3 s).rls = s.rls ∧ (ptpWrite x0 x1 x2 x3 s).yms = s.yms ∧ (ptpWrite x0 x1 x2 x3 s).grm = s.grm
    ∧ (ptpWrite x0 x1 x2 x3 s).pdk = s.pdk ∧ (ptpWrite x0 x1 x2 x3 s).ldr = s.ldr ∧ (ptpWrite x0 x1 x2 x3 s).sec =
    s.sec ∧ (ptpWrite x0 x1 x2 x3 s).trg = s.trg ∧ (ptpWrite x0 x1 x2 x3 s).ckpt = s.ckpt := by
  simp only [ptpWrite]; (repeat' split) <;> simp_all

@[simp] theorem portPageWrite_frame (x0 x1 x2 x3 s) : (portPageWrite x0 x1 x2 x3 s).pending = s.pending ∧
    (portPageWrite x0 x1 x2 x3 s).clk = s.clk ∧ (portPageWrite x0 x1 x2 x3 s).tck = s.tck ∧ (portPageWrite x0 x1 x2 x3
    s).arr = s.arr ∧ (portPageWrite x0 x1 x2 x3 s).exe = s.exe ∧ (portPageWrite x0 x1 x2 x3 s).pen = s.pen ∧
    (portPageWrite x0 x1 x2 x3 s).integ = s.integ ∧ (portPageWrite x0 x1 x2 x3 s).shed = s.shed ∧ (portPageWrite x0 x1
    x2 x3 s).dmc = s.dmc ∧ (portPageWrite x0 x1 x2 x3 s).lnk = s.lnk ∧ (portPageWrite x0 x1 x2 x3 s).rls = s.rls ∧
    (portPageWrite x0 x1 x2 x3 s).yms = s.yms ∧ (portPageWrite x0 x1 x2 x3 s).grm = s.grm ∧ (portPageWrite x0 x1 x2 x3
    s).pdk = s.pdk ∧ (portPageWrite x0 x1 x2 x3 s).ldr = s.ldr ∧ (portPageWrite x0 x1 x2 x3 s).sec = s.sec ∧
    (portPageWrite x0 x1 x2 x3 s).trg = s.trg ∧ (portPageWrite x0 x1 x2 x3 s).ckpt = s.ckpt := by
  unfold portPageWrite; (repeat' split) <;> simp_all

@[simp] theorem hstWrite_frame (x0 x1 x2 s) : (hstWrite x0 x1 x2 s).pending = s.pending ∧ (hstWrite x0 x1 x2 s).clk =
    s.clk ∧ (hstWrite x0 x1 x2 s).tck = s.tck ∧ (hstWrite x0 x1 x2 s).arr = s.arr ∧ (hstWrite x0 x1 x2 s).exe = s.exe
    ∧ (hstWrite x0 x1 x2 s).pen = s.pen ∧ (hstWrite x0 x1 x2 s).integ = s.integ ∧ (hstWrite x0 x1 x2 s).shed = s.shed
    ∧ (hstWrite x0 x1 x2 s).dmc = s.dmc ∧ (hstWrite x0 x1 x2 s).lnk = s.lnk ∧ (hstWrite x0 x1 x2 s).rls = s.rls ∧
    (hstWrite x0 x1 x2 s).yms = s.yms ∧ (hstWrite x0 x1 x2 s).grm = s.grm ∧ (hstWrite x0 x1 x2 s).pdk = s.pdk ∧
    (hstWrite x0 x1 x2 s).ldr = s.ldr ∧ (hstWrite x0 x1 x2 s).sec = s.sec ∧ (hstWrite x0 x1 x2 s).trg = s.trg ∧
    (hstWrite x0 x1 x2 s).ptp = s.ptp ∧ (hstWrite x0 x1 x2 s).ckpt = s.ckpt := by
  unfold hstWrite; (repeat' split) <;> simp_all

@[simp] theorem clearLosses_frame (x0 s) : (clearLosses x0 s).pending = s.pending ∧ (clearLosses x0 s).regs = s.regs ∧
    (clearLosses x0 s).clk = s.clk ∧ (clearLosses x0 s).tck = s.tck ∧ (clearLosses x0 s).arr = s.arr ∧ (clearLosses x0
    s).exe = s.exe ∧ (clearLosses x0 s).pen = s.pen ∧ (clearLosses x0 s).integ = s.integ ∧ (clearLosses x0 s).shed =
    s.shed ∧ (clearLosses x0 s).dmc = s.dmc ∧ (clearLosses x0 s).lnk = s.lnk ∧ (clearLosses x0 s).yms = s.yms ∧
    (clearLosses x0 s).grm = s.grm ∧ (clearLosses x0 s).pdk = s.pdk ∧ (clearLosses x0 s).ldr = s.ldr ∧ (clearLosses x0
    s).sec = s.sec ∧ (clearLosses x0 s).trg = s.trg ∧ (clearLosses x0 s).ptp = s.ptp ∧ (clearLosses x0 s).dbg = s.dbg
    ∧ (clearLosses x0 s).pwr = s.pwr ∧ (clearLosses x0 s).hst = s.hst ∧ (clearLosses x0 s).ckpt = s.ckpt := by
  simp [clearLosses]

@[simp] theorem rlsWrite_frame (x0 x1 x2 x3 s) : (rlsWrite x0 x1 x2 x3 s).pending = s.pending ∧ (rlsWrite x0 x1 x2 x3
    s).clk = s.clk ∧ (rlsWrite x0 x1 x2 x3 s).tck = s.tck ∧ (rlsWrite x0 x1 x2 x3 s).arr = s.arr ∧ (rlsWrite x0 x1 x2
    x3 s).exe = s.exe ∧ (rlsWrite x0 x1 x2 x3 s).pen = s.pen ∧ (rlsWrite x0 x1 x2 x3 s).integ = s.integ ∧ (rlsWrite x0
    x1 x2 x3 s).shed = s.shed ∧ (rlsWrite x0 x1 x2 x3 s).dmc = s.dmc ∧ (rlsWrite x0 x1 x2 x3 s).lnk = s.lnk ∧
    (rlsWrite x0 x1 x2 x3 s).yms = s.yms ∧ (rlsWrite x0 x1 x2 x3 s).grm = s.grm ∧ (rlsWrite x0 x1 x2 x3 s).pdk = s.pdk
    ∧ (rlsWrite x0 x1 x2 x3 s).ldr = s.ldr ∧ (rlsWrite x0 x1 x2 x3 s).sec = s.sec ∧ (rlsWrite x0 x1 x2 x3 s).trg =
    s.trg ∧ (rlsWrite x0 x1 x2 x3 s).ptp = s.ptp ∧ (rlsWrite x0 x1 x2 x3 s).hst = s.hst ∧ (rlsWrite x0 x1 x2 x3
    s).ckpt = s.ckpt := by
  simp only [rlsWrite]; (repeat' split) <;> simp_all

@[simp] theorem blkWrite_frame (x0 x1 x2 x3 x4 s) : (blkWrite x0 x1 x2 x3 x4 s).pending = s.pending ∧ (blkWrite x0 x1
    x2 x3 x4 s).ckpt = s.ckpt := by
  unfold blkWrite; (repeat' split) <;> simp_all

@[simp] theorem regWrite_frame (x0 x1 x2 s) : (regWrite x0 x1 x2 s).pending = s.pending ∧ (regWrite x0 x1 x2 s).ckpt =
    s.ckpt := by
  simp only [regWrite]; (repeat' split) <;> simp_all

@[simp] theorem shortWrite_frame (x0 x1 s) : (shortWrite x0 x1 s).pending = s.pending ∧ (shortWrite x0 x1 s).clk =
    s.clk ∧ (shortWrite x0 x1 s).tck = s.tck ∧ (shortWrite x0 x1 s).arr = s.arr ∧ (shortWrite x0 x1 s).exe = s.exe ∧
    (shortWrite x0 x1 s).pen = s.pen ∧ (shortWrite x0 x1 s).integ = s.integ ∧ (shortWrite x0 x1 s).shed = s.shed ∧
    (shortWrite x0 x1 s).dmc = s.dmc ∧ (shortWrite x0 x1 s).lnk = s.lnk ∧ (shortWrite x0 x1 s).rls = s.rls ∧
    (shortWrite x0 x1 s).yms = s.yms ∧ (shortWrite x0 x1 s).grm = s.grm ∧ (shortWrite x0 x1 s).pdk = s.pdk ∧
    (shortWrite x0 x1 s).ldr = s.ldr ∧ (shortWrite x0 x1 s).sec = s.sec ∧ (shortWrite x0 x1 s).trg = s.trg ∧
    (shortWrite x0 x1 s).ptp = s.ptp ∧ (shortWrite x0 x1 s).dbg = s.dbg ∧ (shortWrite x0 x1 s).pwr = s.pwr ∧
    (shortWrite x0 x1 s).ckpt = s.ckpt := by
  unfold shortWrite; split <;> simp

@[simp] theorem doRegisterWrite_frame (x0 x1 x2 s) : (doRegisterWrite x0 x1 x2 s).pending = s.pending ∧
    (doRegisterWrite x0 x1 x2 s).ckpt = s.ckpt := by
  simp only [doRegisterWrite]; (repeat' split) <;> simp_all

@[simp] theorem accEnd_frame (x0 x1 x2 s) : (accEnd x0 x1 x2 s).pending = s.pending ∧ (accEnd x0 x1 x2 s).regs =
    s.regs ∧ (accEnd x0 x1 x2 s).clk = s.clk ∧ (accEnd x0 x1 x2 s).tck = s.tck ∧ (accEnd x0 x1 x2 s).arr = s.arr ∧
    (accEnd x0 x1 x2 s).exe = s.exe ∧ (accEnd x0 x1 x2 s).pen = s.pen ∧ (accEnd x0 x1 x2 s).integ = s.integ ∧ (accEnd
    x0 x1 x2 s).shed = s.shed ∧ (accEnd x0 x1 x2 s).dmc = s.dmc ∧ (accEnd x0 x1 x2 s).lnk = s.lnk ∧ (accEnd x0 x1 x2
    s).rls = s.rls ∧ (accEnd x0 x1 x2 s).yms = s.yms ∧ (accEnd x0 x1 x2 s).grm = s.grm ∧ (accEnd x0 x1 x2 s).pdk =
    s.pdk ∧ (accEnd x0 x1 x2 s).ldr = s.ldr ∧ (accEnd x0 x1 x2 s).sec = s.sec ∧ (accEnd x0 x1 x2 s).trg = s.trg ∧
    (accEnd x0 x1 x2 s).ptp = s.ptp ∧ (accEnd x0 x1 x2 s).pwr = s.pwr ∧ (accEnd x0 x1 x2 s).hst = s.hst ∧ (accEnd x0
    x1 x2 s).ckpt = s.ckpt := by
  simp [accEnd]

@[simp] theorem accRead_frame (x0 s) : (accRead x0 s).pending = s.pending ∧ (accRead x0 s).tck = s.tck ∧ (accRead x0
    s).exe = s.exe ∧ (accRead x0 s).yms = s.yms ∧ (accRead x0 s).ldr = s.ldr ∧ (accRead x0 s).sec = s.sec ∧ (accRead
    x0 s).ckpt = s.ckpt := by
  simp [accRead]

@[simp] theorem accWrite_frame (x0 x1 s) : (accWrite x0 x1 s).pending = s.pending ∧ (accWrite x0 x1 s).ckpt = s.ckpt
    := by
  simp [accWrite]

@[simp] theorem doDbgacc_frame (x0 s) : (doDbgacc x0 s).pending = s.pending ∧ (doDbgacc x0 s).ckpt = s.ckpt := by
  simp only [doDbgacc]; (repeat' split) <;> simp_all

/-! ### Bridge -/

@[simp] theorem toResp_frame (x0 x1 s) : (toResp x0 x1 s).pending = s.pending ∧ (toResp x0 x1 s).regs = s.regs ∧
    (toResp x0 x1 s).clk = s.clk ∧ (toResp x0 x1 s).tck = s.tck ∧ (toResp x0 x1 s).arr = s.arr ∧ (toResp x0 x1 s).exe
    = s.exe ∧ (toResp x0 x1 s).pen = s.pen ∧ (toResp x0 x1 s).integ = s.integ ∧ (toResp x0 x1 s).shed = s.shed ∧
    (toResp x0 x1 s).dmc = s.dmc ∧ (toResp x0 x1 s).lnk = s.lnk ∧ (toResp x0 x1 s).rls = s.rls ∧ (toResp x0 x1 s).yms
    = s.yms ∧ (toResp x0 x1 s).grm = s.grm ∧ (toResp x0 x1 s).ldr = s.ldr ∧ (toResp x0 x1 s).sec = s.sec ∧ (toResp x0
    x1 s).trg = s.trg ∧ (toResp x0 x1 s).ptp = s.ptp ∧ (toResp x0 x1 s).dbg = s.dbg ∧ (toResp x0 x1 s).pwr = s.pwr ∧
    (toResp x0 x1 s).hst = s.hst ∧ (toResp x0 x1 s).ckpt = s.ckpt := by
  simp [toResp]

@[simp] theorem bridgeRefuse_frame (x0 x1 s) : (bridgeRefuse x0 x1 s).pending = s.pending ∧ (bridgeRefuse x0 x1 s).tck
    = s.tck ∧ (bridgeRefuse x0 x1 s).arr = s.arr ∧ (bridgeRefuse x0 x1 s).exe = s.exe ∧ (bridgeRefuse x0 x1 s).pen =
    s.pen ∧ (bridgeRefuse x0 x1 s).integ = s.integ ∧ (bridgeRefuse x0 x1 s).shed = s.shed ∧ (bridgeRefuse x0 x1 s).dmc
    = s.dmc ∧ (bridgeRefuse x0 x1 s).lnk = s.lnk ∧ (bridgeRefuse x0 x1 s).rls = s.rls ∧ (bridgeRefuse x0 x1 s).yms =
    s.yms ∧ (bridgeRefuse x0 x1 s).grm = s.grm ∧ (bridgeRefuse x0 x1 s).ldr = s.ldr ∧ (bridgeRefuse x0 x1 s).sec =
    s.sec ∧ (bridgeRefuse x0 x1 s).trg = s.trg ∧ (bridgeRefuse x0 x1 s).ptp = s.ptp ∧ (bridgeRefuse x0 x1 s).dbg =
    s.dbg ∧ (bridgeRefuse x0 x1 s).pwr = s.pwr ∧ (bridgeRefuse x0 x1 s).ckpt = s.ckpt := by
  simp [bridgeRefuse]

@[simp] theorem bridgeReg_frame (x0 x1 s) : (bridgeReg x0 x1 s).pending = s.pending ∧ (bridgeReg x0 x1 s).ckpt =
    s.ckpt := by
  simp only [bridgeReg]; (repeat' split) <;> simp_all

@[simp] theorem bridgeRequest_frame (x0 x1 x2 s) : (bridgeRequest x0 x1 x2 s).pending = s.pending ∧ (bridgeRequest x0
    x1 x2 s).tck = s.tck ∧ (bridgeRequest x0 x1 x2 s).arr = s.arr ∧ (bridgeRequest x0 x1 x2 s).exe = s.exe ∧
    (bridgeRequest x0 x1 x2 s).pen = s.pen ∧ (bridgeRequest x0 x1 x2 s).integ = s.integ ∧ (bridgeRequest x0 x1 x2
    s).lnk = s.lnk ∧ (bridgeRequest x0 x1 x2 s).yms = s.yms ∧ (bridgeRequest x0 x1 x2 s).grm = s.grm ∧ (bridgeRequest
    x0 x1 x2 s).ldr = s.ldr ∧ (bridgeRequest x0 x1 x2 s).sec = s.sec ∧ (bridgeRequest x0 x1 x2 s).trg = s.trg ∧
    (bridgeRequest x0 x1 x2 s).ptp = s.ptp ∧ (bridgeRequest x0 x1 x2 s).dbg = s.dbg ∧ (bridgeRequest x0 x1 x2 s).ckpt
    = s.ckpt := by
  unfold bridgeRequest; split <;> simp

@[simp] theorem bridgeRegister_frame (x0 x1 s) : (bridgeRegister x0 x1 s).pending = s.pending ∧ (bridgeRegister x0 x1
    s).ckpt = s.ckpt := by
  unfold bridgeRegister; split <;> simp

@[simp] theorem bridgeTake_frame (x0 x1 s) : (bridgeTake x0 x1 s).pending = s.pending ∧ (bridgeTake x0 x1 s).ckpt =
    s.ckpt := by
  simp only [bridgeTake]; (repeat' split) <;> simp_all

@[simp] theorem bridgeRun_frame (x0 s) : (bridgeRun x0 s).pending = s.pending ∧ (bridgeRun x0 s).ckpt = s.ckpt := by
  fun_induction bridgeRun <;> simp_all

@[simp] theorem bridgeDrain_frame (s) : (bridgeDrain s).pending = s.pending ∧ (bridgeDrain s).regs = s.regs ∧
    (bridgeDrain s).tck = s.tck ∧ (bridgeDrain s).arr = s.arr ∧ (bridgeDrain s).exe = s.exe ∧ (bridgeDrain s).pen =
    s.pen ∧ (bridgeDrain s).integ = s.integ ∧ (bridgeDrain s).shed = s.shed ∧ (bridgeDrain s).dmc = s.dmc ∧
    (bridgeDrain s).lnk = s.lnk ∧ (bridgeDrain s).rls = s.rls ∧ (bridgeDrain s).yms = s.yms ∧ (bridgeDrain s).grm =
    s.grm ∧ (bridgeDrain s).ldr = s.ldr ∧ (bridgeDrain s).sec = s.sec ∧ (bridgeDrain s).trg = s.trg ∧ (bridgeDrain
    s).ptp = s.ptp ∧ (bridgeDrain s).dbg = s.dbg ∧ (bridgeDrain s).pwr = s.pwr ∧ (bridgeDrain s).hst = s.hst ∧
    (bridgeDrain s).ckpt = s.ckpt := by
  simp [bridgeDrain]

@[simp] theorem doBridgePacket_frame (x0 x1 s) : (doBridgePacket x0 x1 s).pending = s.pending ∧ (doBridgePacket x0 x1
    s).ckpt = s.ckpt := by
  simp only [doBridgePacket]; (repeat' split) <;> simp_all

/-! ### Fabric -/

@[simp] theorem rtreesNext_frame (x0 x1 s) : (rtreesNext x0 x1 s).pending = s.pending ∧ (rtreesNext x0 x1 s).clk =
    s.clk ∧ (rtreesNext x0 x1 s).tck = s.tck ∧ (rtreesNext x0 x1 s).arr = s.arr ∧ (rtreesNext x0 x1 s).exe = s.exe ∧
    (rtreesNext x0 x1 s).pen = s.pen ∧ (rtreesNext x0 x1 s).integ = s.integ ∧ (rtreesNext x0 x1 s).shed = s.shed ∧
    (rtreesNext x0 x1 s).dmc = s.dmc ∧ (rtreesNext x0 x1 s).lnk = s.lnk ∧ (rtreesNext x0 x1 s).rls = s.rls ∧
    (rtreesNext x0 x1 s).yms = s.yms ∧ (rtreesNext x0 x1 s).grm = s.grm ∧ (rtreesNext x0 x1 s).ldr = s.ldr ∧
    (rtreesNext x0 x1 s).sec = s.sec ∧ (rtreesNext x0 x1 s).trg = s.trg ∧ (rtreesNext x0 x1 s).ptp = s.ptp ∧
    (rtreesNext x0 x1 s).dbg = s.dbg ∧ (rtreesNext x0 x1 s).pwr = s.pwr ∧ (rtreesNext x0 x1 s).hst = s.hst ∧
    (rtreesNext x0 x1 s).ckpt = s.ckpt := by
  simp [rtreesNext]

@[simp] theorem commitEdge_frame (x0 s x2) : (commitEdge x0 s x2).pending = s.pending ∧ (commitEdge x0 s x2).regs =
    s.regs ∧ (commitEdge x0 s x2).clk = s.clk ∧ (commitEdge x0 s x2).tck = s.tck ∧ (commitEdge x0 s x2).arr = s.arr ∧
    (commitEdge x0 s x2).exe = s.exe ∧ (commitEdge x0 s x2).integ = s.integ ∧ (commitEdge x0 s x2).shed = s.shed ∧
    (commitEdge x0 s x2).dmc = s.dmc ∧ (commitEdge x0 s x2).lnk = s.lnk ∧ (commitEdge x0 s x2).rls = s.rls ∧
    (commitEdge x0 s x2).yms = s.yms ∧ (commitEdge x0 s x2).grm = s.grm ∧ (commitEdge x0 s x2).pdk = s.pdk ∧
    (commitEdge x0 s x2).ldr = s.ldr ∧ (commitEdge x0 s x2).sec = s.sec ∧ (commitEdge x0 s x2).trg = s.trg ∧
    (commitEdge x0 s x2).ptp = s.ptp ∧ (commitEdge x0 s x2).dbg = s.dbg ∧ (commitEdge x0 s x2).pwr = s.pwr ∧
    (commitEdge x0 s x2).hst = s.hst ∧ (commitEdge x0 s x2).ckpt = s.ckpt := by
  unfold commitEdge; split <;> simp

@[simp] theorem fabricPeriod_frame (s) : (fabricPeriod s).pending = s.pending ∧ (fabricPeriod s).clk = s.clk ∧
    (fabricPeriod s).tck = s.tck ∧ (fabricPeriod s).arr = s.arr ∧ (fabricPeriod s).exe = s.exe ∧ (fabricPeriod
    s).integ = s.integ ∧ (fabricPeriod s).shed = s.shed ∧ (fabricPeriod s).dmc = s.dmc ∧ (fabricPeriod s).lnk = s.lnk
    ∧ (fabricPeriod s).rls = s.rls ∧ (fabricPeriod s).yms = s.yms ∧ (fabricPeriod s).grm = s.grm ∧ (fabricPeriod
    s).ldr = s.ldr ∧ (fabricPeriod s).sec = s.sec ∧ (fabricPeriod s).trg = s.trg ∧ (fabricPeriod s).ptp = s.ptp ∧
    (fabricPeriod s).dbg = s.dbg ∧ (fabricPeriod s).pwr = s.pwr ∧ (fabricPeriod s).hst = s.hst ∧ (fabricPeriod s).ckpt
    = s.ckpt := by
  unfold fabricPeriod; split <;> simp

@[simp] theorem bridgePeriod_frame (s) : (bridgePeriod s).pending = s.pending ∧ (bridgePeriod s).ckpt = s.ckpt := by
  unfold bridgePeriod; split <;> simp

@[simp] theorem idlePeriod_frame (s) : (idlePeriod s).pending = s.pending ∧ (idlePeriod s).ckpt = s.ckpt := by
  simp [idlePeriod]

end Sys2Proof.Machine
end

