-- ==== Sys2Proof/Laws/Links.lean ====
section
/-!
SUPPORT. Frames and their checks: a receiver reads from the line of a lane the lane frame that was sent, stuffing and
scrambling undone, and a lane frame that the model builds passes the check of a receiver that last saw the SEQ before.
-/

namespace Sys2Proof.Machine

/-- Removing the stuff bits of stuffed bits gives the bits back, each stuff bit inverted (R233). -/
theorem unstuff_stuff : ∀ (bs rest : List Bool) (last : Bool) (n : Nat), n < 31 →
    unstuff bs.length last n (stuff last n bs ++ rest) = (bs, true)
  | [], _, _, _, _ => rfl
  | b :: bs, rest, last, n, h => by
    have e0 := unstuff_stuff bs rest b 0 (by decide)
    by_cases hm : (if b = last then n + 1 else 1) = 31
    · simp [stuff, unstuff, hm, e0]
    · have hlt : (if b = last then n + 1 else 1) < 31 := by
        by_cases hb : b = last <;> simp [hb] at hm ⊢ <;> omega
      simp [stuff, unstuff, hm, unstuff_stuff bs rest b _ hlt]

/-- The keystream undoes itself (R232). -/
theorem scramble_scramble : ∀ (x : BitVec 23) (l : List Bool), scramble x (scramble x l) = l
  | _, [] => rfl
  | x, d :: ds => by simp [scramble, scramble_scramble]

@[simp] theorem scramble_length : ∀ (x : BitVec 23) (l : List Bool), (scramble x l).length = l.length
  | _, [] => rfl
  | x, d :: ds => by simp [scramble, scramble_length]

@[simp] theorem bitsDown_length {n : Nat} (w : BitVec n) : (bitsDown w).length = n := by simp [bitsDown]
@[simp] theorem bitsUp_length {n : Nat} (w : BitVec n) : (bitsUp w).length = n := by simp [bitsUp]
@[simp] theorem laneBits_length (f : LaneFrame) : (laneBits f).length = 1024 := by simp [laneBits]

/-- The number that a list of bits spells, highest first. -/
theorem foldDown (x : Nat) : ∀ k a : Nat, ((List.range k).reverse.map fun i => x.testBit i).foldl
    (fun y b => 2 * y + b.toNat) a = a * 2 ^ k + x % 2 ^ k
  | 0, a => by simp [Nat.mod_one]
  | k + 1, a => by
    rw [List.range_succ, List.reverse_append, List.map_append, List.foldl_append, foldDown x k]
    have e : x % 2 ^ (k + 1) = x % 2 ^ k + 2 ^ k * (x / 2 ^ k % 2) := Nat.mod_pow_succ
    have p : a * 2 ^ (k + 1) = 2 * a * 2 ^ k := by rw [Nat.pow_succ]; ac_rfl
    simp only [List.reverse_cons, List.reverse_nil, List.nil_append, List.map_cons, List.map_nil, List.foldl_cons,
      List.foldl_nil, Nat.toNat_testBit, e, p, Nat.add_mul, Nat.mul_comm (x / 2 ^ k % 2)]
    omega

/-- A word is read from its bits, highest first. -/
theorem ofDown_bitsDown {n : Nat} (w : BitVec n) : ofDown n (bitsDown w) = w := by
  unfold ofDown bitsDown
  have h := foldDown w.toNat n 0
  simp only [BitVec.testBit_toNat] at h
  rw [h]
  apply BitVec.eq_of_toNat_eq
  simp

/-- A word is read from its bits, lowest first. -/
theorem ofUp_bitsUp {n : Nat} (w : BitVec n) : ofUp n (bitsUp w) = w := by
  have h : (bitsUp w).reverse = bitsDown w := by simp [bitsUp, bitsDown]
  rw [ofUp, h, ofDown_bitsDown]

/-- The fields of a header by its bits (R231). -/
theorem laneHeader_bit (f : LaneFrame) (i : Nat) : (laneHeader f).getLsbD i =
    if i < 7 then f.aux.getLsbD i else if i < 11 then f.type.getLsbD (i - 7) else if i < 13 then f.vote.getLsbD (i - 11)
    else if i < 14 then (i == 13 && f.hold) else if i < 22 then f.seq.getLsbD (i - 14) else f.marker.getLsbD (i - 22) := by
  have e : BitVec.getLsbD (w := 10 + 8 + 1 + 2 + 4 + 7) (f.marker ++ f.seq ++ BitVec.ofBool f.hold ++ f.vote ++ f.type
      ++ f.aux) i = (laneHeader f).getLsbD i := rfl
  rw [← e]
  simp only [BitVec.getLsbD_append]
  by_cases h1 : i < 7
  · simp [h1]
  by_cases h2 : i < 11
  · simp [h1, h2, show i - 7 < 4 by omega]
  by_cases h3 : i < 13
  · simp [h1, h2, h3, show ¬ i - 7 < 4 by omega, show i - 7 - 4 < 2 by omega]
    congr 1
  by_cases h4 : i < 14
  · have : i = 13 := by omega
    subst this; simp
  by_cases h5 : i < 22
  · simp [h1, h2, h3, h4, h5, show ¬ i - 7 < 4 by omega, show ¬ i - 7 - 4 < 2 by omega,
      show ¬ i - 7 - 4 - 2 < 1 by omega, show i - 7 - 4 - 2 - 1 < 8 by omega]
    congr 1
  · simp [h1, h2, h3, h4, h5, show ¬ i - 7 < 4 by omega, show ¬ i - 7 - 4 < 2 by omega,
      show ¬ i - 7 - 4 - 2 < 1 by omega, show ¬ i - 7 - 4 - 2 - 1 < 8 by omega]
    congr 1

/-- Bits 10 to 17 of a 32-bit word on the line are its bits 21 to 14. -/
theorem bitsDown_seq (w : W32) : ((bitsDown w).drop 10).take 8 = bitsDown (w.extractLsb' 14 8) := by
  have r : ((List.range 32).reverse.drop 10).take 8 = (List.range 8).reverse.map (14 + ·) := by decide
  simp only [bitsDown, ← List.map_drop, ← List.map_take, r, List.map_map]
  apply List.map_congr_left
  intro i hi
  have : i < 8 := by simpa using hi
  simp [this]

/-- On the line bits 10 to 17 of a frame are SEQ (R231). -/
theorem seq_of_laneBits (f : LaneFrame) : ((laneBits f).drop 10).take 8 = bitsDown f.seq := by
  have h : laneBits f = bitsDown (laneHeader f) ++ (bitsUp f.payload ++ bitsDown f.crc) := by simp [laneBits]
  rw [h, List.drop_append_of_le_length (by simp), List.take_append_of_le_length (by simp), bitsDown_seq]
  congr 1
  apply BitVec.eq_of_getLsbD_eq
  intro i hi
  simp [laneHeader_bit, hi, show 14 + i < 22 by omega, show ¬ 14 + i < 7 by omega, show ¬ 14 + i < 11 by omega, show ¬ 14 + i < 13 by omega, show ¬ 14 + i < 14 by omega]

/-- The frame bits of a lane frame are read as that frame. -/
theorem laneOf_laneBits (ok : Bool) (f : LaneFrame) : laneOf ok (laneBits f) = { f with stuffOk := ok } := by
  have h1 : (laneBits f).take 32 = bitsDown (laneHeader f) := by simp [laneBits]
  have h2 : ((laneBits f).drop 32).take 960 = bitsUp f.payload := by simp [laneBits]
  have h3 : ((laneBits f).drop 992).take 32 = bitsDown f.crc := by
    rw [laneBits, List.drop_left' (by simp), List.take_of_length_le (by simp)]
  unfold laneOf
  rw [h1, h2, h3, ofDown_bitsDown, ofDown_bitsDown, ofUp_bitsUp]
  have m : (laneHeader f).extractLsb' 22 10 = f.marker := by
    apply BitVec.eq_of_getLsbD_eq; intro i hi
    simp [laneHeader_bit, hi, show ¬ 22 + i < 7 by omega, show ¬ 22 + i < 11 by omega, show ¬ 22 + i < 13 by omega, show ¬ 22 + i < 14 by omega, show ¬ 22 + i < 22 by omega]
  have q : (laneHeader f).extractLsb' 14 8 = f.seq := by
    apply BitVec.eq_of_getLsbD_eq; intro i hi
    simp [laneHeader_bit, hi, show 14 + i < 22 by omega, show ¬ 14 + i < 7 by omega, show ¬ 14 + i < 11 by omega, show ¬ 14 + i < 13 by omega, show ¬ 14 + i < 14 by omega]
  have v : (laneHeader f).extractLsb' 11 2 = f.vote := by
    apply BitVec.eq_of_getLsbD_eq; intro i hi
    simp [laneHeader_bit, hi, show 11 + i < 13 by omega, show ¬ 11 + i < 7 by omega, show ¬ 11 + i < 11 by omega]
  have y : (laneHeader f).extractLsb' 7 4 = f.type := by
    apply BitVec.eq_of_getLsbD_eq; intro i hi
    simp [laneHeader_bit, hi, show 7 + i < 11 by omega, show ¬ 7 + i < 7 by omega]
  have a : (laneHeader f).extractLsb' 0 7 = f.aux := by
    apply BitVec.eq_of_getLsbD_eq; intro i hi; simp [laneHeader_bit, hi]
  have hd : (laneHeader f).getLsbD 13 = f.hold := by simp only [laneHeader_bit]; rfl
  simp only [m, q, v, y, a, hd]

/-- A receiver reads a lane frame from the line bits that carry it, whatever stuffing they took (R230 to R233). -/
theorem readLane_lineBits (lane : Nat) (f : LaneFrame) : readLane lane (lineBits lane f) = { f with stuffOk := true } := by
  have hl : (scrambleFrame lane f).length = 1024 := by simp [scrambleFrame]
  have u := unstuff_stuff (scrambleFrame lane f) (fillBits (lineUi - (stuff false 0 (scrambleFrame lane f)).length)
    ((stuff false 0 (scrambleFrame lane f)).getLastD false)) false 0 (by decide)
  rw [hl] at u
  unfold readLane lineBits
  rw [u]
  have t : (scrambleFrame lane f).take 18 = (laneBits f).take 18 := by simp [scrambleFrame]
  have d : (scrambleFrame lane f).drop 18 = scramble (scrInit lane f.seq) ((laneBits f).drop 18) := by
    simp [scrambleFrame]
  have e : ((scrambleFrame lane f).drop 10).take 8 = bitsDown f.seq := by
    rw [← seq_of_laneBits, List.take_drop, List.take_drop, t]
  simp only [t, d, e, ofDown_bitsDown, scramble_scramble, List.take_append_drop, laneOf_laneBits]

/-- The line bits of a link frame on its four lanes. -/
def lineOf (f : LinkFrame) : LinkBits := ⟨lineBits 0 f.l0, lineBits 1 f.l1, lineBits 2 f.l2, lineBits 3 f.l3⟩

/-- A link without RXPOL, none of whose lanes has been slipped, hears the link frame that a transmitter sent. -/
theorem heard_linkFrame (s : State) (j : Nat) (seq : BitVec 8) (w : Says)
    (h : ∀ i < 4, (rget s.regs (pg .lnk j + 0x100)).getLsbD (4 + i) = false)
    (hs : ∀ i < 4, (linkOf s.lnk j).slips.getD i 0 = 0) :
    heard s j (lineOf (linkFrame seq w)) = linkFrame seq w := by
  have p (l : List Bool) : polarity false l = l := by simp [polarity]
  simp only [heard, lineOf, h 0 (by decide), h 1 (by decide), h 2 (by decide), h 3 (by decide), hs 0 (by decide),
    hs 1 (by decide), hs 2 (by decide), hs 3 (by decide), slipped, if_pos, p, readLane_lineBits]
  rfl

/-- The CRC field of a lane frame does not enter its own CRC (R234). -/
theorem laneCrc_crc (f : LaneFrame) (c : BitVec 32) : laneCrc { f with crc := c } = laneCrc f := rfl

/-- A lane of a frame of a known type passes its check (R235). -/
theorem laneOk_laneFrame (prev : BitVec 8) (w : Says) (k : Nat) (h : w.type.toNat < 7) :
    laneOk prev (laneFrame (prev + 1) w k) = true := by
  have e : laneCrc (laneFrame (prev + 1) w k) = (laneFrame (prev + 1) w k).crc := laneCrc_crc _ _
  unfold laneOk
  rw [e]
  simp [laneFrame, h]

/-- A frame with SEQ 1 passes on a link that last saw SEQ 0 on its lanes (R235). -/
theorem lanesOk_linkFrame (k : Link) (w : Says) (hk : k.rxSeq = 0) (h : w.type.toNat < 7) :
    lanesOk k (linkFrame 1 w) = [true, true, true, true] := by
  have p (i : Nat) : laneOk 0 (laneFrame 1 w i) = true := laneOk_laneFrame 0 w i h
  simp [lanesOk, lanesOf, linkFrame, hk]
  exact ⟨p 0, p 1, p 2, p 3⟩

/-- Such a frame passes where no trailer in it fails (R235, R238). -/
theorem framePass_linkFrame (s : State) (j : Nat) (w : Says) (hk : (linkOf s.lnk j).rxSeq = 0) (h : w.type.toNat < 7)
    (ht : (isRun (linkFrame 1 w) && trailerBad s j (linkFrame 1 w)) = false) : framePass s j (linkFrame 1 w) = true := by
  unfold framePass
  rw [lanesOk_linkFrame _ w hk h, ht]
  rfl

end Sys2Proof.Machine
end

