-- ==== Sys2Proof/Laws/Sheds.lean ====
section
/-!
SUPPORT. Laws of the sheds' ports B: a port reads back as it was set, and time passes as the clock alone while no port B
has anything to do.
-/

namespace Sys2Proof.Machine

@[simp] theorem portB_setPortB_same (s : State) (k : Nat) (x : ShedPort) : portB (setPortB s k x) k = x :=
  SMap.get_put_same _ _ _ _

theorem portB_setPortB_other (s : State) (k j : Nat) (x : ShedPort) (h : j ≠ k) :
    portB (setPortB s k x) j = portB s j := SMap.get_put_other _ _ _ _ _ _ h

/-- While no port B has anything to do, the passing of time is the clock's alone. -/
theorem pass_quiet (n : Nat) (s : State) (h : portsIdle s = true) : pass n s = advance n s := by
  cases n with
  | zero => rfl
  | succ n => simp [pass, h]

theorem passTo_quiet (g : Nat) (s : State) (h : portsIdle s = true) : passTo g s = advance (g - s.clk.gen) s :=
  pass_quiet _ s h

end Sys2Proof.Machine
end

