-- ==== Sys2Proof/Laws/State.lean ====
section
/-!
SUPPORT. Laws of the units that `State` keeps under an index: a clock instance, an Ethernet port, a groom, a queue
controller, a link and a scrubber read back as they were written, and a write of one leaves the others.
-/

namespace Sys2Proof.Machine

@[simp] theorem instOf_setInst_same (s : State) (i : Fin 4) (x : Inst) : instOf (setInst s i x).ptp i = x := by
  match i with
  | 0 => rfl
  | 1 => rfl
  | 2 => rfl
  | 3 => rfl

theorem instOf_setInst_other (s : State) (i j : Fin 4) (x : Inst) (h : j ≠ i) :
    instOf (setInst s i x).ptp j = instOf s.ptp j := by
  match i, j with
  | 0, 0 | 1, 1 | 2, 2 | 3, 3 => exact absurd rfl h
  | 0, 1 | 0, 2 | 0, 3 | 1, 0 | 1, 2 | 1, 3 | 2, 0 | 2, 1 | 2, 3 | 3, 0 | 3, 1 | 3, 2 => rfl

@[simp] theorem portOf_setPort_same (s : State) (p : Fin 2) (x : Port) : portOf (setPort s p x).ptp p = x := by
  match p with
  | 0 => rfl
  | 1 => rfl

theorem portOf_setPort_other (s : State) (p q : Fin 2) (x : Port) (h : q ≠ p) :
    portOf (setPort s p x).ptp q = portOf s.ptp q := by
  match p, q with
  | 0, 0 | 1, 1 => exact absurd rfl h
  | 0, 1 | 1, 0 => rfl

@[simp] theorem scbOf_setScb_same (s : State) (q : Fin 4) (c : Scb) :
    scbOf { s with integ := setScb s.integ q c } q = c := by
  match q with
  | 0 => rfl
  | 1 => rfl
  | 2 => rfl
  | 3 => rfl

theorem scbOf_setScb_other (s : State) (q r : Fin 4) (c : Scb) (h : r ≠ q) :
    scbOf { s with integ := setScb s.integ q c } r = scbOf s r := by
  match q, r with
  | 0, 0 | 1, 1 | 2, 2 | 3, 3 => exact absurd rfl h
  | 0, 1 | 0, 2 | 0, 3 | 1, 0 | 1, 2 | 1, 3 | 2, 0 | 2, 1 | 2, 3 | 3, 0 | 3, 1 | 3, 2 => rfl


@[simp] theorem groomOf_setGroom_same (s : State) (g : Nat) (x : Groom) : groomOf (setGroom s g x) g = x :=
  SMap.get_put_same _ _ _ _

theorem groomOf_setGroom_other (s : State) (g k : Nat) (x : Groom) (h : k ≠ g) :
    groomOf (setGroom s g x) k = groomOf s k := SMap.get_put_other _ _ _ _ _ _ h

@[simp] theorem queueOf_setQueue_same (s : State) (b : Nat) (q : Queue) : queueOf (setQueue s b q) b = q :=
  SMap.get_put_same _ _ _ _

theorem queueOf_setQueue_other (s : State) (b k : Nat) (q : Queue) (h : k ≠ b) :
    queueOf (setQueue s b q) k = queueOf s k := SMap.get_put_other _ _ _ _ _ _ h

@[simp] theorem linkOf_setLink_same (l : Lnk) (j : Nat) (k : Link) : linkOf (setLink l j k) j = k :=
  SMap.get_set_same _ _ _ _

theorem linkOf_setLink_other (l : Lnk) (i j : Nat) (k : Link) (h : i ≠ j) : linkOf (setLink l j k) i = linkOf l i :=
  SMap.get_set_other _ _ _ _ _ h

end Sys2Proof.Machine
end

