-- ==== Sys2Proof/Tests/Slice0.lean ====
section
/-!
SUPPORT. Tests: an ill-formed command for each check, and for each statement with hypotheses states and operands that
meet them (`test_meets_…`), clause by clause. What a hypothesis asks of SHA-512, Ed25519, a request layout the spec does
not give or the place of a checkpoint's record (log 26, log 30, log 11) no closed state can show, those being constants
without a body.
-/

namespace Sys2Proof.Tests

/- The theorems below are checked one after another: each is a long evaluation by the kernel. -/
set_option Elab.async false

open Sys2Proof.Machine Sys2Proof.Claims

/-! ### States -/

def s0 : State := State.reset
/-- With registers set. -/
def rg (l : List (Nat × Nat)) (s : State) : State :=
  { s with regs := l.foldl (fun m e => rput m e.1 (BitVec.ofNat 32 e.2)) s.regs }
def tk (f : Tck → Tck) (s : State) : State := { s with tck := f s.tck }
def inRun (r : RunState) (s : State) : State := tk (fun t => { t with run := r }) s
/-- With both debug sessions at a level. -/
def lvl (n : Nat) (s : State) : State :=
  { s with dbg := { s.dbg with tap := { s.dbg.tap with level := n }, bar := { s.dbg.bar with level := n } } }
/-- In tick 4 of a run, one barn placed. -/
def s1 : State :=
  let s := tk (fun t => { t with run := .running, inTick := true, depth := 300, declared := 300, tick := 4, count := 4 }) s0
  { s with arr := { s.arr with vmap := [(0, 1)] } }
/-- An instruction word: opcode, operands A to D, FN. -/
def wd (opc a b c d fn : Nat) : W64 :=
  BitVec.ofNat 64 (opc * 2 ^ 60 + a * 2 ^ 48 + b * 2 ^ 36 + c * 2 ^ 24 + d * 2 ^ 12 + fn)
/-- Processor 0 about to execute a word at step 3. -/
def at3 (w : W64) (f : Arr → Arr) : State :=
  { s1 with exe := { s1.exe with ran := [(0, 3)] }, arr := f { s1.arr with imem := [(3, w)], ringCur := [(0, true), (2, true)] } }
/-- Operand fields that read as constants 1 and 0. -/
def one : Nat := 0x701
def zero : Nat := 0x700
/-- A shed descriptor, and a memory-model descriptor. -/
def dShed : W128 := BitVec.ofNat 128 (2 ^ 126 + 2 ^ 124 + 7 * 2 ^ 43 + 5)
def dModel : W128 := BitVec.ofNat 128 (2 * 2 ^ 126 + 3 * 2 ^ 116 + 200 * 2 ^ 106 + 63 * 2 ^ 43 + 5)
def desc (d : W128) (a : Arr) : Arr := { a with desc := [(2, d)] }
def slot (e : Nat) (a : Arr) : Arr := { a with slots := [(6, BitVec.ofNat 16 e)], linkBud := [(1, 20)] }

/-! ### Well-formed commands -/

def pkt : Pkt :=
  { data := 0x1122334455667788, addr := 3, rsv := 0, status := 0, mask := 0x5A, sunit := 0x10, dunit := 0, tick16 := 0
    prio := 0, flowv := false, flow := 0, tag := 5, cls := 1, src := 11, dst := 0, flits := [] }

/-- A well-formed command and an ill-formed one for each check of `Instr.wellFormed`. -/
theorem test_ill_formed_refused :
    Instr.wellFormed (.shdRead pkt) = true ∧ Instr.wellFormed (.shdRead { pkt with flits := [1] }) = false ∧
      Instr.wellFormed (.shdWrite { pkt with src := 48 }) = false ∧ Instr.wellFormed (.shdAdd { pkt with flits := [1] }) = false ∧
      Instr.wellFormed (.shdSwap { pkt with flits := [1] }) = false ∧ Instr.wellFormed (.memRead { pkt with flits := [1] } 0) = false ∧
      Instr.wellFormed (.memWrite pkt) = false ∧ Instr.wellFormed (.workSubmit { pkt with flits := [1, 2] }) = false ∧
      Instr.wellFormed (.workDone { pkt with flits := [1] }) = false ∧
      Instr.wellFormed (.trace { pkt with flits := List.replicate 9 1 }) = false ∧
      Instr.wellFormed (.msg { pkt with flits := List.replicate 9 1 }) = false ∧
      Instr.wellFormed (.deposit pkt) = false ∧
      Instr.wellFormed (.bridgePacket opMsg { pkt with flits := List.replicate 9 1 }) = false ∧
      Instr.wellFormed (.tempPoll []) = false ∧ Instr.wellFormed (.tempSample []) = false ∧
      Instr.wellFormed (.prbsCheck 0 0 (List.replicate 1057 true)) = false ∧ Instr.wellFormed (.prbsCheck 0 0 [true]) = true ∧
      Instr.wellFormed (.pcieLinkUp 0 0) = false ∧ Instr.wellFormed (.dmaDescriptor 0 [] []) = false := by decide +kernel

/-- An ill-formed command stands for no event. -/
theorem test_ill_formed_is_no_event : exec (.tempPoll []) s0 = .next s0 := rfl

/-! ### Boolean processors: their statements' hypotheses -/

def sLutd : State := at3 (wd 1 0 1 2 one 7) (fun a => { a with dict := [(7, 0xA5A5)] })
def sLutl1 : State := at3 (wd 2 one zero one zero 0) id
def sLutl2 : State :=
  let s := at3 (wd 2 0xFFF 0 0 0 0x8421) id
  { s with exe := { s.exe with lit := [(0, ⟨2, 9, 0⟩)] } }
def sStw (b : Nat) (l : SMap NextBit) : State := at3 (wd 4 one b 0 0 9) fun a => { a with stNext := l }
def sMrd (d : W128) : State := at3 (wd 5 one 0 0 0 2) (desc d)
def sMwr (a : Nat) (d : W128) : State := at3 (wd 6 a 0 0 0 2) (desc d)
def flight : Flight :=
  { barn := 0, port := 0, issue := 0, land := 3, en := true, proc := 0, model := false, modelNo := 0, addr := 0, dwm1 := 7
    word := 0x1FF, arrived := true, bad := false, late := false }
def sLand : State := { s1 with exe := { s1.exe with flights := [flight] } }
def sProbe (l : SMap ProbeW) : State :=
  let s := at3 (wd 0xA one 0 0 0 6) id
  { s with pen := { s.pen with cur := { s.pen.cur with probes := l } } }

theorem test_meets_idle_lutd : Executes (at3 0 id) 0 3 .idle ∧ Executes sLutd 0 3 .lutd := by decide +kernel
theorem test_meets_lutd_truth_table :
    Executes sLutd 0 3 .lutd ∧ isFour sLutd (barnOf (0 : Gp)) = false ∧
      ring ((match exec (.lutd 0 3) sLutd with | .next t => t | _ => sLutd)) 0 3 = true := by decide +kernel
theorem test_meets_lutl : Executes sLutl1 0 3 .lutl ∧ isSecond (imemWord sLutl1 0 3) = false ∧
    Executes sLutl2 0 3 .lutl ∧ isSecond (imemWord sLutl2 0 3) = true ∧ sLutl2.exe.lit.find? 0 = some ⟨2, 9, 0⟩ := by decide +kernel
theorem test_meets_stw : Executes (sStw one []) 0 3 .stw ∧ isFour (sStw one []) (barnOf (0 : Gp)) = false ∧
    (operand (sStw one []) 0 3 1).val.v = true ∧ (sStw one []).arr.stNext.find? 9 = none ∧
    (operand (sStw one [(9, ⟨false, 1⟩)]) 0 3 1).val.v = true ∧
    (sStw one [(9, ⟨false, 1⟩)]).arr.stNext.find? 9 = some ⟨false, 1⟩ ∧
    Executes (sStw zero []) 0 3 .stw ∧ (operand (sStw zero []) 0 3 1).val.v = false := by decide +kernel
theorem test_meets_mrd : Executes (sMrd dShed) 0 3 .mrd ∧ (descOf (sMrd dShed) 0 3).bad = false ∧
    3 + descLat (sMrd dShed) (descOf (sMrd dShed) 0 3) < (sMrd dShed).tck.depth ∧ (descOf (sMrd dShed) 0 3).kind = 1 ∧
    (sMrd dShed).exe.banks = [] ∧ (sMrd dShed).exe.aWrites = [] ∧ landingOk sLand 0 0 3 = true ∧ landing sLand 0 0 3 = [flight] := by decide +kernel
theorem test_meets_mwr : Executes (sMwr one dShed) 0 3 .mwr ∧ (descOf (sMwr one dShed) 0 3).bad = false ∧
    (operand (sMwr one dShed) 0 3 0).val.isOne = true ∧ (descOf (sMwr one dShed) 0 3).kind = 1 ∧
    bankConflict (sMwr one dShed) 0 3 (descOf (sMwr one dShed) 0 3).shed (wordAddr (sMwr one dShed) 0 3 2
      (descOf (sMwr one dShed) 0 3)).1 = false ∧
    Executes (sMwr one dModel) 0 3 .mwr ∧ (descOf (sMwr one dModel) 0 3).bad = false ∧
    (descOf (sMwr one dModel) 0 3).kind = 2 ∧
    Executes (sMwr zero dShed) 0 3 .mwr ∧ (operand (sMwr zero dShed) 0 3 0).val.isOne = false := by decide +kernel
theorem test_meets_xmt_lnk :
    let x := at3 (wd 7 one 0 0 0 5) id
    let l2 := at3 (wd 8 one 0 0 0 6) (slot 0x8005)
    let l1 := at3 (wd 8 one 0 0 0 6) (slot 0x4085)
    Executes x 0 3 .xmt ∧ isFour x (barnOf (0 : Gp)) = false ∧ x.exe.tracks.find? (3 * 64 + 5) = none ∧
      Executes l2 0 3 .lnk ∧ isFour l2 (barnOf (0 : Gp)) = false ∧
      fld (slotEntry l2 0 (fnOf (imemWord l2 0 3))) 14 2 = 2 ∧ l2.pen.cur.gw.find? 5 = none ∧
      Executes l1 0 3 .lnk ∧ fld (slotEntry l1 0 (fnOf (imemWord l1 0 3))) 14 2 = 1 ∧
      3 + l1.arr.linkBud.get 0 1 ≤ l1.tck.depth + 16 := by decide +kernel
theorem test_meets_call_check_probe :
    Executes (at3 (wd 9 one 0 0 0 6) id) 0 3 .call ∧ Executes (at3 (wd 0xF zero 0 0 0 6) id) 0 3 .check ∧
      Executes (sProbe []) 0 3 .probe ∧ isFour (sProbe []) (barnOf (0 : Gp)) = false ∧ (sProbe []).pen.cur.probes.find? 6 = none ∧
      Executes (sProbe [(6, ⟨true, 3, 0⟩)]) 0 3 .probe ∧
      (sProbe [(6, ⟨true, 3, 0⟩)]).pen.cur.probes.find? 6 = some ⟨true, 3, 0⟩ := by decide +kernel

/-! ### Holds, the commit window and run control: their statements' hypotheses -/

def fl (l : List Flight) (s : State) : State := { s with exe := { s.exe with flights := l } }
def modelRead (arrived late : Bool) (land : Nat) : Flight :=
  { flight with
    issue := 3, land := land, model := true, addr := 64, dwm1 := 63, word := 0, arrived := arrived, late := late
    hold := if late then land else 0 }
/-- In tick 4 with a control-tree latency of 10 steps. -/
def sHold (l : List Flight) : State := fl l (tk (fun t => { t with ctree := 10 }) s1)
def asks (l : List HoldReq) (s : State) : State := tk (fun t => { t with holds := l }) s
def frozen (f : Freeze) (s : State) : State := tk (fun t => { t with freeze := some f }) s
def dramOn (s : State) : State := rg [(0xA100, 1), (pg .dmcCh 0 + 0x104, 0x40000000)] s
def sArrive : State := dramOn (asks [⟨.read, 100, 4⟩] (frozen ⟨.read, 100, 0, 0⟩ (sHold [modelRead false true 100])))
/-- With channels 0 to 3 READY, a DIMM of one rank in each, and the controller enabled. -/
def dimms (s : State) : State :=
  rg [(0xA100, 1), (0xC104, 0x40000080), (0xD104, 0x40000080), (0xE104, 0x40000080), (0xF104, 0x40000080)]
    { s with dmc := { s.dmc with
        dimm := [(0, (true, false, 1, false)), (1, (true, false, 1, false)), (2, (true, false, 1, false)), (3, (true, false, 1, false))]
        trained := 0xF } }
def sResume : State := asks [⟨.read, 100, 4⟩] (frozen ⟨.read, 100, 0, 0⟩ (sHold [modelRead true true 100]))
def sRestart : State :=
  frozen ⟨.restart, 0, 0, 0⟩ (tk (fun t => { t with undoDone := true, inTick := false, redo := true }) (sHold []))
def sStop : State := tk (fun t => { t with multi := true, stopAt := some 5 }) s1
def sRepair (s : State) : State :=
  { s with
    integ := { s.integ with gImem := [(5, 77)], repairs := [⟨0, 0, 5, false⟩], repairsB := [⟨0, 0, 5, false⟩] }
    arr := { s.arr with imem := [(5, 76)], imemSyn := [(5, 1)] } }
def scrub (f : Scb → Scb) : State :=
  { inRun .halted s0 with integ := { s0.integ with scb0 := f s0.integ.scb0 } }
/-- A tick of 8 steps whose schedule has been executed: no processor has a word. -/
def sEnd : State :=
  { s0 with
    tck := { s0.tck with run := .running, inTick := true, depth := 8, declared := 8, tick := 4, count := 4, sampled := true }
    arr := s1.arr }
def sBound (f : Tck → Tck) : State := tk (fun t => f { t with inTick := false }) sEnd
def sWait : State :=
  { tk (fun t => { t with run := .waiting, depth := 8, declared := 8 }) s0 with ldr := { s0.ldr with doneIn := true } }

theorem test_meets_hold_decision :
    decisionOk (sHold [modelRead true false 250]) 0 0 3 = true ∧
      flightOf (sHold [modelRead true false 250]) 0 0 3 = some (modelRead true false 250) ∧
      decisionOk (sHold [modelRead false false 250]) 0 0 3 = true ∧
      flightOf (sHold [modelRead false false 250]) 0 0 3 = some (modelRead false false 250) := by decide +kernel
theorem test_meets_hold_freeze : freezeOk (asks [⟨.read, 100, 4⟩] (sHold [])) = true ∧
    nextHold (asks [⟨.read, 100, 4⟩] (sHold [])) = some ⟨.read, 100, 4⟩ := by decide +kernel
theorem test_meets_arrival : arrivalOk sArrive 0 0 3 = true ∧ flightOf sArrive 0 0 3 = some (modelRead false true 100) := by decide +kernel
theorem test_meets_hold_resume : resumeOk sResume = true ∧ sResume.tck.freeze = some ⟨.read, 100, 0, 0⟩ ∧
    sResume.tck.treeResume = none ∧ sResume.lnk.childArr = [] ∧ sResume.pwr.relock = false ∧
    sResume.clk.gen ≤ Nat.max (causeArr sResume 100 + sResume.tck.ctree + 2) 2 := by decide +kernel
/-- The root of a system, with a child on link 0. -/
def asRoot (s : State) : State := rg [(0xB100, 1)] (tk (fun t => { t with multi := true, root := true, down := 7 }) s)
theorem test_meets_aborted_ticks : timeoutOk sArrive = true ∧ sArrive.tck.freeze = some ⟨.read, 100, 0, 0⟩ ∧
    timeoutRec sArrive ⟨.read, 100, 0, 0⟩ = some (recAt fStretch 0 100 0 4) ∧ sArrive.tck.multi = false ∧
    timeoutOk (asRoot sArrive) = true ∧ timeoutRec (asRoot sArrive) ⟨.read, 100, 0, 0⟩ = some (recAt fStretch 0 100 0 4) ∧
    0 ∈ kidList (asRoot sArrive).regs ∧ sStop.tck.stopAt.isSome = true ∧ sStop.tck.run ≠ .empty ∧ sStop.tck.multi = true ∧
    sStop.tck.localVote ≠ .stop ∧ restartOk sRestart = true ∧ sRestart.tck.redo = true ∧ portsIdle sRestart = true ∧
    restartOk (asRoot sRestart) = true ∧ (asRoot sRestart).tck.treeResume = none := by decide +kernel
/-- Every channel of four alike DIMMs is READY. -/
theorem dimms_ready (a : Nat) : chanState (dimms s0).regs (channelOf (dimms s0).regs a) = 1 := by
  have c : ∀ k < 4, chanState (dimms s0).regs k = 1 := by decide +kernel
  apply c
  unfold channelOf
  generalize hashBit _ 0 a = x
  generalize hashBit _ 1 a = y
  cases x <;> cases y <;> decide
/-- Every burst below 128 GiB passes in DRAM with four alike DIMMs of 32 GiB. -/
theorem dimms_pass (a : Nat) (h : a < 2 ^ 37) : burstStatus (dimms s0) a = 0 := by
  have on : dmcOn (dimms s0) = true := by decide +kernel
  have z : dramSize (dimms s0).dmc = 2 ^ 37 := by decide +kernel
  have n : ¬dramSize (dimms s0).dmc ≤ a := by rw [z]; exact Nat.not_le.mpr h
  simp [burstStatus, portStatus, on, n, dimms_ready, show (dimms s0).dmc.crcErr = [] from rfl, SMap.get, SMap.find?]
/-- A golden read passes wherever the golden image has its word, and fails where its operand says so (log 111). -/
theorem test_meets_golden_repair :
    let s := sRepair (dimms s0)
    nextRepair s = some ⟨0, 0, 5, false⟩ ∧ repairOk s = true ∧ goldenOk s true (goldenAddr s 0 0 5) = true ∧
      goldenOk s false (goldenAddr s 0 0 5) = false ∧ delivering s = false ∧ ∀ q < 4, copiesDiffer s q = false := by
  have n : nextRepair (sRepair (dimms s0)) = some ⟨0, 0, 5, false⟩ := by decide +kernel
  have b : goldenAddr (sRepair (dimms s0)) 0 0 5 < 2 ^ 37 := by
    have g : goldenBase (scbCfg (scbOf (sRepair (dimms s0)) 0)) = 0 := by decide +kernel
    have m : Config.goldenPlace 0 5 % (13 * 2 ^ 20) < 13 * 2 ^ 20 := Nat.mod_lt _ (by decide)
    simp only [goldenAddr, goldenAt, g, if_true]
    omega
  have p : burstStatus (sRepair (dimms s0)) (goldenAddr (sRepair (dimms s0)) 0 0 5) = 0 := dimms_pass _ b
  have f (a : Nat) : memBusy (sRepair (dimms s0)) a = false := by
    have st : dmcStarts (sRepair (dimms s0)) = true := by decide +kernel
    have c : chanState (sRepair (dimms s0)).regs (channelOf (sRepair (dimms s0)).regs a) = 1 := dimms_ready a
    simp [memBusy, st, c]
  exact ⟨n, by simp [repairOk, n, f], by simp [goldenOk, p], rfl, by decide +kernel, by decide +kernel⟩
theorem test_meets_scrub : runIn (scrub id) [.loaded, .waiting, .halted, .faulted, .draining] = true ∧
    (scbOf (scrub id) 0).c0 = (scbOf (scrub id) 0).c1 ∧ (scbOf (scrub id) 0).c1 = (scbOf (scrub id) 0).c2 ∧
    (scbOf (scrub id) 0).a.lines = [] ∧ (scbOf (scrub id) 0).a.reread = false ∧ (scbOf (scrub id) 0).c0.enable = true ∧
    (scbOf (scrub id) 0).stopped = false ∧ (scbOf (scrub id) 0).a = (scbOf (scrub id) 0).b ∧
    (let s := scrub fun c => { c with a := { row := 3071 }, b := { row := 3071 } }
     (scbOf s 0).a = (scbOf s 0).b ∧ (scbOf s 0).a.row = 3071 ∧ (scbOf s 0).a.lines = []) ∧
    (scbOf (scrub fun c => { c with stopped := true }) 0).stopped = true ∧ copiesDiffer (scrub id) 0 = false ∧
    copiesDiffer (scrub fun c => { c with b := { row := 1 } }) 0 = true := by decide +kernel
theorem test_meets_commit_window : scheduleDone sEnd = true ∧ sEnd.tck.specPend = false ∧ outOverrun sEnd 0 = 0 ∧
    inOverrun sEnd = 0 ∧ votedDets sEnd = [] ∧ sEnd.exe.faults = [] ∧ sEnd.dbg.force = [] ∧
    scheduleDone { sEnd with exe := { s0.exe with dets := [recPlain 0x21 0 4] } } = true ∧
    votedDets { sEnd with exe := { s0.exe with dets := [recPlain 0x21 0 4] } } ≠ [] := by decide +kernel
theorem test_meets_tick_boundary : atBoundary (sBound id) = true ∧ stopsHere (sBound id) = false ∧
    atBoundary (sBound fun t => { t with haltReq := true }) = true ∧
    stopsHere (sBound fun t => { t with haltReq := true }) = true ∧
    stopsHere (sBound fun t => { t with runLeft := some 0 }) = true ∧
    stopsHere (sBound fun t => { t with runLeft := some 1 }) = false := by decide +kernel
theorem test_meets_tick_start : mayStart sWait = true ∧ sWait.tck.redo = false ∧
    (let s := tk (fun t => { t with multi := true, root := true, down := 5 }) sWait
     mayStart s = true ∧ s.tck.goAt = none ∧ TreeCmd.go ∉ s.lnk.rootCmds ∧ kidList s.regs = [] ∧
       mayStart (rg [(0xB100, 4)] s) = true ∧ kidList (rg [(0xB100, 4)] s).regs ≠ []) := by decide +kernel
theorem test_meets_run_control : Writable .host 0x3108 (inRun .loaded s0) ∧ barred (inRun .loaded s0) = false ∧
    Writable (.debug .tap) 0x3108 (inRun .halted (lvl 3 s0)) ∧ barred (inRun .halted (lvl 3 s0)) = false ∧
    tainted (inRun .halted (lvl 3 s0)) = false ∧ Writable (.groom 0) 0x3108 (inRun .waiting s0) ∧
    Writable .host 0x3108 (inRun .running s0) ∧ Writable .host 0x3108 (inRun .faulted s0) := by decide +kernel

/-! ### Serial links: their statements' hypotheses -/

/-- Links 0, 2 and 3 in FRAME mode. -/
def frameMode (s : State) : State := rg [(0x50100, 1), (0x52100, 1), (0x53100, 1)] s
def withLink (j : Nat) (f : Link → Link) (s : State) : State := { s with lnk := setLink s.lnk j (f (linkOf s.lnk j)) }
def sLink : State := inRun .loaded (frameMode s0)
/-- Step 200 of tick 4, links 0 and 2 carrying virtual links. -/
def sLinkRun : State :=
  rg [(0x50124, 0x80000003), (0x52124, 0x80000003)] (frameMode (tk (fun t => { t with step := 200 })
    { s1 with clk := { s1.clk with gen := 250 } }))
def sResend : State :=
  tk (fun t => { t with freeze := some ⟨.restart, 0, 0, 0⟩, depth := 1, declared := 1, step := 0, inTick := false, redo := true })
    sLinkRun
def sLate : State := withLink 0 (fun k => { k with gotTick := 4, got := 100, trTick := 9 }) sLinkRun
/-- A LINKTAB entry: VALID, PEER_CHIP, PEER_LINK, BUDGET 200. -/
def entryTo (chip link : Nat) : BitVec 32 := BitVec.ofNat 32 (2 ^ 31 + chip * 2 ^ 23 + link * 2 ^ 18 + 200)
/-- Another chip, CHIP 1, whose virtual link 0 names this one's; and the cable between links 0 and 2. -/
def other (link : Nat) : SysChip := { chip := 1, depth := 100, linktab := [entryTo 0 link], lmap := none }
def bring (link : Nat) : BringUp :=
  { chips := [other link], cables := [{ a := 0, la := 0, b := 1, lb := 2, locked := true, dab := 70, dba := 64 }] }
/-- The header of an image of chip 0 whose virtual link 0 leads to virtual link 0 of chip 1. -/
def image : Image :=
  { digest := 0, header := List.replicate 0xA0 0 ++ wordBytes (entryTo 1 0) 4 ++ List.replicate 0x35C 0, calls := 0, mwrs := 0 }
def sBring : State :=
  { tk (fun t => { t with run := .loaded, multi := true, declared := 100, budget := 500 }) s0 with
    ldr := { s0.ldr with image := some image } }

/-- The line bits of a frame of a type, as a peer with SEQ 1 sends it. -/
def told (ty : Nat) (sl : List (BitVec 80)) : Says := ⟨BitVec.ofNat 4 ty, false, 0, 5, sl⟩
def sent (ty : Nat) (sl : List (BitVec 80)) : LinkBits := lineOf (linkFrame 1 (told ty sl))
/-- The link of a state has no RXPOL and no slips, and last saw SEQ 0. -/
abbrev Fresh (s : State) (j : Nat) : Prop :=
  (∀ i < 4, (rget s.regs (pg .lnk j + 0x100)).getLsbD (4 + i) = false) ∧ (linkOf s.lnk j).rxSeq = 0 ∧
    ∀ i < 4, (linkOf s.lnk j).slips.getD i 0 = 0
/-- A link without RXPOL hears the frame that its peer sent. -/
theorem sent_heard (s : State) (j ty : Nat) (sl : List (BitVec 80)) (h : Fresh s j) :
    heard s j (sent ty sl) = linkFrame 1 (told ty sl) := heard_linkFrame s j 1 _ h.1 h.2.2
/-- Such a frame of a known type passes where no trailer in it fails. -/
theorem sent_passes (s : State) (j ty : Nat) (sl : List (BitVec 80)) (h : Fresh s j) (k : (BitVec.ofNat 4 ty).toNat < 7)
    (b : (isRun (linkFrame 1 (told ty sl)) && trailerBad s j (linkFrame 1 (told ty sl))) = false) :
    framePass s j (heard s j (sent ty sl)) = true := by
  rw [sent_heard s j ty sl h]
  exact framePass_linkFrame s j _ h.2.1 k b
/-- Link 0 leads to a child of the root, and HALT waits there. -/
def sRoot : State :=
  let s := frameMode (asRoot (inRun .running s0))
  { s with lnk := { s.lnk with rootCmds := [.halt] } }
/-- Link 0 leads to the parent, which holds for the read whose data arrived in period 0. -/
def sOwes : State :=
  let s := withLink 0 (fun k => { k with lvl := true }) (rg [(0xB100, 0x80000000)]
    (frameMode (tk (fun t => { t with multi := true }) (fl [modelRead true true 100] s1))))
  { s with lnk := { s.lnk with asked := [⟨9, ⟨.read, 100, 4⟩⟩] } }

theorem test_meets_frame_tx : domOn sLink.pwr (linkDom 0) = true ∧ linkMode sLink.regs 0 = 1 ∧
    owedRelease (atCutoff sLink 0) 0 = none ∧
    cutReached sLink 0 = true ∧ (linkOf sLink.lnk 0).grid = 0 ∧ sLink.tck.root = false ∧ sLink.tck.cmds = [] ∧
    linkMode sOwes.regs 0 = 1 ∧ cutReached sOwes 0 = true ∧ busyRun sOwes = true ∧
    owedRelease (atCutoff sOwes 0) 0 = some (0, (4, 100)) ∧
    domOn sRoot.pwr (linkDom 0) = true ∧ linkMode sRoot.regs 0 = 1 ∧ owedRelease (atCutoff sRoot 0) 0 = none ∧
    sRoot.tck.root = true ∧ cutReached sRoot 0 = true ∧ heldAt sRoot = none ∧ cmdAt (atCutoff sRoot 0) 0 = some .halt ∧
    busyRun sRoot = true ∧ (let s := rg [(0x50100, 2), (0x50130, 0x30000000)] s0
      linkMode s.regs 0 = 2 ∧ (rget s.regs (pg .lnk 0 + 0x130)).getLsbD 28 = true) := by decide +kernel
theorem test_meets_frames_received : rxReady sLink 0 = true ∧ imageRuns sLink = false ∧ restarting sLink = false ∧
    (treeKids sLink.regs).getLsbD 0 = false ∧ treeParent sLink.regs ≠ some 0 ∧
    (heard sLink 0 (sent 1 [3])).l0.type = 1 ∧ (heard sLink 0 (sent 2 [])).l0.type = 2 ∧
    (heard sLink 0 (sent 3 [8])).l0.type = 3 ∧ (heard sLink 0 (sent 4 [9])).l0.type = 4 ∧
    (heard sLink 0 (sent 5 [0])).l0.type = 5 ∧ (heard sLink 0 (sent 6 [7])).l0.type = 6 ∧
    (heard sLink 0 (sent 0 [])).l0.type = 0 ∧ 7 ≤ (heard sLink 0 (sent 9 [])).l0.type.toNat := by
  have h : Fresh sLink 0 := by decide +kernel
  simp only [sent_heard _ _ _ _ h]
  decide +kernel
theorem test_meets_peer_mark : Fresh sLink 0 ∧ framePass sLink 0 (heard sLink 0 (sent 6 [7])) = true ∧
    framePass sLink 0 (heard sLink 0 (sent 4 [9])) = true ∧ (linkOf sLink.lnk 0).markN = 0 :=
  ⟨by decide +kernel, sent_passes _ _ _ _ (by decide +kernel) (by decide) (by decide +kernel),
    sent_passes _ _ _ _ (by decide +kernel) (by decide) (by decide +kernel), by decide +kernel⟩
/-- Link 0 to the parent, in a run and outside one. -/
def sChildRun : State := rg [(0xB100, 0x80000000)] (withLink 0 (fun k => { k with gotTick := 4, trTick := 9 }) (frameMode s1))
def sChild : State := rg [(0xB100, 0x80000000)] sLink
theorem test_meets_parent_halt : rxReady sChildRun 0 = true ∧ (treeKids sChildRun.regs).getLsbD 0 = false ∧
    treeParent sChildRun.regs = some 0 ∧ framePass sChildRun 0 (heard sChildRun 0 (sent 2 [0])) = true ∧
    (heard sChildRun 0 (sent 2 [0])).l0.type = 2 ∧ (heard sChildRun 0 (sent 2 [0])).l0.vote = 0 ∧
    sChildRun.tck.run = .running :=
  ⟨by decide +kernel, by decide +kernel, by decide +kernel,
    sent_passes _ _ _ _ (by decide +kernel) (by decide) (by decide +kernel),
    by rw [sent_heard _ _ _ _ (by decide +kernel)]; rfl, by rw [sent_heard _ _ _ _ (by decide +kernel)]; rfl, rfl⟩
theorem test_meets_parent_command : rxReady sChild 0 = true ∧ treeParent sChild.regs = some 0 ∧
    (treeKids sChild.regs).getLsbD 0 = false ∧ framePass sChild 0 (heard sChild 0 (sent 3 [8])) = true ∧
    busyRun sChild = false ∧ sChild.tck.cmds = [] ∧ (heard sChild 0 (sent 3 [8])).l0.vote = 0 ∧
    cmdOf (heard sChild 0 (sent 3 [8])).l0.payload = some .breakArm :=
  ⟨by decide +kernel, by decide +kernel, by decide +kernel,
    sent_passes _ _ _ _ (by decide +kernel) (by decide) (by decide +kernel), by decide +kernel, rfl,
    by rw [sent_heard _ _ _ _ (by decide +kernel)]; rfl, by rw [sent_heard _ _ _ _ (by decide +kernel)]; decide +kernel⟩
theorem test_meets_groups : rxReady sLate 0 = true ∧ linkActive sLate.regs 0 = true ∧ sLate.tck.run = .running ∧
    (treeKids sLate.regs).getLsbD 0 = false ∧ treeParent sLate.regs ≠ some 0 ∧ restarting sLate = false ∧
    framePass sLate 0 (heard sLate 0 (sent 1 [3])) = true ∧ (heard sLate 0 (sent 1 [3])).l0.type = 1 :=
  ⟨by decide +kernel, by decide +kernel, rfl, by decide +kernel, by decide +kernel, by decide +kernel,
    sent_passes _ _ _ _ (by decide +kernel) (by decide) (by decide +kernel),
    by rw [sent_heard _ _ _ _ (by decide +kernel)]; rfl⟩
theorem test_meets_resend : rxReady sResend 0 = true ∧ linkActive sResend.regs 0 = true ∧ sResend.tck.run = .running ∧
    framePass sResend 0 (heard sResend 0 (sent 5 [0, 0xABCDEF, 1])) = true ∧ restarting sResend = true ∧
    sResend.tck.depth = 1 ∧ (heard sResend 0 (sent 5 [0, 0xABCDEF, 1])).l0.type = 5 :=
  ⟨by decide +kernel, by decide +kernel, rfl, sent_passes _ _ _ _ (by decide +kernel) (by decide) (by decide +kernel),
    by decide +kernel, rfl, by rw [sent_heard _ _ _ _ (by decide +kernel)]; rfl⟩
theorem test_meets_link_events : lateOk sLate 0 100 = true ∧ treeParent sLate.regs ≠ some 0 ∧
    (rget (rg [(0x50104, 0x10000000)] s0).regs (lnkStat 0)).getLsbD 28 = true ∧
    linkMode (rg [(0x50100, 2), (0x50130, 0x08000010)] s0).regs 0 = 2 ∧
    (rget (rg [(0x50100, 2), (0x50130, 0x08000010)] s0).regs (prbsCtl 0)).getLsbD 27 = true ∧
    (rget (rg [(0x50100, 2), (0x50130, 0x08000010)] s0).regs (prbsCtl 0)).getLsbD 4 = true ∧
    (rget (rg [(0x50100, 2), (0x50130, 0x08000010)] s0).regs (prbsCtl 0)).getLsbD 5 = false := by decide +kernel
/-- A PRBS checker out of lock, and one in lock. -/
theorem test_meets_prbs :
    let s := rg [(0x50100, 2), (0x50130, 0x28000010)] s0
    let l := withLink 0 (fun k => { k with prbs := [64, 0, 0, 0] }) s
    let due := (prbsBits (rfld s.regs (prbsCtl 0) 29 3) 64 ((linkOf s.lnk 0).prbsRx.getD 0 0)).1
    domOn s.pwr (linkDom 0) = true ∧ (linkOf s.lnk 0).prbs = [0, 0, 0, 0] ∧ due.length = 64 ∧
      ((polarity ((rget s.regs (pg .lnk 0 + 0x100)).getLsbD 4) due).zip due).filter (fun e => e.1 != e.2) = [] ∧
      linkMode l.regs 0 = 2 ∧ (rget l.regs (prbsCtl 0)).getLsbD 27 = true ∧ (linkOf l.lnk 0).prbs.length = 4 ∧
      64 ≤ (linkOf l.lnk 0).prbs.getD 0 0 := by decide +kernel
theorem test_meets_link_writes : Writable .host (pg .lnk 23 + 0x108) s0 ∧ Writable .host (pg .lnk 0 + 0x114) s0 ∧
    Writable .host (pg .lnk 0 + 0x118) s0 ∧ Writable .host 0xB104 s0 ∧ runIn s0 [.empty, .loaded] = true ∧
    Writable .host (prbsCtl 0) s0 ∧ Writable .host (pg .lnk 0 + 0x100) (rg [(0x50104, 0x80000000)] sLink) ∧
    fld (5 : W32) 0 2 = linkMode (rg [(0x50104, 0x80000000)] sLink).regs 0 ∧
    recalOk (rg [(0x50104, 0x80000000)] sLink) 0 = true := by decide +kernel
/-- The peer's entry returns this chip's: the tree, the alignment and the checks of step 8 hold; it names another link:
the confirmation fails for virtual link 0. -/
theorem test_meets_bring_up :
    let y := sysOf image (bring 0) sBring
    let u := bringLinks y sBring
    let tr := y.tree u.regs
    let w := (y.place 0).foldl (tuneLink y tr) (bringTree y tr u)
    sBring.ldr.image = some image ∧ sBring.ldr.doneOut = false ∧ y.peerFails u.regs = none ∧ bringFails w y tr = none ∧
      (let z := sysOf image (bring 1) sBring
       z.peerFails (bringLinks z sBring).regs = some 0) := by decide +kernel

/-! ### Rails, sheds and DRAM: their statements' hypotheses -/

/-- Groom 0 owns the banks of shed 0 of barn 0. -/
def owned (s : State) : State := rg [(pg .shd 0 + 0x108, 0x10101010), (pg .shd 0 + 0x10C, 0x10101010)] s
def bank7 : Pkt := { pkt with addr := 7 * 4096 + 2 }
/-- Port A writes word 2 of bank 7 in this step. -/
def sPortA : State := { owned s0 with exe := { s0.exe with aWrites := [⟨7 * 4096 + 2, 0, 5, 0⟩] } }
/-- DRAM with a trace ring and two model writes queued for the burst at 64. -/
def dram (s : State) : State :=
  let t := rg [(0x8120, 0x10000)] (dimms s)
  { t with dmc := { t.dmc with wq := [⟨1, 2, 0, 64, 5, false, 1⟩, ⟨1, 3, 0, 72, 6, false, 2⟩], seq := 3 } }
def burst (l : List (BitVec 256)) : Pkt := { pkt with dunit := 4, dst := 19, addr := 64, flits := l }
def toYard (l : List (BitVec 256)) : Pkt := { pkt with dunit := 5, dst := 20, flits := l }
def work (deps : Nat) : BitVec 256 := BitVec.ofNat 256 (0x400 * 2 ^ 192 + 9 * 2 ^ 128 + 2 ^ 62 + deps * 2 ^ 46 + 1)
def depositFlit : BitVec 256 := BitVec.ofNat 256 (0x77 * 2 ^ 192 + 5 * 2 ^ 160 + 2 * 2 ^ 152)
def item : Item :=
  { entry := 0x400, arg := 1, succ := 7, succv := true, flow := 0, flowv := false, prio := 2, fallback := false, id := none
    seq := none, call := none }
def sRunning : State := { s0 with yms := { s0.yms with running := [(0, [item])], dep := [(7, ⟨item, 2⟩)] } }
def resp : Pkt := { pkt with dst := 4, dunit := 0xF1, sunit := 0, tag := 1, flits := [3, 5] }
def failed : Pkt := { pkt with dst := 11, dunit := 0x10, status := 3 }
def flying (l : List (Byte × Pkt)) : State := { s0 with rls := { s0.rls with fly := l } }
def bridge (s : State) : State :=
  rg [(0x6100, 0x110)] { s with ldr := { s.ldr with doneIn := true }, pdk := { s.pdk with held := 0, frames := [(frameKey 4 0 2, [5])] } }
/-- The paddock owns bank 0 of shed 0 of barn 0. -/
def paddockOwns (s : State) : State := rg [(pg .shd 0 + 0x108, 0x03030303)] s
def filling (n l : Nat) : State := { s0 with shed := { s0.shed with fills := [(0, ⟨0, 2, n, l, 0x1234, 1⟩)] } }
def patrolling (syn : SMap (BitVec 8)) : State :=
  rg [(pg .shd 0 + 0x138, 0x80000000)] { s0 with shed := { s0.shed with syn := syn } }
/-- Credits of a queue are held. -/
def credited (key n : Nat) (s : State) : State := { s with rls := { s.rls with held := [(key, n)] } }

theorem test_meets_shed_requests : Goes opShdRead pkt 0 (owned s0) ∧ FindsShed pkt (owned s0) ∧ MayUse pkt (owned s0) ∧
    (preCycle (owned s0) 0 (adKey pkt.addr)).2 = 0 ∧ aWritesNow (owned s0) (adKey pkt.addr) = false ∧
    (owned s0).exe.aUse.contains (adKey pkt.addr / 4096, (owned s0).clk.gen + 1) = false ∧ (owned s0).exe.aWrites = [] := by
  decide +kernel
theorem test_meets_shed_refusals : Goes opShdRead bank7 0 sPortA ∧ FindsShed bank7 sPortA ∧ MayUse bank7 sPortA ∧
    aWritesNow sPortA (adKey bank7.addr) = true ∧
    (preCycle sPortA 0 (adKey bank7.addr)).2 = 0 ∧ sPortA.exe.aUse = [] ∧
    Goes opShdRead pkt 0 s0 ∧ FindsShed pkt s0 ∧ ¬ MayUse pkt s0 := by decide +kernel
theorem test_meets_dram_requests :
    Goes opMemWrite (burst []) 0 (dram s0) ∧ domOn (dram s0).pwr (chanDomain (dram s0) (burst [])) = true ∧
      respRoom (dram s0).rls opMemRead (burst []) = true ∧
      portStatus (dram s0) false (fromLoader (burst [])) (burstAddr (burst [])) = 0 ∧
      (dram s0).dmc.crcErr.get 0 (burstAddr (burst []) / 64) = 0 ∧
      mustWait (dram s0) (reqNow (dram s0) (dramPort (burst [])) (.pkt opMemRead (burst []))) = false ∧
      (let s := rg [(0xA108, 0x40000000)] (dram s0)
       portStatus s false (fromLoader (burst [])) (burstAddr (burst [])) = 0 ∧
         mustWait s (reqNow s (dramPort (burst [])) (.pkt opMemRead (burst []))) = true) ∧
      (∀ u : Byte, u = 0x10 ∨ u = 0xF1 → let p : Pkt := { burst [1, 2] with sunit := u }
        Goes opMemWrite p 2 (dimms s0) ∧ portStatus (dimms s0) true (fromLoader p) (burstAddr p) = 0 ∧
          mustWait (dimms s0) (reqNow (dimms s0) (dramPort p) (bodyOf opMemWrite p (dimms s0))) = false) := by
  refine ⟨?_, ?_, ?_, ?_, ?_, ?_, ?_, fun u h => ?_⟩
  case refine_8 => rcases h with rfl | rfl <;> decide +kernel
  all_goals
  decide +kernel
/-- Two writes of 5 and 6 are queued for the burst (R214): a read returns them. -/
theorem test_queued_writes_are_read : (match exec (.memRead (burst []) 0) (dram s0) with
    | .next t => t.rls.fly.map fun e => e.2.flits
    | _ => []) = [[BitVec.ofNat 256 (5 + 6 * 2 ^ 64), 0]] := by decide +kernel
/-- A write with MASK 0x5A that arrives after them waits, and a read that arrives then returns it too (R214). -/
theorem test_write_follows_queued_ones : (match exec (.memWrite (burst [1, 2])) (dram s0) with
    | .next t => (t.dmc.waiting.length, t.dmc.wq.length, match exec (.memRead { burst [] with sunit := 0x02 } 0) t with
      | .next u => u.rls.fly.map fun e => e.2.flits
      | _ => [])
    | _ => (0, 0, [])) = (1, 2, [[5, 2]]) := by decide +kernel
/-- The masks are legal at reset; with CH0 = bits 6 and 22, address 2^22 names the location that 2^22 + 2^6 named. -/
theorem test_meets_masks : LegalMasks s0.regs ∧ LegalMasks (rg [(0xA110, 0x400040)] s0).regs ∧ Memory.wf s0.dmc.mem ∧
    moved s0.regs (rg [(0xA110, 0x400040)] s0).regs (2 ^ 22) = 2 ^ 22 + 2 ^ 6 := by
  refine ⟨?_, ?_, by decide, by decide +kernel⟩ <;> unfold LegalMasks <;> decide +kernel
/-- A full bucket of 0x100 flits holds 9 after BURST is written 9 (R282). -/
theorem test_bucket_is_reduced : (match exec (.registerWrite .host (BitVec.ofNat 26 (tbOff 5 1)) 0x02EE0009)
      { s0 with rls := { s0.rls with tokens := [(21, 1500)], refill := [(21, 9)] } } with
    | .next t => (t.rls.tokens.get 0 21, rfld t.regs (tbOff 5 1) 0 12)
    | _ => (1, 0)) = (0, 9) := by decide +kernel

theorem test_meets_write_drain : drainOk (dram s0) = true ∧ (dram s0).dmc.waiting = [] ∧
    chanState (dram s0).regs (channelOf (dram s0).regs (headAddr (dram s0).dmc.wq)) ≠ 3 ∧
    (dram s0).dmc.crcErr.get 0 (headAddr (dram s0).dmc.wq / 64) = 0 ∧
    (mergedWrites (dram s0).dmc).getLast? = some ⟨1, 3, 0, 72, 6, false, 2⟩ ∧
    (let s := rg [(0xD104, 0xC0000080)] (dram s0)
     drainOk s = true ∧ chanState s.regs (channelOf s.regs (headAddr s.dmc.wq)) = 3) := by decide +kernel
/-- What the statement on responses asks of one to a unit in domain `d`. -/
abbrev MayArrive (op : Byte) (p : Pkt) : Prop :=
  (op, p) ∈ (flying [(op, p)]).rls.fly ∧ netClear (flying [(op, p)]).rls = true ∧ p.src.toNat < 48 ∧ p.dst.toNat < 48 ∧
    p.flits.length ≤ 8 ∧ allowed (flying [(op, p)]).regs (flying [(op, p)]).rls 0 p.src.toNat p.cls.toNat (flitsOf p) = true
theorem test_meets_responses : MayArrive opShdResp resp ∧ unitDomain resp.dst.toNat resp.dunit.toNat = some 28 ∧
    domOn s0.pwr 28 = true ∧ resp.dunit = 0xF1 ∧ resp.status = 0 ∧ MayArrive opShdResp failed ∧
    unitDomain failed.dst.toNat failed.dunit.toNat = some 20 ∧ domOn s0.pwr 20 = true ∧
    failed.dunit = BitVec.ofNat 8 (0x10 + 0) ∧ failed.status ≠ 0 ∧
    MayArrive opMemResp { failed with status := 0, flits := [3, 5] } ∧
    MayArrive opMemResp { failed with dst := 12 } ∧ unitDomain 12 failed.dunit.toNat = none := by
  decide +kernel
theorem test_meets_work_packets : Goes opSubmit (toYard [work 0]) 1 s0 ∧ domOn s0.pwr 30 = true ∧ (Work.of (work 0)).bad = false ∧
    (Work.of (work 0)).timed = false ∧ (Work.of (work 0)).deps = 0 ∧ (Work.of (work 0)).flowv = false ∧
    Goes opSubmit (toYard [work 4]) 1 s0 ∧ (Work.of (work 4)).bad = false ∧ (Work.of (work 4)).deps ≠ 0 ∧
    Goes opSubmit { toYard [] with data := 0, addr := 0 } 0 sRunning ∧ sRunning.yms.running.get [] 0 = [item] ∧
    packetDecs 0 = [] ∧ sRunning.yms.dep.find? 7 = some ⟨item, 2⟩ ∧ sRunning.yms.reuse.get 0 7 = 0 ∧
    Goes opSubmit { toYard [depositFlit] with data := 2 } 1 (rg [(0xA12C + 2 ^ 26 * 2, 0x80000000), (0x514C, 5)] s0) ∧
    depositCode (rg [(0xA12C + 2 ^ 26 * 2, 0x80000000), (0x514C, 5)] s0) depositFlit = 0 := by decide +kernel
theorem test_meets_injection : pktOk pkt 0 = true ∧ pkt.dst.toNat < 48 ∧ stalledFrom s0 pkt = false ∧
    waitsInOrder s0 pkt = none ∧ netClear (credited 0 3 s0).rls = false ∧ hasRoom (credited 0 3 s0).rls (injQueue pkt) 1 = true ∧
    netClear (credited (injQueue pkt) 16 s0).rls = false ∧ hasRoom (credited (injQueue pkt) 16 s0).rls (injQueue pkt) 1 = false ∧
    respRoom (credited 0 3 s0).rls opShdRead pkt = true ∧
    respRoom (credited (askQueue pkt) 32 s0).rls opShdRead pkt = false ∧
    netClear (credited (askQueue pkt) 32 s0).rls = false := by decide +kernel
theorem test_meets_trace_msg_audit :
    let p : Pkt := { pkt with dst := 4, dunit := 0xF1, flits := [1] }
    Goes opTrace p 1 (dram s0) ∧ trcHeld (dram s0) opTrace p = false ∧ Goes opTrace p 1 s0 ∧ trcHeld s0 opTrace p = true ∧
      (opTrace, p) ∉ (dram s0).rls.fly ∧ domOn s0.pwr 28 = true ∧
      portStatus (dram s0) true false (trcBase (dram s0).regs) = 0 ∧
      domOn (dram s0).pwr (22 + channelOf (dram s0).regs (trcBase (dram s0).regs) / 2) = true ∧
      mustWait (dram s0) (reqNow (dram s0) 8 (.put (trcBase (dram s0).regs) (wordBytes (1 : BitVec 256) 32))) = false ∧
      Goes opMsg { pkt with dst := 43, dunit := 3, flits := List.replicate 8 1 } 8 s0 ∧ domOn s0.pwr 26 = true ∧
      s0.pdk.brResp.length + s0.pdk.brOut < 32 ∧
      (let s := { s0 with pdk := { s0.pdk with brOut := 32 } }
       Goes opMsg { pkt with dst := 43, dunit := 3 } 0 s ∧ 32 ≤ s.pdk.brResp.length + s.pdk.brOut) ∧
      creditBad (credited (queueKey (.ring 0 0 0)) 3 s0).rls (queueKey (.ring 0 0 0)) = true ∧
      creditBad (credited (queueKey (.inject 47 4 3)) 3 s0).rls (queueKey (.inject 47 4 3)) = true ∧
      creditBad (credited (queueKey (.eject 47 4)) 40 s0).rls (queueKey (.eject 47 4)) = true ∧
      s0.rls.fix = [] ∧ wireIdle 0 (credited (queueKey (.ring 0 0 0)) 3 s0).rls (queueKey (.ring 0 0 0)) = true := by
  decide +kernel
theorem test_meets_bridge :
    let s := bridge (paddockOwns s0)
    bridgeOn s = true ∧ s.pdk.brReq = [] ∧ s.pdk.brResp.length + s.pdk.brOut < 32 ∧ Goes opShdRead (fromBridge pkt) 0 s ∧
      FindsShed pkt s ∧ MayUse (fromBridge pkt) s ∧ (preCycle s 0 (adKey pkt.addr)).2 = 0 ∧
      bridgeKind 0x77 pkt = .none := by decide +kernel
theorem test_meets_shed_registers : Writable .host (pg .shd 95 + 0x100) s0 ∧ PortOpen (95 * 4 + fld (0x1000 : W32) 3 2) s0 ∧
    s0.shed.fills.find? 95 = none ∧
    ownReason s0 (unitOf .host) 95 0 0 (fld (0x1000 : W32) 8 8) = 0 ∧
    ownReason s0 (unitOf (.groom 0)) 95 0 0 (fld (0xF100 : W32) 8 8) ≠ 0 ∧
    Writable (.groom 0) (pg .shd 0 + 0x12C) (owned s0) ∧ PortOpen (fld (0x80009005 : W32) 27 2) (owned s0) ∧
    (0x80005009 : W32).getLsbD 31 = true ∧ fld (0x80005009 : W32) 12 12 ≤ fld (0x80005009 : W32) 0 12 ∧
    mayUse (owned s0) (unitOf (.groom 0)) 0 (fld (0x80005009 : W32) 27 2) (fld (0x80005009 : W32) 24 3) = true := by
  decide +kernel
theorem test_meets_fill_patrol : (filling 5 9).shed.fills.find? 0 = some ⟨0, 2, 5, 9, 0x1234, 1⟩ ∧
    bgIs (filling 5 9) (fillShed (filling 5 9) 0) false = true ∧ PortIdle (fillShed (filling 5 9) 0) (filling 5 9) ∧
    bankFree (filling 5 9) (fillKey 0 ⟨0, 2, 5, 9, 0x1234, 1⟩) = true ∧ bgIs (filling 9 9) (fillShed (filling 9 9) 0) false = true ∧
    domOn s0.pwr 0 = true ∧ s0.sec.otp.barns.getLsbD 0 = true ∧
    bgIs (patrolling []) (patrolShed (patrolling []) 0) true = true ∧ PortIdle (patrolShed (patrolling []) 0) (patrolling []) ∧
    bankFree (patrolling []) (patrolKey (patrolling []) 0) = true ∧ (preCycle (patrolling []) 0 (patrolKey (patrolling []) 0)).2 = 0 ∧
    bgIs (patrolling [(0, 7)]) (patrolShed (patrolling [(0, 7)]) 0) true = true ∧
    (preCycle (patrolling [(0, 7)]) 0 (patrolKey (patrolling [(0, 7)]) 0)).2 ≠ 0 ∧
    (rget (patrolling [(0, 7)]).regs (pg .shd 0 + 0x13C)).getLsbD 31 = false ∧
    Readable .host (pg .shd 0 + 0x13C) s0 := by decide +kernel
theorem test_meets_dram_upkeep : rankReady (dram s0) 0 0 = true ∧ reaches (dram s0) (refreshDue (dram s0) 0 0) = true ∧
    reaches (dram s0) (pollDue (dram s0)) = true ∧ (rget (dram s0).regs 0xA108).getLsbD 30 = false ∧
    (let s := { dram s0 with dmc := { (dram s0).dmc with retry := [(0, [⟨0, some [(8, [1, 2])]⟩])], alerts := [(0, 2)] } }
     s.dmc.retry.get [] 0 = [⟨0, some [(8, [1, 2])]⟩] ∧ s.dmc.alerts.get 0 0 = 2 ∧ s.dmc.waiting = []) ∧
    (dram s0).dmc.retry.get [] 0 = [] ∧
    Writable .host 0xA108 (dram s0) ∧ freqOk (dram s0) = true ∧ rfld (rg [(0xA108, 0x40000001)] s0).regs 0xA108 30 1 = 1 ∧
    s0.dmc.waiting = [] ∧ Writable .host (pg .dmcCh 3 + 0x100) s0 ∧ (rget s0.regs 0xA100).getLsbD 0 = false ∧
    chanState (rg [(0xC104, 0x80000000)] s0).regs 0 = 2 ∧ Writable .host (maskOff true) s0 ∧ Writable .host (maskOff false) (dram s0) ∧
    chanState (dram s0).regs 0 = 1 := by decide +kernel

/-! ### Yardmaster, grooms and paddock: their statements' hypotheses -/

/-- Binding 3: no dependences, priority 2. -/
def bound (s : State) : State :=
  rg ((List.range 8).map fun k => (rkey (0x5108 + 4 * k) 3, (work 0).toNat / 2 ^ (32 * k) % 2 ^ 32)) s
def event (n : Nat) : Event := ⟨3, 4, false, BitVec.ofNat 12 n, 900⟩
def intake (n : Nat) (s : State) : State := { s with yms := { s.yms with intake := [(event n, 0)] } }
def sReady : State :=
  rg [(0x5100, 1), (pg .grm 9 + 0x100, 3)] { s0 with yms := { s0.yms with ready := [(2, [item])] } }
def sDue (ticks : Bool) : State := { s0 with yms := { s0.yms with time := [⟨item, ticks, 0, false⟩] } }
def sBusy : State :=
  setGroom (rg [(pg .grm 15 + 0x134, 5)] s0) 15 { groomOf s0 15 with item := some item }
def saved : Ckpt :=
  { count := 7, ringPrev := [], stCur := [], sheds := [(5, 1)], dram := [], sample := 5, out := 6, lanes := 7, recv := []
    place := 0, bytes := [] }
def sSaved (l : SMap Nat) : State :=
  let s := inRun .halted (dimms { s0 with ckpt := some saved })
  { s with dmc := { s.dmc with crcErr := l } }
/-- Block 0: 2,304 words of 16 bits, queue mode, both clocks on global tree 1. -/
def fabric (s : State) : State :=
  { s with
    ldr := { s.ldr with doneIn := true }
    pdk := { s.pdk with held := 0, frames := [(frameKey 1 0 0, [0x0D, 0x01, 0, 0, 0]), (frameKey 4 0 1, [3]), (frameKey 5 7 0, [1])] } }
def queued (l : List W64) : State :=
  let s := fabric s0
  { s with pdk := { s.pdk with queues := [(0, { items := l })] } }

theorem test_meets_work_dispatch : Writable .host 0x5134 s0 ∧ (bindingOf s0.regs 3).valid = false ∧
    (bindingOf (bound s0).regs 3).valid = true ∧ (bindingOf (bound s0).regs 3).bad = false ∧
    (bindingOf (bound s0).regs 3).timed = false ∧ (bindingOf (bound s0).regs 3).deps = 0 ∧
    (bindingOf (bound s0).regs 3).flowv = false ∧ pendOf (bound s0).yms 2 = [] ∧ (bound s0).yms.pend = [] ∧ (intake 3 (bound s0)).yms.intake = [(event 3, 0)] ∧
    (bindingOf (intake 9 s0).regs (event 9).num.toNat).valid = false ∧
    nextItem sReady.yms = some item ∧ groomFor sReady item = some 9 ∧ domOn sReady.pwr (groomDom 9) = true ∧
    (sDue true).yms.time.find? (expired (sDue true)) = some ⟨item, true, 0, false⟩ ∧
    (sDue false).yms.time.find? (expired (sDue false)) = some ⟨item, false, 0, false⟩ := by decide +kernel
theorem test_meets_grooms : Writable (.groom 15) (pg .grm 15 + 0x124) sBusy ∧ (groomOf sBusy 15).item ≠ none ∧
    wdogRuns sBusy 15 = true ∧ reaches sBusy (wdogAt sBusy 15) = true ∧ Writable .host (pg .grm 0 + 0x100) s0 ∧
    (rget s0.regs (pg .grm 0 + 0x100)).getLsbD 0 = false := by decide +kernel
theorem test_meets_checkpoint : (sSaved []).tck.run = .halted ∧ ckptServed (sSaved []) = true ∧ badModel (sSaved []) = none ∧
    (let s := rg [(rkey 0xA12C 0, 0x80000018)] (sSaved [(3, 1)])
     ckptServed s = true ∧ badModel s = some 192 ∧ portStatus s false false 192 = 0 ∧ s.dmc.crcErr.get 0 (192 / 64) ≠ 0) ∧
    (sSaved []).ckpt = some saved ∧ recordHeld (sSaved []) = true ∧
    recordHeld { sSaved [] with ckpt := some { saved with bytes := [1] } } = false ∧ Memory.wf saved.sheds ∧ Memory.wf saved.dram ∧
    usedByte (rg [(pg .shd 0 + 0x128, 1)] s0).regs 5 = true ∧ usedByte (rg [(pg .shd 0 + 0x128, 1)] s0).regs 40000 = false := by
  decide +kernel
theorem test_meets_paddock : fabricOn (fabric s0) = true ∧
    clocked (fabric s0) 7 (frameFld (frameOf (fabric s0) 5 7 0) 0 5) = true ∧ Writable .host 0x611C s0 ∧ Writable .host 0x6100 s0 ∧
    (rget (rg [(rclkKey 7, 0x80000000)] s0).regs (rclkKey 7)).getLsbD 31 = true ∧
    regionFree (fabric s0) 7 = true ∧ (rtreeOf s0.pdk 7).stage = 0 ∧
    (rtreeOf { s0.pdk with rtree := [(7, { stage := 1 })] } 7).stage = 1 := by decide +kernel
theorem test_meets_queues : qLive (queued [5]) 0 3 = true ∧ qLive (queued [5]) 0 8 = true ∧
    (queueOf (queued [5]) 0).items.length < blkDepth (blkFrame (queued [5]) 0) ∧
    blkDepth (blkFrame (queued []) 0) = 2304 ∧ blkDepth (blkFrame (queued []) 0) ≤ (List.replicate 2304 (0 : W64)).length ∧
    (queueOf (queued [5]) 0).items = [5] ∧ (queueOf (queued []) 0).items = [] ∧ queueMode (blkFrame (queued []) 0) = true := by
  decide +kernel

/-! ### Boot and loading: their statements' hypotheses -/

/-- The loader enabled, the PCIe link up. -/
def sLoader : State :=
  let s := rg [(0x2100, 1), (0x2110, 16)] s0
  { s with hst := { s.hst with up := true } }
/-- A header that lets patches in and uses virtual barn 0. -/
def patchHeader : List Byte := List.replicate 0x86 0 ++ [2] ++ List.replicate 9 0 ++ [1] ++ List.replicate 0x36F 0
def patchImage : Image := { digest := 0, header := patchHeader, calls := 0, mwrs := 0 }
/-- A slot-map record: gateway bit 1 into entry 5. -/
def patchBytes : List Byte := wordBytes (BitVec.ofNat 128 (3 * 2 ^ 120 + 5 * 2 ^ 90 + 0x8001)) 16
def sPatch : State :=
  let s := inRun .loaded sLoader
  { s with arr := { s.arr with vmap := [(0, 1)] }, ldr := { s.ldr with image := some patchImage } }
def staged (a p : Bool) : Staged := { header := List.replicate 1024 0, digest := 0, stream := [], arr := a, pdk := p }
def sStaged (a p : Bool) (r : RunState) : State :=
  { inRun r sPatch with ldr := { sPatch.ldr with staged := some (staged a p), busy := true, phase := 4 } }
def sSec : State := rg [(0x1108, 0x1000)] (dimms s0)

theorem test_meets_boot : s0.sec.booted = false ∧ s0.sec.waiting = false ∧ s0.sec.stopped = false ∧
    s0.sec.otp.parityOk = true ∧ (fwVerify s0.sec.otp []).1 ≠ 0 ∧ (fwVerify s0.sec.otp (List.replicate 1024 0)).1 ≠ 0 ∧
    Writable .host 0x1100 { s0 with sec := { s0.sec with waiting := true } } := by decide +kernel
theorem test_meets_security : Writable .host 0x1104 sSec ∧ bufTakes sSec 160 = true ∧ bufTakes sSec 352 = true ∧
    secBuf sSec.regs % 64 = 0 ∧ sSec.dmc.waiting = [] ∧ sSec.dmc.wq = [] ∧
    (∀ b ∈ burstsOf (secBuf sSec.regs) 160, memBusy sSec b = false) ∧ (∀ b ∈ burstsOf (secBuf sSec.regs) 352, memBusy sSec b = false) ∧
    dramReads sSec (secBuf sSec.regs + 0x10) 32 = true ∧ dramReads sSec (secBuf sSec.regs) 128 = true ∧
    sSec.tck.run = .empty ∧ domOn sSec.pwr 22 = true ∧ domOn sSec.pwr 23 = true ∧ sSec.pwr.closing = [] := by decide +kernel
theorem test_meets_load : Writable .host 0x2104 sLoader ∧ (rget sLoader.regs 0x2100).getLsbD 0 = true ∧
    sLoader.ldr.busy = false ∧ runIn sLoader [.empty, .loaded, .halted, .faulted] = true ∧
    sourceBytes (acceptLoad (wakePlace (wakeSource 0 (fieldWrite (clampSrc .host) 0 0x2104 1
      (accessPackets .host 0 0x2104 sLoader)).1))) 0 [] = none := by decide +kernel
theorem test_meets_partial : Writable .host 0x2104 sPatch ∧ (rget sPatch.regs 0x2100).getLsbD 0 = true ∧
    sPatch.ldr.busy = false ∧ runIn sPatch [.loaded, .halted, .faulted] = true ∧ sPatch.ldr.image = some patchImage ∧
    (let u := wakeSource 0 (fieldWrite (clampSrc .host) 0 0x2104 2 (accessPackets .host 0 0x2104 sPatch)).1
     sourceBytes u 0 patchBytes = some patchBytes ∧ checkPart u patchImage patchBytes = .error (plainErr repSource)) ∧
    (sStaged true true .halted).ldr.staged = some (staged true true) ∧
    runIn (sStaged true true .halted) [.loaded, .halted, .faulted] = true ∧
    maxBudget (staged true true).header ≤ modeCap (activeMode (sStaged true true .halted).regs) ∧
    (sStaged true true .halted).ldr.image = some patchImage ∧ (sStaged true true .halted).dmc.waiting = [] ∧
    (sStaged false true .running).ldr.staged = some (staged false true) :=
  ⟨by decide +kernel, by decide +kernel, rfl, by decide +kernel, rfl, ⟨by decide +kernel, rfl⟩, rfl, by decide +kernel,
    by decide +kernel, rfl, rfl, rfl⟩
theorem test_meets_patch : patchState sPatch patchImage.header = true ∧ sourceBytes (wakeSource 0 sPatch) 0 patchBytes = some patchBytes ∧
    patchRecs patchBytes = [⟨3, 0, 0, 0, 5, 0, 0x8001⟩] ∧ patchOk sPatch patchHeader ⟨3, 0, 0, 0, 5, 0, 0x8001⟩ = true ∧
    physOf sPatch 0 = some 0 ∧ domOn sPatch.pwr 0 = true := by decide +kernel
theorem test_meets_abort_done : Writable .host 0x2104 (sStaged true true .halted) ∧
    (rget (sStaged true true .halted).regs 0x2100).getLsbD 0 = true ∧ (sStaged true true .halted).ldr.busy = true ∧
    ({ inRun .loaded s0 with ldr := { s0.ldr with doneOut := true } } : State).ldr.doneOut = true ∧
    runIn (inRun .loaded s0) [.loaded, .waiting] = true ∧ runIn (inRun .running s0) [.loaded, .waiting] = false ∧
    runIn (inRun .running s0) [.running, .draining, .halted, .faulted] = true := by decide +kernel

/-! ### Trigger, acquisition and time: their statements' hypotheses -/

/-- A tick has been released and not evaluated; from state 0 the sequencer enters 3, which triggers. -/
def sEval : State :=
  rg [(0x7100, 1), (rkey 0x7124 0, 0x80300021), (rkey 0x712C 3, 1)]
    { inRun .running s0 with pen := { s0.pen with due := true, evalTime := 77 } }
def sCal : State := { s0 with trg := { s0.trg with cal := some 3 } }
def inst0 (f : Inst → Inst) (s : State) : State := { s with ptp := { s.ptp with i0 := f s.ptp.i0 } }
/-- Instances with a limit of 1,000 ns and an offset of `n`. -/
def stepBy (n : Nat) : State :=
  rg [(0x1013C, 1000), (0x1012C, n), (0x10130, if n < 2 ^ 31 then 0 else 0xFFFFFFFF)] s0
def sServo : State := rg [(0x10140, 2), (0x13140, 2)] s0
def sPps : State := rg [(0x10154, 0x80050000)] (inst0 (fun i => { i with sec := 5, unset := false }) s0)
/-- An Ethernet frame of `n` bytes with a destination address and an EtherType. -/
def ethFrame (n d et : Nat) : List Byte :=
  ((List.range 6).map fun i => BitVec.ofNat 8 (d / 256 ^ (5 - i))) ++ List.replicate 6 1
    ++ [BitVec.ofNat 8 (et / 256), BitVec.ofNat 8 et] ++ List.replicate (n - 14) 0
def sPort : State := rg [(0x14100, 0x80000008), (0x15100, 0x80000008), (0x14104, 0x12345678)] s0
def txFrame (b : Bool) : TxFrame := ⟨ethFrame 100 0x011B19000000 0x88F7, b, 4⟩
def sTx (f : TxFrame) : State := { sPort with ptp := { sPort.ptp with p0 := { sPort.ptp.p0 with tx := [f] } } }

theorem test_meets_evaluation : evalDue sEval = true ∧ sEval.trg.holdoff = none ∧
    (let u := { sEval with trg := { sEval.trg with eff := trgShadow sEval.regs } }
     let x := (List.range 4).foldl (countOne u (withTerm (conds0 u) sEval.trg.term)) u.trg
     let y := { x with term := terminals x }
     taken y (withTerm (conds0 u) (terminals x)) = some 3 ∧ (rget y.eff (rkey 0x712C 3)).getLsbD 0 = true) := by
  decide +kernel
theorem test_meets_trigger_edges : s0.trg.level.getLsbD 7 ≠ true ∧ evalDue s0 = false ∧ trgEnabled (rg [(0x7100, 1)] s0) = true ∧
    trgEnabled s0 = false ∧ domOn s0.pwr 27 = true ∧ rfld (rg [(0x7160, 0x30000000)] s0).regs 0x7160 28 2 = 3 := by decide +kernel
theorem test_meets_trigger_controls : Writable .host 0x7154 s0 ∧ s0.trg.cal = none ∧ sCal.trg.cal ≠ none ∧
    Writable .host 0x7160 s0 ∧ s0.tck.run ≠ .running ∧ s0.trg.xtrg = [] ∧ Writable .host 0x7100 s0 ∧
    Writable .host 0x7170 s0 := by decide +kernel
theorem test_meets_clock_requests : OnTime 0 (stepBy 1000) ∧ inHoldover 0 (stepBy 1000) = false ∧
    Writable .host (pg .ptp 0 + 0x100) (stepBy 1000) ∧ runBars 0 (stepBy 1000) = false ∧
    (stepOffset (stepBy 1000).regs 0).natAbs ≤ (rget (stepBy 1000).regs (pg .ptp 0 + 0x13C)).toNat ∧
    runBars 0 (inRun .waiting (stepBy 1000)) = true ∧ 0 ≤ stepOffset (inRun .waiting (stepBy 1000)).regs 0 ∧
    (stepOffset (stepBy 0xFFFFFFFF).regs 0) = -1 ∧ Writable .host (pg .ptp 3 + 0x134) s0 ∧ Writable .host (pg .ptp 3 + 0x108) s0 := by
  decide +kernel
theorem test_meets_clock_refusals : OnTime 0 (inst0 (fun i => { i with hold := true }) s0) ∧
    (inst0 (fun i => { i with hold := true }) s0).ptp.i0.hold = true ∧
    (rget (stepBy 1001).regs (pg .ptp 0 + 0x13C)).toNat < (stepOffset (stepBy 1001).regs 0).natAbs := by decide +kernel
theorem test_meets_watchdogs_pulses : servoRuns sServo 0 = true ∧ reaches sServo (servoAt sServo 0) = true ∧
    servoRuns sServo 3 = true ∧ (inst0 (fun i => { i with slewing := true }) s0).ptp.i0.slewing = true ∧
    s0.ptp.i0.pend = [] ∧ domOn s0.pwr 25 = true ∧ runIn s0 [.running, .draining] = false ∧ ppsDue sPps = true := by decide +kernel
theorem test_meets_ethernet_receive : portUp sPort 0 = true ∧ (ethFrame 60 0x12345678 0x800).length = 60 ∧
    destOf (ethFrame 60 0x12345678 0x800) = portMac sPort.regs 0 ∧ forwards sPort.regs 0 (ethFrame 60 0x12345678 0x800) = false ∧
    destOf (ethFrame 252 0x011B19000000 0x88F7) ∈ groupMacs ∧ (ethFrame 252 0x011B19000000 0x88F7).length = 252 ∧
    (ethFrame 253 5 0x800).length = 253 ∧ Writable .host (portPg 1 + 0x12C) s0 ∧ Readable .host (portPg 1 + 0x144) s0 := by
  decide +kernel
theorem test_meets_ethernet_send : Writable .host (portPg 0 + 0x130) s0 ∧ portUp (sTx (txFrame true)) 0 = true ∧
    (portOf (sTx (txFrame true)).ptp 0).fwd = [] ∧ (portOf (sTx (txFrame true)).ptp 0).tx = [txFrame true] ∧
    inserts (txFrame true) = true ∧ inserts (txFrame false) = false ∧ Writable .host (portPg 0 + 0x100) s0 ∧
    (rget s0.regs (portPg 0 + 0x100)).getLsbD 31 ≠ true := by decide +kernel

/-! ### Debug, trace and power: their statements' hypotheses -/

def reader (a : Nat) (s : State) : State :=
  rg [(dbgKey .bar 0x188, a)] { s with dbg := { s.dbg with bar := { s.dbg.bar with aqBusy := true } } }
/-- HALTED after tick 5, one barn placed, both paths at level full. -/
def sStill : State :=
  { lvl 4 s0 with
    arr := { s0.arr with vmap := [(0, 1)], imem := [(5, 0x123456789)], imemSyn := [(5, 3)] }
    tck := { s0.tck with run := .halted, tick := 6, count := 6 } }
/-- Grooms 0 to 2 run; 0 and 2 form the halt group; comparator 0 of groom 0 halts at 0x40; the stream of groom 0 is on. -/
def sGrooms : State :=
  rg [(0x20100, 3), (0x21100, 1), (0x22100, 1), (0x91BC, 0b101), (0x30100, 2), (0x30120, 1), (0x30124, 0x40), (0x8100, 0x80000003),
    (0x8108, 5)] (lvl 4 s0)
/-- Groom 0 stalls on an ordered packet, a halt requested; its comparator is one of data. -/
def sStalls : State :=
  setGroom (rg [(0x30120, 2)] sGrooms) 0 { groomOf sGrooms 0 with stall := some (0, opShdRead, pkt), haltReq := some (1, 0) }
def sHalted : State := setGroom sGrooms 0 { groomOf sGrooms 0 with halted := true, cause := 1 }
def sTraced : State := setGroom sGrooms 0 { groomOf sGrooms 0 with traced := true, enc := [[0x50, 9]] }
/-- One microsecond after reset. -/
def pwr (f : Pwr → Pwr) : State := { s0 with pwr := f s0.pwr, clk := { s0.clk with ps := 1000000 } }
def allDown : List (Nat × Nat) := (List.range 31).map fun d => (d, 2)

theorem test_meets_sessions : Writable (.debug .tap) 0x9100 s0 ∧ (sess s0 .tap).lockout = false ∧
    (sess { s0 with dbg := { s0.dbg with tap := { s0.dbg.tap with lockout := true } } } .tap).lockout = true ∧
    verifyResult s0 .tap 3 ≠ 1 ∧
    (let s := { s0 with dbg := { s0.dbg with tap := { s0.dbg.tap with nonceOk := true, lockout := true } } }
     reaches s (nonceEnd s .tap) = true ∧ reaches s (lockEnd s .tap) = true) := by decide +kernel
theorem test_meets_tap : (0x3110 : W32).toNat % 4 = 0 ∧ (pageOf (0x3110 / 4096)).isSome = true ∧ mayPeek 0x3110 1 = true ∧
    mayPeek 0x3110 0 = false ∧ Writable (.debug .tap) 0x9128 s0 ∧ (pageOf (0x31100000 / 4096)).isSome = false := by decide +kernel
theorem test_meets_peek : pageOf (0x3108 / 4096) = some (.tck, 0) ∧ mayPeek 0x3108 (sess s0 .bar).level = false ∧
    mayPeek 0x3108 (sess (lvl 1 s0) .bar).level = true ∧ domOn s0.pwr (pageDomain .tck 0) = true ∧ latched .tck 0x108 = false ∧
    Writable (.debug .bar) 0x918C (lvl 1 s0) := by decide +kernel
theorem test_meets_capture : (sess (reader 0 sStill) .bar).aqBusy = true ∧
    sStill.sec.otp.barns.getLsbD (fld (aqAddr (reader 0 sStill) .bar) 25 7) = true ∧ sStill.tck.run ≠ .empty ∧
    (let s := { reader 0 sStill with sec := { s0.sec with otp := { s0.sec.otp with barns := 0 } } }
     s.sec.otp.barns.getLsbD (fld (aqAddr s .bar) 25 7) = false) ∧
    (aqCapture sStill (procIndex 0 0 0) 0 0).2.1 = [] ∧
    (aqCapture { sStill with arr := { sStill.arr with ringPrevSyn := [(0, true)] } } (procIndex 0 0 0) 0 0).2.1 ≠ [] := by
  decide +kernel
theorem test_meets_deposit_force : Writable (.debug .tap) 0x919C sStill ∧ stillRun sStill = true ∧
    barnHeld sStill (bitBarn 0xC002F005) = true ∧ fld (0xC002F005 : W32) 12 6 ≤ 47 ∧ Writable (.debug .tap) 0x91A4 sStill ∧
    stillRun (lvl 4 s0) = false ∧ Writable (.debug .tap) 0x919C (lvl 4 s0) ∧ Writable (.debug .tap) 0x91A4 (lvl 4 s0) := by
  decide +kernel
theorem test_meets_bus_master : Writable (.debug .bar) 0x91A8 (lvl 4 s0) ∧ (sess (lvl 4 s0) .bar).bmBusy = false ∧
    bmAddr (rg [(dbgKey .bar 0x1AC, 0x3FFFF8)] (lvl 4 s0)) .bar + 8 = 4194304 ∧ Writable (.debug .bar) 0x91A8 (lvl 1 s0) ∧
    (sess (lvl 1 s0) .bar).level = 1 := by decide +kernel
theorem test_meets_groom_debug : Writable (.debug .tap) (gPage 0 + 0x100) sGrooms ∧ groomRuns sGrooms 0 = true ∧
    (haltMembers sGrooms.regs).getLsbD 0 = true ∧ (haltMembers sGrooms.regs).getLsbD 1 = false ∧ (groomOf sHalted 0).halted = true ∧
    (rget sHalted.regs (gPage 0 + 0x100)).getLsbD 30 = false ∧ Writable (.debug .tap) 0x91BC sGrooms ∧
    cmpHit sGrooms.regs 0 0 0x40 = true ∧ cmpBeaten sGrooms.regs 0 0 0x40 = false ∧ executes sGrooms 0 = true ∧
    (rget sGrooms.regs (gPage 0 + 0x100)).getLsbD 1 = true ∧ groomRuns sStalls 0 = true ∧ executes sStalls 0 = false ∧
    Writable (.debug .tap) (gPage 0 + 0x100) sStalls ∧ atHalt sStalls 0 0 = true ∧ cmpHit sStalls.regs 0 0 0x40 = true ∧
    cmpBeaten sStalls.regs 0 0 0x40 = false ∧ fld (cmpCfg sStalls.regs 0 0) 4 2 ≠ 1 := by decide +kernel
theorem test_meets_trace : (rget sTraced.regs 0x8108).getLsbD 1 = false ∧ (rget sTraced.regs 0x8108).getLsbD 2 = true ∧
    traceOn sTraced.regs 0 = true ∧ (groomOf sTraced 0).stall = none ∧ (groomOf sTraced 0).traced = true ∧ (groomOf sTraced 0).brN = 0 ∧
    (groomOf sTraced 0).lostN = 0 ∧ (groomOf sTraced 0).since0 < 255 ∧ encBytes (groomOf sTraced 0) ≤ 502 ∧
    (groomOf sTraced 0).enc = [[0x50, 9]] ∧ executes sTraced 0 = true ∧
    reaches sTraced (sendAt (groomOf sTraced 0)) = true ∧
    (let s := setGroom sTraced 0 { groomOf sTraced 0 with enc := List.replicate 26 (List.replicate 10 0) }
     sendBytes ≤ encBytes (groomOf s 0) ∧ packsOf 0 (groomOf s 0).enc ≠ [] ∧ (groomOf s 0).lostN = 0) := by decide +kernel
theorem test_meets_domain_control : Writable .host 0x4108 s0 ∧ domState s0.pwr (fld (0x200 : W32) 0 5) < 2 ∧
    closeReason false 0 2 s0 = 0 ∧
    Writable .host 0x4108 (inRun .running { s0 with arr := s1.arr }) ∧
    closeReason false 0 2 (inRun .running { s0 with arr := s1.arr }) ≠ 0 ∧
    (let s := pwr fun p => { p with dom := [(0, 2), (1, 3)] }
     Writable .host 0x4108 s ∧ fld (0x200 : W32) 8 2 = domState s.pwr (fld (0x200 : W32) 0 5) ∧
       fld (0x201 : W32) 8 2 < domState s.pwr (fld (0x201 : W32) 0 5) ∧ domOn s.pwr (fld (1 : W32) 0 5) = false ∧
       domOn s.pwr (fld (2 : W32) 0 5) = true) := by decide +kernel
theorem test_meets_close_wake : (pwr fun p => { p with closing := [(0, ⟨2, false⟩)] }).pwr.closing.find? 0 = some ⟨2, false⟩ ∧
    (pwr fun p => { p with closing := [(0, ⟨2, false⟩)] }).pwr.waking.getLsbD 0 = false ∧
    closeReady 0 (pwr fun p => { p with closing := [(0, ⟨2, false⟩)] }) = true ∧
    closeAllowed 0 (pwr fun p => { p with closing := [(0, ⟨2, false⟩)] }) = true ∧
    (pwr fun p => { p with waking := 3, asked := 2, dom := [(0, 2), (1, 3)] }).pwr.asked.getLsbD 1 = true ∧
    (pwr fun p => { p with waking := 3, dom := [(0, 2), (1, 3)] }).pwr.waking.getLsbD 1 = true ∧
    domState (pwr fun p => { p with waking := 3, dom := [(0, 2), (1, 3)] }).pwr 0 < 3 ∧
    domState (pwr fun p => { p with waking := 3, dom := [(0, 2), (1, 3)] }).pwr 1 = 3 := by decide +kernel
theorem test_meets_stabled : Writable .host 0x4124 s0 ∧ s0.pwr.stabling = false ∧ s0.pwr.closing.find? 31 = none ∧
    runIn s0 [.empty, .loaded, .halted, .faulted] = true ∧
    (stableOrder.find? fun d => decide (domState s0.pwr d < 2)) = some 0 ∧ closeReason true 0 2 s0 = 0 ∧
    (let s := { s0 with arr := s1.arr, ldr := { s0.ldr with busy := true } }
     Writable .host 0x4124 s ∧ closeReason true 0 2 s ≠ 0) ∧
    (let s := pwr fun p => { p with stabling := true, closing := [(0, ⟨2, true⟩)] }
     runs .host s = true ∧ mayWrite .host 0x4124 s = true ∧ domOn s.pwr 31 = true ∧ s.pwr.closing.find? 31 = none ∧
       closeAllowed 0 s = true ∧ closeReady 0 s = true ∧
       (stableOrder.find? fun e => decide (e ≠ 0) && decide (domState s.pwr e < 2)) = some 1 ∧ closeReason true 1 2 s = 0) ∧
    (let s := pwr fun p => { p with dom := allDown }
     runs .host s = true ∧ mayWrite .host 0x4124 s = true ∧ domOn s.pwr 31 = true ∧
       (stableOrder.find? fun d => decide (domState s.pwr d < 2)) = none) ∧
    (let s := rg [(0x7100, 1)] (pwr fun p => { p with
       stabling := true, closing := [(26, ⟨2, true⟩)], dom := (List.range 20).map fun d => (d, 2) })
     s.pwr.closing.find? 26 = some ⟨2, true⟩ ∧ closeAllowed 26 s = true ∧ closeReady 26 s = true ∧
       (stableOrder.find? fun e => decide (e ≠ 26) && decide (domState s.pwr e < 2)) = some 27 ∧ closeReason true 27 2 s ≠ 0) ∧
    Writable .host 0x4124 (inRun .running s0) ∧ runIn (inRun .running s0) [.empty, .loaded, .halted, .faulted] = false ∧
    (let s := pwr fun p => { p with stabling := true, closing := [(29, ⟨2, true⟩)], dom := allDown.erase (29, 2) }
     s.pwr.closing.find? 29 = some ⟨2, true⟩ ∧ closeAllowed 29 s = true ∧ s.pwr.waking.getLsbD 29 = false ∧
       closeReady 29 s = true ∧ ∀ e ∈ stableOrder, e ≠ 29 → 2 ≤ domState s.pwr e) ∧
    (rget (rg [(0x412C, 8)] s0).regs 0x412C).getLsbD 3 = true ∧
    (pwr fun p => { p with stabled := true, dom := allDown }).pwr.stabled = true := by decide +kernel
theorem test_meets_modes : Writable .host 0x4100 s0 ∧
    modeReason s0 (modeChecked s0.sec.otp 1).1 (modeChecked s0.sec.otp 1).2.1 = 0 ∧
    slowClock (modeChecked s0.sec.otp 1).1 (modeChecked s0.sec.otp 1).2.1 = (rget s0.regs 0x4100).getLsbD 5 ∧
    modeReason s0 (modeChecked s0.sec.otp 2).1 (modeChecked s0.sec.otp 2).2.1 = 0 ∧
    slowClock (modeChecked s0.sec.otp 2).1 (modeChecked s0.sec.otp 2).2.1 ≠ (rget s0.regs 0x4100).getLsbD 5 ∧
    Writable .host 0x4100 (inRun .running s0) ∧ modeReason (inRun .running s0) 2 false ≠ 0 ∧
    (pwr fun p => { p with relock := true, reqMode := 5 }).pwr.relock = true := by decide +kernel
theorem test_meets_temperature : hottest [1, 2, 124, 4, 5] < 125 ∧ 125 ≤ hottest [0, 0, 125, 0, 0] ∧
    rfld (rg [(0x4138, 0x50003020)] s0).regs 0x4138 0 8 < rfld (rg [(0x4138, 0x50003020)] s0).regs 0x4138 24 8 ∧
    rfld (rg [(0x4138, 0x50003020)] s0).regs 0x4138 24 8 ≤ hottest [0x50, 0, 0, 0, 0] ∧ s0.pwr.onBak ≠ true := by decide +kernel
theorem test_meets_resets : slowGrade s0.sec.otp = false ∧ SMap.wf 0 [(0x512C, (77 : W32))] ∧
    (regAt 0x512C).all (fun x => x.sel == 0 && x.fields.all fun f => f.acc == .rw && f.chk == .none) = true ∧
    (regAt 0x512C).isSome = true ∧ dbgBanked 0x512C = false ∧ unrestored 0x512C = 0 ∧
    SMap.find? [(0x512C, (77 : W32))] 0x512C = some 77 ∧ s0.pwr.tackBad.get false 0x512C = false ∧ s0.pwr.tack = [] := by
  decide +kernel

/-! ### Host interface and registers: their statements' hypotheses -/

def dmaBytes (op len haddr daddr : Nat) : List Byte :=
  wordBytes (BitVec.ofNat 64 haddr) 8 ++ wordBytes (BitVec.ofNat 64 daddr) 8 ++ wordBytes (BitVec.ofNat 32 len) 4
    ++ [BitVec.ofNat 8 op] ++ List.replicate 11 0
/-- Channel 1 enabled, four entries in host memory, TAIL ahead; a channel with an ended and a failed descriptor. -/
def sDma : State :=
  rg [(0x12C + 2 ^ 26, 0x80000020), (0x13C + 2 ^ 26, 2), (0x130, 0x100)]
    { s0 with hst := { s0.hst with up := true, wasUp := true, dma := [(0, [⟨0, 0, true, false⟩]), (3, [⟨2, 8, true, true⟩])] } }

theorem test_meets_pcie : domOn s0.pwr 24 = true ∧ linkModes 5 16 = true ∧ s0.hst.up = false ∧ s0.hst.wasUp = false ∧
    sDma.hst.up = true ∧ sDma.hst.wasUp = true := by decide +kernel
theorem test_meets_bar2 : bar2Piece 0x30000 8 = 8 ∧ bar2Piece 0x30004 4 = 4 ∧ 3 % 4 + 1 ≤ 4 ∧ inWindow (rg [(0x10C, 0x80000000)] s0) 4092 = true ∧
    inWindow (rg [(0x10C, 0x80000000)] s0) 4096 = false ∧ s0.sec.waiting = false ∧
    pageOf (0x4130 / 4096) = some (.pwr, 0) ∧ dbgOnly 0x4130 = false ∧ latched .pwr 0x130 = false ∧
    domOn s0.pwr (pageDomain .pwr 0) = true ∧ (pageOf (0x3110 / 4096)).isSome = true := by decide +kernel
theorem test_meets_dma : dmaPending sDma 1 = true ∧ dmaLoc sDma.regs 1 = 0 ∧ (dmaBytes 8 8 0x500 16).length = 32 ∧
    (dmaDesc (dmaBytes 8 8 0x500 16)).bad = false ∧ (dmaDesc (dmaBytes 8 8 0x500 16)).target = 2 ∧
    (dmaDesc (dmaBytes 8 8 0x500 16)).toHost = false ∧
    dmaReady sDma 1 (dmaDesc (dmaBytes 8 8 0x500 16)) [1, 2, 3, 4, 5, 6, 7, 8] = true ∧
    (dmaDesc (dmaBytes 25 8 0x500 0x3FFFF8)).bad = false ∧ (dmaDesc (dmaBytes 25 8 0x500 0x3FFFF8)).toHost = true ∧
    0x3FFFF8 + 8 ≤ scratchSize ∧ dmaRuns sDma 0 = [⟨0, 0, true, false⟩] ∧ dmaRuns sDma 3 = [⟨2, 8, true, true⟩] ∧
    dmaLoc sDma.regs 3 = 0 ∧ netIdle sDma.rls = true ∧ dmaWaits sDma = false := by decide +kernel
theorem test_meets_register_reads : Readable .host 0x3110 s0 ∧ Readable (.groom 0) (pg .ptp 3 + 0x110) s0 ∧ Readable .host 0x3190 s0 ∧
    (pageOf 3).isSome = true ∧ Readable .host (3 * 4096 + 0x020) s0 ∧ dbgOnly (3 * 4096) = false ∧ deadPage s0 (3 * 4096) = false ∧
    s0.dbg.clamp.find? (clampBuf 3) = none ∧ s0.dbg.clamp.find? 3 = none ∧
    SMap.find? [(3, (([1, 2, 3] : List W32), 3))] 3 = some ([1, 2, 3], 3) := by decide +kernel
theorem test_meets_register_writes : Writable .host (3 * 4096 + 0x010) s0 ∧ Writable .host 0x3160 s0 ∧
    Writable .host (pg .scb 3 + 0x100) s0 ∧ runIn s0 [.empty, .loaded, .halted, .faulted] = true ∧
    runIn (inRun .running s0) [.empty, .loaded, .halted, .faulted] = false ∧ Writable .host 0x40120 s0 ∧
    pageOf (0x40120 / 4096) = some (.ary, 0) ∧ (regAt 0x40120).isSome = true ∧ Writable .host 0x80100 s0 ∧
    (regAt 0x80100).isSome = true ∧ (pageOf (0xFFF000 / 4096)).isSome = false ∧ aliasWrite .host 0xFFF000 = false := by decide +kernel

/-! ### The machine as a whole: its statements' hypotheses -/

theorem test_meets_idle_step : State.reset.pending = [] ∧ Canonical State.reset := by decide +kernel
theorem test_next_state : ∃ t, step State.reset = .next t := ⟨_, rfl⟩
theorem test_step_front : ∃ t, step { s0 with pending := [.ymsDoorbell .host 3] } = .next t ∧ t.pending = [] := ⟨_, rfl, rfl⟩
theorem test_raises_no_level : ∀ c, State.reset.pending.head? = some c → (∀ p k, c ≠ .verify p k) := by
  intro c h; cases h

/-! ### The spec's own worked examples -/

/-- The instruction word of 02_boolean_processors.md: OPC 1, SA 0x40A, SB 0x40B, SC 0x40C, SD 0x40D, FN 0x003. -/
theorem test_word_fields :
    let w : W64 := 0x140A40B40C40D003
    opClass w = .lutd ∧ (fld w 48 12, fld w 36 12, fld w 24 12, fld w 12 12, fnOf w) = (0x40A, 0x40B, 0x40C, 0x40D, 3) := by
  decide +kernel

/-- AND of A and B in a four-state barn, table 0x8888 (02_boolean_processors.md): 1 and X give X, 0 and X give 0, X and X
give X. -/
theorem test_four_state_and :
    let x : Val := ⟨false, true⟩
    let c : Val := ⟨false, false⟩
    lutVal 0x8888 ⟨true, false⟩ x c c = x ∧ lutVal 0x8888 ⟨false, false⟩ x c c = ⟨false, false⟩ ∧ lutVal 0x8888 x x c c = x := by
  decide +kernel

/-- Placing on a harvested part (04_array_interconnect.md): V00 to V21 and V24 to V45, with B02, B17, B25 and B40
disabled. -/
theorem test_harvested_placement :
    let used : Nat := 2 ^ 22 - 1 + (2 ^ 22 - 1) * 2 ^ 24
    let h : List Byte := List.replicate 0x90 0 ++ wordBytes (BitVec.ofNat 96 used) 12 ++ List.replicate 64 0
    let l := placeDefault (BitVec.ofNat 96 (2 ^ 96 - 1 - 2 ^ 2 - 2 ^ 17 - 2 ^ 25 - 2 ^ 40)) 0 h
    ([0, 1, 2, 15, 16, 21, 24, 25, 38, 39, 45].map fun v => physIn l v)
      = [0, 1, 3, 16, 18, 23, 24, 26, 39, 41, 47].map some := by decide +kernel

/-- The host write to B95 of 10_rails.md. -/
def hostWrite : Pkt :=
  { pkt with
    data := 0x0123456789ABCDEF, addr := 0xBF7123, mask := 0xFF, sunit := 0x02, tag := 0x05A, src := 3, dst := 47 }

/-- Its header as sent and on the last hop (10_rails.md). -/
theorem test_header_flit :
    (headerFlit opShdWrite hostWrite).extractLsb' 0 64 = 0x00000000216810EF ∧
      (headerFlit opShdWrite hostWrite).extractLsb' 64 64 = 0x0000000000FF0200 ∧
      (headerFlit opShdWrite hostWrite).extractLsb' 128 128 = 0x0123456789ABCDEF0000000000BF7123 ∧
      (headerFlit opShdWrite (carried s0.regs hostWrite)).extractLsb' 0 64 = 0xC0000000216810EF ∧
      (routeOf s0.regs 3 47 1).cycles = 17 := by decide +kernel

/-- The rail cycle before which the write, one packet of the network, stands in a queue of the example: on the ring to
stop 7 at cycle 8, which it may leave at 13, on the column ring's VC1 at stop 47 at 13, delivered at 17 (10_rails.md). -/
theorem test_network_cycles :
    let s := match exec (.shdWrite hostWrite) (credited 0 3 s0) with | .next t => t | _ => s0
    let at_ (c : Nat) := (runNet { s with clk := { s.clk with ps := (2 * c + 1) * 333 + 2 } }).rls
    (at_ 8).net.map (fun x => (x.place, x.ready)) = [(ringKey 7 0 false, 13)] ∧
      (at_ 13).net.map (fun x => (x.place, x.ready)) = [(ringKey 47 3 true, 15)] ∧
      (at_ 16).fly.length = 0 ∧ (at_ 17).fly.length = 1 := by decide +kernel

/-- The model read of 08_dram.md: word offset 0x1_2345 of a model at 0x10_0000_0000 lies at 0x10_0009_1A28, on channel 0. -/
theorem test_model_read_address :
    let m := (rg [(rkey 0xA128 7, 0x10), (rkey 0xA12C 7, 0x80000018)] s0).regs
    modelAddr m 7 0x12345 = 0x1000091A28 ∧ channelOf m 0x1000091A28 = 0 := by decide +kernel

/-- The late read of 03_tick.md: issued at step 100 with L = 160, its decision step is 196 and its hold asks for
step 260. -/
theorem test_late_read_hold :
    let f : Flight := { modelRead false false 260 with issue := 100 }
    let s := fl [f] (tk (fun t => { t with depth := 512, declared := 512 }) s1)
    ∃ t, exec (.holdDecision 0 0 100) s = .next t ∧ t.tck.step = 196 ∧ t.tck.holds = [⟨.read, 260, 4⟩] := ⟨_, rfl, rfl, rfl⟩

/-- The two chips of 09_serial_links.md: Δ = 65 and GUARD 2 give M = 109. -/
theorem test_measured_latency : measuredM (rg [(pg .lnk 9 + 0x118, 2)] s0).regs 9 65 = 109 := by decide +kernel

/-- The halted groom of 16_debug_trace.md: LIMIT_US = 100,000, halted after 30,000 µs and resumed 5 s later, it expires
71,000 µs after the resume. -/
theorem test_watchdog_after_resume :
    let g := { groomOf s0 0 with item := some item, halted := true, haltAt := 30000000000 }
    let s := setGroom { rg [(pg .grm 0 + 0x134, 100000)] s0 with clk := { s0.clk with ps := 5030000000000 } } 0 g
    wdogAt (resumeGroom 0 s) 0 = 5030000000000 + 71000000000 := by decide +kernel

end Sys2Proof.Tests
end

section
/-!
PROOFS. How frames compose: `Keeps` and `RegsBut` along a chain of operations, and the frames of the shared operations
in those words.
-/

namespace Sys2Proof.Claims

open Sys2Proof.Machine

theorem Part.same_trans {p : Part} {s t u : State} (h : p.same s t) (h' : p.same t u) : p.same s u := by
  cases p with
  | rls =>
    exact Eq.trans h' (congrArg (fun r : Rls => { r with
      tokens := u.rls.tokens, refill := u.rls.refill, inj := u.rls.inj, thr := u.rls.thr, last := u.rls.last }) h)
  | flow =>
    obtain ⟨ht, hr, hi, hh, hl⟩ := h
    obtain ⟨ht', hr', hi', hh', hl'⟩ := h'
    exact ⟨ht'.trans ht, hr'.trans hr, hi'.trans hi, hh'.trans hh, hl'.trans hl⟩
  | _ => exact Eq.trans h' h

/-- Two operations one after the other change what either may change. -/
theorem Keeps.trans {a b : List Part} {s t u : State} (h : Keeps a s t) (h' : Keeps b t u) : Keeps (a ++ b) s u :=
  fun p hp => Part.same_trans (h p fun m => hp (List.mem_append_left b m))
    (h' p fun m => hp (List.mem_append_right a m))

theorem Keeps.mono {a c : List Part} {s t : State} (h : Keeps a s t) (ha : a ⊆ c := by simp) : Keeps c s t :=
  fun p hp => h p fun m => hp (ha m)

theorem keeps_regs (s : State) (m : SMap W32) : Keeps [.regs] s { s with regs := m } := by
  intro p hp
  cases p <;> simp_all [Part.same]

theorem keeps_hst (s : State) (h : Hst) : Keeps [.hst] s { s with hst := h } := by
  intro p hp
  cases p <;> simp_all [Part.same]

theorem keeps_dbg (s : State) (d : Dbg) : Keeps [.dbg] s { s with dbg := d } := by
  intro p hp
  cases p <;> simp_all [Part.same]

theorem keeps_integ (s : State) (i : Integ) : Keeps [.integ] s { s with integ := i } := by
  intro p hp
  cases p <;> simp_all [Part.same]

theorem keeps_grm (s : State) (g : Grm) : Keeps [.grm] s { s with grm := g } := by
  intro p hp
  cases p <;> simp_all [Part.same]

theorem keeps_clk (s : State) (c : Clock) : Keeps [.clk] s { s with clk := c } := by
  intro p hp
  cases p <;> simp_all [Part.same]

theorem keeps_rls (s : State) (r : Rls) : Keeps [.rls, .flow] s { s with rls := r } := by
  intro p hp
  cases p <;> simp_all [Part.same]

/-- A change of the rails that leaves all but the parts of `flow` changes nothing else. -/
theorem keeps_flow {s t : State} (h : t = { s with rls := t.rls }) (hr : Part.rls.same s t) : Keeps [.flow] s t := by
  intro p hp
  by_cases hp' : p = .rls
  · rw [hp']
    exact hr
  · rw [h]
    exact keeps_rls s t.rls p (by simpa [hp'] using hp)

theorem RegsBut.trans {a b : List Nat} {s t u : State} (h : RegsBut a s t) (h' : RegsBut b t u) :
    RegsBut (a ++ b) s u :=
  fun k hk => (h' k fun m => hk (List.mem_append_right a m)).trans (h k fun m => hk (List.mem_append_left b m))

theorem regsBut_of_regs {s t : State} (h : t.regs = s.regs) (a : List Nat) : RegsBut a s t := fun k _ => by rw [h]

end Sys2Proof.Claims

namespace Sys2Proof.Machine

open Sys2Proof.Claims

/-- An event that can take place, while the chip is not Stabled, takes place. -/
theorem when_next {c : Bool} {s t : State} (hc : c = true) (hs : s.pwr.stabled = false) : when c s t = .next t := by
  simp [when, event, hc, hs]

/-! ### Fields -/

/-- The bit set by a write of a field of one bit. -/
theorem getLsbD_setFld_bit (w : W32) (i v : Nat) (hi : i < 32) : (setFld w i 1 v).getLsbD i = v.testBit 0 := by
  rw [setFld_getLsbD w i 1 v i hi, if_pos (by omega), Nat.sub_self]

/-! ### Interrupts and bad accesses -/

theorem raiseInt_keeps (s : State) (page k : Nat) : Keeps [.regs, .hst] s (raiseInt s page k) := by
  unfold raiseInt
  exact (keeps_regs s _).trans (keeps_hst { s with regs := intRegs s.regs page k } _)

theorem raiseInt_regsBut (s : State) (page k : Nat) : RegsBut [page + 0x018] s (raiseInt s page k) :=
  fun j hj => raiseInt_rget s page k j (by simpa using hj)

@[simp] theorem intBit_raiseInt (s : State) (page k : Nat) (hk : k < 32) :
    intBit (raiseInt s page k) page k = true := by
  rw [intBit, raiseInt_status, BitVec.getLsbD_or, BitVec.getLsbD_ofNat, Nat.testBit_two_pow_self]
  simp [hk]

/-- An interrupt may send a message; of the endpoint it changes nothing that belongs to DMA. -/
theorem msgAfter_dma (old new : SMap W32) (page : Nat) (written : Bool) (h : Hst) :
    (msgAfter old new page written h).dma = h.dma ∧ (msgAfter old new page written h).hostOut = h.hostOut := by
  have hv : ∀ v, (sendVector h v).dma = h.dma ∧ (sendVector h v).hostOut = h.hostOut := by
    intro v
    unfold sendVector
    split <;> exact ⟨rfl, rfl⟩
  unfold msgAfter
  split
  · exact ⟨rfl, rfl⟩
  · split
    · exact hv _
    · exact ⟨rfl, rfl⟩

@[simp] theorem raiseInt_dma (s : State) (page k : Nat) : (raiseInt s page k).hst.dma = s.hst.dma :=
  (msgAfter_dma _ _ _ _ _).1

@[simp] theorem raiseInt_hostOut (s : State) (page k : Nat) : (raiseInt s page k).hst.hostOut = s.hst.hostOut :=
  (msgAfter_dma _ _ _ _ _).2

theorem raiseIf_keeps (c : Bool) (s : State) (page k : Nat) : Keeps [.regs, .hst] s (raiseIf c s page k) := by
  cases c
  · exact (keeps_regs s s.regs).mono
  · exact raiseInt_keeps s page k

@[simp] theorem raiseIf_dma (c : Bool) (s : State) (page k : Nat) : (raiseIf c s page k).hst.dma = s.hst.dma := by
  cases c
  · rfl
  · exact raiseInt_dma s page k

@[simp] theorem raiseIf_hostOut (c : Bool) (s : State) (page k : Nat) :
    (raiseIf c s page k).hst.hostOut = s.hst.hostOut := by
  cases c
  · rfl
  · exact raiseInt_hostOut s page k

/-- A bad access is recorded in HST_ERR and INT_STATUS.BAD_ACCESS, and changes nothing else (R470). -/
theorem badAccess_acts (cause bar off : Nat) (s : State) (ho : off < 2 ^ 26) :
    rget (badAccess cause bar off s).regs 0x108 = BitVec.ofNat 32 (cause * 2 ^ 28 + bar * 2 ^ 26 + off) ∧
      intBit (badAccess cause bar off s) 0 9 = true ∧ RegsBut [0x108, 0x018] s (badAccess cause bar off s) ∧
      Keeps [.regs, .hst] s (badAccess cause bar off s) := by
  refine ⟨?_, intBit_raiseInt _ 0 9 (by decide), ?_, ((keeps_regs s _).trans (raiseInt_keeps _ 0 9)).mono⟩
  · rw [badAccess, raiseInt_rget _ 0 9 0x108 (by decide), rget_rput_same, Nat.mod_eq_of_lt ho]
  · refine RegsBut.trans (a := [0x108]) (fun k hk => ?_) (raiseInt_regsBut _ 0 9)
    exact rget_rput_other _ _ _ _ (by simpa using hk)

theorem answer_keeps (v : W32) (s : State) : Keeps [.hst] s (answer v s) := keeps_hst s _

/-! ### The packets of a register access -/

/-- The packets of a register access change the flow of the rails alone. -/
theorem accessPackets_keeps (r : Requester) (cls off : Nat) (s : State) :
    Keeps [.flow] s (accessPackets r cls off s) := by
  refine keeps_flow (accessPackets_eq r cls off s) ?_
  unfold accessPackets
  cases pageOf (off / 4096) with
  | none => rfl
  | some x => cases r <;> rfl

/-- A write that is permitted is its act on the state that the access's packets leave. -/
theorem viaWrite_writable {r : Requester} {off : Nat} {s : State} (h : Writable r off s) (act : State → State) :
    viaWrite r off act s = act (accessPackets r 0 off s) := by
  obtain ⟨hr, hm, hp, hc, hd⟩ := h
  exact viaWrite_act r off act s hr hm hp hc hd

end Sys2Proof.Machine
end

section
/-!
PROOFS. Reads and the host interface: what a read of a register comes to, the transfers of BAR2 and of host DMA, and
the statement about them (18_host_registers.md).
-/

namespace Sys2Proof.Machine

open Sys2Proof.Claims

/-! ### Reads -/

theorem passQc_keeps (off : Nat) (s : State) : Keeps [.clk] s (passQc off s) := by
  unfold passQc
  split
  · exact keeps_clk s _
  · exact keeps_clk s s.clk

/-- A telemetry read of a register that shows no latch is its value, and changes the debug copies alone (R471). -/
theorem readPeek_telemetry {off : Nat} {b : Blk} {i : Nat} (s : State) (hp : pageOf (off / 4096) = some (b, i))
    (hd : dbgOnly off = false) (ho : off % 4096 ≠ 0x020) (hl : latched b (off % 4096) = false) :
    (readPeek .telemetry off s).hst.out = regValue s .tap off ∧
      Keeps [.hst, .dbg, .clk] s (readPeek .telemetry off s) := by
  have h : ∃ d, readPeek .telemetry off s = answer (regValue s .tap off) (passQc off { s with dbg := d }) := by
    unfold readPeek
    simp only [hp, ho, hl, hd, false_and, if_false, Bool.false_eq_true]
    exact ⟨_, rfl⟩
  obtain ⟨d, h⟩ := h
  rw [h]
  exact ⟨rfl, (((keeps_dbg s d).trans (passQc_keeps off _)).trans (answer_keeps _ _)).mono⟩

/-! ### BAR2 -/

/-- A write of one transfer is that transfer (R468, R472). -/
theorem bar2Writes_one {off : Nat} {l : List Byte} (s : State) (hl : l ≠ [])
    (hp : bar2Piece off l.length = l.length) : bar2Writes l.length off l s = bar2Write off l s := by
  obtain ⟨b, l, rfl⟩ := List.exists_cons_of_ne_nil hl
  have hnil : ∀ n off t, bar2Writes n off [] t = t := by
    intro n off t
    cases n <;> simp [bar2Writes]
  have hne : (b :: l).isEmpty ≠ true := by simp
  rw [show (b :: l).length = l.length + 1 from rfl, bar2Writes, hp, if_neg hne, List.take_length, List.drop_length,
    hnil]

theorem bar2Write_window {off : Nat} {l : List Byte} {s : State} (hl : 4 ≤ l.length)
    (hw : s.sec.waiting = true ∨ inWindow s off = true) :
    bar2Write off l s = { s with grm := { s.grm with scratch := Memory.putBytes s.grm.scratch off l } } := by
  rw [bar2Write, if_neg (by omega), if_pos (by simpa using hw)]

theorem bar2Write_outside {off : Nat} {l : List Byte} {s : State} (hl : 4 ≤ l.length) (hw : s.sec.waiting = false)
    (hi : inWindow s off = false) : bar2Write off l s = badAccess 0xD 1 off s := by
  rw [bar2Write, if_neg (by omega), if_neg (by simp [hw, hi])]

theorem bar2Write_short {off : Nat} {l : List Byte} {s : State} (hl : l.length < 4) :
    bar2Write off l s = badAccess 0xA 1 off s := by
  rw [bar2Write, if_pos hl]

end Sys2Proof.Machine

namespace Sys2Proof

/-! ### Bytes of a memory -/

@[simp] theorem Memory.bytes_length (m : List Host.Cell) (a n : Nat) : (Memory.bytes m a n).length = n := by
  simp [Memory.bytes]

theorem Memory.bytes_getElem? (m : List Host.Cell) {a n k : Nat} (hk : k < n) :
    (Memory.bytes m a n)[k]? = some (Memory.byte m (a + k)) := by
  simp [Memory.bytes, hk]

theorem Memory.bytes_add (m : List Host.Cell) (a n k : Nat) :
    Memory.bytes m a (n + k) = Memory.bytes m a n ++ Memory.bytes m (a + n) k := by
  simp [Memory.bytes, List.range_add, Nat.add_assoc]

/-- Bytes written one list after the other are written as one list. -/
theorem Memory.putBytes_append (l l' : List Byte) : ∀ (m : List Host.Cell) (a : Nat),
    Memory.putBytes m a (l ++ l') = Memory.putBytes (Memory.putBytes m a l) (a + l.length) l' := by
  induction l with
  | nil => intro m a; rfl
  | cons b l ih =>
    intro m a
    rw [List.cons_append, Memory.putBytes, ih, Memory.putBytes, List.length_cons, Nat.add_right_comm, Nat.add_assoc]

/-- A read of the bytes written gives the bytes written. -/
theorem Memory.bytes_putBytes (m : List Host.Cell) (a : Nat) (l : List Byte) :
    Memory.bytes (Memory.putBytes m a l) a l.length = l := by
  apply List.ext_getElem (by simp)
  intro i hi hi'
  simp [Memory.bytes, Memory.byte_putBytes l m a i hi']

theorem memBut_putBytes (m : List Host.Cell) (a : Nat) (l : List Byte) :
    Claims.MemBut a l.length m (Memory.putBytes m a l) := fun x hx => Memory.byte_putBytes_other l m a x hx

end Sys2Proof

namespace Sys2Proof.Machine

open Sys2Proof.Claims

/-! ### Host DMA -/

/-- Bytes written to host memory one list after the other are written as one list. -/
theorem toHost_append (a : Nat) (l l' : List Byte) (s : State) :
    toHost (a + l.length) l' (toHost a l s) = toHost a (l ++ l') s := by
  simp only [toHost, List.zipIdx_append, List.foldl_append, Nat.zero_add, List.zipIdx_eq_map_add (i := l.length),
    List.foldl_map, Nat.add_assoc]

theorem toHost_cons (a : Nat) (b : Byte) (l : List Byte) (s : State) :
    toHost a (b :: l) s = toHost (a + 1) l (toHost a [b] s) := (toHost_append a [b] l s).symm

/-- Bytes written to host memory leave those below them. -/
theorem hostOut_toHost_below {x : Nat} (l : List Byte) : ∀ (a : Nat) (s : State), x < a →
    (toHost a l s).hst.hostOut.find? x = s.hst.hostOut.find? x := by
  induction l with
  | nil => intro a s _; rfl
  | cons b l ih =>
    intro a s hx
    rw [toHost_cons, ih _ _ (by omega)]
    exact SMap.find?_set_other _ _ _ _ (by omega)

/-- Bytes written to host memory stand at their addresses. -/
theorem hostOut_toHost (l : List Byte) : ∀ (a : Nat) (s : State) (k : Nat), k < l.length →
    (toHost a l s).hst.hostOut.find? (a + k) = l[k]? := by
  induction l with
  | nil => intro a s k hk; exact absurd hk (Nat.not_lt_zero k)
  | cons b l ih =>
    intro a s k hk
    rw [toHost_cons]
    cases k with
    | zero =>
      rw [hostOut_toHost_below l _ _ (by omega)]
      exact SMap.find?_set_same _ _ _
    | succ k =>
      rw [show a + (k + 1) = a + 1 + k by omega, ih _ _ k (Nat.lt_of_succ_lt_succ hk), List.getElem?_cons_succ]

theorem toHost_keeps (a : Nat) (l : List Byte) (s : State) : Keeps [.hst] s (toHost a l s) := keeps_hst s _

/-- An access of 8 bytes that succeeds is followed by the next one (R477). -/
theorem dmaMove_succ {d : DmaDesc} {host : List Byte} {n off : Nat} {s t : State} (ht : d.target ≠ 0)
    (ho : off < d.len) (h : dmaStep d host off 8 s = (t, 0)) :
    dmaMove d host (n + 1) off s = dmaMove d host n (off + 8) t := by
  have hc : dmaChunk d off = 8 := if_neg ht
  rw [dmaMove, if_neg (by omega), hc, h]
  rfl

/-- The accesses of a transfer from groom scratch to host memory copy its bytes in order (R477). -/
theorem dmaMove_toHost {d : DmaDesc} (host : List Byte) (ht : d.target = 2) (hd : d.toHost = true)
    (hs : d.daddr + d.len ≤ scratchSize) : ∀ (n off : Nat) (s : State), off + 8 * n = d.len →
    dmaMove d host n off s = (toHost (d.haddr + off) (Memory.bytes s.grm.scratch (d.daddr + off) (8 * n)) s, 0) := by
  intro n
  induction n with
  | zero => intro off s _; rfl
  | succ n ih =>
    intro off s hn
    have hstep : dmaStep d host off 8 s
        = (toHost (d.haddr + off) (Memory.bytes s.grm.scratch (d.daddr + off) 8) s, 0) := by
      rw [dmaStep, if_neg (by omega), if_neg (by omega), if_neg (by omega), if_pos hd]
    have happ := toHost_append (d.haddr + off) (Memory.bytes s.grm.scratch (d.daddr + off) 8)
      (Memory.bytes s.grm.scratch (d.daddr + off + 8) (8 * n)) s
    rw [Memory.bytes_length] at happ
    rw [dmaMove_succ (by omega) (by omega) hstep, ih _ _ (by omega), show 8 * (n + 1) = 8 + 8 * n by omega,
      Memory.bytes_add, ← happ]
    rfl

/-- The accesses of a transfer from host memory to groom scratch copy its bytes in order (R477). -/
theorem dmaMove_fromHost {d : DmaDesc} (host : List Byte) (ht : d.target = 2) (hd : d.toHost = false)
    (hs : d.daddr + d.len ≤ scratchSize) (hl : host.length = d.len) : ∀ (n off : Nat) (s : State),
    off + 8 * n = d.len → dmaMove d host n off s = ({ s with grm := { s.grm with
      scratch := Memory.putBytes s.grm.scratch (d.daddr + off) (host.drop off) } }, 0) := by
  intro n
  induction n with
  | zero =>
    intro off s hn
    rw [List.drop_eq_nil_of_le (by omega)]
    rfl
  | succ n ih =>
    intro off s hn
    have hstep : dmaStep d host off 8 s = ({ s with grm := { s.grm with
        scratch := Memory.putBytes s.grm.scratch (d.daddr + off) ((host.drop off).take 8) } }, 0) := by
      rw [dmaStep, if_neg (by omega), if_neg (by omega), if_neg (by omega), if_neg (by simp [hd])]
    have happ := Memory.putBytes_append ((host.drop off).take 8) ((host.drop off).drop 8) s.grm.scratch (d.daddr + off)
    rw [List.take_append_drop, List.length_take_of_le (by rw [List.length_drop]; omega), List.drop_drop] at happ
    rw [dmaMove_succ (by omega) (by omega) hstep, ih _ _ (by omega), happ]
    rfl

@[simp] theorem dmaRuns_addRun (ch : Nat) (r : DmaRun) (s : State) :
    dmaRuns (addRun ch r s) ch = dmaRuns s ch ++ [r] := SMap.get_put_same _ _ _ _

theorem addRun_keeps (ch : Nat) (r : DmaRun) (s : State) : Keeps [.hst] s (addRun ch r s) := keeps_hst s _

/-- A descriptor that copies to the device starts with host data for its whole length (R477). -/
theorem dmaReady_host {s : State} {ch : Nat} {d : DmaDesc} {host : List Byte} (h : dmaReady s ch d host = true)
    (hb : d.bad = false) (hd : d.toHost = false) : host.length = d.len := by
  simp only [dmaReady, Bool.and_eq_true, hb, hd, Bool.false_or, beq_iff_eq] at h
  obtain ⟨⟨⟨⟨-, hhost⟩, -⟩, -⟩, -⟩ := h
  exact hhost

/-- A good descriptor has a whole number of words, at least one (R478). -/
theorem dmaDesc_len {l : List Byte} (h : (dmaDesc l).bad = false) : 8 * ((dmaDesc l).len / 8) = (dmaDesc l).len := by
  simp only [dmaDesc, Bool.or_eq_false_iff, bne_eq_false_iff_eq] at h ⊢
  omega

/-- A good descriptor of a ring in host memory that may start is performed (R477). -/
theorem doDmaDescriptor_host {ch : Nat} {desc host : List Byte} {s t : State} (hl : dmaLoc s.regs ch = 0)
    (hr : dmaReady s ch (dmaDesc desc) host = true) (hb : (dmaDesc desc).bad = false)
    (hm : dmaMove (dmaDesc desc) host ((dmaDesc desc).len / 8) 0 s = (t, 0)) :
    doDmaDescriptor ch desc host s = addRun ch ⟨dmaNext s ch, 0, (dmaDesc desc).irq, false⟩ t := by
  have hf : dmaFetch ch (dmaNext s ch) desc s = (s, 0, desc) := if_pos hl
  simp [doDmaDescriptor, hf, hr, dmaPerform, hb, hm]

/-! ### Completion of a descriptor -/

theorem dmaBack_host {ch : Nat} (idx : Nat) (st : Byte) {s : State} (hl : dmaLoc s.regs ch = 0) :
    dmaBack ch idx st s = toHost (dmaSlot s.regs ch idx + 21) [st] s := if_pos hl

/-- The endpoint once a descriptor of a ring in host memory has completed, before its interrupt: STATUS written back,
and the descriptors still in progress (R477, R478). -/
def finishHst (ch : Nat) (r : DmaRun) (rest : List DmaRun) (s : State) : Hst :=
  let h := (toHost (dmaSlot s.regs ch r.idx + 21) [BitVec.ofNat 8 (0x80 + r.status)] s).hst
  { h with dma := h.dma.put [] ch (if r.failed then [] else rest) }

/-- The channel's registers once a descriptor has completed: HEAD, and the status of a failure (R477, R478). -/
def finishRegs (ch : Nat) (r : DmaRun) (m : SMap W32) : SMap W32 :=
  let m' := rset m (dmaKey 0x140 ch) 0 16 ((r.idx + 1) % dmaSize m ch)
  if r.status = 0 then m' else rset m' (dmaKey 0x140 ch) 24 4 r.status

/-- The registers of a channel that has stopped: EN cleared and STOPPED set (R478). -/
def stopRegs (ch : Nat) (m : SMap W32) : SMap W32 := rset (rset m (dmaKey 0x12C ch) 31 1 0) (dmaKey 0x140 ch) 31 1 1

theorem dmaFinish_done {ch : Nat} {r : DmaRun} (rest : List DmaRun) {s : State} (hl : dmaLoc s.regs ch = 0)
    (hr : r.failed = false) : dmaFinish ch r rest s =
      raiseIf r.irq { s with hst := finishHst ch r rest s, regs := finishRegs ch r s.regs } 0 ch := by
  unfold dmaFinish
  rw [dmaBack_host _ _ hl, if_neg (by simp [hr])]
  rfl

theorem dmaFinish_failed {ch : Nat} {r : DmaRun} (rest : List DmaRun) {s : State} (hl : dmaLoc s.regs ch = 0)
    (hr : r.failed = true) : dmaFinish ch r rest s =
      raiseInt { s with hst := finishHst ch r rest s, regs := stopRegs ch (finishRegs ch r s.regs) } 0 8 := by
  unfold dmaFinish
  rw [dmaBack_host _ _ hl, if_pos hr]
  rfl

theorem finishHst_status (ch : Nat) (r : DmaRun) (rest : List DmaRun) (s : State) :
    (finishHst ch r rest s).hostOut.find? (dmaSlot s.regs ch r.idx + 21) = some (BitVec.ofNat 8 (0x80 + r.status)) :=
  SMap.find?_set_same _ _ _

theorem finishHst_runs (ch : Nat) (r : DmaRun) (rest : List DmaRun) (s : State) :
    (finishHst ch r rest s).dma.get [] ch = if r.failed then [] else rest := SMap.get_put_same _ _ _ _

/-- A field of a register that does not meet the one set keeps its value. -/
theorem rfld_rset_disjoint (m : SMap W32) (k lo len v lo' len' : Nat) (hn : lo' + len' ≤ 32)
    (h : lo' + len' ≤ lo ∨ lo + len ≤ lo') : rfld (rset m k lo len v) k lo' len' = rfld m k lo' len' := by
  rw [rfld, rget_rset_same, fld_setFld_other _ _ _ _ _ _ hn h]
  rfl

/-- HEAD names the descriptor after the one completed, modulo the ring's size (R477). -/
theorem finishRegs_head (ch : Nat) (r : DmaRun) (m : SMap W32) :
    rfld (finishRegs ch r m) (dmaKey 0x140 ch) 0 16 = (r.idx + 1) % dmaSize m ch := by
  have hsize : dmaSize m ch ≤ 2 ^ 15 := Nat.pow_le_pow_right (by decide)
    (Nat.le_of_lt_succ (BitVec.isLt (BitVec.extractLsb' 4 4 (rget m (dmaKey 0x12C ch)))))
  have hpos : 0 < dmaSize m ch := Nat.two_pow_pos _
  have hlt := Nat.mod_lt (r.idx + 1) hpos
  have hhead : rfld (rset m (dmaKey 0x140 ch) 0 16 ((r.idx + 1) % dmaSize m ch)) (dmaKey 0x140 ch) 0 16
      = (r.idx + 1) % dmaSize m ch := by
    rw [rfld_rset_same _ _ _ _ _ (by decide), Nat.mod_eq_of_lt (by omega)]
  unfold finishRegs
  split
  · exact hhead
  · rw [rfld_rset_disjoint _ _ _ _ _ _ _ (by decide) (by decide), hhead]

theorem stopRegs_head (ch : Nat) (m : SMap W32) :
    rfld (stopRegs ch m) (dmaKey 0x140 ch) 0 16 = rfld m (dmaKey 0x140 ch) 0 16 := by
  rw [stopRegs, rfld_rset_disjoint _ _ _ _ _ _ _ (by decide) (by decide), rfld,
    rget_rset_other _ _ _ _ _ _ (by unfold dmaKey rkey; omega)]
  rfl

theorem stopRegs_en (ch : Nat) (m : SMap W32) : (rget (stopRegs ch m) (dmaKey 0x12C ch)).getLsbD 31 = false := by
  rw [stopRegs, rget_rset_other _ _ _ _ _ _ (by unfold dmaKey rkey; omega), rget_rset_same,
    getLsbD_setFld_bit _ _ _ (by decide)]
  rfl

theorem stopRegs_stopped (ch : Nat) (m : SMap W32) : (rget (stopRegs ch m) (dmaKey 0x140 ch)).getLsbD 31 = true := by
  rw [stopRegs, rget_rset_same, getLsbD_setFld_bit _ _ _ (by decide)]
  rfl

/-! ### The rows -/

/-- BAR2_ACCESS with the data of one transfer writes that transfer (R472). -/
theorem bar2Access_one {off : BitVec 22} {l : List Byte} {s : State} (hs : s.pwr.stabled = false)
    (hd : domOn s.pwr 24 = true) (hl : 0 < l.length) (hp : bar2Piece off.toNat l.length = l.length) :
    exec (.bar2Access true off l) s = .next (bar2Write off.toNat l s) := by
  rw [← bar2Writes_one s (List.ne_nil_of_length_pos hl) hp]
  exact when_next hd hs

theorem bar2Piece_short {off n : Nat} (hn : n < 4) (hfit : off % 4 + n ≤ 4) : bar2Piece off n = n := by
  rw [bar2Piece, if_neg (by omega)]
  exact Nat.min_eq_left (by omega)

/-- TELEMETRY_READ returns the register's value and changes the debug copies alone (R471). -/
theorem telemetryRead_completes {off : BitVec 25} {b : Blk} {i : Nat} {s : State} (hs : s.pwr.stabled = false)
    (hd : domOn s.pwr 24 = true) (hp : pageOf (off.toNat / 4096) = some (b, i))
    (hon : domOn s.pwr (pageDomain b i) = true) (hc : s.pwr.closing = []) (hdbg : dbgOnly off.toNat = false)
    (ho : off.toNat % 4096 ≠ 0x020) (hl : latched b (off.toNat % 4096) = false) :
    ∃ t, exec (.telemetryRead off) s = .next t ∧
      t.hst.out = regValue (accessPackets .host 3 off.toNat s) .tap off.toNat ∧
      Keeps [.hst, .dbg, .clk, .flow] s t := by
  have hsome : (pageOf (off.toNat / 4096)).isSome = true := by rw [hp]; rfl
  have hreach : reachPage off.toNat (accessPackets .host 3 off.toNat s) = accessPackets .host 3 off.toNat s :=
    reachPage_on _ _ (by simpa using hc) (by simpa [hp] using hon)
  obtain ⟨hout, hkeeps⟩ := readPeek_telemetry (accessPackets .host 3 off.toNat s) hp hdbg ho hl
  refine ⟨_, when_next hd hs, ?_⟩
  rw [doTelemetryRead, if_pos hsome, hreach]
  exact ⟨hout, ((accessPackets_keeps _ _ _ s).trans hkeeps).mono⟩

/-- DMA_DESCRIPTOR of a good descriptor of a ring in host memory, from groom scratch to host memory: it copies its
bytes (R477). -/
theorem dmaDescriptor_toHost {ch : Nat} {desc host : List Byte} {s : State} (hloc : dmaLoc s.regs ch = 0)
    (hbad : (dmaDesc desc).bad = false) (htgt : (dmaDesc desc).target = 2) (hdir : (dmaDesc desc).toHost = true)
    (hfit : (dmaDesc desc).daddr + (dmaDesc desc).len ≤ scratchSize)
    (hready : dmaReady s ch (dmaDesc desc) host = true) :
    let d := dmaDesc desc
    let t := doDmaDescriptor ch desc host s
    dmaRuns t ch = dmaRuns s ch ++ [⟨dmaNext s ch, 0, d.irq, false⟩] ∧ t.grm = s.grm ∧
      (∀ k < d.len, t.hst.hostOut.find? (d.haddr + k) = some (Memory.byte s.grm.scratch (d.daddr + k))) ∧
      Keeps [.grm, .hst] s t := by
  intro d t
  have hwords : 8 * (d.len / 8) = d.len := dmaDesc_len hbad
  have hmove := dmaMove_toHost host htgt hdir hfit (d.len / 8) 0 s (by rw [Nat.zero_add]; exact hwords)
  rw [hwords] at hmove
  simp only [t, doDmaDescriptor_host hloc hready hbad hmove]
  refine ⟨dmaRuns_addRun _ _ _, rfl, fun k hk => ?_, ((toHost_keeps _ _ s).trans (addRun_keeps _ _ _)).mono⟩
  rw [← Memory.bytes_getElem? _ hk]
  exact hostOut_toHost _ d.haddr s k (by rw [Memory.bytes_length]; exact hk)

/-- DMA_DESCRIPTOR of a good descriptor of a ring in host memory, from host memory to groom scratch: it copies its
bytes (R477). -/
theorem dmaDescriptor_fromHost {ch : Nat} {desc host : List Byte} {s : State} (hloc : dmaLoc s.regs ch = 0)
    (hbad : (dmaDesc desc).bad = false) (htgt : (dmaDesc desc).target = 2) (hdir : (dmaDesc desc).toHost = false)
    (hfit : (dmaDesc desc).daddr + (dmaDesc desc).len ≤ scratchSize)
    (hready : dmaReady s ch (dmaDesc desc) host = true) :
    let d := dmaDesc desc
    let t := doDmaDescriptor ch desc host s
    dmaRuns t ch = dmaRuns s ch ++ [⟨dmaNext s ch, 0, d.irq, false⟩] ∧
      Memory.bytes t.grm.scratch d.daddr d.len = host ∧ MemBut d.daddr d.len s.grm.scratch t.grm.scratch ∧
      t.hst.hostOut = s.hst.hostOut ∧ Keeps [.grm, .hst] s t := by
  intro d t
  have hhost : host.length = d.len := dmaReady_host hready hbad hdir
  have hmove := dmaMove_fromHost host htgt hdir hfit hhost (d.len / 8) 0 s
    (by rw [Nat.zero_add]; exact dmaDesc_len hbad)
  simp only [t, doDmaDescriptor_host hloc hready hbad hmove, ← hhost]
  exact ⟨dmaRuns_addRun _ _ _, Memory.bytes_putBytes _ _ _, memBut_putBytes _ _ _, rfl,
    ((keeps_grm s _).trans (addRun_keeps _ _ _)).mono⟩

theorem dmaComplete_next {ch : Fin 8} {r : DmaRun} {rest : List DmaRun} {s : State} (hs : s.pwr.stabled = false)
    (hd : domOn s.pwr 24 = true) (hnet : netIdle s.rls = true) (hw : dmaWaits s = false)
    (hruns : dmaRuns s ch = r :: rest) : exec (.dmaComplete ch) s = .next (dmaFinish ch r rest s) := by
  have hdo : doDmaComplete ch s = dmaFinish ch r rest s := by simp [doDmaComplete, hruns]
  rw [← hdo]
  exact when_next (by simp [hruns, hd, hw, hnet]) hs

/-- What every completion of a descriptor of a ring in host memory does: STATUS written back and HEAD advanced
(R477). -/
theorem dmaFinish_acts (ch : Nat) (r : DmaRun) (rest : List DmaRun) {s : State} (hl : dmaLoc s.regs ch = 0) :
    (dmaFinish ch r rest s).hst.hostOut.find? (dmaSlot s.regs ch r.idx + 21)
        = some (BitVec.ofNat 8 (0x80 + r.status)) ∧
      rfld (dmaFinish ch r rest s).regs (dmaKey 0x140 ch) 0 16 = (r.idx + 1) % dmaSize s.regs ch ∧
      dmaRuns (dmaFinish ch r rest s) ch = (if r.failed then [] else rest) ∧
      Keeps [.hst, .regs] s (dmaFinish ch r rest s) := by
  have hkey : dmaKey 0x140 ch ≠ 0 + 0x018 := by unfold dmaKey rkey; omega
  have hkeeps (m : SMap W32) := (keeps_hst s (finishHst ch r rest s)).trans (keeps_regs _ m)
  have hruns := finishHst_runs ch r rest s
  cases hf : r.failed with
  | false =>
    rw [hf] at hruns
    rw [dmaFinish_done rest hl hf, raiseIf_hostOut, rfld, raiseIf_rget _ _ _ _ _ hkey, dmaRuns, raiseIf_dma]
    exact ⟨finishHst_status ch r rest s, finishRegs_head ch r s.regs, hruns,
      ((hkeeps _).trans (raiseIf_keeps _ _ _ _)).mono⟩
  | true =>
    rw [hf] at hruns
    rw [dmaFinish_failed rest hl hf, raiseInt_hostOut, rfld, raiseInt_rget _ _ _ _ hkey, dmaRuns, raiseInt_dma]
    exact ⟨finishHst_status ch r rest s, (stopRegs_head ch _).trans (finishRegs_head ch r s.regs),
      hruns, ((hkeeps _).trans (raiseInt_keeps _ _ _)).mono⟩

/-- A completion without a failure raises DMA_DONE where the descriptor asks for it (R477). -/
theorem dmaFinish_irq {ch : Nat} {r : DmaRun} (rest : List DmaRun) {s : State} (hc : ch < 8)
    (hl : dmaLoc s.regs ch = 0) (hf : r.failed = false) (hi : r.irq = true) :
    intBit (dmaFinish ch r rest s) 0 ch = true := by
  rw [dmaFinish_done rest hl hf, hi]
  exact intBit_raiseInt _ 0 ch (by omega)

/-- A failure stops its channel: EN cleared, STOPPED and DMA_ERR set (R478). -/
theorem dmaFinish_stops {ch : Nat} {r : DmaRun} (rest : List DmaRun) {s : State} (hl : dmaLoc s.regs ch = 0)
    (hf : r.failed = true) :
    (rget (dmaFinish ch r rest s).regs (dmaKey 0x12C ch)).getLsbD 31 = false ∧
      (rget (dmaFinish ch r rest s).regs (dmaKey 0x140 ch)).getLsbD 31 = true ∧
      intBit (dmaFinish ch r rest s) 0 8 = true := by
  rw [dmaFinish_failed rest hl hf, raiseInt_rget _ _ _ _ (by unfold dmaKey rkey; omega),
    raiseInt_rget _ _ _ _ (by unfold dmaKey rkey; omega)]
  exact ⟨stopRegs_en ch _, stopRegs_stopped ch _, intBit_raiseInt _ 0 8 (by decide)⟩

end Sys2Proof.Machine

open Sys2Proof Sys2Proof.Machine Sys2Proof.Claims

/-- Settles O53, row by row: a whole transfer of BAR2 is one write, an access of DMA to groom scratch cannot fail inside
it, and a completion's registers are those of `finishRegs` and `stopRegs`. -/
theorem barAccessesAndDma : Obligations.BarAccessesAndDma := by
  unfold Obligations.BarAccessesAndDma
  refine ⟨fun off l s hs hd => ⟨⟨_, when_next hd hs, rfl, keeps_hst s _⟩, fun hl hp hw => ?_,
    fun h0 hl hfit => ?_, fun hl hp hw hi => ?_⟩, fun off b i s => telemetryRead_completes, fun off s hs hd hp => ?_,
    fun ch desc host s hs hlen hpend hloc => ?_, fun ch r rest s hs hd hnet hw hruns hloc => ?_⟩
  · rw [bar2Access_one hs hd (by omega) hp, bar2Write_window hl hw]
    exact ⟨_, rfl, Memory.bytes_putBytes _ _ _, memBut_putBytes _ _ _, rfl, keeps_grm s _⟩
  · rw [bar2Access_one hs hd h0 (bar2Piece_short hl hfit), bar2Write_short hl]
    exact ⟨_, rfl, badAccess_acts 0xA 1 _ s (by omega)⟩
  · rw [bar2Access_one hs hd (by omega) hp, bar2Write_outside hl hw hi]
    exact ⟨_, rfl, badAccess_acts 0xD 1 _ s (by omega)⟩
  · obtain ⟨herr, hint, hregs, hkeeps⟩ := badAccess_acts 0xB 0 off.toNat s off.isLt
    rw [Nat.zero_mul, Nat.add_zero] at herr
    exact ⟨_, when_next (by rw [hd, hp]; rfl) hs, rfl, herr, hint, hregs, (hkeeps.trans (answer_keeps _ _)).mono⟩
  · intro d hnet hbad htgt hfit hready
    refine ⟨_, when_next (by simp [hlen, hpend, hnet]) hs, ?_⟩
    cases hdir : d.toHost with
    | true =>
      obtain ⟨hrun, hgrm, hout, hkeeps⟩ := dmaDescriptor_toHost hloc hbad htgt hdir hfit hready
      exact ⟨hrun, fun h => absurd h (by decide), fun _ => ⟨hgrm, hout⟩, hkeeps⟩
    | false =>
      obtain ⟨hrun, hbytes, hbut, hout, hkeeps⟩ := dmaDescriptor_fromHost hloc hbad htgt hdir hfit hready
      exact ⟨hrun, fun _ => ⟨hbytes, hbut, hout⟩, fun h => absurd h (by decide), hkeeps⟩
  · obtain ⟨hstatus, hhead, hrest, hkeeps⟩ := dmaFinish_acts ch r rest hloc
    exact ⟨_, dmaComplete_next hs hd hnet hw hruns, hstatus, hhead,
      fun hf => ⟨by rw [hrest, hf, if_neg Bool.false_ne_true], dmaFinish_irq rest ch.isLt hloc hf⟩,
      fun hf => ⟨by rw [hrest, hf, if_pos rfl], dmaFinish_stops rest hloc hf⟩, hkeeps⟩
end

section
/-!
PROOFS. Register accesses with an act of their own: what a read of a block's register and a write of a register come to,
and the statement about them (R9, R100, R176, R178, R181, R278, R282, R389, R470, R480, R482).
-/

namespace Sys2Proof.Machine

open Sys2Proof.Claims

/-! ### Pages and keys -/

/-- The offset of a page that is found, and the place in it, give the offset. -/
theorem pg_of_pageOf {off : Nat} {b : Blk} {i : Nat} (hp : pageOf (off / 4096) = some (b, i)) :
    pg b i + off % 4096 = off := by
  simp only [pageOf, Option.map_eq_some_iff, Prod.mk.injEq] at hp
  obtain ⟨b', hfind, rfl, rfl⟩ := hp
  have hin := List.find?_some hfind
  simp only [Bool.and_eq_true, decide_eq_true_eq] at hin
  rw [pg, Nat.add_sub_cancel' hin.1]
  omega

theorem page_div (page : Nat) {o : Nat} (ho : o < 4096) : (page * 4096 + o) / 4096 = page := by omega

theorem page_mod (page : Nat) {o : Nat} (ho : o < 4096) : (page * 4096 + o) % 4096 = o := by omega

/-- The key of a register keeps the register's offset. -/
theorem keyOf_mod (m : SMap W32) (path : Nat) {off : Nat} (x : Reg) (ho : off < 2 ^ 26) :
    keyOf m path off x % 2 ^ 26 = off := by
  unfold keyOf rkey
  split
  · omega
  · split <;> omega

theorem word32_toNat {n : Nat} (h : n < 2 ^ 32) : (word32 n).toNat = n := by
  rw [word32, BitVec.toNat_ofNat, Nat.mod_eq_of_lt h]

/-! ### Reads -/

/-- A read by a requester that may read is an ordinary read on the state that the access's packets leave. -/
theorem readBy_readable {r : Requester} {off : Nat} {s : State} (h : Readable r off s)
    (hp : (pageOf (off / 4096)).isSome = true) : readBy r off s = readPlain off (accessPackets r 0 off s) := by
  obtain ⟨hr, ht, hb, hc, hd⟩ := h
  have hact := fun act => viaRead_act r off act id s hr ht hb hc hd
  cases r with
  | debug p => cases p <;> simp_all
  | host => rw [readBy, hact, hostRead, if_pos hp]
  | groom g => exact hact _
  | loader => exact hact _

theorem readCommon_blk {o : Nat} (s : State) (b : Blk) (i : Nat) (ho : 0x100 ≤ o) : readCommon s b i o = none := by
  rw [readCommon, if_neg (by omega), if_neg (by omega), if_neg (by omega), if_neg (by omega)]

/-- A read of a register that stands for other state answers it, with the read's own effect (R9). -/
theorem readBy_blk {r : Requester} {off : Nat} {s : State} {b : Blk} {i : Nat} {v : W32} (h : Readable r off s)
    (hp : pageOf (off / 4096) = some (b, i)) (hd : dbgOnly off = false) (ho : 0x100 ≤ off % 4096)
    (hq : off ≠ 0x6124)
    (hv : readBlk (accessPackets r 0 off s) .tap b i (off % 4096) = some v) :
    ∃ u, Keeps [.flow] s u ∧ readBy r off s = answer v (readEffect b i (off % 4096) u) := by
  refine ⟨accessPackets r 0 off s, accessPackets_keeps r 0 off s, ?_⟩
  rw [readBy_readable h (by rw [hp]; rfl)]
  have hval : regValue (accessPackets r 0 off s) .tap off = v := by
    simp [regValue, hp, readCommon_blk _ _ _ ho, hv]
  have hplain : ∀ u, readPlain off u = answer (regValue u .tap off) (passQc off (readEffect b i (off % 4096) u)) := by
    intro u
    simp only [readPlain, hp, hd, Bool.false_eq_true, if_false]
    rw [if_neg (by omega)]
  rw [hplain, hval, passQc, if_neg hq]

/-- A read of TCK_COUNT_LO latches the high half (R100). -/
theorem readEffect_count (s : State) :
    readEffect .tck 0 0x110 s = { s with regs := rput s.regs 0x3114 (s.tck.count.extractLsb' 32 32) } := by
  simp [readEffect, latches, part32]

/-- A read of TCK_LOG_W3 pops the event log (R181). -/
theorem readEffect_log (s : State) :
    readEffect .tck 0 0x190 s = { s with integ := { s.integ with log := s.integ.log.drop 1 } } := by
  simp [readEffect, latches]

/-- The registers after fraction and seconds of a clock are latched (R389). -/
def latchTime (i : Nat) (s : State) : SMap W32 :=
  let x := instOf s.ptp i
  let p := pg .ptp i
  rput (rput (rput s.regs (p + 0x114) x.frac) (p + 0x118) (x.sec.extractLsb' 0 32))
    (p + 0x11C) (word32 (fld x.sec 32 16))

/-- A read of PTP_TIME_NS latches fraction and seconds (R389). -/
theorem readEffect_time (i : Nat) (s : State) :
    readEffect .ptp i 0x110 s = { s with regs := latchTime i s } := by
  simp [readEffect, latches, latchTime, part32]

theorem rget_latchTime (i : Nat) (s : State) (k : Nat) : rget (latchTime i s) k =
    if k = pg .ptp i + 0x11C then word32 (fld (instOf s.ptp i).sec 32 16)
    else if k = pg .ptp i + 0x118 then (instOf s.ptp i).sec.extractLsb' 0 32
    else if k = pg .ptp i + 0x114 then (instOf s.ptp i).frac else rget s.regs k := by
  simp only [latchTime, rget_rput]

/-! ### Writes -/

theorem plainWrite_keeps (r : Requester) (off : Nat) (v : W32) (s : State) :
    Keeps [.regs, .dbg, .pwr] s (plainWrite r off v s) := by
  intro p hp
  cases p <;> simp_all [Part.same]

/-- The registers after a write of one: that register, and perhaps the mark of a full tack room (R458). -/
theorem plainWrite_regs {r : Requester} {off : Nat} {x : Reg} (v : W32) (s : State) (hx : regAt off = some x) :
    let k := keyOf s.regs (pathOf r) off x
    let m := rput s.regs k (writeFields s.regs off x (rget s.regs k) v).new
    (plainWrite r off v s).regs = m ∨ (plainWrite r off v s).regs = rset m 0x4128 29 1 1 := by
  unfold plainWrite fieldWrite
  simp only [hx]
  split
  · exact .inr rfl
  · exact .inl rfl

/-- A write of a register gives its fields their checked values (R481), and leaves every other register but PWR_STATUS,
which marks a full tack room (R458). -/
theorem plainWrite_register {r : Requester} {off : Nat} {x : Reg} (v : W32) {s : State} (hx : regAt off = some x)
    (hk : keyOf s.regs (pathOf r) off x ≠ 0x4128) :
    rget (plainWrite r off v s).regs (keyOf s.regs (pathOf r) off x)
        = (writeFields s.regs off x (rget s.regs (keyOf s.regs (pathOf r) off x)) v).new ∧
      RegsBut [keyOf s.regs (pathOf r) off x, 0x4128] s (plainWrite r off v s) := by
  have hmem : ∀ j, j ∉ [keyOf s.regs (pathOf r) off x, 0x4128] →
      j ≠ keyOf s.regs (pathOf r) off x ∧ j ≠ 0x4128 := by
    simp
  rcases plainWrite_regs (r := r) v s hx with h | h
  · refine ⟨?_, fun j hj => ?_⟩ <;> rw [h]
    · exact rget_rput_same _ _ _
    · exact rget_rput_other _ _ _ _ (hmem j hj).1
  · refine ⟨?_, fun j hj => ?_⟩ <;> rw [h]
    · rw [rget_rset_other _ _ _ _ _ _ hk, rget_rput_same]
    · rw [rget_rset_other _ _ _ _ _ _ (hmem j hj).2, rget_rput_other _ _ _ _ (hmem j hj).1]

theorem regsBut_rput {s t : State} {k : Nat} {v : W32} (h : t.regs = rput s.regs k v) : RegsBut [k] s t := by
  intro j hj
  rw [h]
  exact rget_rput_other _ _ _ _ (by simpa using hj)

/-- A word-aligned write below the telemetry window is a write of the page's block (R9, R468). -/
theorem doRegisterWrite_blk {r : Requester} {off : Nat} (v : W32) {s : State} {b : Blk} {i : Nat}
    (hw : Writable r off s) (h4 : off % 4 = 0) (hlt : off < 2 ^ 25) (hp : pageOf (off / 4096) = some (b, i))
    (ho : 0x100 ≤ off % 4096) :
    doRegisterWrite r off v s = blkWrite r b i (off % 4096) v (accessPackets r 0 off s) := by
  have hs : s.pwr.stabled = false := by
    obtain ⟨hr, -⟩ := hw
    simp only [runs, Bool.and_eq_true, Bool.not_eq_true'] at hr
    exact hr.left
  have halias : aliasWrite r off = false := by
    rw [aliasWrite, decide_eq_false (p := 2 ^ 25 ≤ off) (by omega), Bool.and_false, Bool.false_and]
  rw [doRegisterWrite, hs, if_neg (by decide), if_neg (by omega), halias, if_neg (by decide), viaWrite_writable hw]
  simp only [regWrite, hp]
  rw [if_neg (by omega), if_neg (by omega), if_neg (by omega)]

/-! ### CLAMP_REPORT -/

/-- An ordinary read of a page's CLAMP_REPORT (R482). -/
theorem readBy_clamp {r : Requester} {page : Nat} {s : State} (h : Readable r (page * 4096 + 0x020) s)
    (hp : (pageOf page).isSome = true) (hd : dbgOnly (page * 4096) = false) (hdead : deadPage s (page * 4096) = false) :
    readBy r (page * 4096 + 0x020) s = answer (clampRead page s.dbg).1
      { accessPackets r 0 (page * 4096 + 0x020) s with dbg := (clampRead page s.dbg).2 } := by
  have hdiv : (page * 4096 + 0x020) / 4096 = page := page_div page (by decide)
  have hdiv' : page * 4096 / 4096 = page := Nat.mul_div_cancel page (by decide)
  have hmod : (page * 4096 + 0x020) % 4096 = 0x020 := page_mod page (by decide)
  rw [readBy_readable h (by rw [hdiv]; exact hp)]
  obtain ⟨⟨b, i⟩, hbi⟩ := Option.isSome_iff_exists.1 hp
  have hd' : dbgOnly (page * 4096 + 0x020) = false := by simpa [dbgOnly, hdiv, hdiv'] using hd
  have hdead' : deadPage (accessPackets r 0 (page * 4096 + 0x020) s) (page * 4096 + 0x020) = false := by
    simpa [deadPage, hdiv, hdiv'] using hdead
  simp [readPlain, hdiv, hbi, hd', hmod, hdead']

/-! ### Counters -/

theorem rget_foldl_clear (o n : Nat) : ∀ (m : SMap W32) (k : Nat), k < n →
    rget ((List.range n).foldl (fun m k => rput m (rkey o k) 0) m) (rkey o k) = 0 := by
  induction n with
  | zero => intro m k hk; omega
  | succ n ih =>
    intro m k hk
    rw [List.range_succ, List.foldl_append, List.foldl_cons, List.foldl_nil, rget_rput]
    split
    · rfl
    · rename_i hne
      exact ih m k (Nat.lt_of_le_of_ne (Nat.le_of_lt_succ hk) fun h => hne (by rw [h]))

theorem countsClear_counts (m : SMap W32) (k : Nat) (hk : k < 10) : rget (countsClear m) (rkey 0x3178 k) = 0 := by
  rw [countsClear, rget_rput_other _ _ _ _ (by unfold rkey; omega)]
  exact rget_foldl_clear 0x3178 10 m k hk

theorem countsClear_restart (m : SMap W32) : rget (countsClear m) 0x3170 = 0 := by
  rw [countsClear, rget_rput_same]

/-! ### Scrubbers -/

theorem scbOf_of_integ {s t : State} (h : t.integ = s.integ) (q : Nat) : scbOf t q = scbOf s q := by
  simp [scbOf, h]

theorem scbOf_raiseInt (s : State) (page k q : Nat) : scbOf (raiseInt s page k) q = scbOf s q :=
  scbOf_of_integ (by simp) q

theorem scbOf_logRecs (fs : List FaultRec) (s : State) (q : Nat) : scbOf (logRecs fs s) q = scbOf s q := by
  simp [logRecs, scbOf]

/-- The vote of a scrubber's configuration leaves its state machine alone (R176). -/
theorem voteCfg_machine (q : QuadId) (s : State) :
    (scbOf (voteCfg q s) q).a = (scbOf s q).a ∧ (scbOf (voteCfg q s) q).b = (scbOf s q).b ∧
      (scbOf (voteCfg q s) q).stopped = (scbOf s q).stopped := by
  simp only [voteCfg]
  split
  · exact ⟨rfl, rfl, rfl⟩
  · rw [scbOf_raiseInt, scbOf_logRecs, scbOf_setScb_same]
    exact ⟨rfl, rfl, rfl⟩

/-- A scrubber with ENABLE in all three copies of its configuration. -/
def scbEnabled (e : Bool) (c : Scb) : Scb :=
  { c with c0 := { c.c0 with enable := e }, c1 := { c.c1 with enable := e }, c2 := { c.c2 with enable := e } }

/-- A scrubber whose state machine begins again at row 0. -/
def scbAnew (c : Scb) : Scb := { c with a := {}, b := {}, stopped := false }

theorem scbEnabled_enable (e : Bool) (c : Scb) : (scbCfg (scbEnabled e c)).enable = e := by
  cases e <;> rfl

/-- The run states in which a scrubber may be restarted (R178). -/
abbrev scbStops : List RunState := [.empty, .loaded, .halted, .faulted]

/-- A state after a write of SCB_CTRL, before RESTART acts: the vote, the fields, and ENABLE in all copies (R176). -/
def scbVoted (r : Requester) (q : QuadId) (v : W32) (s : State) : State :=
  let t := plainWrite r (pg .scb q + 0x100) v (voteCfg q s)
  { t with integ := setScb t.integ q (scbEnabled (v.getLsbD 0) (scbOf t q)) }

theorem scbWrite_restart (r : Requester) (q : QuadId) (v : W32) (s : State) (hv : v.getLsbD 1 = true) :
    scbWrite r q v s = scbRestart q (scbVoted r q v s) := by
  simp only [scbWrite, hv, if_true]
  rfl

theorem scbOf_scbVoted (r : Requester) (q : QuadId) (v : W32) (s : State) :
    scbOf (scbVoted r q v s) q = scbEnabled (v.getLsbD 0) (scbOf (voteCfg q s) q) := by
  rw [scbVoted, scbOf_setScb_same, scbOf_of_integ (s := voteCfg q s) (by simp)]

theorem scbRestart_stops (q : QuadId) (s : State) (h : runIn s scbStops = true) :
    scbOf (scbRestart q s) q = scbAnew (scbOf s q) := by
  rw [scbRestart, if_pos h, scbOf_setScb_same]
  rfl

theorem scbRestart_runs (q : QuadId) (s : State) (h : runIn s scbStops = false) :
    scbRestart q s = raiseInt s (pg .scb q) 3 := by
  rw [scbRestart, if_neg (by simp [h])]

/-! ### The ARY and RLS pages -/

theorem rlsWrite_starve (r : Requester) (i : Nat) (v : W32) (s : State) :
    rlsWrite r i 0x118 v s = clearLosses i (plainWrite r (pg .rls i + 0x118) v s) := rfl

theorem rlsWrite_bucket (r : Requester) (i : Nat) {c : Nat} (v : W32) (s : State) (hc : c < 4) :
    rlsWrite r i (0x108 + 4 * c) v s = tbSettle i c s.regs (plainWrite r (pg .rls i + (0x108 + 4 * c)) v s) := by
  rw [rlsWrite, if_neg (by omega), if_pos (by omega), Nat.add_sub_cancel_left, Nat.mul_div_cancel_left c (by decide)]

theorem clearLosses_net (i : Nat) (s : State) :
    (clearLosses i s).rls.net.length = s.rls.net.length ∧
      ∀ x ∈ (clearLosses i s).rls.net, stopOf x.place = i → x.losses = 0 := by
  refine ⟨List.length_map _, fun x hx hi => ?_⟩
  obtain ⟨y, -, rfl⟩ := List.mem_map.1 hx
  split
  · rfl
  · rename_i hne
    simp_all

/-- Loss counts that begin again change no more of the network than those counts (R282). -/
theorem clearLosses_same {s t : State} (i : Nat) (h : Part.rls.same s t) :
    Part.rls.same { s with rls := { s.rls with net := (clearLosses i t).rls.net } } (clearLosses i t) := by
  have hnet := congrArg (fun q : Rls => { q with net := (clearLosses i t).rls.net }) h
  exact hnet

theorem clearLosses_keeps (i : Nat) (s : State) : Keeps [.rls, .flow] s (clearLosses i s) := keeps_rls s _

theorem tbSettle_keeps (i c : Nat) (old : SMap W32) (s : State) : Keeps [.flow] s (tbSettle i c old s) :=
  keeps_flow rfl rfl

/-- The bucket after a write of its register: what was missing still is, as far as the new BURST has it (R278, R282). -/
theorem tbSettle_tokens (i c : Nat) (old : SMap W32) (s : State) :
    (tbSettle i c old s).rls.tokens.get 0 (i * 4 + c) =
      rfld s.regs (tbOff i c) 0 12 * 1500 - Nat.min (rfld s.regs (tbOff i c) 0 12 * 1500)
        (rfld old (tbOff i c) 0 12 * 1500 - Nat.min (rfld old (tbOff i c) 0 12 * 1500)
          (s.rls.tokens.get 0 (i * 4 + c) -
            (railCycle s.clk.ps - s.rls.refill.get 0 (i * 4 + c)) * rfld old (tbOff i c) 16 11)) :=
  SMap.get_put_same _ _ _ _

/-- Of the rails, a write of an RLS register but RLS_STARVE changes the buckets alone. -/
theorem rlsWrite_flow (r : Requester) (i : Nat) {o : Nat} (v : W32) (s : State) (ho : o ≠ 0x118) :
    Keeps [.flow] (plainWrite r (pg .rls i + o) v s) (rlsWrite r i o v s) := by
  rw [rlsWrite, if_neg ho]
  split
  · exact tbSettle_keeps i _ _ _
  · exact keeps_flow rfl rfl

/-- What a write of an RLS register does beside its fields is done in the rails. -/
theorem rlsWrite_keeps (r : Requester) (i o : Nat) (v : W32) (s : State) :
    Keeps [.rls, .flow] (plainWrite r (pg .rls i + o) v s) (rlsWrite r i o v s) := by
  by_cases ho : o = 0x118
  · rw [ho, rlsWrite_starve]
    exact clearLosses_keeps i _
  · exact (rlsWrite_flow r i v s ho).mono

/-- The fields of a register of an ARY or RLS page, after the packets of the write: their checked values, and no other
part of the chip but its marks changes (R458, R481). -/
theorem plainWrite_access {r : Requester} {off : Nat} (v : W32) (s : State) {b : Blk} {i : Nat} {x : Reg}
    (hlt : off < 2 ^ 25) (hp : pageOf (off / 4096) = some (b, i)) (hb : b = .ary ∨ b = .rls)
    (hx : regAt off = some x) :
    let k := keyOf s.regs (pathOf r) off x
    let t := plainWrite r off v (accessPackets r 0 off s)
    rget t.regs k = (writeFields s.regs off x (rget s.regs k) v).new ∧ RegsBut [k, 0x4128] s t ∧
      Keeps [.regs, .dbg, .pwr, .flow] s t := by
  have hregs : (accessPackets r 0 off s).regs = s.regs := by simp
  have hpg := pg_of_pageOf hp
  have hoff : 0x5000 ≤ off := by
    rcases hb with rfl | rfl <;> simp only [pg, Blk.pages] at hpg <;> omega
  have hk : keyOf s.regs (pathOf r) off x ≠ 0x4128 := by
    intro h
    have hmod := keyOf_mod s.regs (pathOf r) x (Nat.lt_trans hlt (by decide))
    rw [h] at hmod
    omega
  obtain ⟨hval, hbut⟩ := plainWrite_register (r := r) v (s := accessPackets r 0 off s) hx (by rw [hregs]; exact hk)
  rw [hregs] at hval hbut
  exact ⟨hval, (regsBut_of_regs hregs []).trans hbut,
    ((accessPackets_keeps r 0 off s).trans (plainWrite_keeps r off v _)).mono⟩

/-! ### The rows -/

/-- TCK_COUNT_LO returns its half and latches the other (R100). -/
theorem tckCountLo_reads {r : Requester} {s : State} (h : Readable r 0x3110 s) :
    ∃ t, exec (.tckCountLo r) s = .next t ∧ t.hst.out = s.tck.count.extractLsb' 0 32 ∧
      rget t.regs 0x3114 = s.tck.count.extractLsb' 32 32 ∧ RegsBut [0x3114] s t ∧
      Keeps [.regs, .hst, .flow] s t := by
  obtain ⟨u, hu, hread⟩ := readBy_blk (v := s.tck.count.extractLsb' 0 32) h (b := .tck) (i := 0) (by decide)
    (by decide) (by decide) (by decide) (by simp [readBlk, readTck, part32])
  have htck : u.tck = s.tck := hu .tck (by decide)
  rw [show 0x3110 % 4096 = 0x110 from rfl, readEffect_count] at hread
  exact ⟨_, congrArg Host.Outcome.next hread, rfl, (rget_rput_same _ _ _).trans (by rw [htck]),
    (regsBut_of_regs (hu .regs (by decide)) []).trans (regsBut_rput rfl),
    ((hu.trans (keeps_regs _ _)).trans (answer_keeps _ _)).mono⟩

/-- PTP_TIME_NS returns the nanoseconds and latches fraction and seconds (R389). -/
theorem ptpTimeNs_reads {r : Requester} {s : State} (i : Fin 4) (h : Readable r (pg .ptp i + 0x110) s) :
    ∃ t, exec (.ptpTimeNs r i) s = .next t ∧
      t.hst.out.toNat = (instOf s.ptp i).ns.toNat ∧ rget t.regs (pg .ptp i + 0x114) = (instOf s.ptp i).frac ∧
      rget t.regs (pg .ptp i + 0x118) = (instOf s.ptp i).sec.extractLsb' 0 32 ∧
      (rget t.regs (pg .ptp i + 0x11C)).toNat = fld (instOf s.ptp i).sec 32 16 ∧
      RegsBut [pg .ptp i + 0x114, pg .ptp i + 0x118, pg .ptp i + 0x11C] s t ∧ Keeps [.regs, .hst, .flow] s t := by
  have hpage : ∀ i : Fin 4, pageOf ((pg .ptp i + 0x110) / 4096) = some (.ptp, i.val) := by decide
  have hdbg : ∀ i : Fin 4, dbgOnly (pg .ptp i + 0x110) = false := by decide
  have hne : ∀ i : Fin 4, pg .ptp i + 0x110 ≠ 0x6124 := by decide
  have hmod : (pg .ptp i + 0x110) % 4096 = 0x110 := page_mod _ (by decide)
  obtain ⟨u, hu, hread⟩ := readBy_blk (v := word32 (instOf s.ptp i).ns.toNat) h (hpage i) (hdbg i) (by rw [hmod]; decide)
    (hne i) (by rw [hmod]; simp [readBlk, readPtp])
  rw [hmod, readEffect_time] at hread
  have hlatch := rget_latchTime i u
  rw [hu .ptp (by decide), hu .regs (by decide)] at hlatch
  refine ⟨_, congrArg Host.Outcome.next hread, word32_toNat (Nat.lt_trans (BitVec.isLt _) (by decide)), ?_, ?_, ?_,
    fun k hk => ?_, ((hu.trans (keeps_regs _ _)).trans (answer_keeps _ _)).mono⟩
  · simp [answer, hlatch]
  · simp [answer, hlatch]
  · simp only [answer, hlatch, if_true]
    exact word32_toNat (Nat.lt_trans (BitVec.isLt (BitVec.extractLsb' 32 16 _)) (by decide))
  · simp_all [answer]

/-- TCK_LOG_W3 returns the last word of the oldest entry of the event log and pops it (R181). -/
theorem tckLogW3_reads {r : Requester} {s : State} (h : Readable r 0x3190 s) :
    ∃ t, exec (.tckLogW3 r) s = .next t ∧ t.hst.out = (s.integ.log.headD 0).extractLsb' 96 32 ∧
      t.integ = { s.integ with log := s.integ.log.drop 1 } ∧ Keeps [.integ, .hst, .flow] s t := by
  obtain ⟨u, hu, hread⟩ := readBy_blk (v := (s.integ.log.headD 0).extractLsb' 96 32) h (b := .tck) (i := 0)
    (by decide) (by decide) (by decide) (by decide) (by simp [readBlk, readTck, part32, logHead])
  have hinteg : u.integ = s.integ := hu .integ (by decide)
  rw [show 0x3190 % 4096 = 0x190 from rfl, readEffect_log] at hread
  exact ⟨_, congrArg Host.Outcome.next hread, rfl, by simp [answer, hinteg],
    ((hu.trans (keeps_integ _ _)).trans (answer_keeps _ _)).mono⟩

/-- CLAMP_REPORT moves its record to the read buffer, and reads 0 without one (R482). -/
theorem clampReport_reads {r : Requester} {s : State} {page : BitVec 13} (hp : (pageOf page.toNat).isSome = true)
    (h : Readable r (page.toNat * 4096 + 0x020) s) (hd : dbgOnly (page.toNat * 4096) = false)
    (hdead : deadPage s (page.toNat * 4096) = false) (hbuf : s.dbg.clamp.find? (clampBuf page.toNat) = none) :
    (∀ ws n, s.dbg.clamp.find? page.toNat = some (ws, n) → ∃ t, exec (.clampReport r page) s = .next t ∧
      t.hst.out = ws.getD 0 0 ∧ t.dbg.clamp.find? page.toNat = none ∧
      t.dbg.clamp.find? (clampBuf page.toNat) = some (ws, 2) ∧ Keeps [.dbg, .hst, .flow] s t) ∧
    (s.dbg.clamp.find? page.toNat = none → ∃ t, exec (.clampReport r page) s = .next t ∧ t.hst.out = 0 ∧
      Keeps [.hst, .flow] s t) := by
  have hread := readBy_clamp h hp hd hdead
  refine ⟨fun ws n hc => ?_, fun hc => ?_⟩
  · have hval : clampRead page.toNat s.dbg = (ws.getD 0 0, peekHome { s.dbg with
        clamp := (s.dbg.clamp.erase page.toNat).set (clampBuf page.toNat) (ws, 2) } page.toNat) := by
      simp [clampRead, hbuf, hc]
    rw [hval] at hread
    refine ⟨_, congrArg Host.Outcome.next hread, rfl, ?_, SMap.find?_set_same _ _ _,
      (((accessPackets_keeps _ _ _ s).trans (keeps_dbg _ _)).trans (answer_keeps _ _)).mono⟩
    exact (SMap.find?_set_other _ _ _ _ (by unfold clampBuf; omega)).trans (SMap.find?_erase_same _ _)
  · have hval : clampRead page.toNat s.dbg = (0, s.dbg) := by simp [clampRead, hbuf, hc]
    have hdbg : { accessPackets r 0 (page.toNat * 4096 + 0x020) s with dbg := s.dbg }
        = accessPackets r 0 (page.toNat * 4096 + 0x020) s := by
      rw [accessPackets_eq]
    rw [hval, hdbg] at hread
    exact ⟨_, congrArg Host.Outcome.next hread, rfl, ((accessPackets_keeps _ _ _ s).trans (answer_keeps _ _)).mono⟩

/-- CLR_ERR clears a page's ERR_COUNT (R480). -/
theorem clrErr_clears {r : Requester} {s : State} {page : BitVec 13} (h : Writable r (page.toNat * 4096 + 0x010) s) :
    ∃ t, exec (.clrErr r page) s = .next t ∧ rget t.regs (page.toNat * 4096 + 0x024) = 0 ∧
      RegsBut [page.toNat * 4096 + 0x024] s t ∧ Keeps [.regs, .flow] s t := by
  refine ⟨_, congrArg Host.Outcome.next (viaWrite_writable h _), rget_rput_same _ _ _, ?_,
    ((accessPackets_keeps _ _ _ s).trans (keeps_regs _ _)).mono⟩
  exact regsBut_rput (v := 0) (by simp [ctrlWrite, errClear])

/-- CLR_CLAMP clears a page's clamp record and its read buffer (R482). -/
theorem clrClamp_clears {r : Requester} {s : State} {page : BitVec 13} (h : Writable r (page.toNat * 4096 + 0x010) s) :
    ∃ t, exec (.clrClamp r page) s = .next t ∧ t.dbg.clamp.find? page.toNat = none ∧
      t.dbg.clamp.find? (clampBuf page.toNat) = none ∧ Keeps [.dbg, .flow] s t := by
  refine ⟨_, congrArg Host.Outcome.next (viaWrite_writable h _), ?_, SMap.find?_erase_same _ _,
    ((accessPackets_keeps _ _ _ s).trans (keeps_dbg _ _)).mono⟩
  exact (SMap.find?_erase_other _ _ _ (by unfold clampBuf; omega)).trans (SMap.find?_erase_same _ _)

theorem replayCfgWrite_clear (r : Requester) {v : W32} (s : State) (hv : v.getLsbD 31 = true) :
    (replayCfgWrite r v s).regs = countsClear (plainWrite r 0x3160 v s).regs ∧
      Keeps [.regs, .dbg, .pwr] s (replayCfgWrite r v s) := by
  rw [replayCfgWrite, if_pos hv]
  exact ⟨by dsimp only, ((plainWrite_keeps r 0x3160 v s).trans (keeps_regs _ _)).mono⟩

/-- CLR_COUNTS clears the integrity counters and TCK_RESTART_MAX (R166). -/
theorem clrCounts_clears {r : Requester} {s : State} (v : W32) (h : Writable r 0x3160 s) :
    ∃ t, exec (.clrCounts r v) s = .next t ∧ rget t.regs 0x3170 = 0 ∧
      (∀ k < 10, rget t.regs (rkey 0x3178 k) = 0) ∧ Keeps [.regs, .dbg, .pwr, .flow] s t := by
  have hv : (setFld v 31 1 1).getLsbD 31 = true := getLsbD_setFld_bit v 31 1 (by decide)
  obtain ⟨hregs, hkeeps⟩ := replayCfgWrite_clear r (accessPackets r 0 0x3160 s) hv
  refine ⟨_, congrArg Host.Outcome.next (viaWrite_writable h _), ?_, fun k hk => ?_,
    ((accessPackets_keeps _ _ _ s).trans hkeeps).mono⟩
  · rw [hregs, countsClear_restart]
  · rw [hregs, countsClear_counts _ k hk]

/-- RESTART of a scrubber begins its sweep again where the run state allows it, and is rejected elsewhere (R178). -/
theorem scbRestart_acts {r : Requester} {s : State} (q : QuadId) (v : W32) (h : Writable r (pg .scb q + 0x100) s) :
    ∃ t, exec (.scbRestart r q v) s = .next t ∧ (scbCfg (scbOf t q)).enable = v.getLsbD 0 ∧
      (runIn s scbStops = true → (scbOf t q).a = {} ∧ (scbOf t q).b = {} ∧ (scbOf t q).stopped = false) ∧
      (runIn s scbStops = false → intBit t (pg .scb q) 3 = true ∧ (scbOf t q).a = (scbOf s q).a ∧
        (scbOf t q).b = (scbOf s q).b ∧ (scbOf t q).stopped = (scbOf s q).stopped) ∧
      t.arr = s.arr ∧ t.tck = s.tck := by
  have h1 : (setFld v 1 1 1).getLsbD 1 = true := getLsbD_setFld_bit v 1 1 (by decide)
  have h0 : (setFld v 1 1 1).getLsbD 0 = v.getLsbD 0 := getLsbD_setFld_other v 1 1 1 0 (by decide)
  let u := accessPackets r 0 (pg .scb q + 0x100) s
  have hscb : scbOf u q = scbOf s q := scbOf_of_integ (by simp [u]) q
  obtain ⟨ha, hb, hstop⟩ := voteCfg_machine q u
  have hvoted := scbOf_scbVoted r q (setFld v 1 1 1) u
  have hrun : runIn (scbVoted r q (setFld v 1 1 1) u) scbStops = runIn s scbStops := by simp [runIn, scbVoted, u]
  rw [h0] at hvoted
  refine ⟨_, congrArg Host.Outcome.next ((viaWrite_writable h _).trans (scbWrite_restart r q _ u h1)), ?_⟩
  cases hs : runIn s scbStops with
  | true =>
    rw [hs] at hrun
    rw [scbRestart_stops q _ hrun, hvoted]
    exact ⟨scbEnabled_enable _ _, fun _ => ⟨rfl, rfl, rfl⟩, fun h => absurd h (by decide), by simp [scbVoted, u],
      by simp [scbVoted, u]⟩
  | false =>
    rw [hs] at hrun
    rw [scbRestart_runs q _ hrun, scbOf_raiseInt, hvoted, ← hscb]
    exact ⟨scbEnabled_enable _ _, fun h => absurd h (by decide),
      fun _ => ⟨intBit_raiseInt _ _ 3 (by decide), ha, hb, hstop⟩, by simp [scbVoted, u], by simp [scbVoted, u]⟩

/-- A write of an ARY register is a write of its fields. -/
theorem registerWrite_ary {r : Requester} {s : State} {off : BitVec 26} (v : W32) {i : Nat} (h : Writable r off.toNat s)
    (h4 : off.toNat % 4 = 0) (hlt : off.toNat < 2 ^ 25) (hp : pageOf (off.toNat / 4096) = some (.ary, i))
    (ho : 0x100 ≤ off.toNat % 4096) : exec (.registerWrite r off v) s
      = .next (plainWrite r off.toNat v (accessPackets r 0 off.toNat s)) := by
  have hdo := doRegisterWrite_blk v h h4 hlt hp ho
  simp only [blkWrite, pg_of_pageOf hp] at hdo
  exact congrArg Host.Outcome.next hdo

/-- A write of an RLS register is a write of its fields, with its act on the rails (R282). -/
theorem registerWrite_rls {r : Requester} {s : State} {off : BitVec 26} (v : W32) {i : Nat} (h : Writable r off.toNat s)
    (h4 : off.toNat % 4 = 0) (hlt : off.toNat < 2 ^ 25) (hp : pageOf (off.toNat / 4096) = some (.rls, i))
    (ho : 0x100 ≤ off.toNat % 4096) : exec (.registerWrite r off v) s
      = .next (rlsWrite r i (off.toNat % 4096) v (accessPackets r 0 off.toNat s)) :=
  congrArg Host.Outcome.next (doRegisterWrite_blk v h h4 hlt hp ho)

/-- A host write outside every page is a bad access (R470). -/
theorem registerWrite_nowhere {s : State} (off : BitVec 26) (v : W32) (hs : s.pwr.stabled = false)
    (h4 : off.toNat % 4 = 0) (hp : (pageOf (off.toNat / 4096)).isSome = false)
    (ha : aliasWrite .host off.toNat = false) :
    exec (.registerWrite .host off v) s = .next (badAccess 8 0 off.toNat s) := by
  have hdo : doRegisterWrite .host off.toNat v s = badAccess 8 0 off.toNat s := by
    simp [doRegisterWrite, hs, h4, ha, viaWrite, runs, mayWrite, hp, refuseWrite]
  exact congrArg Host.Outcome.next hdo

end Sys2Proof.Machine

open Sys2Proof Sys2Proof.Machine Sys2Proof.Claims

/-- Settles O54, access by access: the act of each on the state that its packets leave. -/
theorem registerAccessesAct : Obligations.RegisterAccessesAct := by
  unfold Obligations.RegisterAccessesAct
  refine fun r s => ⟨tckCountLo_reads, ptpTimeNs_reads, tckLogW3_reads,
    fun page hp h hd hdead hbuf => clampReport_reads hp h hd hdead hbuf,
    fun page _ h => ⟨clrErr_clears h, clrClamp_clears h⟩, clrCounts_clears, scbRestart_acts, ?_, ?_⟩
  · intro off v b i x h h4 hlt hp hb ho hx k
    obtain ⟨hval, hbut, hkeeps⟩ := plainWrite_access (r := r) v s hlt hp hb hx
    rcases hb with rfl | rfl
    · refine ⟨_, registerWrite_ary v h h4 hlt hp ho, hval, hbut, fun _ => hkeeps .rls (by decide),
        fun h => absurd h (by decide), ⟨fun _ => by simp, fun _ _ h => absurd h (by decide)⟩, hkeeps.mono⟩
    · have hact := rlsWrite_keeps r i (off.toNat % 4096) v (accessPackets r 0 off.toNat s)
      have hflow := fun h => rlsWrite_flow r i (o := off.toNat % 4096) v (accessPackets r 0 off.toNat s) h
      rw [pg_of_pageOf hp] at hact hflow
      have hregs := hact .regs (by decide)
      refine ⟨_, registerWrite_rls v h h4 hlt hp ho, (congrArg (rget · k) hregs).trans hval,
        fun j hj => (congrArg (rget · j) hregs).trans (hbut j hj), fun hne => ?_, fun _ hst => ?_,
        ⟨fun h => absurd h (by decide), fun c hc _ hoc => ?_⟩, (hkeeps.trans hact).mono⟩
      · have hne' := hne.resolve_left (by decide)
        exact Part.same_trans (hkeeps .rls (by decide)) (hflow hne' .rls (by decide))
      · rw [hst, rlsWrite_starve, ← hst, pg_of_pageOf hp]
        have hsame := hkeeps .rls (by decide)
        obtain ⟨hlen, hloss⟩ := clearLosses_net i (plainWrite r off.toNat v (accessPackets r 0 off.toNat s))
        exact ⟨clearLosses_same i hsame, hlen.trans (congrArg (·.net.length) hsame), hloss⟩
      · rw [hoc, rlsWrite_bucket r i v _ hc, ← hoc, pg_of_pageOf hp, tbSettle_tokens]
        simp
  · rintro off v rfl hs h4 hp ha
    obtain ⟨herr, hint, hregs, hkeeps⟩ := badAccess_acts 8 0 off.toNat s off.isLt
    rw [Nat.zero_mul, Nat.add_zero] at herr
    exact ⟨_, registerWrite_nowhere off v hs h4 hp ha, herr, hint, hregs, hkeeps.mono⟩
end

section
/-!
PROOFS. Line frames received outside the control tree: what the lock of the lanes leaves of the registers, what a passing
frame comes to, the groups that RUN and RESEND frames bring, and the statement about them (R119, R164, R235 to R239, R253).
-/

namespace Sys2Proof.Claims

open Sys2Proof.Machine

theorem RegsBut.mono {a c : List Nat} {s t : State} (h : RegsBut a s t) (ha : a ⊆ c := by simp) : RegsBut c s t :=
  fun k hk => h k fun m => hk (ha m)

end Sys2Proof.Claims

namespace Sys2Proof.Machine

open Sys2Proof.Claims

/-! ### Registers that a hardware binding and a frame may change -/

/-- What a submission may change of the registers: INT_STATUS of the YMS page, and the counters of what was refused and
of what found the dependence table full (R289, R290). -/
def yardRegs : List Nat := [0x5018, rkey 0x515C 0, rkey 0x515C 4]

theorem ymsCount_other {k n : Nat} (m : SMap W32) (hk : k ≠ rkey 0x515C n) : rget (ymsCount n m) k = rget m k :=
  rget_rbump_other m _ k 0 32 1 hk

theorem refused_regsBut (code : Nat) (s : State) : RegsBut yardRegs s (refused code s).1 := by
  intro k hk
  simp only [yardRegs, List.mem_cons, not_or] at hk
  obtain ⟨hint, hcount, -⟩ := hk
  exact (raiseInt_rget _ 0x5000 0 k hint).trans (ymsCount_other s.regs hcount)

theorem submitReady_regsBut (i : Item) (code : Nat) (s : State) : RegsBut yardRegs s (submitReady i code s).1 := by
  simp only [submitReady]
  split
  · exact regsBut_of_regs rfl _
  · split
    · exact refused_regsBut 8 s
    · split
      · exact refused_regsBut 9 s
      · exact regsBut_of_regs rfl _

theorem submitItem_regsBut (w : Work) (i : Item) (s : State) : RegsBut yardRegs s (submitItem w i s).1 := by
  unfold submitItem
  split
  · split
    · exact refused_regsBut 10 s
    · exact regsBut_of_regs rfl _
  · split
    · exact submitReady_regsBut i 0 s
    · split
      · exact regsBut_of_regs rfl _
      · intro k hk
        refine Eq.trans ?_ (submitReady_regsBut { i with fallback := true } 2 s k hk)
        simp only [yardRegs, List.mem_cons, not_or] at hk
        obtain ⟨-, -, hcount, -⟩ := hk
        dsimp only
        split
        · exact ymsCount_other _ hcount
        · rfl

theorem submitBinding_regsBut (i : Nat) (arg : W64) (s : State) : RegsBut yardRegs s (submitBinding i arg s).1 := by
  simp only [submitBinding, submit]
  split
  · split
    · exact refused_regsBut 11 s
    · exact submitItem_regsBut _ _ s
  · exact refused_regsBut 12 s

theorem hwSubmit_regsBut (en : Bool) (binding : Nat) (arg : W64) (s : State) :
    RegsBut yardRegs s (hwSubmit en binding arg s) := by
  cases en
  · exact regsBut_of_regs rfl _
  · exact submitBinding_regsBut binding arg s

/-- What the lock of a link's lanes may change of the registers: INT_STATUS, LNK_STATUS, LNK_SKEW and LNK_ERR of the
link's page, and what the link-management binding may (R235, R239, R240, R288). -/
def lockRegs (j : Nat) : List Nat :=
  [pg .lnk j + 0x018, lnkStat j, pg .lnk j + 0x10C, pg .lnk j + 0x128] ++ yardRegs

/-- The control tree's register is on no link's page and is not the yardmaster's. -/
theorem lnkTree_not_mem_lockRegs (j : Nat) : 0xB100 ∉ lockRegs j := by
  simp only [lockRegs, yardRegs, lnkStat, pg, Blk.pages, rkey, List.mem_append, List.mem_cons, List.not_mem_nil, or_false]
  omega

theorem raiseLnkIf_regsBut (c : Bool) (j k : Nat) (s : State) : RegsBut (lockRegs j) s (raiseLnkIf c j k s) := by
  cases c
  · exact regsBut_of_regs rfl _
  · exact ((raiseInt_regsBut s _ k).trans (hwSubmit_regsBut _ _ _ _)).mono
      (List.cons_subset_cons _ (List.subset_append_right _ yardRegs))

/-- Each lane's field of LNK_ERR counts or stays; every other register stays. -/
theorem laneErrors_other (oks : List Bool) {e k : Nat} (hk : k ≠ e) (l : List Nat) : ∀ m : SMap W32,
    rget (l.foldl (fun m i => if oks.getD i true then m else rbump m e (8 * i) 8 1) m) k = rget m k := by
  induction l with
  | nil => exact fun _ => rfl
  | cons i l ih =>
    intro m
    rw [List.foldl_cons, ih]
    split
    · rfl
    · exact rget_rbump_other m _ k _ _ _ hk

theorem rget_ite (c : Prop) [Decidable c] (m m' : SMap W32) (k : Nat) :
    rget (if c then m else m') k = if c then rget m k else rget m' k := by
  split <;> rfl

theorem rxLock_regsBut (j : Nat) (f : LinkFrame) (s : State) : RegsBut (lockRegs j) s (rxLock j f s) := by
  intro k hk
  have hraise := fun c b u => raiseLnkIf_regsBut c j b u k hk
  simp only [lockRegs, List.mem_append, List.mem_cons, not_or] at hk
  obtain ⟨⟨-, hstat, hskew, herr, -⟩, -⟩ := hk
  simp only [rxLock, hraise, rget_ite, rget_rset_other _ _ k _ _ _ hstat, rget_rput_other _ _ k _ hskew,
    laneErrors_other _ herr, ite_self]

/-! ### A frame outside the control tree -/

theorem linkOf_keepLine (j : Nat) (w : LinkBits) (s : State) :
    linkOf (keepLine j w s).lnk j = { linkOf s.lnk j with rxLine := w } :=
  linkOf_setLink_same _ _ _

theorem cutOff_keepLine (j : Nat) (w : LinkBits) (s : State) : cutOff (keepLine j w s) j = cutOff s j := by
  simp [cutOff, placeOf, linkOf_keepLine]

theorem rxGroups_keepLine (j : Nat) (w : LinkBits) (s : State) : rxGroups (keepLine j w s) j = rxGroups s j := by
  simp only [rxGroups, cutOff_keepLine, linkOf_keepLine]
  rfl

theorem rxTrailer_keepLine (j : Nat) (w : LinkBits) (s : State) : rxTrailer (keepLine j w s) j = rxTrailer s j := by
  simp only [rxTrailer, cutOff_keepLine, linkOf_keepLine]
  rfl

/-- The line bits kept do not enter the frame's check. -/
theorem framePass_keepLine (j : Nat) (w : LinkBits) (f : LinkFrame) (s : State) :
    framePass (keepLine j w s) j f = framePass s j f := by
  simp [framePass, lanesOk, trailerBad, rxGroups_keepLine, rxTrailer_keepLine, linkOf_keepLine]

@[simp] theorem restarting_keepLine (j : Nat) (w : LinkBits) (s : State) :
    restarting (keepLine j w s) = restarting s := rfl

theorem stageGroups_keepLine (j : Nat) (w : LinkBits) (f : LinkFrame) (s : State) :
    stageGroups j f (keepLine j w s) = stageGroups j f s := by
  simp only [stageGroups, rxGroups_keepLine, linkOf_keepLine]
  rfl

theorem gotLink_keepLine (j : Nat) (w : LinkBits) (s : State) :
    (gotLink (keepLine j w s) j (linkOf (keepLine j w s).lnk j)).got = (gotLink s j (linkOf s.lnk j)).got := by
  simp [gotLink, rxGroups_keepLine, linkOf_keepLine]

@[simp] theorem rxLock_got (j : Nat) (f : LinkFrame) (s : State) :
    (linkOf (rxLock j f s).lnk j).got = (linkOf s.lnk j).got := by
  simp [rxLock]

/-- Two states agree in tick control, in what frames bring to the array, and in the receive pointer of a link. -/
def SameGroups (j : Nat) (s t : State) : Prop :=
  t.tck = s.tck ∧ t.exe = s.exe ∧ (linkOf t.lnk j).got = (linkOf s.lnk j).got

theorem SameGroups.trans {j : Nat} {s t u : State} (h : SameGroups j s t) (h' : SameGroups j t u) : SameGroups j s u := by
  obtain ⟨htck, hexe, hgot⟩ := h
  obtain ⟨htck', hexe', hgot'⟩ := h'
  exact ⟨htck'.trans htck, hexe'.trans hexe, hgot'.trans hgot⟩

/-- The lock of the lanes and the control-tree bits bring no group, of a frame from outside the control tree (R247). -/
theorem rxTree_rxLock_outside {j : Nat} (f : LinkFrame) {s : State} (hkid : (treeKids s.regs).getLsbD j = false)
    (hpar : treeParent s.regs ≠ some j) : SameGroups j s (rxTree j f (rxLock j f s)) := by
  have htree := rxLock_regsBut j f s 0xB100 (lnkTree_not_mem_lockRegs j)
  have hkid' : (treeKids (rxLock j f s).regs).getLsbD j = false := by rwa [treeKids, htree]
  have hpar' : treeParent (rxLock j f s).regs ≠ some j := by rwa [treeParent, rfld, htree]
  simp [SameGroups, rxTree, hkid', hpar']

/-- Of a passing frame from outside the control tree, nothing but the groups of its interval comes to the array and to
the link's receive pointer, and nothing to tick control (R237, R247). -/
theorem rxFrame_outside {j : Nat} {f : LinkFrame} {s : State} (hkid : (treeKids s.regs).getLsbD j = false)
    (hpar : treeParent s.regs ≠ some j) (hpass : framePass s j f = true) :
    SameGroups j (if carriesRun true s j f then rxRun true j f s else s) (rxFrame j f s) := by
  simp only [rxFrame, hpass, if_true]
  generalize hu : (if carriesRun true s j f then rxRun true j f s else s) = u
  have hregs : u.regs = s.regs := by rw [← hu]; split <;> rfl
  rw [← hregs] at hkid hpar
  refine SameGroups.trans ?_ (rxTree_rxLock_outside f hkid hpar)
  exact ⟨rfl, rfl, by simp⟩

/-! ### Groups in the staging buffer and in the latched positions -/

theorem get_putRange (key n : Nat) (b : Nat → Bool) (m : SMap Bool) (k : Nat) :
    ((List.range n).foldl (fun m i => m.put false (key + i) (b i)) m).get false k =
      if key ≤ k ∧ k < key + n then b (k - key) else m.get false k := by
  induction n with
  | zero => rw [if_neg (by omega)]; rfl
  | succ n ih =>
    rw [List.range_succ, List.foldl_append, List.foldl_cons, List.foldl_nil]
    by_cases hk : k = key + n
    · rw [hk, SMap.get_put_same, if_pos (by omega), Nat.add_sub_cancel_left]
    · rw [SMap.get_put_other _ _ _ _ _ _ hk, ih]
      exact ite_congr (propext (by omega)) (fun _ => rfl) fun _ => rfl

/-- A group's bits stand in its 80 places; every other place is as it was. -/
theorem get_stageBits (key : Nat) (w : BitVec 80) (m : SMap Bool) (k : Nat) :
    (stageBits key w m).get false k = if key ≤ k ∧ k < key + 80 then w.getLsbD (k - key) else m.get false k :=
  get_putRange key 80 w.getLsbD m k

/-- The groups of a frame placed one after the other: of each entry its step and, less one, its slot. -/
def placeGroups (j : Nat) (f : LinkFrame) (l : List (Nat × Nat)) (m : SMap Bool) : SMap Bool :=
  l.foldl (fun m e => stageBits ((j * 1024 + e.1) * 80) (slotBits f (e.2 + 1)) m) m

/-- A passing RESEND places its groups among the latched positions. -/
theorem resent_recv (j : Nat) (f : LinkFrame) (s : State) :
    (resent j f s).exe.recv = placeGroups j f (resentSteps s.tck.depth f).zipIdx s.exe.recv := rfl

/-- Groups of other steps leave a step's positions as they were. -/
theorem get_placeGroups_other (j : Nat) (f : LinkFrame) {st b : Nat} (hb : b < 80) (l : List (Nat × Nat)) :
    ∀ m : SMap Bool, (∀ e ∈ l, e.1 ≠ st) →
      (placeGroups j f l m).get false ((j * 1024 + st) * 80 + b) = m.get false ((j * 1024 + st) * 80 + b) := by
  induction l with
  | nil => exact fun _ _ => rfl
  | cons e l ih =>
    intro m hne
    obtain ⟨he, hl⟩ := List.forall_mem_cons.1 hne
    exact (ih _ hl).trans ((get_stageBits _ _ m _).trans (if_neg (by omega)))

/-- Of groups of distinct steps, each one's slot stands in its step's positions. -/
theorem get_placeGroups (j : Nat) (f : LinkFrame) {e : Nat × Nat} {b : Nat} (hb : b < 80) (l : List (Nat × Nat)) :
    ∀ m : SMap Bool, (l.map Prod.fst).Nodup → e ∈ l →
      (placeGroups j f l m).get false ((j * 1024 + e.1) * 80 + b) = (slotBits f (e.2 + 1)).getLsbD b := by
  induction l with
  | nil => exact fun _ _ he => absurd he List.not_mem_nil
  | cons a l ih =>
    intro m hnodup he
    obtain ⟨ha, hl⟩ := List.nodup_cons.1 hnodup
    rcases List.mem_cons.1 he with rfl | he
    · have hother : ∀ x ∈ l, x.1 ≠ e.1 := fun x hx h => ha (List.mem_map.2 ⟨x, hx, h⟩)
      refine (get_placeGroups_other j f hb l _ hother).trans ((get_stageBits _ _ m _).trans ?_)
      rw [if_pos (by omega), Nat.add_sub_cancel_left]
    · exact ih _ hl he

/-! ### RESEND frames -/

/-- A passing RESEND during a restart hold brings its groups after what every frame does (R253). -/
theorem doResend_restarting {j : Nat} {f : LinkFrame} {s : State} (hpass : framePass s j f = true)
    (hre : restarting s = true) : doResend j f s = resent j f (rxFrame j f s) := by
  simp [doResend, hpass, hre]

theorem length_resentSteps (d : Nat) (f : LinkFrame) : (resentSteps d f).length = Nat.min 47 d := by simp [resentSteps]

theorem getElem?_resentSteps {d i : Nat} (f : LinkFrame) (hi : i < Nat.min 47 d) :
    (resentSteps d f)[i]? = some ((fld (slotBits f 0) 0 11 + i) % d) := by
  have hid : i < d := Nat.lt_of_lt_of_le hi (Nat.min_le_right 47 d)
  have hd : Nat.max 1 d = d := Nat.max_eq_right (by omega)
  simp [resentSteps, hi, hd]

/-- A RESEND frame carries no step twice: it goes around the depth at most once (R253). -/
theorem nodup_resentSteps (d : Nat) (f : LinkFrame) : (resentSteps d f).Nodup := by
  refine List.pairwise_map.2 (List.pairwise_lt_range.imp_of_mem fun {x y} _ hy hlt h => ?_)
  have hyd : y < d := Nat.lt_of_lt_of_le (List.mem_range.1 hy) (Nat.min_le_right 47 d)
  have hd : Nat.max 1 d = d := Nat.max_eq_right (by omega)
  rw [hd] at h
  have hzero := Nat.sub_mod_eq_zero_of_mod_eq h.symm
  rw [Nat.add_sub_add_left, Nat.mod_eq_of_lt (by omega)] at hzero
  omega

/-- Slot `i + 1` of a passing RESEND stands in the positions latched for its step, FIRST + `i` around the depth
(R164, R253). -/
theorem get_resent_recv {j i b : Nat} (f : LinkFrame) (s : State) (hi : i < Nat.min 47 s.tck.depth) (hb : b < 80) :
    (resent j f s).exe.recv.get false
        ((j * 1024 + (fld (slotBits f 0) 0 11 + i) % s.tck.depth) * 80 + b) = (slotBits f (i + 1)).getLsbD b := by
  rw [resent_recv]
  refine get_placeGroups j f (e := ((fld (slotBits f 0) 0 11 + i) % s.tck.depth, i)) hb _ _ ?_ ?_
  · rw [List.zipIdx_map_fst]
    exact nodup_resentSteps _ f
  · exact List.mk_mem_zipIdx_iff_getElem?.2 (getElem?_resentSteps f hi)

/-- The groups received after a frame include those received before and those of the frame. -/
theorem mem_received (l : List Nat) : ∀ (g : List Nat) (x : Nat), x ∈ l ∨ x ∈ g →
    x ∈ l.foldl (fun g x => if g.contains x then g else x :: g) g := by
  induction l with
  | nil => exact fun g x hx => hx.resolve_left List.not_mem_nil
  | cons a l ih =>
    intro g x hx
    refine ih (g.insert a) x ?_
    rw [List.mem_insert_iff]
    rcases hx with hx | hx
    · rcases List.mem_cons.1 hx with hx | hx
      · exact .inr (.inl hx)
      · exact .inl hx
    · exact .inr (.inr hx)

/-- A frame that holds every group of the schedule sets ACK (R253). -/
theorem resent_ackTx (j : Nat) (f : LinkFrame) (s : State) (hd : s.tck.depth ≤ 47) :
    (linkOf (resent j f s).lnk j).ackTx = true := by
  have hlen := (nodup_resentSteps s.tck.depth f).length_le_of_subset
    fun x hx => mem_received _ (linkOf s.lnk j).rsGot x (.inl hx)
  rw [length_resentSteps, show Nat.min 47 s.tck.depth = s.tck.depth from Nat.min_eq_right hd] at hlen
  simp only [resent, linkOf_setLink_same, hlen, decide_true, Bool.or_true]

end Sys2Proof.Machine

open Sys2Proof Sys2Proof.Machine Sys2Proof.Claims

/-- Settles O18, frame by frame: of a passing frame from outside the control tree the groups alone come to the array. That
a group stands in its staging place with the frame that brings it is the model's choice (log 131). -/
theorem groupsAreStagedAndResent : Obligations.GroupsAreStagedAndResent := by
  unfold Obligations.GroupsAreStagedAndResent
  intro j w s hs hrx hrun hact hkid hpar f hpass
  have hpass' := (framePass_keepLine j w f s).trans hpass
  obtain ⟨htck, hexe, hgot⟩ := rxFrame_outside (s := keepLine j w s) hkid hpar hpass'
  constructor
  · intro htype hre
    have hc : carriesRun true (keepLine j w s) j f = true := by
      simp [carriesRun, isRun, htype, imageRuns, hrun, hact, hre]
    rw [if_pos hc] at htck hexe hgot
    refine ⟨_, when_next (by simp [hrx, f, htype]) hs, ?_, ?_, htck⟩
    · exact (congrArg Exe.staged hexe).trans (stageGroups_keepLine j w f s)
    · exact hgot.trans ((congrArg Link.got (linkOf_setLink_same _ _ _)).trans (gotLink_keepLine j w s))
  · intro htype hre
    have hc : ¬carriesRun true (keepLine j w s) j f = true := by simp [carriesRun, isRun, htype]
    rw [if_neg hc] at htck
    have hdepth : (rxFrame j f (keepLine j w s)).tck.depth = s.tck.depth := congrArg Tck.depth htck
    refine ⟨_, when_next (by simp [hrx, f, htype]) hs, ?_⟩
    rw [doResend_restarting hpass' hre, ← hdepth]
    exact ⟨resent_ackTx j f _, fun i hi b hb => get_resent_recv f _ hi hb⟩
end

section
/-!
PROOFS. Repairs from the golden image and scrub steps: what a golden read and the repair after it change, what a scrub step
comes to in each state of its scrubber, and the statement about them (R165, R172, R173, R176, R177).
-/

namespace Sys2Proof.Machine

open Sys2Proof.Claims

/-! ### The comparators of the scrubbers -/

theorem compareScb_agree {q : Nat} {s : State} (h : copiesDiffer s q = false) : compareScb q s = s := by
  simp [compareScb, h]

theorem compareScb_stopped {q : Nat} {s : State} (h : (scbOf s q).stopped = true) : compareScb q s = s := by
  simp [compareScb, h]

theorem compareScb_differ {q : Nat} {s : State} (hstop : (scbOf s q).stopped = false)
    (h : copiesDiffer s q = true) : compareScb q s = stopScb q s := by
  simp [compareScb, hstop, h]

theorem compareAll_agree {s : State} (h : ∀ q < 4, copiesDiffer s q = false) : compareAll s = s := by
  rw [compareAll, compareScb_agree (h 0 (by decide)), compareScb_agree (h 1 (by decide)),
    compareScb_agree (h 2 (by decide)), compareScb_agree (h 3 (by decide))]

/-- A scrubber that stops says so, and none of its repairs is requested any more (R177). -/
theorem stopScb_stops (q : QuadId) (s : State) :
    (scbOf (stopScb q s) q).stopped = true ∧ (∀ r ∈ (stopScb q s).integ.repairs, r.quad ≠ q.val) ∧
      intBit (stopScb q s) (pg .scb q) 1 = true := by
  refine ⟨?_, fun r hr => ?_, intBit_raiseInt _ _ 1 (by decide)⟩
  · have hscb := scbOf_setScb_same s q { scbOf s q with stopped := true }
    rw [stopScb, scbOf_raiseInt, scbOf_logRecs]
    exact congrArg Scb.stopped hscb
  · simp only [stopScb, logRecs, raiseInt_frame, raiseIf_frame, mapRepairs, List.mem_filter] at hr
    simpa using hr.2

/-! ### The golden read of a repair -/

theorem refreshRank_mem (s : State) (c rank : Nat) (d : Dmc) : (refreshRank s c rank d).mem = d.mem := by
  simp only [refreshRank]
  split <;> rfl

theorem noteCmd_mem (a : Nat) (data : Option (List (Nat × List Byte))) (s : State) :
    (noteCmd a data s).dmc.mem = s.dmc.mem :=
  (refreshRank_mem s _ 1 _).trans (refreshRank_mem s _ 0 _)

/-- A golden read writes nothing. -/
theorem goldenNote_mem (ok : Bool) (a : Nat) (s : State) : (goldenNote ok a s).dmc.mem = s.dmc.mem := by
  simp only [goldenNote]
  split
  · simp
  · simp [noteCmd_mem]

theorem doGoldenRepair_mem (ok : Bool) (s : State) : (doGoldenRepair ok s).dmc.mem = s.dmc.mem := by
  have hmem (a : Nat) : (goldenNote ok a (compareAll s)).dmc.mem = s.dmc.mem := by simp [goldenNote_mem]
  simp only [doGoldenRepair]
  split
  · simp
  · split
    · split
      · exact hmem _
      · simp [hmem]
    · simp [hmem]

theorem doGoldenRepair_keeps (ok : Bool) (s : State) :
    Keeps [.arr, .integ, .tck, .exe, .regs, .hst, .dmc] s (doGoldenRepair ok s) := by
  intro p hp
  cases p <;> simp_all [Part.same]

section
variable {ok : Bool} {s : State} {r : Repair} (hagree : ∀ q < 4, copiesDiffer s q = false) (hr : nextRepair s = some r)
include hagree hr

/-- A golden read that passes while the array fetches nothing is written back at once (R165). -/
theorem doGoldenRepair_passes (hok : goldenOk s ok (goldenAddr s r.quad r.tab r.key) = true) (hd : delivering s = false) :
    doGoldenRepair ok s = writeRepair r { goldenNote ok (goldenAddr s r.quad r.tab r.key) s with
      integ := dropRepair r s.integ } := by
  simp [doGoldenRepair, compareAll_agree hagree, hr, hok, fetching, hd]

/-- A golden read that fails raises a detection, and the repair is given up (R172). -/
theorem doGoldenRepair_fails (hok : goldenOk s ok (goldenAddr s r.quad r.tab r.key) = false) :
    doGoldenRepair ok s = detect (goldenRec s (goldenAddr s r.quad r.tab r.key))
      { goldenNote ok (goldenAddr s r.quad r.tab r.key) s with
        integ := dropRepair r s.integ
        tck := { s.tck with lastPart := s.clk.gen } } := by
  simp [doGoldenRepair, compareAll_agree hagree, hr, hok]

end

theorem detect_repairs (f : FaultRec) (s : State) : (detect f s).integ.repairs = s.integ.repairs := by
  unfold detect
  split
  · rfl
  · simp [lateDet, logRecs]

/-- The repair of an instruction word writes the golden word with matching parity, and no other word (R165). -/
theorem writeRepair_imem {r : Repair} (s : State) (ht : r.tab = 0) :
    (writeRepair r s).arr.imem.get 0 r.key = s.integ.gImem.get 0 r.key ∧
      (writeRepair r s).arr.imemSyn.get 0 r.key = 0 ∧
      ∀ k, k ≠ r.key → (writeRepair r s).arr.imem.get 0 k = s.arr.imem.get 0 k := by
  have harr : (writeRepair r s).arr = { s.arr with
      imem := s.arr.imem.put 0 r.key (s.integ.gImem.get 0 r.key), imemSyn := s.arr.imemSyn.erase r.key } := by
    simp [writeRepair, repairArr, ht]
  rw [harr]
  exact ⟨SMap.get_put_same _ _ _ _, SMap.get_erase_same _ _ _, fun k hk => SMap.get_put_other _ _ _ _ _ _ hk⟩

/-! ### The vote of a scrubber's configuration -/

/-- The three copies of a scrubber's configuration agree. -/
abbrev CfgAgrees (c : Scb) : Prop := c.c0 = c.c1 ∧ c.c1 = c.c2

/-- The majority of agreeing copies is each of them. -/
theorem scbCfg_agree {c : Scb} (h : CfgAgrees c) : scbCfg c = c.c0 := by
  simp [scbCfg, major, ← h.2, ← h.1]

theorem cfgRecs_agree {c : Scb} (h : CfgAgrees c) (s : State) (q : Nat) : cfgRecs s q c = [] := by
  simp [cfgRecs, scbCfg_agree h, ← h.2, ← h.1]

theorem voteCfg_agree {q : Nat} {s : State} (h : CfgAgrees (scbOf s q)) : voteCfg q s = s := by
  simp [voteCfg, cfgRecs_agree h]

/-! ### Scrub steps -/

@[simp] theorem scbOf_setCopies (q : QuadId) (c : ScbCopy) (s : State) :
    scbOf (setCopies q c s) q = { scbOf s q with a := c, b := c } :=
  scbOf_setScb_same s q _

/-- A row read moves the sweep on by one row, in both lockstep copies (R173, R177). -/
theorem readRow_copies (q : QuadId) (c : ScbCopy) (s : State) :
    (scbOf (readRow q c s) q).a.row = (if c.row = 3071 then 0 else c.row + 1) ∧
      (scbOf (readRow q c s) q).b = (scbOf (readRow q c s) q).a := by
  simp only [readRow, scbOf_logRecs, scbOf_setCopies, and_self]

/-- A scrub step of a quadrant with no line to repair and none to read again, by the state of its scrubber. -/
theorem scrubStep_noLine {q : QuadId} {s : State} (hcfg : CfgAgrees (scbOf s q)) (hl : (scbOf s q).a.lines = [])
    (hre : (scbOf s q).a.reread = false) :
    scrubStep q s =
      if (scbOf s q).stopped = true then s
      else if copiesDiffer s q = true then stopScb q s
      else if s.tck.run = .empty ∨ (scbOf s q).c0.enable = false then s
      else readRow q (scbOf s q).a s := by
  rw [scrubStep, voteCfg_agree hcfg]
  cases hstop : (scbOf s q).stopped with
  | true => simp [compareScb_stopped hstop, hstop]
  | false =>
    cases hdiff : copiesDiffer s q with
    | true => simp [compareScb_differ hstop hdiff, (stopScb_stops q s).1]
    | false =>
      by_cases hrun : s.tck.run = .empty
      · simp [compareScb_agree hdiff, hrun]
      · cases hen : (scbOf s q).c0.enable <;>
          simp [compareScb_agree hdiff, hstop, hrun, scrubRow, hl, hre, scbCfg_agree hcfg, hen]

/-- The state in which the next read step of a quadrant is due, 16 generator periods after its last (R173). -/
def scrubDue (q : Nat) (s : State) : State :=
  let t := passTo (s.integ.scbAt.get s.clk.gen q + 16) s
  { t with integ := { t.integ with scbAt := t.integ.scbAt.set q t.clk.gen } }

theorem doScrubReadStep_eq (q : Nat) (s : State) : doScrubReadStep q s = scrubStep q (scrubDue q s) := rfl

@[simp] theorem scrubDue_arr (q : Nat) (s : State) : (scrubDue q s).arr = s.arr := by simp [scrubDue]

@[simp] theorem scrubDue_tck (q : Nat) (s : State) : (scrubDue q s).tck = s.tck := by simp [scrubDue]

theorem scrubDue_integ (q : Nat) (s : State) :
    (scrubDue q s).integ = { s.integ with scbAt := (scrubDue q s).integ.scbAt } := by simp [scrubDue]

@[simp] theorem scbOf_scrubDue (q k : Nat) (s : State) : scbOf (scrubDue q s) k = scbOf s k := by
  simp [scbOf, scrubDue]

@[simp] theorem copiesDiffer_scrubDue (q k : Nat) (s : State) : copiesDiffer (scrubDue q s) k = copiesDiffer s k := by
  simp [copiesDiffer, scbOf, scrubDue]

section
variable {q : QuadId} {s : State} (hcfg : CfgAgrees (scbOf s q)) (hl : (scbOf s q).a.lines = [])
  (hre : (scbOf s q).a.reread = false)
include hcfg hl hre

/-- SCRUB_READ_STEP of a quadrant with no line to repair and none to read again, by the state of its scrubber. -/
theorem doScrubReadStep_noLine :
    doScrubReadStep q s =
      if (scbOf s q).stopped = true then scrubDue q s
      else if copiesDiffer s q = true then stopScb q (scrubDue q s)
      else if s.tck.run = .empty ∨ (scbOf s q).c0.enable = false then scrubDue q s
      else readRow q (scbOf s q).a (scrubDue q s) := by
  rw [doScrubReadStep_eq, scrubStep_noLine (by simpa using hcfg) (by simpa using hl) (by simpa using hre)]
  simp only [scbOf_scrubDue, copiesDiffer_scrubDue, scrubDue_tck]

/-- Without a line to repair, SCRUB_READ_STEP writes nothing into the array. -/
theorem doScrubReadStep_arr : (doScrubReadStep q s).arr = s.arr := by
  rw [doScrubReadStep_noLine hcfg hl hre]
  split
  · simp
  · split
    · simp
    · split <;> simp

end

end Sys2Proof.Machine

open Sys2Proof Sys2Proof.Machine Sys2Proof.Claims

/-- Settles O11: with agreeing copies the comparators change nothing, so that a golden read is a repair or a detection, and
a scrub step without a line to repair is one of the cases of `doScrubReadStep_noLine`. -/
theorem goldenRepairAndScrub : Obligations.GoldenRepairAndScrub := by
  unfold Obligations.GoldenRepairAndScrub
  constructor
  · intro ok s r hs hr hok hagree a
    refine ⟨_, when_next hok hs, fun hgood hd ht => ?_, fun hbad => ?_, doGoldenRepair_mem ok s,
      doGoldenRepair_keeps ok s⟩
    · rw [doGoldenRepair_passes hagree hr hgood hd]
      obtain ⟨hword, hsyn, hrest⟩ := writeRepair_imem
        { goldenNote ok a s with integ := dropRepair r s.integ } ht
      exact ⟨hword, hsyn, fun k hk => (hrest k hk).trans (by simp), by simp [dropRepair, mapRepairs]⟩
    · rw [doGoldenRepair_fails hagree hr hbad]
      exact ⟨by simp, detect_repairs _ _⟩
  · intro q s hquiet hrun h01 h12 hl hre
    have hstep := doScrubReadStep_noLine ⟨h01, h12⟩ hl hre
    refine ⟨_, when_next hrun hquiet.1, doScrubReadStep_arr ⟨h01, h12⟩ hl hre, by simp, fun hstop => ?_,
      fun hstop hdiff => ?_, fun hstop hdiff hempty => ?_, fun hstop hdiff hempty hen => ?_⟩
    · rw [hstep, if_pos hstop]
      exact ⟨scbOf_scrubDue q q s, scrubDue_integ q s⟩
    · rw [hstep, if_neg (by simp [hstop]), if_pos hdiff]
      exact stopScb_stops q _
    · rw [hstep, if_neg (by simp [hstop]), if_neg (by simp [hdiff]), if_pos (.inl hempty)]
      exact scbOf_scrubDue q q s
    · rw [hstep, if_neg (by simp [hstop]), if_neg (by simp [hdiff]), if_neg (by simp [hempty, hen])]
      exact readRow_copies q _ _
end

section
/-!
PROOFS. Requests at port B of an idle shed: a packet that goes meets nothing on its way, port B takes the request in its
bank cycle, an atomic writes in the next one, and the statement about the shed requests (R183, R186 to R196).
-/

namespace Sys2Proof

/-- A write of a word under a mask gives the bytes that the mask selects. -/
theorem Memory.byte_putMasked_in (m : List Host.Cell) (a : Nat) (w : W64) (mask : Byte) {i : Nat} (hi : i < 8) :
    Memory.byte (Memory.putMasked m a w mask) (a + i) =
      if mask.getLsbD i then wordByte w i else Memory.byte m (a + i) := by
  rw [Memory.byte_putMasked, Nat.add_sub_cancel_left]
  exact ite_congr (propext ⟨fun ⟨_, _, h⟩ => h, fun h => ⟨by omega, by omega, h⟩⟩) (fun _ => rfl) fun _ => rfl

theorem memBut_putMasked (m : List Host.Cell) (a : Nat) (w : W64) (mask : Byte) :
    Claims.MemBut a 8 m (Memory.putMasked m a w mask) := by
  intro x hx
  rw [Memory.byte_putMasked, if_neg (by omega)]

end Sys2Proof

namespace Sys2Proof.Claims

open Sys2Proof.Machine

theorem keeps_shed (s : State) (h : Shed) : Keeps [.shed] s { s with shed := h } := by
  intro p hp
  cases p <;> simp_all [Part.same]

end Sys2Proof.Claims

namespace Sys2Proof.Machine

open Sys2Proof.Claims

/-! ### A packet on its way -/

/-- A packet as it reaches its unit when it leaves now. -/
def delivered (s : State) (p : Pkt) : Pkt := carried s.regs { p with tick16 := tick16 s }

/-- A packet that goes arrives with nothing else of the state changed than the rails, and no packet put on its way. -/
theorem send_goes {op : Byte} {p : Pkt} {k : Nat} {s : State} (h : Goes op p k s) (resp : Option Byte)
    (arrive : Pkt → State → State) :
    ∃ r : Rls, r.fly = s.rls.fly ∧ send op resp p arrive s = arrive (delivered s p) { s with rls := r } := by
  obtain ⟨hs, -, hdst, hstall, hord, hroom, hclear, hallow⟩ := h
  have hsend : send op resp p arrive s = carryNow p arrive { s with rls := reserve op p s.rls } := by
    simp only [send, launch, hstall, hord, hs, hroom, hclear, hallow, if_neg (Nat.not_lt.2 (Nat.le_of_lt_succ hdst))]
    rfl
  have hfly : (reserve op p s.rls).fly = s.rls.fly := by
    unfold reserve
    split <;> rfl
  exact ⟨(carryNow p (fun _ t => t) { s with rls := reserve op p s.rls }).rls, hfly, hsend⟩

/-- The response of a unit to a packet delivered to it, besides the packets that were on their way. -/
theorem answered_of_fly {op : Byte} {p : Pkt} {status : Nat} {data : W64} {mask : Byte} {flits : List (BitVec 256)}
    {s t : State} (h : t.rls.fly = s.rls.fly ++ [(op, respPkt (delivered s p) status data mask flits)]) :
    Answered op p (BitVec.ofNat 4 status) data s t := ⟨_, h, rfl, rfl, rfl, rfl, rfl⟩

theorem answered_respond {p : Pkt} {s t : State} (op : Byte) (status : Nat) (data : W64) (mask : Byte)
    (flits : List (BitVec 256)) (h : t.rls.fly = s.rls.fly) :
    Answered op p (BitVec.ofNat 4 status) data s (respond op (respPkt (delivered s p) status data mask flits) t) :=
  answered_of_fly (congrArg (· ++ _) h)

theorem respond_keeps (op : Byte) (p : Pkt) (s : State) : Keeps [.rls, .flow] s (respond op p s) := keeps_rls s _

/-! ### Port B takes a request -/

/-- Port B of a shed, with nothing to do before, has taken a request in this bank cycle: a loss is counted where the
background head could have started (R185, R188). -/
def takenPort (k : Nat) (s : State) : State :=
  { s with shed := { s.shed with
    ports := []
    started := s.shed.started.put 0 k (s.clk.gen + 1)
    loss := if bgFree s k then s.shed.loss.put 0 k (s.shed.loss.get 0 k + 1) else s.shed.loss } }

theorem portsIdle_iff {s : State} : portsIdle s = true ↔ s.shed.ports = [] ∧ s.shed.want = [] := by
  simp [portsIdle]

theorem portB_nil {s : State} (h : s.shed.ports = []) (k : Nat) : portB s k = {} := by
  simp [portB, h, SMap.get, SMap.find?]

/-- A port B that has something to do is the only one listed where none had. -/
theorem setPortB_nil {s : State} (h : s.shed.ports = []) (k : Nat) {x : ShedPort} (hx : x ≠ {}) :
    setPortB s k x = { s with shed := { s.shed with ports := [(k, x)] } } := by
  simp [setPortB, h, SMap.put, SMap.set, hx]

/-- Port B starts the head of its foreground queue where nothing goes before it (R187). -/
theorem serveShed_head {k : Nat} {r : ShedReq} {rest : List ShedReq} {s : State} (hrelock : s.pwr.relock = false)
    (hstarted : s.shed.started.get 0 k ≠ s.clk.gen + 1) (hport : portB s k = { queue := r :: rest })
    (hloss : s.shed.loss.get 0 k < 1024) (hfree : reqFree s r = true) :
    serveShed k s = fgStart k r (setPortB (addLoss k (markStart k s)) k { queue := rest }) := by
  have hdue : decide (creditDue ≤ s.shed.loss.get 0 k) = false := decide_eq_false (Nat.not_le.2 hloss)
  simp [serveShed, hrelock, hstarted, hport, hdue, hfree]

/-- Port B starts nothing twice in a bank cycle (R185). -/
theorem serveShed_started {k : Nat} {s : State} (h : s.shed.started.get 0 k = s.clk.gen + 1) : serveShed k s = s := by
  simp [serveShed, h]

/-- The write cycle of an atomic goes before anything else, on a bank that is free (R187, R190). -/
theorem serveShed_write {k : Nat} {w : ShedWr} {s : State} (hrelock : s.pwr.relock = false)
    (hstarted : s.shed.started.get 0 k ≠ s.clk.gen + 1) (hport : (portB s k).wr = some w)
    (hfree : bankFree s w.key = true) : serveShed k s = shedFinish k w (markStart k s) := by
  simp [serveShed, hrelock, hstarted, hport, hfree]

/-- A request whose bank is free starts at an open port B in the bank cycle of its arrival (R186, R187). -/
theorem shedArrive_open {k : Nat} {r : ShedReq} {s : State} (h : PortOpen k s) (hr : reqFree s r = true) :
    shedArrive k r s = fgStart k r (takenPort k s) := by
  obtain ⟨⟨hidle, hsteps, hrelock, hstarted⟩, hloss⟩ := h
  obtain ⟨hports, -⟩ := portsIdle_iff.1 hidle
  have hempty : setPortB (addLoss k (markStart k (setPortB s k { queue := [r] }))) k {} = takenPort k s := by
    have hbg : bgFree (markStart k (setPortB s k { queue := [r] })) k = bgFree s k := rfl
    simp only [addLoss, hbg, takenPort]
    cases bgFree s k <;> simp [setPortB, markStart, hports, SMap.put, SMap.set, SMap.erase]
  rw [← hempty]
  simp only [shedArrive, portB_nil hports, List.nil_append]
  rw [if_neg (Bool.eq_false_iff.1 hsteps)]
  exact serveShed_head hrelock hstarted (portB_setPortB_same _ _ _) hloss hr

/-! ### The request at its bank -/

/-- The shed that an address names, by its barn and shed and by its key. -/
theorem shedNo_eq (a : W64) : shedNo a = adKey a / 2 ^ 15 := by
  simp only [shedNo, adBarn, adShed, adKey, fld, BitVec.extractLsb'_toNat, Nat.shiftRight_eq_div_pow]
  omega

/-- A packet that finds its shed is taken by its port B, in the bank cycle of its arrival (R186, R191). -/
theorem shedDeliver_finds {op : Byte} {p : Pkt} {s : State} (h : FindsShed p s) :
    shedDeliver op p s = shedOp op p (takenPort (shedNo p.addr) s) := by
  obtain ⟨hunit, hbarn, hstop, hon, hdom, hclosing, hopen, hfree⟩ := h
  rw [← shedNo_eq] at hopen
  have hcancel : cancelClose (adBarn p.addr / 6) s = s := by simp [cancelClose, hclosing, SMap.find?]
  have hdead : ¬(p.dunit ≠ 0 ∨ 96 ≤ adBarn p.addr ∨ barnStop (adBarn p.addr) ≠ p.dst.toNat) := by
    simp [hunit, hstop, hbarn]
  simp only [shedDeliver, reachUnit]
  rw [if_neg hdead, if_neg (by simp [hon]), if_pos hdom, hcancel,
    shedArrive_open hopen (r := .op op p) hfree]
  rfl

/-- The state in which port B of the packet's shed performs a request, with the rails as it leaves them. -/
def atBank (r : Rls) (p : Pkt) (s : State) : State := takenPort (shedNo p.addr) { s with rls := r }

theorem atBank_keeps (r : Rls) (p : Pkt) (s : State) : Keeps [.rls, .flow, .shed] s (atBank r p s) :=
  ((keeps_rls s r).trans (keeps_shed _ _)).mono

/-- A command is a shed request of an opcode (R189). -/
def RequestOf (c : Instr) (op : Byte) (p : Pkt) : Prop :=
  (c = .shdRead p ∧ op = opShdRead) ∨ (c = .shdWrite p ∧ op = opShdWrite) ∨ (c = .shdAdd p ∧ op = opShdAdd) ∨
    (c = .shdSwap p ∧ op = opShdSwap)

/-- Every shed request is sent to its shed. -/
theorem exec_requestOf {c : Instr} {op : Byte} {p : Pkt} (h : RequestOf c op p) (s : State) :
    exec c s = when (pktOk p 0) s (send op (some opShdResp) p (shedDeliver op) s) := by
  rcases h with ⟨rfl, rfl⟩ | ⟨rfl, rfl⟩ | ⟨rfl, rfl⟩ | ⟨rfl, rfl⟩ <;> rfl

/-- The shed requests reserve the same room for their response (R271, R276), so that one goes where another does. -/
theorem goes_requestOf {c : Instr} {op : Byte} {p : Pkt} {s : State} (h : RequestOf c op p)
    (hg : Goes opShdRead p 0 s) : Goes op p 0 s := by
  have hflits : respFlits op = respFlits opShdRead := by
    rcases h with ⟨-, rfl⟩ | ⟨-, rfl⟩ | ⟨-, rfl⟩ | ⟨-, rfl⟩ <;> rfl
  unfold Goes respRoom at *
  rwa [hflits]

/-- A request that goes and finds its shed is performed at the bank, of the packet as delivered. -/
theorem exec_shedRequest {c : Instr} {op : Byte} {p : Pkt} {s : State} (hc : RequestOf c op p)
    (hg : Goes opShdRead p 0 s) (hf : FindsShed p s) :
    ∃ r : Rls, r.fly = s.rls.fly ∧ exec c s = .next (shedOp op (delivered s p) (atBank r p s)) := by
  obtain ⟨r, hfly, hsend⟩ := send_goes (goes_requestOf hc hg) (some opShdResp) (shedDeliver op)
  obtain ⟨hs, hpkt, -⟩ := hg
  refine ⟨r, hfly, ?_⟩
  rw [exec_requestOf hc, when_next hpkt hs, hsend]
  exact congrArg _ (shedDeliver_finds (p := delivered s p) hf)

/-- A request of a requester that may not use the bank ends there (R196). -/
theorem shedOp_refused (op : Byte) {p : Pkt} {s : State}
    (h : mayUse s (requesterOf p) (adBarn p.addr) (adShed p.addr) (adWord p.addr / 4096) = false) :
    shedOp op p s = ownErr p s := by
  simp [shedOp, h]

/-- A request of a requester that may use the bank is performed (R189). -/
theorem shedOp_permitted {p : Pkt} {s : State} (h : MayUse p s) :
    shedOp opShdRead p s = shedRead p s ∧ shedOp opShdWrite p s = shedWriteB p s ∧
      shedOp opShdAdd p s = shedAtomic p (fun w => w + p.data) s ∧
      shedOp opShdSwap p s = shedAtomic p (fun _ => p.data) s := by
  simp [shedOp, h, opShdRead, opShdWrite, opShdAdd, opShdSwap]

/-- A read whose word passes its check answers the word as it stood before the bank cycle (R183, R191). -/
theorem shedRead_passes {p : Pkt} {s : State} (h : (preCycle s s.clk.gen (adKey p.addr)).2 = 0) :
    shedRead p s = respond opShdResp (respPkt p 0 (preCycle s s.clk.gen (adKey p.addr)).1 0 []) s := if_pos h

/-- A write of a word that port A does not write in its cycle stands (R193). -/
theorem shedWriteB_lands {p : Pkt} {s : State} (h : aWritesNow s (adKey p.addr) = false) :
    shedWriteB p s = respond opShdResp (respPkt p 0 0 0 [])
      { s with shed := portBWrite s.shed (adKey p.addr) p.data p.mask } := if_neg (Bool.eq_false_iff.1 h)

theorem shedWriteB_lost {p : Pkt} {s : State} (h : aWritesNow s (adKey p.addr) = true) :
    shedWriteB p s = writeLost p 0 s := if_pos h

/-! ### Atomics -/

/-- The write cycle that the read cycle of an atomic leaves (R190, R194). -/
def atomicWr (p : Pkt) (f : W64 → W64) (s : State) : ShedWr :=
  let old := (preCycle s s.clk.gen (adKey p.addr)).1
  ⟨adKey p.addr, f old, old, p, aWritesNow s (adKey p.addr)⟩

/-- The read cycle of an atomic leaves its write cycle to port B, which had nothing else to do (R190). -/
theorem shedAtomic_reads {p : Pkt} {s : State} (f : W64 → W64) (hports : s.shed.ports = [])
    (hsyn : (preCycle s s.clk.gen (adKey p.addr)).2 = 0) :
    shedAtomic p f s =
      { s with shed := { s.shed with ports := [(shedNo p.addr, { wr := some (atomicWr p f s) })] } } := by
  simp only [shedAtomic, hsyn, portB_nil hports]
  exact setPortB_nil hports _ (by simp)

/-- Two bank cycles on, the write cycle of an atomic that stands alone at port B has passed, where port A does not
occupy its bank in that cycle (R190, R194). -/
theorem pass_atomic {k : Nat} {w : ShedWr} {s : State} (hports : s.shed.ports = [(k, { wr := some w })])
    (hwant : s.shed.want = []) (hstarted : s.shed.started.get 0 k = s.clk.gen + 1) (hrelock : s.pwr.relock = false)
    (hs : s.pwr.stabled = false) (hfree : s.exe.aUse.contains (w.key / 4096, s.clk.gen + 1) = false) :
    pass 2 s = advance 0 (advance 1 (shedFinish k w (markStart k (advance 1 s)))) := by
  have hidle : ∀ t : State, t.shed = s.shed → portsIdle t = false := by
    intro t ht
    simp [portsIdle, ht, hports]
  have hserve : ∀ t : State, t.shed = s.shed → serveSheds t = serveShed k t := by
    intro t ht
    simp [serveSheds, ht, hports, hwant]
  have hgen : (advance 1 s).clk.gen = s.clk.gen + 1 := by simp [advance, hrelock, hs]
  have hbank : bankFree (advance 1 s) w.key = true := by
    simp only [bankFree, advance_frame, hgen, hfree, Bool.not_false, Bool.or_true]
  have hport : (portB (advance 1 s) k).wr = some w := by simp [portB, hports, SMap.get, SMap.find?]
  rw [pass, hidle s rfl, if_neg Bool.false_ne_true, hserve s rfl, serveShed_started hstarted, pass,
    hidle _ (by simp), if_neg Bool.false_ne_true, hserve _ (by simp),
    serveShed_write (by simpa using hrelock) (by simp [hgen, hstarted]) hport hbank, pass]

/-- The instructions whose request is an atomic, with what each writes for the old word (R189). -/
def AtomicOf (c : Instr) (p : Pkt) (f : W64 → W64) : Prop :=
  (c = .shdAdd p ∧ f = fun w => w + p.data) ∨ (c = .shdSwap p ∧ f = fun _ => p.data)

/-- The state after the read cycle of an atomic. -/
def readCycle (r : Rls) (p : Pkt) (f : W64 → W64) (s : State) : State :=
  { atBank r p s with shed := { (atBank r p s).shed with
    ports := [(shedNo p.addr, { wr := some (atomicWr (delivered s p) f s) })] } }

theorem readCycle_keeps (r : Rls) (p : Pkt) (f : W64 → W64) (s : State) :
    Keeps [.rls, .flow, .shed] s (readCycle r p f s) := ((atBank_keeps r p s).trans (keeps_shed _ _)).mono

/-- An atomic whose word passes its check reads it in the bank cycle of its arrival. -/
theorem exec_atomic {c : Instr} {f : W64 → W64} {p : Pkt} {s : State} (hg : Goes opShdRead p 0 s) (hf : FindsShed p s)
    (hmay : MayUse p s) (hsyn : (preCycle s s.clk.gen (adKey p.addr)).2 = 0) (hc : AtomicOf c p f) :
    ∃ r : Rls, r.fly = s.rls.fly ∧ exec c s = .next (readCycle r p f s) := by
  have hreads := fun r => shedAtomic_reads (p := delivered s p) (s := atBank r p s) f rfl hsyn
  rcases hc with ⟨rfl, rfl⟩ | ⟨rfl, rfl⟩
  · obtain ⟨r, hfly, hnext⟩ := exec_shedRequest (.inr (.inr (.inl ⟨rfl, rfl⟩))) hg hf
    obtain ⟨-, -, hadd, -⟩ := shedOp_permitted (p := delivered s p) (s := atBank r p s) hmay
    exact ⟨r, hfly, hnext.trans (congrArg _ (hadd.trans (hreads r)))⟩
  · obtain ⟨r, hfly, hnext⟩ := exec_shedRequest (.inr (.inr (.inr ⟨rfl, rfl⟩))) hg hf
    obtain ⟨-, -, -, hswap⟩ := shedOp_permitted (p := delivered s p) (s := atBank r p s) hmay
    exact ⟨r, hfly, hnext.trans (congrArg _ (hswap.trans (hreads r)))⟩

/-- The state in which the write cycle of an atomic is performed. -/
def writeCycle (r : Rls) (p : Pkt) (f : W64 → W64) (s : State) : State :=
  markStart (shedNo p.addr) (advance 1 (readCycle r p f s))

/-- The write cycle of an atomic comes in the bank cycle after its read cycle. -/
theorem pass_readCycle {r : Rls} {p : Pkt} {f : W64 → W64} {s : State} (hs : s.pwr.stabled = false)
    (hf : FindsShed p s) (huse : s.exe.aUse.contains (adKey p.addr / 4096, s.clk.gen + 1) = false) :
    pass 2 (readCycle r p f s) =
      advance 0 (advance 1 (shedFinish (shedNo p.addr) (atomicWr (delivered s p) f s) (writeCycle r p f s))) := by
  obtain ⟨-, -, -, -, -, -, ⟨⟨hidle, -, hrelock, -⟩, -⟩, -⟩ := hf
  obtain ⟨-, hwant⟩ := portsIdle_iff.1 hidle
  exact pass_atomic (s := readCycle r p f s) rfl hwant (by simp [readCycle, atBank, takenPort]) hrelock hs huse

theorem writeCycle_frame (r : Rls) (p : Pkt) (f : W64 → W64) (s : State) :
    (writeCycle r p f s).rls = r ∧ (writeCycle r p f s).regs = s.regs ∧ (writeCycle r p f s).exe = s.exe ∧
      (writeCycle r p f s).shed.mem = s.shed.mem := by
  simp [writeCycle, readCycle, atBank, takenPort, markStart]

/-- Port A writes the word in the write cycle of an atomic only if it has a write of the next period there. -/
theorem aWritesNow_writeCycle {r : Rls} {p : Pkt} {f : W64 → W64} {s : State} (hs : s.pwr.stabled = false)
    (hf : FindsShed p s) (hno : ∀ x ∈ s.exe.aWrites, x.word = adKey p.addr → x.gen ≠ s.clk.gen + 1) :
    aWritesNow (writeCycle r p f s) (adKey p.addr) = false := by
  obtain ⟨-, -, -, -, -, -, ⟨⟨-, -, hrelock, -⟩, -⟩, -⟩ := hf
  obtain ⟨-, -, hexe, -⟩ := writeCycle_frame r p f s
  have hgen : (writeCycle r p f s).clk.gen = s.clk.gen + 1 := by
    simp [writeCycle, readCycle, atBank, takenPort, advance, hrelock, hs]
  simpa [aWritesNow, hgen, hexe] using hno

theorem ownErr_keeps (p : Pkt) (s : State) : Keeps [.regs, .hst, .rls, .flow] s (ownErr p s) :=
  ((keeps_regs s _).trans ((raiseInt_keeps _ _ 0).trans (respond_keeps _ _ _))).mono

/-- An access that its requester may not make sets OWN_ERR (R196). -/
theorem ownErr_recorded (p : Pkt) (s : State) : intBit (ownErr p s) (pg .shd (adBarn p.addr)) 0 = true := by
  have hraise := intBit_raiseInt { s with regs := rerr s.regs (pg .shd (adBarn p.addr)) 1 } (pg .shd (adBarn p.addr)) 0
    (by decide)
  exact hraise

theorem writeLost_keeps (p : Pkt) (w : W64) (s : State) : Keeps [.regs, .rls, .flow] s (writeLost p w s) :=
  ((keeps_regs s _).trans (respond_keeps _ _ _)).mono

/-- A write that is lost is counted in SHD_WLOST (R193). -/
theorem writeLost_counts (p : Pkt) (w : W64) (s : State) :
    rfld (writeLost p w s).regs (pg .shd (adBarn p.addr) + 0x140) 0 32 =
      Nat.min (2 ^ 32 - 1) (rfld s.regs (pg .shd (adBarn p.addr) + 0x140) 0 32 + 1) := by
  simp only [writeLost, respond_frame]
  rw [rfld_rbump_same _ _ _ _ _ (by decide)]

/-- The write cycle of an atomic writes its word and answers the old one, where port A has written the word in neither
cycle (R190, R194). -/
theorem shedFinish_writes (k : Nat) {w : ShedWr} {s : State} (hlost : w.lost = false)
    (hnow : aWritesNow s w.key = false) :
    (shedFinish k w s).rls.fly = s.rls.fly ++ [(opShdResp, respPkt w.pkt 0 w.old 0 [])] ∧
      (shedFinish k w s).shed.mem = Memory.putWord s.shed.mem (8 * w.key) w.word := by
  have hc : ¬(w.lost || aWritesNow s w.key) = true := by simp [hlost, hnow]
  rw [shedFinish, if_neg hc]
  exact ⟨rfl, rfl⟩

/-- The write cycle of an atomic is discarded where port A has written the word in the read cycle (R194). -/
theorem shedFinish_lost (k : Nat) {w : ShedWr} {s : State} (hlost : w.lost = true) :
    let lost := pg .shd (adBarn w.pkt.addr) + 0x140
    (shedFinish k w s).rls.fly = s.rls.fly ++ [(opShdResp, respPkt w.pkt 1 w.old 0 [])] ∧
      rfld (shedFinish k w s).regs lost 0 32 = Nat.min (2 ^ 32 - 1) (rfld s.regs lost 0 32 + 1) ∧
      (shedFinish k w s).shed.mem = s.shed.mem := by
  have hc : (w.lost || aWritesNow s w.key) = true := by simp [hlost]
  rw [shedFinish, if_pos hc]
  exact ⟨rfl, writeLost_counts w.pkt w.old (setPortB s k { portB s k with wr := none }), rfl⟩

/-- Two bank cycles on, an atomic has answered the old word and written the new one (R190, R194). -/
theorem readCycle_writes {r : Rls} {p : Pkt} (f : W64 → W64) {s : State} (hs : s.pwr.stabled = false)
    (hf : FindsShed p s) (hfly : r.fly = s.rls.fly) (hlost : aWritesNow s (adKey p.addr) = false)
    (huse : s.exe.aUse.contains (adKey p.addr / 4096, s.clk.gen + 1) = false)
    (hno : ∀ x ∈ s.exe.aWrites, x.word = adKey p.addr → x.gen ≠ s.clk.gen + 1) :
    let old := (preCycle s s.clk.gen (adKey p.addr)).1
    Answered opShdResp p 0 old s (pass 2 (readCycle r p f s)) ∧
      (pass 2 (readCycle r p f s)).shed.mem = Memory.putWord s.shed.mem (8 * adKey p.addr) (f old) := by
  obtain ⟨hrls, -, -, hmem⟩ := writeCycle_frame r p f s
  obtain ⟨hfly', hmem'⟩ := shedFinish_writes (shedNo p.addr) (w := atomicWr (delivered s p) f s)
    (s := writeCycle r p f s) hlost (aWritesNow_writeCycle hs hf hno)
  rw [hrls, hfly] at hfly'
  rw [hmem] at hmem'
  simp only [pass_readCycle hs hf huse, advance_frame]
  exact ⟨answered_of_fly hfly', hmem'⟩

/-- Two bank cycles on, an atomic whose word port A wrote in the read cycle has answered WRITE_LOST (R193, R194). -/
theorem readCycle_lost {r : Rls} {p : Pkt} (f : W64 → W64) {s : State} (hs : s.pwr.stabled = false)
    (hf : FindsShed p s) (hfly : r.fly = s.rls.fly) (hlost : aWritesNow s (adKey p.addr) = true)
    (huse : s.exe.aUse.contains (adKey p.addr / 4096, s.clk.gen + 1) = false) :
    let t := pass 2 (readCycle r p f s)
    let lost := pg .shd (adBarn p.addr) + 0x140
    Answered opShdResp p 1 (preCycle s s.clk.gen (adKey p.addr)).1 s t ∧
      rfld t.regs lost 0 32 = Nat.min (2 ^ 32 - 1) (rfld s.regs lost 0 32 + 1) ∧ t.shed.mem = s.shed.mem := by
  obtain ⟨hrls, hregs, -, hmem⟩ := writeCycle_frame r p f s
  obtain ⟨hfly', hcount, hmem'⟩ := shedFinish_lost (shedNo p.addr) (w := atomicWr (delivered s p) f s)
    (s := writeCycle r p f s) hlost
  rw [hrls, hfly] at hfly'
  rw [hregs] at hcount
  simp only [pass_readCycle hs hf huse, advance_frame]
  exact ⟨answered_of_fly hfly', hcount, hmem'.trans hmem⟩

end Sys2Proof.Machine

open Sys2Proof Sys2Proof.Machine Sys2Proof.Claims

/-- Settles O22, request by request: a packet that goes meets nothing on its way to its shed, whose port B takes it at
once, and the write cycle of an atomic is the next bank cycle. That it reaches its shed within its command is the
model's choice (log 126). -/
theorem shedRequestsActOrAreTurnedAway : Obligations.ShedRequestsActOrAreTurnedAway := by
  unfold Obligations.ShedRequestsActOrAreTurnedAway
  refine ⟨fun p s hg hf hmay => have hs := hg.1; ⟨fun hsyn => ?_, fun hlost => ?_, fun hsyn c v hc => ?_⟩,
    fun p s hg hf => have hs := hg.1; ⟨fun hmay c hc => ?_, fun hmay hlost => ⟨?_, fun hsyn huse c hc => ?_⟩⟩⟩
  · obtain ⟨r, hfly, hnext⟩ := exec_shedRequest (.inl ⟨rfl, rfl⟩) hg hf
    obtain ⟨hread, -⟩ := shedOp_permitted (p := delivered s p) (s := atBank r p s) hmay
    rw [hread, shedRead_passes (p := delivered s p) (s := atBank r p s) hsyn] at hnext
    exact ⟨_, hnext, answered_respond _ _ _ _ _ hfly, rfl, ((atBank_keeps r p s).trans (respond_keeps _ _ _)).mono⟩
  · obtain ⟨r, hfly, hnext⟩ := exec_shedRequest (.inr (.inl ⟨rfl, rfl⟩)) hg hf
    obtain ⟨-, hwrite, -⟩ := shedOp_permitted (p := delivered s p) (s := atBank r p s) hmay
    rw [hwrite, shedWriteB_lands (p := delivered s p) (s := atBank r p s) hlost] at hnext
    exact ⟨_, hnext, answered_respond _ _ _ _ _ hfly, fun i hi => Memory.byte_putMasked_in _ _ _ _ hi,
      memBut_putMasked _ _ _ _, ((atBank_keeps r p s).trans ((keeps_shed _ _).trans (respond_keeps _ _ _))).mono⟩
  · obtain ⟨f, hf', hv⟩ : ∃ f, AtomicOf c p f ∧ v = f (preCycle s s.clk.gen (adKey p.addr)).1 := by
      rcases hc with ⟨hc, hv⟩ | ⟨hc, hv⟩
      · exact ⟨_, .inl ⟨hc, rfl⟩, hv⟩
      · exact ⟨_, .inr ⟨hc, rfl⟩, hv⟩
    obtain ⟨r, hfly, hnext⟩ := exec_atomic hg hf hmay hsyn hf'
    refine ⟨_, atomicWr (delivered s p) f s, hnext, rfl, ?_, rfl, hv.symm, rfl, rfl, readCycle_keeps r p f s,
      fun ⟨huse, hno⟩ hlost => ?_⟩
    · rw [← shedNo_eq]
      simp [readCycle, portB, SMap.get, SMap.find?]
    · obtain ⟨hans, hmem⟩ := readCycle_writes f hs hf hfly hlost huse hno
      rw [hmem, hv]
      exact ⟨hans, Memory.word_putWord _ _ _, memBut_putMasked _ _ _ _⟩
  · obtain ⟨op, hc⟩ : ∃ op, RequestOf c op p := by simpa [RequestOf, exists_or] using hc
    obtain ⟨r, hfly, hnext⟩ := exec_shedRequest hc hg hf
    have hmay' : mayUse (atBank r p s) (requesterOf (delivered s p)) (adBarn p.addr) (adShed p.addr)
        (adWord p.addr / 4096) = false := Bool.eq_false_iff.2 hmay
    rw [shedOp_refused op hmay'] at hnext
    exact ⟨_, hnext, answered_respond _ _ _ _ _ hfly, ownErr_recorded (delivered s p) _, rfl,
      ((atBank_keeps r p s).trans (ownErr_keeps _ _)).mono⟩
  · obtain ⟨r, hfly, hnext⟩ := exec_shedRequest (.inr (.inl ⟨rfl, rfl⟩)) hg hf
    obtain ⟨-, hwrite, -⟩ := shedOp_permitted (p := delivered s p) (s := atBank r p s) hmay
    rw [hwrite, shedWriteB_lost (p := delivered s p) (s := atBank r p s) hlost] at hnext
    exact ⟨_, hnext, answered_respond _ _ _ _ _ hfly, writeLost_counts (delivered s p) 0 (atBank r p s), rfl,
      ((atBank_keeps r p s).trans (writeLost_keeps _ _ _)).mono⟩
  · obtain ⟨f, hf'⟩ : ∃ f, AtomicOf c p f := by
      rcases hc with hc | hc
      · exact ⟨_, .inl ⟨hc, rfl⟩⟩
      · exact ⟨_, .inr ⟨hc, rfl⟩⟩
    obtain ⟨r, hfly, hnext⟩ := exec_atomic hg hf hmay hsyn hf'
    exact ⟨_, hnext, readCycle_lost f hs hf hfly hlost huse⟩
end

section
/-!
PROOFS. The statement about the registers of port B, fills and the patrol fails where a fill names a shed that its barn
does not have (R203).
-/

namespace Sys2Proof.Machine

/-- A fill that names a fifth shed of its barn, which has four (R182). -/
def strayFill : Fill := ⟨4, 0, 0, 1, 1, 0⟩

/-- The chip after reset, but with that fill in barn 0, and one in shed 0 of barn 1: port B of that shed is the one that
the number of the fifth shed of barn 0 names. -/
def strayState : State :=
  { State.reset with shed := { State.reset.shed with fills := [(0, strayFill), (1, ⟨0, 0, 0, 1, 0, 0⟩)] } }

/-- FILL_WORD of barn 0 leaves its fill where it stands, and goes on with the fill of barn 1. -/
theorem fillWord_strayState :
    ∃ t, exec (.fillWord 0) strayState = .next t ∧ t.shed.fills.find? 0 = some strayFill :=
  ⟨_, rfl, by decide⟩

end Sys2Proof.Machine

open Sys2Proof Sys2Proof.Machine Sys2Proof.Claims

/-- Refutes O27, in its row of FILL_WORD: a fill of barn 0 that names a fifth shed has the port B of the first shed of
barn 1, which goes on with the fill of barn 1 and leaves that of barn 0 as it is. No GO starts such a fill (its field
names sheds 0 to 3), but the statement is about every state. -/
theorem not_shedOwnersFillsAndPatrol : ¬ Obligations.ShedOwnersFillsAndPatrol := by
  unfold Obligations.ShedOwnersFillsAndPatrol
  intro h
  obtain ⟨-, hfill, -⟩ := h
  obtain ⟨t, hnext, -, -, -, hgoes, -⟩ := hfill 0 strayState strayFill (by decide) (by decide) (by decide) (by decide)
    (by decide) (by decide) (by decide)
  obtain ⟨hfills, -⟩ := hgoes (by decide)
  obtain ⟨u, hnext', hstays⟩ := fillWord_strayState
  rw [hnext, Host.Outcome.next.injEq] at hnext'
  subst hnext'
  exact absurd (hfills.symm.trans hstays) (by decide)
end

section
/-!
PROOFS. Power domains: what a request to a domain comes to, what a close and a wake leave of the state, and the
statement about them (R205, R438, R446 to R448).
-/

namespace Sys2Proof

/-- A store of which entries are left out shows the others as they were. -/
theorem SMap.find?_keep {α : Type} (m : SMap α) (p : Nat → Bool) (k : Nat) :
    (m.keep p).find? k = if p k then m.find? k else none := by
  induction m with
  | nil => simp [SMap.keep, SMap.find?]
  | cons e m ih =>
    obtain ⟨j, v⟩ := e
    rw [SMap.keep, List.filter_cons]
    by_cases hj : k = j
    · subst hj
      cases hp : p k with
      | true => simp [SMap.find?]
      | false => simpa [SMap.keep, hp] using ih
    · cases p j with
      | true => simpa [SMap.find?, SMap.keep, hj] using ih
      | false => simpa [SMap.find?, SMap.keep, hj] using ih

/-- The bytes of a memory after those of a range are left out. -/
theorem Memory.byte_without (m : List Host.Cell) (lo n a : Nat) :
    Memory.byte (SMap.without m lo n) a = if lo ≤ a ∧ a < lo + n then 0 else Memory.byte m a := by
  rw [Memory.byte, SMap.get, SMap.without, SMap.find?_keep]
  by_cases h : lo ≤ a ∧ a < lo + n
  · simp [h]
  · rw [if_neg h, if_pos (by simp; omega)]
    rfl

end Sys2Proof

namespace Sys2Proof.Claims

open Sys2Proof.Machine

theorem keeps_pwr (s : State) (p : Pwr) : Keeps [.pwr] s { s with pwr := p } := by
  intro q hq
  cases q <;> simp_all [Part.same]

end Sys2Proof.Claims

namespace Sys2Proof.Machine

open Sys2Proof.Claims

/-! ### Requests -/

/-- A request recorded in PWR_DOM_RESULT changes that register alone. -/
theorem domResult_records (res reason d t : Nat) (s : State) :
    rget (domResult res reason d t s).regs 0x410C =
        BitVec.ofNat 32 (res * 2 ^ 30 + reason * 2 ^ 24 + d * 2 ^ 8 + t) ∧
      RegsBut [0x410C] s (domResult res reason d t s) ∧ Keeps [.regs] s (domResult res reason d t s) :=
  ⟨rget_rput_same _ _ _, regsBut_rput rfl, keeps_regs s _⟩

/-- A result recorded with an interrupt of the PWR page, in a state that the access's packets leave. -/
theorem domResult_raised {s u : State} (hregs : u.regs = s.regs) (hflow : Keeps [.flow] s u) (res reason d t k : Nat)
    (hk : k < 32) :
    let w := raiseInt (domResult res reason d t u) 0x4000 k
    rget w.regs 0x410C = BitVec.ofNat 32 (res * 2 ^ 30 + reason * 2 ^ 24 + d * 2 ^ 8 + t) ∧
      intBit w 0x4000 k = true ∧ RegsBut [0x410C, 0x4018] s w ∧ Keeps [.regs, .hst, .flow] s w := by
  obtain ⟨hval, hbut, hkeeps⟩ := domResult_records res reason d t u
  exact ⟨(raiseInt_rget _ 0x4000 k 0x410C (by decide)).trans hval, intBit_raiseInt _ 0x4000 k hk,
    (regsBut_of_regs hregs []).trans (hbut.trans (raiseInt_regsBut _ 0x4000 k)),
    (hflow.trans (hkeeps.trans (raiseInt_keeps _ 0x4000 k))).mono⟩

theorem trcLost_regsBut (n : Nat) (s : State) : RegsBut [0x8130, 0x8018] s (trcLost n s) := by
  unfold trcLost
  split
  · exact regsBut_of_regs rfl _
  · exact (regsBut_rput rfl).trans (raiseInt_regsBut _ 0x8000 0)

theorem emitTrace_regsBut (g : Nat) (p : List Byte) (s : State) : RegsBut [0x8130, 0x8018] s (emitTrace g p s) := by
  unfold emitTrace
  split
  · exact (regsBut_of_regs (by simp [passFree, setGroom]) []).trans (trcLost_regsBut _ _)
  · exact regsBut_of_regs rfl _

/-- The trace of the grooms that rest changes no register but those of packets lost (R436, R438). -/
theorem restGrooms_regsBut (t : Nat) : ∀ (n g : Nat) (s : State), RegsBut [0x8130, 0x8018] s (restGrooms t g n s)
  | 0, _, _ => regsBut_of_regs rfl _
  | n + 1, g, s => by
    have hemit := emitTrace_regsBut g [trcHead 7 g, BitVec.ofNat 8 t] s
    have hrest := restGrooms_regsBut t n (g + 1)
      (flushAll g (groomOf (emitTrace g [trcHead 7 g, BitVec.ofNat 8 t] s) g).enc.length
        (emitTrace g [trcHead 7 g, BitVec.ofNat 8 t] s))
    intro k hk
    exact (hrest k hk).trans ((congrArg (rget · k) (by simp)).trans (hemit k hk))

/-- The beginning of a close makes the domain CLOSING, and sends the trace of grooms that were ON (R438, R447). -/
theorem beginClose_closes (d t : Nat) (stab : Bool) (s : State) :
    (beginClose d t stab s).pwr = { s.pwr with closing := s.pwr.closing.set d ⟨t, stab⟩ } ∧
      RegsBut [0x8130, 0x8018] s (beginClose d t stab s) := by
  unfold beginClose
  split
  · exact ⟨by simp, restGrooms_regsBut t 8 _ s⟩
  · exact ⟨rfl, regsBut_of_regs rfl _⟩

/-- Without grooms that were ON, the beginning of a close changes nothing else. -/
theorem beginClose_unrested {d t : Nat} {stab : Bool} {s : State} (h : ¬((d = 20 ∨ d = 21) ∧ domState s.pwr d = 0)) :
    beginClose d t stab s = { s with pwr := { s.pwr with closing := s.pwr.closing.set d ⟨t, stab⟩ } } := by
  simp only [beginClose]
  rw [if_neg h]

theorem beginClose_keeps (d t : Nat) (stab : Bool) (s : State) :
    Keeps [.pwr, .regs, .rls, .flow, .grm, .hst, .clk] s (beginClose d t stab s) := by
  intro p hp
  cases p <;> simp_all [Part.same]

theorem closeReason_rls (stab : Bool) (d t : Nat) (s : State) (r : Rls) :
    closeReason stab d t { s with rls := r } = closeReason stab d t s := rfl

/-- A permitted write of PWR_DOM_CTRL is the request on the state that the access's packets leave. -/
theorem pwrDomCtrl_next {r : Requester} {v : W32} {s : State} (h : Writable r 0x4108 s) :
    ∃ u, exec (.pwrDomCtrl r v) s = .next (domCtrlWrite v u) ∧ u.regs = s.regs ∧ u.pwr = s.pwr ∧ Keeps [.flow] s u ∧
      ∀ d x, closeReason false d x u = closeReason false d x s := by
  refine ⟨accessPackets r 0 0x4108 s, congrArg _ (viaWrite_writable h _), by simp, by simp,
    accessPackets_keeps _ _ _ s, fun d x => ?_⟩
  rw [accessPackets_eq]
  exact closeReason_rls _ _ _ _ _

/-- What a request for a state below ON comes to, of a domain that is not CLOSING (R446). -/
theorem domCloseRequest_cases {d x : Nat} {s : State} (hc : s.pwr.closing = []) :
    (x < domState s.pwr d → domCloseRequest d x s = domRefuse 6 d x s) ∧
    (x = domState s.pwr d → domCloseRequest d x s = raiseInt (domResult 1 0 d x s) 0x4000 3) ∧
    (domState s.pwr d < x → closeReason false d x s ≠ 0 →
      domCloseRequest d x s = domRefuse (closeReason false d x s) d x s) ∧
    (domState s.pwr d < x → closeReason false d x s = 0 →
      domCloseRequest d x s = beginClose d x false (domResult 1 0 d x s)) := by
  refine ⟨fun h => ?_, fun h => ?_, fun h hwhy => ?_, fun h hwhy => ?_⟩ <;> simp only [domCloseRequest]
  · rw [if_pos h]
  · rw [if_neg (by omega), if_pos h]
  · rw [if_neg (by omega), if_neg (by omega), if_pos hwhy]
  · rw [if_neg (by omega), if_neg (by omega), if_neg (by simpa using hwhy), hc]
    rfl

/-- What a request for the state ON comes to, of a domain that is not CLOSING (R446). -/
theorem domWakeRequest_cases {d : Nat} {s : State} (hc : s.pwr.closing = []) :
    (domOn s.pwr d = true → domWakeRequest d s = raiseInt (domResult 1 0 d 0 s) 0x4000 3) ∧
    (domOn s.pwr d = false → domWakeRequest d s = { domResult 1 0 d 0 s with pwr := { s.pwr with
      waking := s.pwr.waking ||| BitVec.ofNat 32 (2 ^ d), asked := s.pwr.asked ||| BitVec.ofNat 32 (2 ^ d) } }) := by
  have habort : abortClose d (domResult 1 0 d 0 s) = domResult 1 0 d 0 s := by simp [abortClose, hc, SMap.find?]
  refine ⟨fun h => ?_, fun h => ?_⟩ <;> simp only [domWakeRequest, habort, domResult_frame]
  · rw [if_pos h]
  · rw [if_neg (Bool.eq_false_iff.1 h)]
    rfl

/-- An accepted request for a state below ON (R438, R446, R447). -/
theorem beginClose_accepted {d x : Nat} {s u : State} (hregs : u.regs = s.regs) (hpwr : u.pwr = s.pwr)
    (hnone : s.pwr.closing = []) (hflow : Keeps [.flow] s u) :
    let t := beginClose d x false (domResult 1 0 d x u)
    t.pwr = { s.pwr with closing := [(d, ⟨x, false⟩)] } ∧
      rget t.regs 0x410C = BitVec.ofNat 32 (1 * 2 ^ 30 + 0 * 2 ^ 24 + d * 2 ^ 8 + x) ∧
      (¬((d = 20 ∨ d = 21) ∧ domState s.pwr d = 0) → RegsBut [0x410C] s t ∧ Keeps [.regs, .pwr, .flow] s t) ∧
      Keeps [.regs, .pwr, .rls, .grm, .hst, .clk, .flow] s t := by
  obtain ⟨hval, hbut, hkeeps⟩ := domResult_records 1 0 d x u
  obtain ⟨hp, htrace⟩ := beginClose_closes d x false (domResult 1 0 d x u)
  have hpwr' : (domResult 1 0 d x u).pwr = s.pwr := hpwr
  rw [hpwr', hnone] at hp
  refine ⟨hp, (htrace _ (by decide)).trans hval, fun hrest => ?_,
    (hflow.trans (hkeeps.trans (beginClose_keeps _ _ _ _))).mono⟩
  rw [beginClose_unrested (by rwa [hpwr'])]
  exact ⟨(regsBut_of_regs hregs []).trans hbut, (hflow.trans (hkeeps.trans (keeps_pwr _ _))).mono⟩

/-- A request for the state ON (R446). -/
theorem domWakeRequest_acts {d : Nat} {s u : State} (hregs : u.regs = s.regs) (hpwr : u.pwr = s.pwr)
    (hnone : s.pwr.closing = []) (hflow : Keeps [.flow] s u) :
    let t := domWakeRequest d u
    rget t.regs 0x410C = BitVec.ofNat 32 (2 ^ 30 + d * 2 ^ 8) ∧
      (domOn s.pwr d = true →
        intBit t 0x4000 3 = true ∧ RegsBut [0x410C, 0x4018] s t ∧ Keeps [.regs, .hst, .flow] s t) ∧
      (domOn s.pwr d = false → t.pwr = { s.pwr with
          waking := s.pwr.waking ||| BitVec.ofNat 32 (2 ^ d), asked := s.pwr.asked ||| BitVec.ofNat 32 (2 ^ d) } ∧
        RegsBut [0x410C] s t ∧ Keeps [.regs, .pwr, .flow] s t) := by
  obtain ⟨hon, hoff⟩ := domWakeRequest_cases (d := d) (hpwr ▸ hnone)
  rw [hpwr] at hon hoff
  cases hd : domOn s.pwr d with
  | true =>
    obtain ⟨hval, hrest⟩ := domResult_raised hregs hflow 1 0 d 0 3 (by decide)
    rw [hon hd]
    exact ⟨hval, fun _ => hrest, fun h => absurd h (by decide)⟩
  | false =>
    obtain ⟨hval, hbut, hkeeps⟩ := domResult_records 1 0 d 0 u
    rw [hoff hd]
    exact ⟨hval, fun h => absurd h (by decide), fun _ => ⟨by rw [← hpwr],
      (regsBut_of_regs hregs []).trans hbut, (hflow.trans (hkeeps.trans (keeps_pwr _ _))).mono⟩⟩

/-! ### Closes -/

theorem event_next {c : Bool} {s t : State} (hc : c = true) : event c s t = .next t := by rw [event, hc, if_pos rfl]

/-- A close that nothing bars is performed (R447). -/
theorem domainClose_next {d : Fin 32} {c : Closing} {s : State} (hfind : s.pwr.closing.find? d = some c)
    (hallow : closeAllowed d s = true) (hwake : s.pwr.waking.getLsbD d = false) (hready : closeReady d s = true) :
    exec (.domainClose d) s = .next (closeNow d c s) := by
  have hdo : doDomainClose d s = closeNow d c s := by simp [doDomainClose, hfind]
  rw [← hdo]
  exact event_next (by rw [hallow, hwake, hready]; rfl)

/-- A close of its own, not of the entry into Stabled, ends with DOM_DONE (R447). -/
theorem closeNow_own {d : Nat} {c : Closing} {s : State} (h : c.stab = false) :
    (closeNow d c s).pwr = { s.pwr with dom := s.pwr.dom.put 0 d c.target, closing := s.pwr.closing.erase d } ∧
      intBit (closeNow d c s) 0x4000 3 = true := by
  simp only [closeNow, h, Bool.false_eq_true, if_false]
  exact ⟨by simp, intBit_raiseInt _ 0x4000 3 (by decide)⟩

/-! ### Wakes -/

/-- The bit of a domain is gone from those waking. -/
theorem getLsbD_and_not_twoPow (w : W32) {d : Nat} (hd : d < 32) :
    (w &&& ~~~(BitVec.ofNat 32 (2 ^ d))).getLsbD d = false := by
  rw [BitVec.getLsbD_and, BitVec.getLsbD_not, BitVec.getLsbD_ofNat, Nat.testBit_two_pow_self]
  simp [hd]

/-- A wake leaves nothing of the domain's close, of its waking, or of a request that waited for it (R446, R448). -/
theorem wakeNow_pwr (d : Nat) (s : State) : (wakeNow d s).pwr = { s.pwr with
    dom := s.pwr.dom.put 0 d 0, closing := s.pwr.closing.erase d
    waking := s.pwr.waking &&& ~~~(BitVec.ofNat 32 (2 ^ d))
    asked := s.pwr.asked &&& ~~~(BitVec.ofNat 32 (2 ^ d)) } := by
  simp only [wakeNow]
  split <;> simp

/-- A wake leaves its domain ON (R448). -/
theorem wakeNow_on {d : Nat} (s : State) (hd : d < 32) : domOn (wakeNow d s).pwr d = true := by
  rw [domOn, domState, wakeNow_pwr, SMap.get_put_same, getLsbD_and_not_twoPow _ hd]
  rfl

/-- A wake leaves the state of every other domain as it was (R448). -/
theorem wakeNow_other {d e : Nat} (s : State) (he : e ≠ d) :
    domState (wakeNow d s).pwr e = domState s.pwr e := by
  rw [domState, wakeNow_pwr, SMap.get_put_other _ _ _ _ _ _ he]
  rfl

/-- A wake from a state above OFF loses neither the array nor the sheds (R448). -/
theorem wakeNow_kept {d : Nat} {s : State} (h : domState s.pwr d ≠ 3) :
    (wakeNow d s).arr = s.arr ∧ (wakeNow d s).shed = s.shed := by
  simp [wakeNow, h]

/-- A wake of an array group from OFF clears its sheds (R205). -/
theorem wakeNow_cleared {d : Nat} {s : State} (h : domState s.pwr d = 3) (hd : d < 16) :
    (wakeNow d s).shed = clearSheds s.shed (d * 6) 6 := by
  simp [wakeNow, h, clearDomain, hd]

/-- A wake that a request waits for sets DOM_DONE (R446). -/
theorem wakeNow_done {d : Nat} {s : State} (h : s.pwr.asked.getLsbD d = true) :
    intBit (wakeNow d s) 0x4000 3 = true := by
  simp only [wakeNow, h]
  exact intBit_raiseInt _ 0x4000 3 (by decide)

/-- What ends with a close in progress shows neither in the state of a domain nor in what waits for its wake. -/
theorem abortClose_pwr (d : Nat) (s : State) : (∀ e, domState (abortClose d s).pwr e = domState s.pwr e) ∧
    (abortClose d s).pwr.asked = s.pwr.asked := by
  unfold abortClose
  split <;> exact ⟨fun _ => rfl, rfl⟩

end Sys2Proof.Machine

open Sys2Proof Sys2Proof.Machine Sys2Proof.Claims

/-- Settles O48: a request comes to one of `domCloseRequest_cases` and `domWakeRequest_cases`, a close to `closeNow`
without the entry into Stabled, and a wake to `wakeNow`, which loses the sheds of a group that was OFF alone. -/
theorem domainsCloseAndWake : Obligations.DomainsCloseAndWake := by
  unfold Obligations.DomainsCloseAndWake
  refine ⟨fun r v s hw => ?_, fun d c s hfind hallow hwake hready hstab => ?_, fun d s hs hwake => ?_⟩
  · have hnone : s.pwr.closing = [] := by
      obtain ⟨-, -, -, hnone, -⟩ := hw
      exact hnone
    obtain ⟨u, hnext, hregs, hpwr, hflow, hwhy⟩ := pwrDomCtrl_next (v := v) hw
    have hclose : fld v 8 2 ≠ 0 → domCtrlWrite v u = domCloseRequest (fld v 0 5) (fld v 8 2) u := fun h => if_neg h
    obtain ⟨habove, hsame, hrefused, haccepted⟩ :=
      domCloseRequest_cases (d := fld v 0 5) (x := fld v 8 2) (hpwr ▸ hnone)
    rw [hpwr] at habove hsame hrefused haccepted
    rw [hwhy] at hrefused haccepted
    have hraised := domResult_raised hregs hflow
    dsimp only
    refine ⟨fun h0 hlt hok => ?_, fun h0 hlt hno => ?_, fun h0 heq => ?_, fun h0 hlt => ?_, fun h0 => ?_⟩
    · rw [hnext, hclose h0, haccepted hlt hok]
      exact ⟨_, rfl, beginClose_accepted hregs hpwr hnone hflow⟩
    · rw [hnext, hclose h0, hrefused hlt hno]
      exact ⟨_, rfl, hraised 2 _ _ _ 1 (by decide)⟩
    · rw [hnext, hclose h0, hsame heq]
      exact ⟨_, rfl, hraised 1 0 _ _ 3 (by decide)⟩
    · rw [hnext, hclose h0, habove hlt]
      exact ⟨_, rfl, hraised 2 6 _ _ 1 (by decide)⟩
    · have hwake : domCtrlWrite v u = domWakeRequest (fld v 0 5) u := if_pos h0
      rw [hnext, hwake]
      exact ⟨_, rfl, domWakeRequest_acts hregs hpwr hnone hflow⟩
  · obtain ⟨hpwr, hint⟩ := closeNow_own (d := d) (s := s) hstab
    refine ⟨_, domainClose_next hfind hallow hwake hready, ?_, ?_, hint, fun e he => ?_, by simp, by simp⟩ <;> rw [hpwr]
    · exact SMap.get_put_same _ _ _ _
    · exact SMap.find?_erase_same _ _
    · exact SMap.get_put_other _ _ _ _ _ _ he
  · obtain ⟨hstate, hasked⟩ := abortClose_pwr d s
    refine ⟨_, when_next hwake hs, wakeNow_on _ d.isLt, fun hask => wakeNow_done (by rwa [hasked]),
      fun e he => (wakeNow_other _ he).trans (hstate e), fun hkept => ?_, fun hoff hgroup a => ?_⟩
    · obtain ⟨harr, hshed⟩ := wakeNow_kept (d := d) (s := abortClose d s) (by rw [hstate]; omega)
      exact ⟨harr.trans (by simp), hshed.trans (by simp)⟩
    · rw [doDomainWake, wakeNow_cleared ((hstate d).trans hoff) hgroup, clearSheds]
      simp only [abortClose_frame, Memory.byte_without]
      exact ite_congr (propext (by omega)) (fun _ => rfl) fun _ => rfl
end

section
/-!
PROOFS. Requests and model writes at the DRAM controller: a packet that goes reaches the controller as it was sent, what a
read answers and what a write stores, what a drain of the model write queue leaves of DRAM, and the statement about them
(R169, R212 to R218, R223, R224, R271, R420).
-/

namespace Sys2Proof.Claims

open Sys2Proof.Machine

theorem keeps_dmc (s : State) (d : Dmc) : Keeps [.dmc] s { s with dmc := d } := by
  intro p hp
  cases p <;> simp_all [Part.same]

theorem keeps_tck (s : State) (t : Tck) : Keeps [.tck] s { s with tck := t } := by
  intro p hp
  cases p <;> simp_all [Part.same]

end Sys2Proof.Claims

namespace Sys2Proof.Machine

open Sys2Proof.Claims

/-! ### Bursts and words in DRAM -/

/-- DRAM after a write of the first `n` words of a burst at `a`: of the words that `mask` selects, the bytes that `bytes`
selects (R271, R420). -/
def wordsWritten (n : Nat) (m : List Host.Cell) (a : Nat) (mask bytes : Byte) (l : List (BitVec 256)) : List Host.Cell :=
  (List.range n).foldl
    (fun m i => if mask.getLsbD i then Memory.putMasked m (a + 8 * i) (flitWord l i) bytes else m) m

theorem writeBurst_eq (m : List Host.Cell) (a : Nat) (mask : Byte) (l : List (BitVec 256)) :
    writeBurst m a mask l = wordsWritten 8 m a mask 0xFF l := rfl

theorem wordsWritten_succ (n : Nat) (m : List Host.Cell) (a : Nat) (mask bytes : Byte) (l : List (BitVec 256)) :
    wordsWritten (n + 1) m a mask bytes l =
      if mask.getLsbD n then Memory.putMasked (wordsWritten n m a mask bytes l) (a + 8 * n) (flitWord l n) bytes
      else wordsWritten n m a mask bytes l := by
  rw [wordsWritten, List.range_succ]
  exact List.foldl_append

/-- A write of words leaves every byte outside them. -/
theorem memBut_wordsWritten (n : Nat) (m : List Host.Cell) (a : Nat) (mask bytes : Byte) (l : List (BitVec 256)) :
    MemBut a (8 * n) m (wordsWritten n m a mask bytes l) := by
  induction n with
  | zero => exact fun _ _ => rfl
  | succ n ih =>
    intro x hx
    rw [wordsWritten_succ]
    split
    · rw [memBut_putMasked _ _ _ _ x (by omega), ih x (by omega)]
    · exact ih x (by omega)

/-- A write of words stores the bytes that both masks select, and leaves the others of its words. -/
theorem byte_wordsWritten {n i b : Nat} (m : List Host.Cell) (a : Nat) (mask bytes : Byte) (l : List (BitVec 256))
    (hi : i < n) (hb : b < 8) :
    Memory.byte (wordsWritten n m a mask bytes l) (a + 8 * i + b) =
      if mask.getLsbD i && bytes.getLsbD b then wordByte (flitWord l i) b else Memory.byte m (a + 8 * i + b) := by
  induction n with
  | zero => omega
  | succ n ih =>
    rw [wordsWritten_succ]
    rcases Nat.lt_succ_iff_lt_or_eq.1 hi with hlt | rfl
    · rw [← ih hlt]
      split
      · exact memBut_putMasked _ _ _ _ _ (by omega)
      · rfl
    · have hbefore := memBut_wordsWritten i m a mask bytes l (a + 8 * i + b) (by omega)
      cases hmask : mask.getLsbD i with
      | true => rw [if_pos rfl, Memory.byte_putMasked_in _ _ _ _ hb, hbefore, Bool.true_and]
      | false => rw [if_neg Bool.false_ne_true, hbefore, Bool.false_and, if_neg Bool.false_ne_true]

/-- The pieces of one word under a byte mask write that word under the mask (R420). -/
theorem putPieces_maskedWord (m : List Host.Cell) (a : Nat) (w : W64) (bytes : Byte) :
    putPieces m (((wordBytes w 8).zipIdx.filter fun b => bytes.getLsbD (b.2 % 8)).map fun b => (a + b.2, [b.1])) =
      Memory.putMasked m a w bytes := by
  rw [putPieces, List.foldl_map]
  exact List.foldl_filter

/-- A write of the debug bus master stores the bytes of its own mask alone (R420). -/
theorem putPieces_maskedPieces (m : List Host.Cell) (p : Pkt) (bytes : Byte) :
    putPieces m (maskedPieces p bytes) = wordsWritten 8 m (burstAddr p) p.mask bytes p.flits := by
  simp only [maskedPieces, pktPieces, putPieces, List.foldl_flatMap, List.foldl_map, List.foldl_filter, wordsWritten]
  refine congrArg (fun f => (List.range 8).foldl f m) (funext fun m => funext fun i => ?_)
  rw [← putPieces_maskedWord, putPieces, List.foldl_map, List.foldl_filter]

/-- Words written in order leave every byte outside them. -/
theorem byte_putWords_other (ws : List MWrite) {x : Nat} : ∀ m : List Host.Cell,
    (∀ w ∈ ws, x < w.addr ∨ w.addr + 8 ≤ x) →
      Memory.byte (ws.foldl (fun m w => Memory.putWord m w.addr w.word) m) x = Memory.byte m x := by
  induction ws with
  | nil => exact fun _ _ => rfl
  | cons w ws ih =>
    intro m hx
    obtain ⟨hw, hws⟩ := List.forall_mem_cons.1 hx
    exact (ih _ hws).trans (Memory.byte_putWord_other _ _ _ _ hw)

/-- Of words written in order, the last stands. -/
theorem word_putWords_last {ws : List MWrite} {w : MWrite} (m : List Host.Cell) (h : ws.getLast? = some w) :
    Memory.word (ws.foldl (fun m w => Memory.putWord m w.addr w.word) m) w.addr = w.word := by
  obtain ⟨us, rfl⟩ := List.getLast?_eq_some_iff.1 h
  rw [List.foldl_append]
  exact Memory.word_putWord _ _ _

/-! ### Commands of the controller -/

/-- A command changes the refreshes and the retry buffer alone (R213, R217). -/
@[simp] theorem noteCmd_dmc (a : Nat) (data : Option (List (Nat × List Byte))) (s : State) :
    (noteCmd a data s).dmc.mem = s.dmc.mem ∧ (noteCmd a data s).dmc.crcErr = s.dmc.crcErr ∧
      (noteCmd a data s).dmc.wq = s.dmc.wq ∧ (noteCmd a data s).dmc.waiting = s.dmc.waiting := by
  have hrank : ∀ c rank d, (refreshRank s c rank d).crcErr = d.crcErr ∧ (refreshRank s c rank d).wq = d.wq ∧
      (refreshRank s c rank d).waiting = d.waiting := by
    intro c rank d
    unfold refreshRank
    split <;> exact ⟨rfl, rfl, rfl⟩
  refine ⟨noteCmd_mem a data s, ?_⟩
  simp [noteCmd, refreshChan, hrank]

theorem noteCmd_keeps (a : Nat) (data : Option (List (Nat × List Byte))) (s : State) :
    Keeps [.dmc] s (noteCmd a data s) := keeps_dmc s _

/-- A burst whose stored check passes is read on one of its three tries: only the re-reads are counted (R216). -/
theorem readBurst_passes {a passes : Nat} {s : State} (hcrc : s.dmc.crcErr.get 0 (a / 64) = 0) (hp : passes < 3) :
    readBurst a passes s = ({ s with
      regs := rbump s.regs (pg .dmcCh (channelOf s.regs a) + 0x108) 12 12 (Nat.min passes 2) }, true) := by
  have hne : ¬passes = 3 := by omega
  simp [readBurst, hcrc, hne]

/-! ### A packet at the controller -/

/-- The packet reaches the controller: unit 0x04 of stop 19, with its channel's domain ON and no close in progress (R273,
R275, R280). -/
abbrev FindsDram (p : Pkt) (s : State) : Prop :=
  p.dunit = 0x04 ∧ p.dst = 19 ∧ domOn s.pwr (chanDomain s p) = true ∧ s.pwr.closing = []

theorem memDeliver_finds {p : Pkt} {s : State} (op : Byte) (passes : Nat) (h : FindsDram p s) :
    memDeliver op passes p s = atController op passes p s := by
  obtain ⟨hunit, hdst, hdom, hclosing⟩ := h
  have hcancel : cancelClose (chanDomain s p) s = s := by simp [cancelClose, hclosing, SMap.find?]
  rw [memDeliver, if_neg (by simp [hunit, hdst]), reachUnit, if_pos hdom, hcancel]

/-- A request that can be answered and cannot be started waits (R212, R214). -/
theorem atController_waits {op : Byte} {p : Pkt} {s : State} (passes : Nat)
    (hst : portStatus s (op == opMemWrite) (fromLoader p) (burstAddr p) = 0)
    (hw : mustWait s (reqNow s (dramPort p) (bodyOf op p s)) = true) :
    atController op passes p s = enqueue (reqNow s (dramPort p) (bodyOf op p s)) s := if_pos ⟨hst, hw⟩

/-- A request that can be started is (R213, R214). -/
theorem atController_starts {op : Byte} {p : Pkt} {s : State} (passes : Nat)
    (hw : mustWait s (reqNow s (dramPort p) (bodyOf op p s)) = false) :
    atController op passes p s = startReq passes (reqNow s (dramPort p) (bodyOf op p s)) s :=
  if_neg fun h => Bool.eq_false_iff.1 hw h.2

/-- A read that its channel starts and whose check passes answers its burst, with every write that arrived before it
(R214, R216). -/
theorem startReq_read {n port came passes : Nat} {p : Pkt} {s : State}
    (hst : portStatus s false (fromLoader p) (burstAddr p) = 0)
    (hcrc : s.dmc.crcErr.get 0 (burstAddr p / 64) = 0) (hp : passes < 3) :
    ∃ u : State, u.dmc.mem = s.dmc.mem ∧ u.dmc.wq = s.dmc.wq ∧ u.rls = s.rls ∧ Keeps [.dmc, .regs] s u ∧
      startReq passes ⟨n, port, came, .pkt opMemRead p⟩ s = respond opMemResp
        (respPkt p 0 0 0 (burstFlits (Memory.bytes (dramBefore n s.dmc) (burstAddr p) 64))) u := by
  have hread := readBurst_passes (a := burstAddr p) (s := noteCmd (burstAddr p) none s) (by simpa using hcrc) hp
  have hstart : startReq passes ⟨n, port, came, .pkt opMemRead p⟩ s = memReadAt n passes p s :=
    (if_neg fun h => h hst).trans (if_pos rfl)
  rw [hstart, memReadAt, hread, if_pos rfl]
  exact ⟨_, by simp, by simp, by simp, ((noteCmd_keeps _ none s).trans (keeps_regs _ _)).mono, rfl⟩

/-- A read asks for its packet (R420 is of writes alone). -/
theorem bodyOf_read (p : Pkt) (s : State) : bodyOf opMemRead p s = .pkt opMemRead p :=
  if_neg fun h => absurd h.1 (by decide)

/-- The bytes of each word that a write stores: those of DBG_BM_CTRL.MASK for the debug bus master, and all for every
other requester (R420). -/
def bmBytes (p : Pkt) (s : State) : Byte :=
  if p.sunit = 0xF1 then (if p.tag = 0 then s.dbg.tap.bmMask else s.dbg.bar.bmMask) else 0xFF

/-- A write that its channel starts is stored under its masks, and answered (R214, R271, R420). -/
theorem startReq_write {n port came : Nat} {p : Pkt} {s : State}
    (hst : portStatus s true (fromLoader p) (burstAddr p) = 0) :
    ∃ d : Dmc, d.mem = wordsWritten 8 s.dmc.mem (burstAddr p) p.mask (bmBytes p s) p.flits ∧ d.wq = s.dmc.wq ∧
      startReq 0 ⟨n, port, came, bodyOf opMemWrite p s⟩ s =
        respond opMemResp (respPkt p 0 0 0 []) { s with dmc := d } := by
  by_cases hbm : p.sunit = 0xF1
  · have hbody : bodyOf opMemWrite p s = .masked p (bmBytes p s) := by
      rw [bodyOf, bmBytes, if_pos ⟨rfl, hbm⟩, if_pos hbm]
    rw [hbody]
    refine ⟨_, ?_, ?_, if_neg fun h => h hst⟩
    · rw [putPieces_maskedPieces, noteCmd_mem]
    · simp
  · have hbody : bodyOf opMemWrite p s = .pkt opMemWrite p := if_neg fun h => hbm h.2
    have hbytes : bmBytes p s = 0xFF := if_neg hbm
    have hstart : startReq 0 ⟨n, port, came, .pkt opMemWrite p⟩ s = memWriteAt p s :=
      (if_neg fun h => h hst).trans (if_neg (by decide))
    rw [hbody, hbytes, hstart]
    refine ⟨_, ?_, ?_, rfl⟩
    · rw [writeBurst_eq, noteCmd_mem]
    · simp

/-! ### MEM_READ and MEM_WRITE -/

/-- On its way a request changes nothing that its start depends on. -/
theorem mustWait_delivered (op : Byte) (p : Pkt) (r : Rls) (g : Grm) (s : State) :
    let u := { s with rls := r, grm := g }
    mustWait u (reqNow u (dramPort (delivered s p)) (bodyOf op (delivered s p) u)) =
      mustWait s (reqNow s (dramPort p) (bodyOf op p s)) := by
  intro u
  have hstart : ∀ b b', bodyOf op (delivered s p) u = b → bodyOf op p s = b' →
      mustWait u (reqNow u (dramPort (delivered s p)) b) = mustWait s (reqNow s (dramPort p) b') →
      mustWait u (reqNow u (dramPort (delivered s p)) (bodyOf op (delivered s p) u)) =
        mustWait s (reqNow s (dramPort p) (bodyOf op p s)) := fun _ _ hb hb' h => hb ▸ hb' ▸ h
  by_cases hbm : op = opMemWrite ∧ p.sunit = 0xF1
  · have hbody : ∀ (t : State) (q : Pkt), q.sunit = p.sunit →
        bodyOf op q t = .masked q (if q.tag = 0 then t.dbg.tap.bmMask else t.dbg.bar.bmMask) :=
      fun t q hq => if_pos (hq ▸ hbm)
    exact hstart _ _ (hbody u (delivered s p) rfl) (hbody s p rfl) rfl
  · have hbody : ∀ (t : State) (q : Pkt), q.sunit = p.sunit → bodyOf op q t = .pkt op q :=
      fun t q hq => if_neg (hq ▸ hbm)
    exact hstart _ _ (hbody u (delivered s p) rfl) (hbody s p rfl) rfl

/-- MEM_READ of a packet that goes is a request at the controller. -/
theorem exec_memRead {p : Pkt} {passes : Fin 4} {s : State} (hg : Goes opMemRead p 0 s) (hf : FindsDram p s) :
    ∃ r : Rls, r.fly = s.rls.fly ∧
      exec (.memRead p passes) s = .next (atController opMemRead passes (delivered s p) { s with rls := r }) := by
  obtain ⟨r, hfly, hsend⟩ := send_goes hg (some opMemResp) (memDeliver opMemRead passes)
  obtain ⟨hs, hpkt, -⟩ := hg
  refine ⟨r, hfly, (when_next hpkt hs).trans (congrArg _ (hsend.trans ?_))⟩
  exact memDeliver_finds (p := delivered s p) (s := { s with rls := r }) opMemRead passes hf

/-- A read that the controller starts and whose check passes answers the burst's 64 bytes and writes nothing (R214, R216,
R271). -/
theorem memRead_answers {p : Pkt} {passes : Fin 4} {s : State} (hg : Goes opMemRead p 0 s) (hf : FindsDram p s)
    (hst : portStatus s false (fromLoader p) (burstAddr p) = 0) (hp : passes.val < 3)
    (hcrc : s.dmc.crcErr.get 0 (burstAddr p / 64) = 0)
    (hw : mustWait s (reqNow s (dramPort p) (.pkt opMemRead p)) = false) :
    ∃ t q, exec (.memRead p passes) s = .next t ∧ t.rls.fly = s.rls.fly ++ [(opMemResp, q)] ∧ q.status = 0 ∧
      q.flits = burstFlits (Memory.bytes (dramBefore s.dmc.seq s.dmc) (burstAddr p) 64) ∧ q.dst = p.src ∧
      q.dunit = p.sunit ∧ q.tag = p.tag ∧ t.dmc.mem = s.dmc.mem ∧ t.dmc.wq = s.dmc.wq ∧
      Keeps [.rls, .flow, .regs, .dmc] s t := by
  obtain ⟨r, hfly, hnext⟩ := exec_memRead (passes := passes) hg hf
  have hwait := mustWait_delivered opMemRead p r s.grm s
  rw [bodyOf_read p s, hw] at hwait
  obtain ⟨u, hmem, hwq, hrls, hkeeps, hstart⟩ := startReq_read (n := s.dmc.seq) (port := dramPort p) (came := s.clk.ps)
    (p := delivered s p) (s := { s with rls := r }) hst hcrc hp
  rw [atController_starts passes hwait, bodyOf_read] at hnext
  refine ⟨_, _, hnext.trans (congrArg _ hstart), congrArg (· ++ _) ((congrArg Rls.fly hrls).trans hfly), rfl, rfl, rfl,
    rfl, rfl, hmem, hwq, ((keeps_rls s r).trans (hkeeps.trans (respond_keeps _ _ _))).mono⟩

/-- A read that the controller cannot start waits with the number of its arrival, and nothing is answered (R212, R214). -/
theorem memRead_waits {p : Pkt} {passes : Fin 4} {s : State} (hg : Goes opMemRead p 0 s) (hf : FindsDram p s)
    (hst : portStatus s false (fromLoader p) (burstAddr p) = 0)
    (hw : mustWait s (reqNow s (dramPort p) (.pkt opMemRead p)) = true) :
    ∃ t x, exec (.memRead p passes) s = .next t ∧ t.dmc = { s.dmc with
        waiting := s.dmc.waiting ++ [x], seq := s.dmc.seq + 1 } ∧
      x.seq = s.dmc.seq ∧ x.came = s.clk.ps ∧ t.rls.fly = s.rls.fly ∧ Keeps [.rls, .flow, .dmc] s t := by
  obtain ⟨r, hfly, hnext⟩ := exec_memRead (passes := passes) hg hf
  have hwait := mustWait_delivered opMemRead p r s.grm s
  rw [bodyOf_read p s, hw] at hwait
  rw [atController_waits passes hst hwait] at hnext
  exact ⟨_, _, hnext, rfl, rfl, rfl, hfly, ((keeps_rls s r).trans (keeps_dmc _ _)).mono⟩

/-- The write-through of a groom's line changes its L1D alone. -/
theorem groomOf_cacheWrite (p : Pkt) (s : State) (g : Nat) :
    ∃ l, groomOf (cacheWrite p s) g = { groomOf s g with l1d := l } := by
  unfold cacheWrite
  split
  · exact ⟨_, rfl⟩
  · rename_i k _
    dsimp only
    split
    · exact ⟨_, rfl⟩
    · by_cases hg : g = k
      · rw [hg, groomOf_setGroom_same]
        exact ⟨_, rfl⟩
      · rw [groomOf_setGroom_other _ _ _ _ hg]
        exact ⟨_, rfl⟩

theorem cacheWrite_eq (p : Pkt) (s : State) : cacheWrite p s = { s with grm := (cacheWrite p s).grm } := by
  unfold cacheWrite
  split
  · rfl
  · dsimp only
    split <;> rfl

/-- A packet goes as well after its groom's line has taken the write. -/
theorem goes_cacheWrite {op : Byte} {p : Pkt} {k : Nat} {s : State} (h : Goes op p k s) :
    Goes op p k (cacheWrite p s) := by
  obtain ⟨hs, hpkt, hdst, hstall, hord, hroom, hclear, hallow⟩ := h
  have hgroom := groomOf_cacheWrite p s
  refine ⟨by simpa using hs, hpkt, hdst, hstall ▸ ?_, hord ▸ ?_, by simpa using hroom, by simpa using hclear,
    by simpa using hallow⟩
  · unfold stalledFrom
    cases groomFrom p with
    | none => rfl
    | some g =>
      obtain ⟨l, hl⟩ := hgroom g
      simp only [hl]
  · unfold waitsInOrder
    cases groomFrom p with
    | none => rfl
    | some g =>
      obtain ⟨l, hl⟩ := hgroom g
      simp only [hl, cacheWrite_frame]

/-- MEM_WRITE of a packet that goes is a request at the controller, beside the write-through of a groom's line. -/
theorem exec_memWrite {p : Pkt} {s : State} (hg : Goes opMemWrite p 2 s) (hf : FindsDram p s) :
    ∃ (r : Rls) (g : Grm), r.fly = s.rls.fly ∧
      exec (.memWrite p) s = .next (atController opMemWrite 0 (delivered s p) { s with rls := r, grm := g }) := by
  obtain ⟨g, hu, hgu⟩ : ∃ g : Grm,
      (if sends s opMemWrite p then cacheWrite p s else s) = { s with grm := g } ∧
        Goes opMemWrite p 2 { s with grm := g } := by
    split
    · exact ⟨_, cacheWrite_eq p s, cacheWrite_eq p s ▸ goes_cacheWrite hg⟩
    · exact ⟨s.grm, rfl, hg⟩
  obtain ⟨r, hfly, hsend⟩ := send_goes hgu (some opMemResp) (memDeliver opMemWrite 0)
  obtain ⟨hs, hpkt, -⟩ := hg
  refine ⟨r, g, hfly, (when_next hpkt hs).trans (congrArg _ ?_)⟩
  rw [doMemWrite, hu]
  exact hsend.trans
    (memDeliver_finds (p := delivered s p) (s := { s with rls := r, grm := g }) opMemWrite 0 hf)

/-- A write that the controller starts stores the bytes that its masks select, and is answered (R214, R271, R420). -/
theorem memWrite_stores {p : Pkt} {s : State} (hg : Goes opMemWrite p 2 s) (hf : FindsDram p s)
    (hst : portStatus s true (fromLoader p) (burstAddr p) = 0)
    (hw : mustWait s (reqNow s (dramPort p) (bodyOf opMemWrite p s)) = false) :
    ∃ t, exec (.memWrite p) s = .next t ∧ Answered opMemResp p 0 0 s t ∧
      t.dmc.mem = wordsWritten 8 s.dmc.mem (burstAddr p) p.mask (bmBytes p s) p.flits ∧ t.dmc.wq = s.dmc.wq ∧
      Keeps [.rls, .flow, .dmc, .grm] s t := by
  obtain ⟨r, g, hfly, hnext⟩ := exec_memWrite hg hf
  rw [atController_starts 0 ((mustWait_delivered opMemWrite p r g s).trans hw)] at hnext
  obtain ⟨d, hmem, hwq, hstart⟩ := startReq_write (n := s.dmc.seq) (port := dramPort p) (came := s.clk.ps)
    (p := delivered s p) (s := { s with rls := r, grm := g }) hst
  exact ⟨_, hnext.trans (congrArg _ hstart), answered_respond _ _ _ _ _ hfly, hmem, hwq,
    ((keeps_rls s r).trans ((keeps_grm _ g).trans ((keeps_dmc _ d).trans (respond_keeps _ _ _)))).mono⟩

/-! ### The model write queue -/

theorem startWaiting_none {s : State} (h : s.dmc.waiting = []) : startWaiting s = s := by
  simp [startWaiting, h, startUpTo]

theorem drainEnds_tck (s : State) :
    (drainEnds s).tck = s.tck ∨ (drainEnds s).tck = { s.tck with drainReq := false, lastArr := s.clk.gen } := by
  unfold drainEnds
  split
  · exact .inr rfl
  · exact .inl rfl

theorem drainEnds_run (s : State) : (drainEnds s).tck.run = s.tck.run := by
  rcases drainEnds_tck s with h | h <;> rw [h]

theorem drainEnds_keeps (s : State) : Keeps [.tck] s (drainEnds s) := by
  unfold drainEnds
  split
  · exact keeps_tck s _
  · exact keeps_tck s s.tck

/-- A burst that is read in a channel in service takes its writes (R216, R223). -/
theorem drainBurst_written {ws : List MWrite} {a : Nat} {s : State} (hch : chanState s.regs (channelOf s.regs a) ≠ 3)
    (hcrc : s.dmc.crcErr.get 0 (a / 64) = 0) :
    (drainBurst ws a s).dmc.mem = ws.foldl (fun m w => Memory.putWord m w.addr w.word) s.dmc.mem ∧
      (drainBurst ws a s).dmc.wq = s.dmc.wq ∧ (drainBurst ws a s).dmc.waiting = s.dmc.waiting ∧
      RegsBut [pg .dmcCh (channelOf s.regs a) + 0x108] s (drainBurst ws a s) ∧
      Keeps [.dmc, .regs] s (drainBurst ws a s) := by
  have hread := readBurst_passes (a := a) (s := noteCmd a none s) (by simpa using hcrc) (Nat.zero_lt_succ 2)
  rw [drainBurst, if_neg hch, hread, if_pos rfl]
  refine ⟨by simp, by simp, by simp, fun k hk => ?_,
    ((noteCmd_keeps a none s).trans ((keeps_regs _ _).trans ((noteCmd_keeps a _ _).trans (keeps_dmc _ _)))).mono⟩
  simp only [noteCmd_frame]
  exact rget_rbump_other _ _ k _ _ _ (by simpa using hk)

theorem setTaint_taint (s : State) : rfld (setTaint s).regs 0x3168 0 1 = 1 := by
  have hkept : rget (setTaint s).regs 0x3168 = rget (rset s.regs 0x3168 0 1 1) 0x3168 :=
    raiseInt_rget _ _ _ _ (by decide)
  exact (congrArg (fld · 0 1) hkept).trans (rfld_rset_same s.regs 0x3168 0 1 1 (by decide))

/-- Writes that fail set TAINT (R169). -/
theorem failWrites_taint {ws : List MWrite} (s : State) (h : ws ≠ []) : rfld (failWrites ws s).regs 0x3168 0 1 = 1 := by
  simp only [failWrites, if_neg h]
  split <;> exact setTaint_taint _

/-- A run goes on to its next boundary when writes fail (R169). -/
theorem failWrites_run (ws : List MWrite) (s : State) : (failWrites ws s).tck.run = s.tck.run := by
  unfold failWrites
  split
  · rfl
  · dsimp only
    split <;> simp

/-- The state in which the drain of the oldest burst begins: its writes have left the queue. -/
def drainStart (s : State) : State := { s with dmc := { s.dmc with wq := restWrites s.dmc } }

/-- The state after the drain of the oldest burst (R223). -/
def drained (s : State) : State := drainBurst (mergedWrites s.dmc) (headAddr s.dmc.wq) (drainStart s)

/-- MODEL_WRITE_DRAIN, where port 1 can be served and no request waits then, is the drain of one burst and the end of a
drain hold (R223, R224). -/
theorem exec_modelWriteDrain {s : State} (hs : s.pwr.stabled = false) (hd : drainOk s = true)
    (hw : (drained s).dmc.waiting = []) : exec (.modelWriteDrain true) s = .next (drainEnds (drained s)) :=
  have hends : (drainEnds (drained s)).dmc.waiting = [] := by simpa using hw
  (when_next hd hs).trans (congrArg _ (startWaiting_none hends))

/-- The drain of a burst of a channel in service whose check passes: its writes stand in DRAM (R216, R223). -/
theorem drained_written {s : State}
    (hch : chanState s.regs (channelOf s.regs (headAddr s.dmc.wq)) ≠ 3)
    (hcrc : s.dmc.crcErr.get 0 (headAddr s.dmc.wq / 64) = 0) :
    (drained s).dmc.mem = (mergedWrites s.dmc).foldl (fun m w => Memory.putWord m w.addr w.word) s.dmc.mem ∧
      (drained s).dmc.wq = restWrites s.dmc ∧ (drained s).dmc.waiting = s.dmc.waiting ∧
      RegsBut [pg .dmcCh (channelOf s.regs (headAddr s.dmc.wq)) + 0x108] s (drained s) ∧
      Keeps [.dmc, .regs] s (drained s) := by
  obtain ⟨hmem, hwq, hwait, hregs, hkeeps⟩ := drainBurst_written (ws := mergedWrites s.dmc) (s := drainStart s) hch hcrc
  exact ⟨hmem, hwq, hwait, hregs, ((keeps_dmc s _).trans hkeeps).mono⟩

/-- The drain of a burst of a FAILED channel: its writes fail (R169, R218). -/
theorem drained_failed {s : State} (hch : chanState s.regs (channelOf s.regs (headAddr s.dmc.wq)) = 3) :
    drained s = failWrites (mergedWrites s.dmc) (drainStart s) := if_pos hch

theorem mergedWrites_ne_nil {s : State} (h : drainOk s = true) : mergedWrites s.dmc ≠ [] := by
  simp only [drainOk, Bool.and_eq_true, Bool.not_eq_true', List.isEmpty_eq_false_iff] at h
  obtain ⟨⟨-, hne⟩, -⟩ := h
  exact hne

end Sys2Proof.Machine

open Sys2Proof Sys2Proof.Machine Sys2Proof.Claims

/-- Settles O23, request by request: a packet that goes reaches the controller, which starts it with the writes that
arrived before it or keeps it, and a drain writes the words of one burst or fails them. That a packet reaches the
controller within its command is the model's choice (log 126). -/
theorem dramRequestsAndModelWrites : Obligations.DramRequestsAndModelWrites := by
  unfold Obligations.DramRequestsAndModelWrites
  refine ⟨fun p s k hg hunit hdst hdom hclosing => ?_, fun s hs hd hwait => ⟨fun hch hcrc => ?_, fun hch => ?_⟩⟩
  · have hf : FindsDram p s := ⟨hunit, hdst, hdom, hclosing⟩
    refine ⟨fun passes hk hst hroom => ?_, fun hk hst hw => ?_⟩
    · have hg' : Goes opMemRead p 0 s := by
        obtain ⟨hs, hpkt, hto, hstall, hord, -, hclear, hallow⟩ := hg
        exact ⟨hs, hk ▸ hpkt, hto, hstall, hord, hroom, hclear, hallow⟩
      exact ⟨fun hp hcrc hw => memRead_answers hg' hf hst hp hcrc hw, fun hw => memRead_waits hg' hf hst hw⟩
    · subst hk
      obtain ⟨t, hnext, hans, hmem, hwq, hkeeps⟩ := memWrite_stores hg hf hst hw
      refine ⟨t, hnext, hans, fun i hi b hb => ?_, ?_, hwq, hkeeps⟩
      · rw [hmem]
        exact byte_wordsWritten _ _ _ _ _ hi hb
      · rw [hmem]
        exact memBut_wordsWritten 8 _ _ _ _ _
  · obtain ⟨hmem, hwq, hwaiting, hregs, hkeeps⟩ := drained_written hch hcrc
    have htck : (drained s).tck = s.tck := hkeeps .tck (by decide)
    have hclk : (drained s).clk = s.clk := hkeeps .clk (by decide)
    refine ⟨_, exec_modelWriteDrain hs hd (hwaiting.trans hwait), ?_, fun w hw => ?_, fun x hx => ?_, ?_, ?_,
      (hkeeps.trans (drainEnds_keeps _)).mono⟩
    · simpa using hwq
    · simpa [hmem] using word_putWords_last s.dmc.mem hw
    · simpa [hmem] using byte_putWords_other _ s.dmc.mem hx
    · rw [← htck, ← hclk]
      exact drainEnds_tck (drained s)
    · simpa [RegsBut] using hregs
  · have hdrained := drained_failed hch
    refine ⟨_, exec_modelWriteDrain hs hd (by simp [hdrained, drainStart, hwait]), ?_, ?_, ?_⟩
    · simp [hdrained, drainStart]
    · simpa [hdrained] using failWrites_taint (drainStart s) (mergedWrites_ne_nil hd)
    · rw [drainEnds_run, hdrained]
      exact failWrites_run _ _
end

section
/-!
PROOFS. The statement about the upkeep of a DRAM controller fails where a register of DMC_MASK_HI holds one of its
reserved bits (R210).
-/

namespace Sys2Proof.Machine

/-- The chip after reset, but with reserved bit 8 of the DMC_MASK_HI of channel bit 0 set. -/
def strayMask : State := { State.reset with regs := rput State.reset.regs 0xA114 0x100 }

/-- A write of 0 to that register sets its field, and leaves the reserved bit where it stands. -/
theorem dmcMask_strayMask :
    ∃ t, exec (.dmcMask .host true 0) strayMask = .next t ∧ rget t.regs 0xA114 = 0x100 :=
  ⟨_, rfl, by decide⟩

end Sys2Proof.Machine

open Sys2Proof Sys2Proof.Machine Sys2Proof.Claims

/-- Refutes O28, in its row of DMC_MASK: a write of DMC_MASK_HI sets the register's one field, bits 7 to 0, and a reserved
bit above it stays, where the statement gives the whole register. No write sets a reserved bit, but the statement is about
every state. -/
theorem not_dramUpkeepAndTraining : ¬ Obligations.DramUpkeepAndTraining := by
  unfold Obligations.DramUpkeepAndTraining
  intro h
  obtain ⟨-, -, -, -, hrows⟩ := h
  obtain ⟨-, -, hmask, -⟩ := hrows .host 0 strayMask
  obtain ⟨hwrites, -⟩ := hmask true 0 (by decide)
  obtain ⟨t, hnext, hvalue, -⟩ := hwrites (by decide)
  obtain ⟨u, hnext', hstays⟩ := dmcMask_strayMask
  rw [hnext, Host.Outcome.next.injEq] at hnext'
  subst hnext'
  exact absurd (hvalue.symm.trans hstays) (by decide)
end
